-- ==== Sys2Proof/Word.lean ====
section
/-! DEFINITION. The word types of the part (R8, R9, R51): bytes, half-words, words and doubles, and the number of a register field. -/

namespace Sys2Proof

/-- One byte. -/
abbrev Byte := BitVec 8
/-- A 16-bit half-word: a head, or a quarter of a tail. -/
abbrev Half := BitVec 16
/-- A 64-bit double: the width of a general register. -/
abbrev Word := BitVec 64
/-- A 256-bit vector register (R229). -/
abbrev Vec := BitVec 256
/-- A code line: its 32 half-words, numbered by address (R44). -/
abbrev CodeLine := List Half
/-- A four-bit register field (R51). -/
abbrev Reg := Fin 16

end Sys2Proof
end

