-- ==== Sys2Proof/Syntax.lean ====
section
/-! DEFINITION. The instruction type: one constructor for every row of spec/opcode_table.json. 286 are the encodings
of the code line (spec/02, spec/03), 107 the steps that the engines take on their own (spec/95); an engine
step carries the names of what it acts on. -/

namespace Sys2Proof

/-- The modifier fields of an XD tail (R56, R57, Table 2.4): source negation and absolute value, CLAMP, RM and SCALE
(a four-bit two's-complement field, kept as its code). -/
structure FMods where
  neg1 : Bool
  abs1 : Bool
  neg2 : Bool
  abs2 : Bool
  neg3 : Bool
  abs3 : Bool
  clamp : Bool
  rm : Fin 4
  scale : Fin 16
deriving DecidableEq, Repr

/-- An agent that executes code lines (R79): a tile thread in a context of a tile, an island core, or a Zephyr request
context of a tile. Tiles are numbered 256 * y + x, cores 0 to 7 of islands 0 to 191. -/
inductive Agent where
  | thread (tile ctx : Nat)
  | core (island core : Nat)
  | zephyr (tile zc : Nat)
deriving DecidableEq, Repr

/-- A sender of messages: a tile or an island (R351, R356). -/
inductive Site where
  | tile (t : Nat)
  | island (i : Nat)
deriving DecidableEq, Repr

/-- Every operation and event of the part (spec/opcode_table.json), the engine steps first (Lean compiles a constructor
with fields only at the first 245 places, and the meanings build engine steps; only the decoder builds the rest). -/
inductive Instr where
  -- Engine steps
  | codeLineFetch (ag : Agent)
  | resume (tenant : Nat) (handle : Nat) (tid : Nat)
  | redirect (tenant : Nat) (handle : Nat) (tid : Nat)
  | discard (tenant : Nat) (handle : Nat) (tid : Nat)
  | halt (tenant : Nat) (handle : Nat) (tid : Nat)
  | present (tenant : Nat) (handle : Nat) (tid : Nat)
  | retry (tenant : Nat) (handle : Nat) (req : Nat) (fseq : Nat)
  | continue_ (tenant : Nat) (handle : Nat) (req : Nat) (fseq : Nat)
  | fail (tenant : Nat) (handle : Nat) (req : Nat) (fseq : Nat) (status : Nat)
  | issueSlotTaken (tile : Nat)
  | registerCacheFill (tile : Nat) (ctx : Nat) (line : Nat)
  | extensionImageFill (tile : Nat) (ctx : Nat)
  | pauseExpiry (tile : Nat) (ctx : Nat)
  | budget (tile : Nat) (ctx : Nat)
  | activationByMessage (tile : Nat)
  | activationByHandOff (tile : Nat)
  | automaticSteal (handle : Nat)
  | overflowReturn (island : Nat)
  | commit (task : Nat)
  | becomeSerialising (task : Nat)
  | readSetRegistration (task : Nat) (line : Nat)
  | invalidation (tile : Nat) (line : Nat)
  | clusterWindowAccess (pkt : Nat)
  | edgeMemoryAccess (pkt : Nat)
  | pageWalk (cluster : Nat) (tenant : Nat) (va : Nat) (access : Nat)
  | beatArrival (tile : Nat) (ctx : Nat) (stream : Nat)
  | tableLoadComplete (tile : Nat) (handle : Nat) (name : Nat)
  | refetch (tile : Nat) (handle : Nat) (name : Nat)
  | requestActivation (tile : Nat) (entry : Nat)
  | requestDone (tile : Nat) (entry : Nat)
  | zlimit (tile : Nat) (entry : Nat)
  | kpost (island : Nat) (core : Nat) (tile : Nat) (addr : Nat)
  | matrixOperationStart (tile : Nat)
  | fold (tile : Nat)
  | matrixOperationComplete (tile : Nat)
  | injection (tile : Nat)
  | hop (pkt : Nat)
  | relay (pkt : Nat)
  | handleCacheUpdate (pkt : Nat)
  | messageArrival (pkt : Nat)
  | migrationArrival (pkt : Nat)
  | ack (pkt : Nat)
  | nackBusy (pkt : Nat)
  | nackStale (pkt : Nat)
  | nackBadhandler (pkt : Nat)
  | nackRefused (pkt : Nat)
  | nackNopath (pkt : Nat)
  | backoffExpiry (site : Site) (entry : Nat)
  | poisonTail (pkt : Nat)
  | launchPooled (id : Nat)
  | placement (id : Nat)
  | counterComplete (level : Nat) (id : Nat)
  | deadline (id : Nat)
  | ceilometerCheck (cluster : Nat) (record : Nat)
  | sensorReading (tile : Nat) (temp : Nat)
  | rotation (cluster : Nat)
  | calmingEnd (cluster : Nat)
  | moveAbandoned (cluster : Nat)
  | drainingEnd (cluster : Nat)
  | copyingEnd (cluster : Nat)
  | switchingEnd (cluster : Nat)
  | stubRelease (tile : Nat) (handle : Nat)
  | backstop (clr : Nat)
  | eviction (handle : Nat)
  | cleared (clr : Nat)
  | restore (cluster : Nat) (handle : Nat)
  | blockRestored (handle : Nat)
  | sliceEnd (tile : Nat)
  | faultQueueAppend (island : Nat)
  | heldRecordDelivery (island : Nat)
  | qevent (island : Nat) (tenant : Nat)
  | rsmcmd (island : Nat) (core : Nat) (cmd : Nat)
  | mext (value : Nat)
  | controlSpaceWrite (tenant : Nat) (addr : Nat) (size : Nat) (value : Nat)
  | regionRekey (region : Nat) (epoch : Nat)
  | sweepComplete (region : Nat)
  | checkpoint (ctl : Nat) (slot : Nat)
  | checkpointComplete (ctl : Nat)
  | slotRestore (ctl : Nat) (slot : Nat)
  | restoreComplete (ctl : Nat)
  | erase (ctl : Nat) (slot : Nat)
  | cxlMemRead (fn : Nat) (offset : Nat) (len : Nat)
  | cxlMemWrite (fn : Nat) (offset : Nat) (bytes : List (BitVec 8))
  | dbell (fn : Nat) (value : Nat)
  | apertureAccess (module : Nat) (addr : Nat) (write : Bool) (bytes : List (BitVec 8))
  | collpost (addr : Nat)
  | collectiveResult (tag : Nat)
  | timeout (tag : Nat)
  | linkdown (tag : Nat)
  | getVersion (fn : Nat)
  | getCapabilities (fn : Nat)
  | negotiateAlgorithms (fn : Nat)
  | getDigests (fn : Nat)
  | getCertificate (fn : Nat)
  | challenge (fn : Nat) (nonce : List (BitVec 8))
  | getMeasurements (fn : Nat)
  | doze
  | run
  | powerApplied
  | selfCalibration (error : Nat)
  | selfTest (failing : List Nat)
  | routerTableWrite (detours : List (Nat × Nat × BitVec 64))
  | initialisation (error : Nat)
  | powerOff
  | response (pkt : Nat)
  | tlbInvalidation (inv : Nat)
  | powerGated (tile : Nat)
  -- Scalar (05)
  | nop
  | ret
  | jr (b : Reg)
  | callr (b : Reg)
  | pause (n : BitVec 16)
  | sys (n : BitVec 16)
  | tret
  -- Task (12)
  | yield
  -- Residency (14)
  | calm
  -- Local (06)
  | fence (scope : Reg)
  | lfence
  -- Task (12)
  | waitpred
  -- Scalar (05)
  | addHead (a : Reg) (b : Reg)
  | addX (a : Reg) (b : Reg) (c : Reg)
  | addI32 (a : Reg) (b : Reg) (imm : BitVec 32)
  | addI64 (a : Reg) (b : Reg) (imm : BitVec 64)
  | subHead (a : Reg) (b : Reg)
  | subX (a : Reg) (b : Reg) (c : Reg)
  | subI32 (a : Reg) (b : Reg) (imm : BitVec 32)
  | subI64 (a : Reg) (b : Reg) (imm : BitVec 64)
  | andX (a : Reg) (b : Reg) (c : Reg)
  | andXI (a : Reg) (b : Reg) (imm : BitVec 32)
  | orX (a : Reg) (b : Reg) (c : Reg)
  | orXI (a : Reg) (b : Reg) (imm : BitVec 32)
  | xorX (a : Reg) (b : Reg) (c : Reg)
  | xorXI (a : Reg) (b : Reg) (imm : BitVec 32)
  | andnX (a : Reg) (b : Reg) (c : Reg)
  | andnXI (a : Reg) (b : Reg) (imm : BitVec 32)
  | shlX (a : Reg) (b : Reg) (c : Reg)
  | shlXI (a : Reg) (b : Reg) (imm : BitVec 32)
  | shrX (a : Reg) (b : Reg) (c : Reg)
  | shrXI (a : Reg) (b : Reg) (imm : BitVec 32)
  | sraX (a : Reg) (b : Reg) (c : Reg)
  | sraXI (a : Reg) (b : Reg) (imm : BitVec 32)
  | mulX (a : Reg) (b : Reg) (c : Reg)
  | mulXI (a : Reg) (b : Reg) (imm : BitVec 32)
  | mulhX (a : Reg) (b : Reg) (c : Reg)
  | mulhXI (a : Reg) (b : Reg) (imm : BitVec 32)
  | mulhuX (a : Reg) (b : Reg) (c : Reg)
  | mulhuXI (a : Reg) (b : Reg) (imm : BitVec 32)
  | div (a : Reg) (b : Reg) (c : Reg) (la : Reg)
  | divu (a : Reg) (b : Reg) (c : Reg) (la : Reg)
  | rem (a : Reg) (b : Reg) (c : Reg) (la : Reg)
  | remu (a : Reg) (b : Reg) (c : Reg) (la : Reg)
  | minX (a : Reg) (b : Reg) (c : Reg)
  | minXI (a : Reg) (b : Reg) (imm : BitVec 32)
  | maxX (a : Reg) (b : Reg) (c : Reg)
  | maxXI (a : Reg) (b : Reg) (imm : BitVec 32)
  | minuX (a : Reg) (b : Reg) (c : Reg)
  | minuXI (a : Reg) (b : Reg) (imm : BitVec 32)
  | maxuX (a : Reg) (b : Reg) (c : Reg)
  | maxuXI (a : Reg) (b : Reg) (imm : BitVec 32)
  -- Local (06)
  | ldBK (a : Reg) (b : Reg) (la : Reg) (off : BitVec 12)
  | ldBKL (a : Reg) (b : Reg) (la : Reg) (off : BitVec 24)
  | ldHK (a : Reg) (b : Reg) (la : Reg) (off : BitVec 12)
  | ldHKL (a : Reg) (b : Reg) (la : Reg) (off : BitVec 24)
  | ldWK (a : Reg) (b : Reg) (la : Reg) (off : BitVec 12)
  | ldWKL (a : Reg) (b : Reg) (la : Reg) (off : BitVec 24)
  | ldDK (a : Reg) (b : Reg) (la : Reg) (off : BitVec 12)
  | ldDKL (a : Reg) (b : Reg) (la : Reg) (off : BitVec 24)
  | stBK (a : Reg) (b : Reg) (la : Reg) (off : BitVec 12)
  | stBKL (a : Reg) (b : Reg) (la : Reg) (off : BitVec 24)
  | stHK (a : Reg) (b : Reg) (la : Reg) (off : BitVec 12)
  | stHKL (a : Reg) (b : Reg) (la : Reg) (off : BitVec 24)
  | stWK (a : Reg) (b : Reg) (la : Reg) (off : BitVec 12)
  | stWKL (a : Reg) (b : Reg) (la : Reg) (off : BitVec 24)
  | stDK (a : Reg) (b : Reg) (la : Reg) (off : BitVec 12)
  | stDKL (a : Reg) (b : Reg) (la : Reg) (off : BitVec 24)
  -- Scalar (05)
  | seqX (a : Reg) (b : Reg) (c : Reg)
  | seqXI (a : Reg) (b : Reg) (imm : BitVec 32)
  | sneX (a : Reg) (b : Reg) (c : Reg)
  | sneXI (a : Reg) (b : Reg) (imm : BitVec 32)
  | sltX (a : Reg) (b : Reg) (c : Reg)
  | sltXI (a : Reg) (b : Reg) (imm : BitVec 32)
  | sltuX (a : Reg) (b : Reg) (c : Reg)
  | sltuXI (a : Reg) (b : Reg) (imm : BitVec 32)
  | liI16 (a : Reg) (imm : BitVec 16)
  | liI32 (a : Reg) (imm : BitVec 32)
  | liI64 (a : Reg) (imm : BitVec 64)
  | rdc (a : Reg) (n : BitVec 16)
  | wrc (a : Reg) (n : BitVec 16)
  | brJ (loff : BitVec 11) (slot : BitVec 5)
  | brJL (loff : BitVec 27) (slot : BitVec 5)
  | callJ (loff : BitVec 11) (slot : BitVec 5)
  | callJL (loff : BitVec 27) (slot : BitVec 5)
  | mov (a : Reg) (b : Reg)
  | neg (a : Reg) (b : Reg)
  | not (a : Reg) (b : Reg)
  | clz (a : Reg) (b : Reg)
  | ctz (a : Reg) (b : Reg)
  | popc (a : Reg) (b : Reg)
  | bswap (a : Reg) (b : Reg)
  | tagof (a : Reg) (b : Reg)
  | extBZ (a : Reg) (b : Reg)
  | extHZ (a : Reg) (b : Reg)
  | extWZ (a : Reg) (b : Reg)
  | extBS (a : Reg) (b : Reg)
  | extHS (a : Reg) (b : Reg)
  | extWS (a : Reg) (b : Reg)
  | bnzJ (a : Reg) (loff : BitVec 11) (slot : BitVec 5)
  | bnzJL (a : Reg) (loff : BitVec 27) (slot : BitVec 5)
  | bzJ (a : Reg) (loff : BitVec 11) (slot : BitVec 5)
  | bzJL (a : Reg) (loff : BitVec 27) (slot : BitVec 5)
  | beqJ (a : Reg) (b : Reg) (loff : BitVec 11) (slot : BitVec 5)
  | beqJL (a : Reg) (b : Reg) (loff : BitVec 27) (slot : BitVec 5)
  | bneJ (a : Reg) (b : Reg) (loff : BitVec 11) (slot : BitVec 5)
  | bneJL (a : Reg) (b : Reg) (loff : BitVec 27) (slot : BitVec 5)
  | bltJ (a : Reg) (b : Reg) (loff : BitVec 11) (slot : BitVec 5)
  | bltJL (a : Reg) (b : Reg) (loff : BitVec 27) (slot : BitVec 5)
  | bgeJ (a : Reg) (b : Reg) (loff : BitVec 11) (slot : BitVec 5)
  | bgeJL (a : Reg) (b : Reg) (loff : BitVec 27) (slot : BitVec 5)
  | bltuJ (a : Reg) (b : Reg) (loff : BitVec 11) (slot : BitVec 5)
  | bltuJL (a : Reg) (b : Reg) (loff : BitVec 27) (slot : BitVec 5)
  | bgeuJ (a : Reg) (b : Reg) (loff : BitVec 11) (slot : BitVec 5)
  | bgeuJL (a : Reg) (b : Reg) (loff : BitVec 27) (slot : BitVec 5)
  | sleX (a : Reg) (b : Reg) (c : Reg)
  | sleXI (a : Reg) (b : Reg) (imm : BitVec 32)
  | sleuX (a : Reg) (b : Reg) (c : Reg)
  | sleuXI (a : Reg) (b : Reg) (imm : BitVec 32)
  | bext (a : Reg) (b : Reg) (lsb : BitVec 6) (width1 : BitVec 6)
  | bins (a : Reg) (b : Reg) (lsb : BitVec 6) (width1 : BitVec 6)
  | sel (a : Reg) (b : Reg) (c : Reg) (e : Reg)
  | paddX (a : Reg) (b : Reg) (c : Reg)
  | paddXI (a : Reg) (b : Reg) (imm : BitVec 32)
  | psubX (a : Reg) (b : Reg) (c : Reg)
  | psubXI (a : Reg) (b : Reg) (imm : BitVec 32)
  | ptagX (a : Reg) (b : Reg) (c : Reg)
  | ptagXI (a : Reg) (b : Reg) (imm : BitVec 32)
  | loopGJ (a : Reg) (loff : BitVec 11) (slot : BitVec 5)
  | loopGJL (a : Reg) (loff : BitVec 27) (slot : BitVec 5)
  | loopMbJ (a : Reg) (loff : BitVec 11) (slot : BitVec 5)
  | loopMbJL (a : Reg) (loff : BitVec 27) (slot : BitVec 5)
  -- Local (06)
  | ldx (size : Fin 4) (a : Reg) (b : Reg) (c : Reg) (la : Reg)
  | stx (size : Fin 4) (a : Reg) (b : Reg) (c : Reg) (la : Reg)
  | ldp (a : Reg) (e : Reg) (b : Reg) (c : Reg) (la : Reg)
  | stp (a : Reg) (e : Reg) (b : Reg) (c : Reg) (la : Reg)
  | ldxS (size : Fin 4) (a : Reg) (b : Reg) (c : Reg) (la : Reg)
  -- Vector (07)
  | vadd (fmt : Fin 32) (a : Reg) (b : Reg) (c : Reg) (m : FMods)
  | vsub (fmt : Fin 32) (a : Reg) (b : Reg) (c : Reg) (m : FMods)
  | vmul (fmt : Fin 32) (a : Reg) (b : Reg) (c : Reg) (m : FMods)
  | vfma (fmt : Fin 32) (a : Reg) (b : Reg) (c : Reg) (e : Reg) (m : FMods)
  | vmin (fmt : Fin 32) (a : Reg) (b : Reg) (c : Reg) (m : FMods)
  | vmax (fmt : Fin 32) (a : Reg) (b : Reg) (c : Reg) (m : FMods)
  | vrnd (fmt : Fin 32) (a : Reg) (b : Reg) (m : FMods)
  | vdiv (fmt : Fin 32) (a : Reg) (b : Reg) (c : Reg) (m : FMods) (la : Reg)
  | vsqrt (fmt : Fin 32) (a : Reg) (b : Reg) (m : FMods) (la : Reg)
  | vcmp (fmt : Fin 32) (a : Reg) (b : Reg) (c : Reg) (cond : Reg) (m : FMods)
  | vsel (fmt : Fin 32) (a : Reg) (b : Reg) (c : Reg) (e : Reg) (m : FMods)
  | vredadd (fmt : Fin 32) (a : Reg) (b : Reg) (m : FMods)
  | vredmax (fmt : Fin 32) (a : Reg) (b : Reg) (m : FMods)
  | vredmin (fmt : Fin 32) (a : Reg) (b : Reg) (m : FMods)
  | vcvt (dst : Fin 32) (src : Reg) (a : Reg) (b : Reg) (m : FMods)
  | vqnt (fmt : Fin 32) (a : Reg) (b : Reg) (c : Reg) (opts : Reg)
  | vdqnt (fmt : Fin 32) (a : Reg) (b : Reg) (c : Reg) (opts : Reg) (m : FMods)
  | vand (fmt : Fin 32) (a : Reg) (b : Reg) (c : Reg)
  | vor (fmt : Fin 32) (a : Reg) (b : Reg) (c : Reg)
  | vxor (fmt : Fin 32) (a : Reg) (b : Reg) (c : Reg)
  | vshl (fmt : Fin 32) (a : Reg) (b : Reg) (c : Reg)
  | vshr (fmt : Fin 32) (a : Reg) (b : Reg) (c : Reg)
  | vperm (fmt : Fin 32) (a : Reg) (b : Reg) (c : Reg) (m : FMods)
  | vclr (a : Reg)
  | vmov (fmt : Fin 32) (a : Reg) (b : Reg) (m : FMods)
  | vbcast (fmt : Fin 32) (a : Reg) (b : Reg)
  | vins (fmt : Fin 32) (a : Reg) (b : Reg) (word : Reg)
  | vext (fmt : Fin 32) (a : Reg) (b : Reg) (word : Reg)
  | vldK (a : Reg) (b : Reg) (la : Reg) (off : BitVec 12)
  | vldKL (a : Reg) (b : Reg) (la : Reg) (off : BitVec 24)
  | vstK (a : Reg) (b : Reg) (la : Reg) (off : BitVec 12)
  | vstKL (a : Reg) (b : Reg) (la : Reg) (off : BitVec 24)
  | sbind (fmt : Fin 32) (a : Reg) (b : Reg)
  | sunbind (a : Reg)
  | sadv (a : Reg) (b : Reg)
  | sstat (a : Reg) (b : Reg)
  -- Local (06)
  | lda (size : Fin 4) (a : Reg) (b : Reg) (scope : Reg) (la : Reg)
  | stl (size : Fin 4) (a : Reg) (b : Reg) (scope : Reg) (la : Reg)
  | amoAdd (size : Fin 4) (a : Reg) (b : Reg) (c : Reg) (scope : Reg) (la : Reg)
  | amoAnd (size : Fin 4) (a : Reg) (b : Reg) (c : Reg) (scope : Reg) (la : Reg)
  | amoOr (size : Fin 4) (a : Reg) (b : Reg) (c : Reg) (scope : Reg) (la : Reg)
  | amoXor (size : Fin 4) (a : Reg) (b : Reg) (c : Reg) (scope : Reg) (la : Reg)
  | amoMin (size : Fin 4) (a : Reg) (b : Reg) (c : Reg) (scope : Reg) (la : Reg)
  | amoMax (size : Fin 4) (a : Reg) (b : Reg) (c : Reg) (scope : Reg) (la : Reg)
  | amoSwap (size : Fin 4) (a : Reg) (b : Reg) (c : Reg) (scope : Reg) (la : Reg)
  | amoCas (size : Fin 4) (a : Reg) (b : Reg) (c : Reg) (scope : Reg) (la : Reg)
  | spalloc (a : Reg) (b : Reg) (c : Reg)
  | spfree (b : Reg)
  | tlk (a : Reg) (b : Reg)
  | tset (b : Reg) (c : Reg)
  | tclr (b : Reg)
  | dcinv (b : Reg)
  | dcwb (b : Reg)
  | pf (b : Reg)
  | lrwr (b : Reg) (c : Reg)
  | lrrd (b : Reg) (c : Reg)
  | rlq (a : Reg) (b : Reg)
  | spq (a : Reg)
  -- Interpolation (08)
  | itld (n : Reg) (b : Reg) (la : Reg)
  | iev (fmt : Fin 4) (a : Reg) (b : Reg) (n : Reg) (m : FMods) (la : Reg)
  | iseg (fmt : Fin 4) (a : Reg) (b : Reg) (n : Reg) (la : Reg)
  | itinv (n : Reg) (la : Reg)
  | itq (a : Reg) (n : Reg) (la : Reg)
  -- Zephyr (09)
  | zpost (a : Reg) (b : Reg) (la : Reg)
  | bseal (a : Reg)
  | bwait (b : Reg) (c : Reg)
  | zstat (a : Reg)
  | zli (a : Reg) (imm : BitVec 32)
  | zmov (a : Reg) (b : Reg)
  | zaddXD (a : Reg) (b : Reg) (c : Reg)
  | zaddXI (a : Reg) (b : Reg) (imm : BitVec 32)
  | zsubXD (a : Reg) (b : Reg) (c : Reg)
  | zsubXI (a : Reg) (b : Reg) (imm : BitVec 32)
  | zld (a : Reg) (b : Reg) (c : Reg)
  | zst (a : Reg) (b : Reg) (c : Reg)
  | zcopy (a : Reg) (b : Reg) (c : Reg)
  | zstride (b : Reg) (c : Reg)
  | zdone (b : Reg)
  | zhalt
  | zjmpJ (loff : BitVec 11) (slot : BitVec 5)
  | zjmpJL (loff : BitVec 27) (slot : BitVec 5)
  | zbnzJ (a : Reg) (loff : BitVec 11) (slot : BitVec 5)
  | zbnzJL (a : Reg) (loff : BitVec 27) (slot : BitVec 5)
  -- Matrix (10)
  | mcfg (imm : BitVec 32) (la : Reg)
  | mzero (a : Reg) (la : Reg)
  | mld (a : Reg) (b : Reg) (la : Reg)
  | mst (fmt : Fin 4) (a : Reg) (b : Reg) (rm : Fin 4) (clamp : Bool) (la : Reg)
  | mmac (a : Reg) (b : Reg) (c : Reg) (e : Reg) (la : Reg)
  | mmacm (a : Reg) (b : Reg) (c : Reg) (e : Reg) (la : Reg)
  | mmacs (a : Reg) (b : Reg) (c : Reg) (e : Reg) (la : Reg)
  | mbin (op : Fin 4) (a : Reg) (b : Reg) (c : Reg) (e : Reg) (la : Reg)
  | mres (a : Reg) (la : Reg)
  | mwait (a : Reg) (la : Reg)
  | mrdp (a : Reg) (la : Reg)
  | mwrp (b : Reg) (la : Reg)
  | mabort (a : Reg) (la : Reg)
  | mstat (a : Reg) (la : Reg)
  -- Jetstream (11)
  | msend (a : Reg) (b : Reg) (c : Reg) (e : Reg)
  | msendr (a : Reg) (b : Reg) (c : Reg) (e : Reg)
  | mcast (a : Reg) (b : Reg) (c : Reg) (e : Reg)
  | mgset (b : Reg) (c : Reg)
  | mig (b : Reg)
  | mlat (a : Reg)
  | mprobe (a : Reg) (b : Reg)
  | mbufq (a : Reg)
  | mdrain
  | mpoll (a : Reg)
  -- Task (12)
  | glaunch (a : Reg) (b : Reg)
  | cwait (a : Reg) (b : Reg) (level : Reg)
  | cancel (a : Reg) (b : Reg) (level : Reg)
  | cread (a : Reg) (b : Reg) (level : Reg)
  | dqpush (b : Reg)
  | dqpop (a : Reg)
  | dqsteal (a : Reg)
  | dqmask (b : Reg)
  | dqlen (a : Reg)
  | bgrd (a : Reg)
  | tsrd (a : Reg)
  | earlyok
  | lstat (a : Reg) (b : Reg)
  | cadd (b : Reg) (c : Reg) (level : Reg)
  -- Forecast (13)
  | ftrack (b : Reg)
  | funtrack (b : Reg)
  | fopen (a : Reg) (b : Reg) (c : Reg) (e : Reg)
  | fclose (b : Reg)
  | fstat (a : Reg) (b : Reg)
  | falpha (a : Reg) (b : Reg)
  -- Residency (14)
  | clrpost (a : Reg) (b : Reg) (c : Reg)
  | clrrep (a : Reg) (b : Reg)
  | drreq
  | resq (a : Reg) (b : Reg)
  -- Island (15)
  | mfsr (a : Reg) (n : BitVec 12)
  | mtsr (a : Reg) (n : BitVec 12)
  | eret
  | ptfence
  | tlbinv (b : Reg) (c : Reg)
  | icinv (b : Reg)
  | splinter (b : Reg) (c : Reg)
  | rgset (b : Reg)
  | grant (b : Reg) (c : Reg)
  | revoke (b : Reg)
  | vfbind (b : Reg) (c : Reg)
  | dhalt (b : Reg)
  | dstep (b : Reg)
  | dresume (b : Reg)
  -- Trust (16)
  | wsw (b : Reg)
  | sealMem (a : Reg) (b : Reg) (c : Reg)
  | unsealMem (a : Reg) (b : Reg) (c : Reg)
  | evsign (a : Reg) (b : Reg) (c : Reg)
deriving DecidableEq, Repr

end Sys2Proof
end

