-- ==== Sys2Proof/WellFormed.lean ====
section
/-! DEFINITION. Which instructions are legal encodings (R51, R56-R59, R67, R85-R97, R234, R261, R310): the register classes, the codes and
the modifiers each form allows. Checks of run-time values are no part of this (R78). -/

namespace Sys2Proof.WellFormed

/-- Vector only (Table 2.3). -/
def vectorReg (r : Reg) : Bool := decide (r.val < 12)
/-- A stream register s0 to s3 (Table 2.3). -/
def streamReg (r : Reg) : Bool := decide (12 ≤ r.val)
/-- Accumulator class (Table 2.3). -/
def accReg (r : Reg) : Bool := decide (r.val < 4)
/-- Mailbox class (Table 2.3). -/
def mailboxReg (r : Reg) : Bool := decide (r.val < 8)
/-- Zephyr class (Table 2.3). -/
def zephyrReg (r : Reg) : Bool := decide (r.val < 8)
/-- A table name 0 to 3 (R92). -/
def tableName (r : Reg) : Bool := decide (r.val < 4)
/-- A scope, level or condition code 0 to 4 (R82). -/
def codeOk (r : Reg) : Bool := decide (r.val < 5)
/-- A shift immediate (R85). -/
def shiftImmOk (i : BitVec 32) : Bool := decide (i.toNat < 64)
/-- A ptag immediate (R85). -/
def tagImmOk (i : BitVec 32) : Bool := decide (i.toNat < 1024)
/-- A bit field within 64 bits (R155). -/
def bitFieldOk (lsb width1 : BitVec 6) : Bool := decide (lsb.toNat + width1.toNat + 1 ≤ 64)
/-- A control-register number that Table 5.1 assigns (R132). -/
def ctlRegOk (n : BitVec 16) : Bool := decide (n.toNat ≤ 19) || (decide (24 ≤ n.toNat) && decide (n.toNat ≤ 31))
/-- amo sizes: words and doubles only (R89). -/
def amoSizeOk (s : Fin 4) : Bool := decide (2 ≤ s.val)
/-- The MCFG immediate: bits [31:27] and [15:10] are 0 (R310). -/
def mcfgImmOk (i : BitVec 32) : Bool := decide (i.toNat < 2 ^ 27) && decide (i.toNat / 2 ^ 10 % 64 = 0)

/-- Formats of set A (R90). -/
def fmtArith (f : Fin 32) : Bool := decide (f.val < 6)
/-- Formats of set F (R90). -/
def isFloatFmt (f : Fin 32) : Bool := decide (f.val < 3)
/-- Formats of set I (R90). -/
def fmtInt (f : Fin 32) : Bool := decide (3 ≤ f.val) && decide (f.val < 6)
/-- Formats of the logical operations: set I and bin (Table 3.7). -/
def fmtLogic (f : Fin 32) : Bool := fmtInt f || f.val == 10
/-- uq8 or uq4 (Table 3.7). -/
def fmtCode (f : Fin 32) : Bool := f.val == 8 || f.val == 9
/-- fp32 or int32 (Table 3.7). -/
def fmtWord (f : Fin 32) : Bool := f.val == 0 || f.val == 3
/-- A floating-point element format code (Table 3.2). -/
def isFloatCode (c : Nat) : Bool := decide (c < 3) || c == 6 || c == 7

/-- Which modifiers a form allows: on each source, SCALE, RM and CLAMP (R56-R58, R91). -/
def modsOk (m : FMods) (s1 s2 s3 scale rm clamp : Bool) : Bool :=
  (s1 || (!m.neg1 && !m.abs1)) && (s2 || (!m.neg2 && !m.abs2)) && (s3 || (!m.neg3 && !m.abs3)) &&
  (scale || m.scale.val == 0) && (rm || m.rm.val == 0) && (clamp || !m.clamp)

/-- iev: source 1 modifiers, SCALE and CLAMP; RM is 0 (R92, R261). -/
def ievModsOk (m : FMods) : Bool := modsOk m true false false true false true

/-- Table 7.5: the group length of a length code. -/
def groupLen (opts : Reg) : Nat := 32 * 2 ^ (opts.val / 2 % 4)
/-- FE[3] is 0 and the length code is not 3 (Table 3.7, R234). -/
def quantOptsOk (opts : Reg) : Bool := decide (opts.val < 6)
/-- Registers that hold the codes of one group (Table 7.5). -/
def codeRegs (wide : Bool) (len : Nat) : Nat := if wide then len / 32 else if len = 128 then 2 else 1
/-- Registers that hold the floating-point values of one group (Table 7.5); fp32 is code 0. -/
def valueRegs (fp32 : Bool) (len : Nat) : Nat := if fp32 then len / 8 else len / 16
/-- The register ranges of vqnt (R234, R241, Table 7.5). -/
def vqntRegsOk (fmt : Fin 32) (opts a b : Reg) : Bool :=
  decide (a.val + codeRegs (fmt.val == 8) (groupLen opts) ≤ 12) &&
  (streamReg b || decide (b.val + valueRegs true (groupLen opts) ≤ 12))
/-- The register ranges of vdqnt (R234, R242, Table 7.5): vdqnt.fp32 of 128 values is illegal. -/
def vdqntRegsOk (fmt : Fin 32) (opts a b : Reg) : Bool :=
  decide (a.val + valueRegs (fmt.val == 0) (groupLen opts) ≤ 12) &&
  (streamReg b || decide (b.val + codeRegs (opts.val % 2 == 0) (groupLen opts) ≤ 12))

end Sys2Proof.WellFormed

namespace Sys2Proof

open WellFormed in
/-- An instruction that decoding accepts (R67, R78). Engine steps have no encoding and no operand class. -/
def wf : Instr → Bool
  | .nop => true
  | .ret => true
  | .jr _ => true
  | .callr _ => true
  | .pause _ => true
  | .sys _ => true
  | .tret => true
  | .yield => true
  | .calm => true
  | .fence scope => codeOk scope
  | .lfence => true
  | .waitpred => true
  | .addHead _ _ => true
  | .addX _ _ _ => true
  | .addI32 _ _ _ => true
  | .addI64 _ _ _ => true
  | .subHead _ _ => true
  | .subX _ _ _ => true
  | .subI32 _ _ _ => true
  | .subI64 _ _ _ => true
  | .andX _ _ _ => true
  | .andXI _ _ _ => true
  | .orX _ _ _ => true
  | .orXI _ _ _ => true
  | .xorX _ _ _ => true
  | .xorXI _ _ _ => true
  | .andnX _ _ _ => true
  | .andnXI _ _ _ => true
  | .shlX _ _ _ => true
  | .shlXI _ _ imm => shiftImmOk imm
  | .shrX _ _ _ => true
  | .shrXI _ _ imm => shiftImmOk imm
  | .sraX _ _ _ => true
  | .sraXI _ _ imm => shiftImmOk imm
  | .mulX _ _ _ => true
  | .mulXI _ _ _ => true
  | .mulhX _ _ _ => true
  | .mulhXI _ _ _ => true
  | .mulhuX _ _ _ => true
  | .mulhuXI _ _ _ => true
  | .div _ _ _ _ => true
  | .divu _ _ _ _ => true
  | .rem _ _ _ _ => true
  | .remu _ _ _ _ => true
  | .minX _ _ _ => true
  | .minXI _ _ _ => true
  | .maxX _ _ _ => true
  | .maxXI _ _ _ => true
  | .minuX _ _ _ => true
  | .minuXI _ _ _ => true
  | .maxuX _ _ _ => true
  | .maxuXI _ _ _ => true
  | .ldBK _ _ _ _ => true
  | .ldBKL _ _ _ _ => true
  | .ldHK _ _ _ _ => true
  | .ldHKL _ _ _ _ => true
  | .ldWK _ _ _ _ => true
  | .ldWKL _ _ _ _ => true
  | .ldDK _ _ _ _ => true
  | .ldDKL _ _ _ _ => true
  | .stBK _ _ _ _ => true
  | .stBKL _ _ _ _ => true
  | .stHK _ _ _ _ => true
  | .stHKL _ _ _ _ => true
  | .stWK _ _ _ _ => true
  | .stWKL _ _ _ _ => true
  | .stDK _ _ _ _ => true
  | .stDKL _ _ _ _ => true
  | .seqX _ _ _ => true
  | .seqXI _ _ _ => true
  | .sneX _ _ _ => true
  | .sneXI _ _ _ => true
  | .sltX _ _ _ => true
  | .sltXI _ _ _ => true
  | .sltuX _ _ _ => true
  | .sltuXI _ _ _ => true
  | .liI16 _ _ => true
  | .liI32 _ _ => true
  | .liI64 _ _ => true
  | .rdc _ n => ctlRegOk n
  | .wrc _ n => ctlRegOk n
  | .brJ _ _ => true
  | .brJL _ _ => true
  | .callJ _ _ => true
  | .callJL _ _ => true
  | .mov _ _ => true
  | .neg _ _ => true
  | .not _ _ => true
  | .clz _ _ => true
  | .ctz _ _ => true
  | .popc _ _ => true
  | .bswap _ _ => true
  | .tagof _ _ => true
  | .extBZ _ _ => true
  | .extHZ _ _ => true
  | .extWZ _ _ => true
  | .extBS _ _ => true
  | .extHS _ _ => true
  | .extWS _ _ => true
  | .bnzJ _ _ _ => true
  | .bnzJL _ _ _ => true
  | .bzJ _ _ _ => true
  | .bzJL _ _ _ => true
  | .beqJ _ _ _ _ => true
  | .beqJL _ _ _ _ => true
  | .bneJ _ _ _ _ => true
  | .bneJL _ _ _ _ => true
  | .bltJ _ _ _ _ => true
  | .bltJL _ _ _ _ => true
  | .bgeJ _ _ _ _ => true
  | .bgeJL _ _ _ _ => true
  | .bltuJ _ _ _ _ => true
  | .bltuJL _ _ _ _ => true
  | .bgeuJ _ _ _ _ => true
  | .bgeuJL _ _ _ _ => true
  | .sleX _ _ _ => true
  | .sleXI _ _ _ => true
  | .sleuX _ _ _ => true
  | .sleuXI _ _ _ => true
  | .bext _ _ lsb width1 => bitFieldOk lsb width1
  | .bins _ _ lsb width1 => bitFieldOk lsb width1
  | .sel _ _ _ _ => true
  | .paddX _ _ _ => true
  | .paddXI _ _ _ => true
  | .psubX _ _ _ => true
  | .psubXI _ _ _ => true
  | .ptagX _ _ _ => true
  | .ptagXI _ _ imm => tagImmOk imm
  | .loopGJ _ _ _ => true
  | .loopGJL _ _ _ => true
  | .loopMbJ a _ _ => mailboxReg a
  | .loopMbJL a _ _ => mailboxReg a
  | .ldx _ _ _ _ _ => true
  | .stx _ _ _ _ _ => true
  | .ldp _ _ _ _ _ => true
  | .stp _ _ _ _ _ => true
  | .ldxS size _ _ _ _ => size.val != 3
  | .vadd fmt a _ _ m => vectorReg a && fmtArith fmt && modsOk m (isFloatFmt fmt) (isFloatFmt fmt) false (isFloatFmt fmt) (isFloatFmt fmt) true
  | .vsub fmt a _ _ m => vectorReg a && fmtArith fmt && modsOk m (isFloatFmt fmt) (isFloatFmt fmt) false (isFloatFmt fmt) (isFloatFmt fmt) true
  | .vmul fmt a _ _ m => vectorReg a && fmtArith fmt && modsOk m (isFloatFmt fmt) (isFloatFmt fmt) false (isFloatFmt fmt) (isFloatFmt fmt) true
  | .vfma fmt a _ _ _ m => vectorReg a && fmtArith fmt && modsOk m (isFloatFmt fmt) (isFloatFmt fmt) (isFloatFmt fmt) (isFloatFmt fmt) (isFloatFmt fmt) true
  | .vmin fmt a _ _ m => vectorReg a && fmtArith fmt && modsOk m (isFloatFmt fmt) (isFloatFmt fmt) false false false false
  | .vmax fmt a _ _ m => vectorReg a && fmtArith fmt && modsOk m (isFloatFmt fmt) (isFloatFmt fmt) false false false false
  | .vrnd fmt a _ m => vectorReg a && isFloatFmt fmt && modsOk m true false false true true true
  | .vdiv fmt a _ _ m _ => vectorReg a && isFloatFmt fmt && modsOk m true true false true true true
  | .vsqrt fmt a _ m _ => vectorReg a && isFloatFmt fmt && modsOk m true false false true true true
  | .vcmp fmt a _ _ cond m => codeOk cond && vectorReg a && fmtArith fmt && modsOk m (isFloatFmt fmt) (isFloatFmt fmt) false false false false && (cond.val != 4 || isFloatFmt fmt)
  | .vsel fmt a _ _ _ m => vectorReg a && fmtArith fmt && modsOk m (isFloatFmt fmt) (isFloatFmt fmt) false false false false
  | .vredadd fmt a _ m => vectorReg a && fmtArith fmt && modsOk m (isFloatFmt fmt) false false (isFloatFmt fmt) (isFloatFmt fmt) true
  | .vredmax fmt a _ m => vectorReg a && fmtArith fmt && modsOk m (isFloatFmt fmt) false false false false false
  | .vredmin fmt a _ m => vectorReg a && fmtArith fmt && modsOk m (isFloatFmt fmt) false false false false false
  | .vcvt dst src a _ m => vectorReg a && decide (dst.val < 8) && decide (src.val < 8) && dst.val != src.val && modsOk m (isFloatCode src.val) false false (isFloatCode dst.val) (isFloatCode dst.val || isFloatCode src.val) true
  | .vqnt fmt a b _ opts => vectorReg a && fmtCode fmt && quantOptsOk opts && vqntRegsOk fmt opts a b
  | .vdqnt fmt a b _ opts m => vectorReg a && isFloatFmt fmt && quantOptsOk opts && vdqntRegsOk fmt opts a b && modsOk m false false false true true true
  | .vand fmt a _ _ => vectorReg a && fmtLogic fmt
  | .vor fmt a _ _ => vectorReg a && fmtLogic fmt
  | .vxor fmt a _ _ => vectorReg a && fmtLogic fmt
  | .vshl fmt a _ _ => vectorReg a && fmtInt fmt
  | .vshr fmt a _ _ => vectorReg a && fmtInt fmt
  | .vperm fmt a _ _ m => vectorReg a && (fmtArith fmt || fmt.val == 10) && modsOk m (isFloatFmt fmt) false false false false false
  | .vclr a => vectorReg a
  | .vmov fmt a _ m => vectorReg a && fmtArith fmt && modsOk m (isFloatFmt fmt) false false false false false
  | .vbcast fmt a _ => vectorReg a && fmtArith fmt
  | .vins fmt a _ word => vectorReg a && fmtWord fmt && decide (word.val < 8)
  | .vext fmt _ _ word => fmtWord fmt && decide (word.val < 8)
  | .vldK a _ _ _ => vectorReg a
  | .vldKL a _ _ _ => vectorReg a
  | .vstK a _ _ _ => vectorReg a
  | .vstKL a _ _ _ => vectorReg a
  | .sbind fmt a _ => fmtArith fmt && streamReg a
  | .sunbind a => streamReg a
  | .sadv a _ => streamReg a
  | .sstat _ b => streamReg b
  | .lda _ _ _ scope _ => codeOk scope
  | .stl _ _ _ scope _ => codeOk scope
  | .amoAdd size _ _ _ scope _ => codeOk scope && amoSizeOk size
  | .amoAnd size _ _ _ scope _ => codeOk scope && amoSizeOk size
  | .amoOr size _ _ _ scope _ => codeOk scope && amoSizeOk size
  | .amoXor size _ _ _ scope _ => codeOk scope && amoSizeOk size
  | .amoMin size _ _ _ scope _ => codeOk scope && amoSizeOk size
  | .amoMax size _ _ _ scope _ => codeOk scope && amoSizeOk size
  | .amoSwap size _ _ _ scope _ => codeOk scope && amoSizeOk size
  | .amoCas size _ _ _ scope _ => codeOk scope && amoSizeOk size
  | .spalloc _ _ _ => true
  | .spfree _ => true
  | .tlk _ _ => true
  | .tset _ _ => true
  | .tclr _ => true
  | .dcinv _ => true
  | .dcwb _ => true
  | .pf _ => true
  | .lrwr _ _ => true
  | .lrrd _ _ => true
  | .rlq _ _ => true
  | .spq _ => true
  | .itld n _ _ => tableName n
  | .iev fmt a _ n m _ => tableName n && decide (fmt.val < 3) && vectorReg a && ievModsOk m
  | .iseg fmt a _ n _ => tableName n && decide (fmt.val < 3) && vectorReg a
  | .itinv n _ => tableName n
  | .itq _ n _ => tableName n
  | .zpost _ _ _ => true
  | .bseal _ => true
  | .bwait _ _ => true
  | .zstat _ => true
  | .zli a _ => zephyrReg a
  | .zmov a b => zephyrReg a && zephyrReg b
  | .zaddXD a b c => zephyrReg a && zephyrReg b && zephyrReg c
  | .zaddXI a b _ => zephyrReg a && zephyrReg b
  | .zsubXD a b c => zephyrReg a && zephyrReg b && zephyrReg c
  | .zsubXI a b _ => zephyrReg a && zephyrReg b
  | .zld a b c => zephyrReg a && zephyrReg b && zephyrReg c
  | .zst a b c => zephyrReg a && zephyrReg b && zephyrReg c
  | .zcopy a b c => zephyrReg a && zephyrReg b && zephyrReg c
  | .zstride b c => zephyrReg b && zephyrReg c
  | .zdone b => zephyrReg b
  | .zhalt => true
  | .zjmpJ _ _ => true
  | .zjmpJL _ _ => true
  | .zbnzJ a _ _ => zephyrReg a
  | .zbnzJL a _ _ => zephyrReg a
  | .mcfg imm _ => mcfgImmOk imm
  | .mzero a _ => accReg a
  | .mld a _ _ => accReg a
  | .mst fmt a _ rm _ _ => accReg a && decide (fmt.val < 3) && (fmt.val != 0 || rm.val == 0)
  | .mmac a _ _ _ _ => accReg a
  | .mmacm a _ _ _ _ => accReg a
  | .mmacs a b c _ _ => accReg a && streamReg b && streamReg c
  | .mbin op a _ _ _ _ => accReg a && decide (op.val < 2)
  | .mres a _ => accReg a
  | .mwait a _ => accReg a
  | .mrdp _ _ => true
  | .mwrp _ _ => true
  | .mabort a _ => accReg a
  | .mstat _ _ => true
  | .msend _ _ _ _ => true
  | .msendr _ _ _ _ => true
  | .mcast _ _ _ _ => true
  | .mgset _ _ => true
  | .mig _ => true
  | .mlat _ => true
  | .mprobe _ _ => true
  | .mbufq _ => true
  | .mdrain => true
  | .mpoll _ => true
  | .glaunch _ _ => true
  | .cwait _ _ level => codeOk level
  | .cancel _ _ level => codeOk level
  | .cread _ _ level => codeOk level
  | .dqpush _ => true
  | .dqpop _ => true
  | .dqsteal _ => true
  | .dqmask _ => true
  | .dqlen _ => true
  | .bgrd _ => true
  | .tsrd _ => true
  | .earlyok => true
  | .lstat _ _ => true
  | .cadd _ _ level => codeOk level
  | .ftrack _ => true
  | .funtrack _ => true
  | .fopen _ _ _ _ => true
  | .fclose _ => true
  | .fstat _ _ => true
  | .falpha _ _ => true
  | .clrpost _ _ _ => true
  | .clrrep _ _ => true
  | .drreq => true
  | .resq _ _ => true
  | .mfsr _ _ => true
  | .mtsr _ _ => true
  | .eret => true
  | .ptfence => true
  | .tlbinv _ _ => true
  | .icinv _ => true
  | .splinter _ _ => true
  | .rgset _ => true
  | .grant _ _ => true
  | .revoke _ => true
  | .vfbind _ _ => true
  | .dhalt _ => true
  | .dstep _ => true
  | .dresume _ => true
  | .wsw _ => true
  | .sealMem _ _ _ => true
  | .unsealMem _ _ _ => true
  | .evsign _ _ _ => true
  | .codeLineFetch _ => true
  | .resume _ _ _ => true
  | .redirect _ _ _ => true
  | .discard _ _ _ => true
  | .halt _ _ _ => true
  | .present _ _ _ => true
  | .retry _ _ _ _ => true
  | .continue_ _ _ _ _ => true
  | .fail _ _ _ _ _ => true
  | .issueSlotTaken _ => true
  | .registerCacheFill _ _ _ => true
  | .extensionImageFill _ _ => true
  | .pauseExpiry _ _ => true
  | .budget _ _ => true
  | .activationByMessage _ => true
  | .activationByHandOff _ => true
  | .automaticSteal _ => true
  | .overflowReturn _ => true
  | .commit _ => true
  | .becomeSerialising _ => true
  | .readSetRegistration _ _ => true
  | .invalidation _ _ => true
  | .clusterWindowAccess _ => true
  | .edgeMemoryAccess _ => true
  | .pageWalk _ _ _ _ => true
  | .beatArrival _ _ _ => true
  | .tableLoadComplete _ _ _ => true
  | .refetch _ _ _ => true
  | .requestActivation _ _ => true
  | .requestDone _ _ => true
  | .zlimit _ _ => true
  | .kpost _ _ _ _ => true
  | .matrixOperationStart _ => true
  | .fold _ => true
  | .matrixOperationComplete _ => true
  | .injection _ => true
  | .hop _ => true
  | .relay _ => true
  | .handleCacheUpdate _ => true
  | .messageArrival _ => true
  | .migrationArrival _ => true
  | .ack _ => true
  | .nackBusy _ => true
  | .nackStale _ => true
  | .nackBadhandler _ => true
  | .nackRefused _ => true
  | .nackNopath _ => true
  | .backoffExpiry _ _ => true
  | .poisonTail _ => true
  | .launchPooled _ => true
  | .placement _ => true
  | .counterComplete _ _ => true
  | .deadline _ => true
  | .ceilometerCheck _ _ => true
  | .sensorReading _ _ => true
  | .rotation _ => true
  | .calmingEnd _ => true
  | .moveAbandoned _ => true
  | .drainingEnd _ => true
  | .copyingEnd _ => true
  | .switchingEnd _ => true
  | .stubRelease _ _ => true
  | .backstop _ => true
  | .eviction _ => true
  | .cleared _ => true
  | .restore _ _ => true
  | .blockRestored _ => true
  | .sliceEnd _ => true
  | .faultQueueAppend _ => true
  | .heldRecordDelivery _ => true
  | .qevent _ _ => true
  | .rsmcmd _ _ _ => true
  | .mext _ => true
  | .controlSpaceWrite _ _ _ _ => true
  | .regionRekey _ _ => true
  | .sweepComplete _ => true
  | .checkpoint _ _ => true
  | .checkpointComplete _ => true
  | .slotRestore _ _ => true
  | .restoreComplete _ => true
  | .erase _ _ => true
  | .cxlMemRead _ _ _ => true
  | .cxlMemWrite _ _ _ => true
  | .dbell _ _ => true
  | .apertureAccess _ _ _ _ => true
  | .collpost _ => true
  | .collectiveResult _ => true
  | .timeout _ => true
  | .linkdown _ => true
  | .getVersion _ => true
  | .getCapabilities _ => true
  | .negotiateAlgorithms _ => true
  | .getDigests _ => true
  | .getCertificate _ => true
  | .challenge _ _ => true
  | .getMeasurements _ => true
  | .doze => true
  | .run => true
  | .powerApplied => true
  | .selfCalibration _ => true
  | .selfTest _ => true
  | .routerTableWrite _ => true
  | .initialisation _ => true
  | .powerOff => true
  | .response _ => true
  | .tlbInvalidation _ => true
  | .powerGated _ => true

end Sys2Proof
end

