-- ==== Sys2Proof/Decode.lean ====
section
/-! DEFINITION. Code lines, heads and tails (R44-R55, R66), the decoder of one instruction (R78, R97) and, after it, the encoder, both
written from the encoding tables of spec/02 and spec/03. -/

namespace Sys2Proof

/-- Why a word is no instruction: the checks of R78 in their order. -/
inductive DecodeError where
  /-- Majors 0x3A to 0x3F (R97). -/
  | unallocatedMajor
  /-- A TLEN the major does not list (R53). -/
  | tailLength
  /-- An unallocated minor. -/
  | minor
  /-- A register outside its class, a code outside its range, a modifier the form forbids (R51, R56-R59, R234). -/
  | operand
  /-- A non-zero field that the form does not use (R53). -/
  | unusedField
deriving DecidableEq, Repr

/-- The tail layouts of Table 2.4. -/
inductive Layout where
  | none | x | k | j | i16 | xd | kl | jl | i32 | xi | i64
deriving DecidableEq, Repr

/-- A head (Table 2.2). -/
structure Head where
  tlen : Fin 4
  major : Fin 64
  fa : Reg
  fb : Reg
deriving DecidableEq, Repr

/-- The low half of X, XD and XI tails (Table 2.4). -/
structure TailX where
  fc : Reg
  la : Reg
  neg1 : Bool
  abs1 : Bool
  neg2 : Bool
  abs2 : Bool
  rm : Fin 4
  mx : Fin 4
deriving DecidableEq, Repr

/-- Bits [31:16] of XD and XI tails (Table 2.4). -/
structure TailU where
  fe : Reg
  clamp : Bool
  scale : Fin 16
  neg3 : Bool
  abs3 : Bool
  xm : Fin 32
deriving DecidableEq, Repr

/-- A tail, its fields apart (Table 2.4). -/
inductive Tail where
  | none
  | x (t : TailX)
  | k (la : Reg) (off : BitVec 12)
  | j (loff : BitVec 11) (slot : BitVec 5)
  | i16 (imm : BitVec 16)
  | xd (t : TailX) (u : TailU)
  | kl (la fc : Reg) (off : BitVec 24)
  | jl (loff : BitVec 27) (slot : BitVec 5)
  | i32 (imm : BitVec 32)
  | xi (t : TailX) (u : TailU) (imm : BitVec 32)
  | i64 (imm : BitVec 64)
deriving DecidableEq, Repr

/-- The layout of a tail. -/
def Tail.layout : Tail → Layout
  | .none => .none | .x _ => .x | .k _ _ => .k | .j _ _ => .j | .i16 _ => .i16 | .xd _ _ => .xd | .kl _ _ _ => .kl
  | .jl _ _ => .jl | .i32 _ => .i32 | .xi _ _ _ => .xi | .i64 _ => .i64

/-! Fields of a number. -/

/-- The two-bit field at bit k. -/
def field2 (n k : Nat) : Fin 4 := ⟨n / 2 ^ k % 4, Nat.mod_lt _ (by decide)⟩
/-- The four-bit field at bit k. -/
def field4 (n k : Nat) : Fin 16 := ⟨n / 2 ^ k % 16, Nat.mod_lt _ (by decide)⟩
/-- The five-bit field at bit k. -/
def field5 (n k : Nat) : Fin 32 := ⟨n / 2 ^ k % 32, Nat.mod_lt _ (by decide)⟩
/-- The six-bit field at bit k. -/
def field6 (n k : Nat) : Fin 64 := ⟨n / 2 ^ k % 64, Nat.mod_lt _ (by decide)⟩
/-- Bit k. -/
def field1 (n k : Nat) : Bool := decide (n / 2 ^ k % 2 = 1)
/-- A flag as a number. -/
def flagNat (b : Bool) : Nat := if b then 1 else 0

/-- Table 2.2. -/
def unpackHead (n : Nat) : Head := ⟨field2 n 14, field6 n 8, field4 n 4, field4 n 0⟩
/-- Table 2.2. -/
def packHead (h : Head) : Nat := h.tlen.val * 2 ^ 14 + h.major.val * 2 ^ 8 + h.fa.val * 2 ^ 4 + h.fb.val

/-- Layout X (Table 2.4). -/
def unpackX (n : Nat) : TailX :=
  ⟨field4 n 12, field4 n 8, field1 n 7, field1 n 6, field1 n 5, field1 n 4, field2 n 2, field2 n 0⟩
/-- Layout X (Table 2.4). -/
def packX (t : TailX) : Nat :=
  t.fc.val * 2 ^ 12 + t.la.val * 2 ^ 8 + flagNat t.neg1 * 2 ^ 7 + flagNat t.abs1 * 2 ^ 6 + flagNat t.neg2 * 2 ^ 5 +
    flagNat t.abs2 * 2 ^ 4 + t.rm.val * 2 ^ 2 + t.mx.val
/-- The high half of layout XD, its bit 0 the tail's bit 16 (Table 2.4). -/
def unpackU (n : Nat) : TailU :=
  ⟨field4 n 12, field1 n 11, field4 n 7, field1 n 6, field1 n 5, field5 n 0⟩
/-- The high half of layout XD (Table 2.4). -/
def packU (u : TailU) : Nat :=
  u.fe.val * 2 ^ 12 + flagNat u.clamp * 2 ^ 11 + u.scale.val * 2 ^ 7 + flagNat u.neg3 * 2 ^ 6 + flagNat u.abs3 * 2 ^ 5 + u.xm.val

/-- The fields of a tail under its layout (Table 2.4). -/
def unpackTail (n : Nat) : Layout → Tail
  | .none => .none
  | .x => .x (unpackX n)
  | .k => .k (field4 n 12) (BitVec.ofNat 12 n)
  | .j => .j (BitVec.ofNat 11 (n / 2 ^ 5)) (BitVec.ofNat 5 n)
  | .i16 => .i16 (BitVec.ofNat 16 n)
  | .xd => .xd (unpackX n) (unpackU (n / 2 ^ 16))
  | .kl => .kl (field4 n 28) (field4 n 24) (BitVec.ofNat 24 n)
  | .jl => .jl (BitVec.ofNat 27 (n / 2 ^ 5)) (BitVec.ofNat 5 n)
  | .i32 => .i32 (BitVec.ofNat 32 n)
  | .xi => .xi (unpackX n) (unpackU (n / 2 ^ 16)) (BitVec.ofNat 32 (n / 2 ^ 32))
  | .i64 => .i64 (BitVec.ofNat 64 n)

/-- The number a tail is stored as (Table 2.4). -/
def packTail : Tail → Nat
  | .none => 0
  | .x t => packX t
  | .k la off => la.val * 2 ^ 12 + off.toNat
  | .j loff slot => loff.toNat * 2 ^ 5 + slot.toNat
  | .i16 imm => imm.toNat
  | .xd t u => packU u * 2 ^ 16 + packX t
  | .kl la fc off => la.val * 2 ^ 28 + fc.val * 2 ^ 24 + off.toNat
  | .jl loff slot => loff.toNat * 2 ^ 5 + slot.toNat
  | .i32 imm => imm.toNat
  | .xi t u imm => imm.toNat * 2 ^ 32 + packU u * 2 ^ 16 + packX t
  | .i64 imm => imm.toNat

/-- One of four, by the tail-length code. -/
def pick (tlen : Fin 4) (l0 l1 l2 l3 : Option Layout) : Option Layout :=
  match tlen.val with
  | 0 => l0 | 1 => l1 | 2 => l2 | _ => l3

/-- The layout that a major gives a tail length (R53, Tables 3.3, 3.4, 3.9, 3.10, 3.14). -/
def layoutOf (major : Nat) (tlen : Fin 4) : Option Layout :=
  match major with
  | 0 => pick tlen (some .none) (some .i16) none none
  | 1 | 2 => pick tlen (some .none) (some .x) (some .i32) (some .i64)
  | 3 | 4 | 5 | 7 | 16 | 27 | 29 => pick tlen none (some .x) none (some .xi)
  | 6 | 19 | 50 => pick tlen none (some .x) none none
  | 8 | 9 | 10 | 11 | 12 | 13 | 14 | 15 | 44 | 45 => pick tlen none (some .k) (some .kl) none
  | 17 => pick tlen none (some .i16) (some .i32) (some .i64)
  | 18 | 20 | 21 | 22 | 23 | 24 | 25 | 26 | 30 | 52 => pick tlen none (some .j) (some .jl) none
  | 28 | 51 | 53 | 57 => pick tlen none none (some .xd) (some .xi)
  | 31 | 32 | 33 | 34 | 35 | 36 | 37 | 38 | 39 | 40 | 41 | 42 | 43 | 46 | 47 | 48 | 49 | 54 | 55 | 56 => pick tlen none none (some .xd) none
  | _ => none

/-- The bext and bins immediate: lsb in [5:0], width - 1 in [13:8] (R85). -/
def bitfieldImm (lsb width1 : BitVec 6) : BitVec 32 := BitVec.ofNat 32 (lsb.toNat + width1.toNat * 256)

/-- The modifier fields of an XD tail. -/
def modsOf (t : TailX) (u : TailU) : FMods :=
  ⟨t.neg1, t.abs1, t.neg2, t.abs2, u.neg3, u.abs3, u.clamp, t.rm, u.scale⟩

noncomputable section

/-! The minors of each major (Tables 3.3 to 3.14). Fields a form does not use are ignored here and checked by decodeInstr. -/

/-- Major 0x00 (Table 3.3). -/
def parse00 (fa fb : Reg) : Tail → Option Instr
  | .none =>
      if fa = 0 then some (.nop) else
      if fa = 1 then some (.ret) else
      if fa = 2 then some (.jr fb) else
      if fa = 3 then some (.callr fb) else
      if fa = 6 then some (.tret) else
      if fa = 7 then some (.yield) else
      if fa = 8 then some (.calm) else
      if fa = 9 then some (.fence fb) else
      if fa = 10 then some (.lfence) else
      if fa = 11 then some (.waitpred) else
      none
  | .i16 imm =>
      if fa = 4 then some (.pause imm) else
      if fa = 5 then some (.sys imm) else
      none
  | _ => none

/-- Major 0x01 (Table 3.3). -/
def parse01 (fa fb : Reg) : Tail → Option Instr
  | .none => some (.addHead fa fb)
  | .x t => some (.addX fa fb t.fc)
  | .i32 imm => some (.addI32 fa fb imm)
  | .i64 imm => some (.addI64 fa fb imm)
  | _ => none

/-- Major 0x02 (Table 3.3). -/
def parse02 (fa fb : Reg) : Tail → Option Instr
  | .none => some (.subHead fa fb)
  | .x t => some (.subX fa fb t.fc)
  | .i32 imm => some (.subI32 fa fb imm)
  | .i64 imm => some (.subI64 fa fb imm)
  | _ => none

/-- Major 0x03 (Table 3.3). -/
def parse03 (fa fb : Reg) : Tail → Option Instr
  | .x t =>
      if t.mx = 0 then some (.andX fa fb t.fc) else
      if t.mx = 1 then some (.orX fa fb t.fc) else
      if t.mx = 2 then some (.xorX fa fb t.fc) else
      if t.mx = 3 then some (.andnX fa fb t.fc) else
      none
  | .xi t _ imm =>
      if t.mx = 0 then some (.andXI fa fb imm) else
      if t.mx = 1 then some (.orXI fa fb imm) else
      if t.mx = 2 then some (.xorXI fa fb imm) else
      if t.mx = 3 then some (.andnXI fa fb imm) else
      none
  | _ => none

/-- Major 0x04 (Table 3.3). -/
def parse04 (fa fb : Reg) : Tail → Option Instr
  | .x t =>
      if t.mx = 0 then some (.shlX fa fb t.fc) else
      if t.mx = 1 then some (.shrX fa fb t.fc) else
      if t.mx = 2 then some (.sraX fa fb t.fc) else
      none
  | .xi t _ imm =>
      if t.mx = 0 then some (.shlXI fa fb imm) else
      if t.mx = 1 then some (.shrXI fa fb imm) else
      if t.mx = 2 then some (.sraXI fa fb imm) else
      none
  | _ => none

/-- Major 0x05 (Table 3.3). -/
def parse05 (fa fb : Reg) : Tail → Option Instr
  | .x t =>
      if t.mx = 0 then some (.mulX fa fb t.fc) else
      if t.mx = 1 then some (.mulhX fa fb t.fc) else
      if t.mx = 2 then some (.mulhuX fa fb t.fc) else
      none
  | .xi t _ imm =>
      if t.mx = 0 then some (.mulXI fa fb imm) else
      if t.mx = 1 then some (.mulhXI fa fb imm) else
      if t.mx = 2 then some (.mulhuXI fa fb imm) else
      none
  | _ => none

/-- Major 0x06 (Table 3.3). -/
def parse06 (fa fb : Reg) : Tail → Option Instr
  | .x t =>
      if t.mx = 0 then some (.div fa fb t.fc t.la) else
      if t.mx = 1 then some (.divu fa fb t.fc t.la) else
      if t.mx = 2 then some (.rem fa fb t.fc t.la) else
      if t.mx = 3 then some (.remu fa fb t.fc t.la) else
      none
  | _ => none

/-- Major 0x07 (Table 3.3). -/
def parse07 (fa fb : Reg) : Tail → Option Instr
  | .x t =>
      if t.mx = 0 then some (.minX fa fb t.fc) else
      if t.mx = 1 then some (.maxX fa fb t.fc) else
      if t.mx = 2 then some (.minuX fa fb t.fc) else
      if t.mx = 3 then some (.maxuX fa fb t.fc) else
      none
  | .xi t _ imm =>
      if t.mx = 0 then some (.minXI fa fb imm) else
      if t.mx = 1 then some (.maxXI fa fb imm) else
      if t.mx = 2 then some (.minuXI fa fb imm) else
      if t.mx = 3 then some (.maxuXI fa fb imm) else
      none
  | _ => none

/-- Major 0x08 (Table 3.3). -/
def parse08 (fa fb : Reg) : Tail → Option Instr
  | .k la off => some (.ldBK fa fb la off)
  | .kl la _ off => some (.ldBKL fa fb la off)
  | _ => none

/-- Major 0x09 (Table 3.3). -/
def parse09 (fa fb : Reg) : Tail → Option Instr
  | .k la off => some (.ldHK fa fb la off)
  | .kl la _ off => some (.ldHKL fa fb la off)
  | _ => none

/-- Major 0x0A (Table 3.3). -/
def parse0A (fa fb : Reg) : Tail → Option Instr
  | .k la off => some (.ldWK fa fb la off)
  | .kl la _ off => some (.ldWKL fa fb la off)
  | _ => none

/-- Major 0x0B (Table 3.3). -/
def parse0B (fa fb : Reg) : Tail → Option Instr
  | .k la off => some (.ldDK fa fb la off)
  | .kl la _ off => some (.ldDKL fa fb la off)
  | _ => none

/-- Major 0x0C (Table 3.3). -/
def parse0C (fa fb : Reg) : Tail → Option Instr
  | .k la off => some (.stBK fa fb la off)
  | .kl la _ off => some (.stBKL fa fb la off)
  | _ => none

/-- Major 0x0D (Table 3.3). -/
def parse0D (fa fb : Reg) : Tail → Option Instr
  | .k la off => some (.stHK fa fb la off)
  | .kl la _ off => some (.stHKL fa fb la off)
  | _ => none

/-- Major 0x0E (Table 3.3). -/
def parse0E (fa fb : Reg) : Tail → Option Instr
  | .k la off => some (.stWK fa fb la off)
  | .kl la _ off => some (.stWKL fa fb la off)
  | _ => none

/-- Major 0x0F (Table 3.3). -/
def parse0F (fa fb : Reg) : Tail → Option Instr
  | .k la off => some (.stDK fa fb la off)
  | .kl la _ off => some (.stDKL fa fb la off)
  | _ => none

/-- Major 0x10 (Table 3.3). -/
def parse10 (fa fb : Reg) : Tail → Option Instr
  | .x t =>
      if t.mx = 0 then some (.seqX fa fb t.fc) else
      if t.mx = 1 then some (.sneX fa fb t.fc) else
      if t.mx = 2 then some (.sltX fa fb t.fc) else
      if t.mx = 3 then some (.sltuX fa fb t.fc) else
      none
  | .xi t _ imm =>
      if t.mx = 0 then some (.seqXI fa fb imm) else
      if t.mx = 1 then some (.sneXI fa fb imm) else
      if t.mx = 2 then some (.sltXI fa fb imm) else
      if t.mx = 3 then some (.sltuXI fa fb imm) else
      none
  | _ => none

/-- Major 0x11 (Table 3.3). -/
def parse11 (fa fb : Reg) : Tail → Option Instr
  | .i16 imm =>
      if fb = 0 then some (.liI16 fa imm) else
      if fb = 1 then some (.rdc fa imm) else
      if fb = 2 then some (.wrc fa imm) else
      none
  | .i32 imm =>
      if fb = 0 then some (.liI32 fa imm) else
      none
  | .i64 imm =>
      if fb = 0 then some (.liI64 fa imm) else
      none
  | _ => none

/-- Major 0x12 (Table 3.3). -/
def parse12 (fa _ : Reg) : Tail → Option Instr
  | .j loff slot =>
      if fa = 0 then some (.brJ loff slot) else
      if fa = 1 then some (.callJ loff slot) else
      none
  | .jl loff slot =>
      if fa = 0 then some (.brJL loff slot) else
      if fa = 1 then some (.callJL loff slot) else
      none
  | _ => none

/-- Major 0x13 (Table 3.3). -/
def parse13 (fa fb : Reg) : Tail → Option Instr
  | .x t =>
      if t.fc = 0 then some (.mov fa fb) else
      if t.fc = 1 then some (.neg fa fb) else
      if t.fc = 2 then some (.not fa fb) else
      if t.fc = 3 then some (.clz fa fb) else
      if t.fc = 4 then some (.ctz fa fb) else
      if t.fc = 5 then some (.popc fa fb) else
      if t.fc = 6 then some (.bswap fa fb) else
      if t.fc = 7 then some (.tagof fa fb) else
      if t.fc = 8 then some (.extBZ fa fb) else
      if t.fc = 9 then some (.extHZ fa fb) else
      if t.fc = 10 then some (.extWZ fa fb) else
      if t.fc = 11 then some (.extBS fa fb) else
      if t.fc = 12 then some (.extHS fa fb) else
      if t.fc = 13 then some (.extWS fa fb) else
      none
  | _ => none

/-- Major 0x14 (Table 3.3). -/
def parse14 (fa fb : Reg) : Tail → Option Instr
  | .j loff slot =>
      if fb = 0 then some (.bnzJ fa loff slot) else
      if fb = 1 then some (.bzJ fa loff slot) else
      none
  | .jl loff slot =>
      if fb = 0 then some (.bnzJL fa loff slot) else
      if fb = 1 then some (.bzJL fa loff slot) else
      none
  | _ => none

/-- Major 0x15 (Table 3.3). -/
def parse15 (fa fb : Reg) : Tail → Option Instr
  | .j loff slot => some (.beqJ fa fb loff slot)
  | .jl loff slot => some (.beqJL fa fb loff slot)
  | _ => none

/-- Major 0x16 (Table 3.3). -/
def parse16 (fa fb : Reg) : Tail → Option Instr
  | .j loff slot => some (.bneJ fa fb loff slot)
  | .jl loff slot => some (.bneJL fa fb loff slot)
  | _ => none

/-- Major 0x17 (Table 3.3). -/
def parse17 (fa fb : Reg) : Tail → Option Instr
  | .j loff slot => some (.bltJ fa fb loff slot)
  | .jl loff slot => some (.bltJL fa fb loff slot)
  | _ => none

/-- Major 0x18 (Table 3.3). -/
def parse18 (fa fb : Reg) : Tail → Option Instr
  | .j loff slot => some (.bgeJ fa fb loff slot)
  | .jl loff slot => some (.bgeJL fa fb loff slot)
  | _ => none

/-- Major 0x19 (Table 3.3). -/
def parse19 (fa fb : Reg) : Tail → Option Instr
  | .j loff slot => some (.bltuJ fa fb loff slot)
  | .jl loff slot => some (.bltuJL fa fb loff slot)
  | _ => none

/-- Major 0x1A (Table 3.3). -/
def parse1A (fa fb : Reg) : Tail → Option Instr
  | .j loff slot => some (.bgeuJ fa fb loff slot)
  | .jl loff slot => some (.bgeuJL fa fb loff slot)
  | _ => none

/-- Major 0x1B (Table 3.3). -/
def parse1B (fa fb : Reg) : Tail → Option Instr
  | .x t =>
      if t.mx = 0 then some (.sleX fa fb t.fc) else
      if t.mx = 1 then some (.sleuX fa fb t.fc) else
      none
  | .xi t _ imm =>
      if t.mx = 0 then some (.sleXI fa fb imm) else
      if t.mx = 1 then some (.sleuXI fa fb imm) else
      none
  | _ => none

/-- Major 0x1C (Table 3.3). -/
def parse1C (fa fb : Reg) : Tail → Option Instr
  | .xi t _ imm =>
      if t.mx = 0 then some (.bext fa fb (imm.setWidth 6) ((imm >>> 8).setWidth 6)) else
      if t.mx = 1 then some (.bins fa fb (imm.setWidth 6) ((imm >>> 8).setWidth 6)) else
      none
  | .xd t u =>
      if t.mx = 2 then some (.sel fa fb t.fc u.fe) else
      none
  | _ => none

/-- Major 0x1D (Table 3.3). -/
def parse1D (fa fb : Reg) : Tail → Option Instr
  | .x t =>
      if t.mx = 0 then some (.paddX fa fb t.fc) else
      if t.mx = 1 then some (.psubX fa fb t.fc) else
      if t.mx = 2 then some (.ptagX fa fb t.fc) else
      none
  | .xi t _ imm =>
      if t.mx = 0 then some (.paddXI fa fb imm) else
      if t.mx = 1 then some (.psubXI fa fb imm) else
      if t.mx = 2 then some (.ptagXI fa fb imm) else
      none
  | _ => none

/-- Major 0x1E (Table 3.3). -/
def parse1E (fa fb : Reg) : Tail → Option Instr
  | .j loff slot =>
      if fb = 0 then some (.loopGJ fa loff slot) else
      if fb = 1 then some (.loopMbJ fa loff slot) else
      none
  | .jl loff slot =>
      if fb = 0 then some (.loopGJL fa loff slot) else
      if fb = 1 then some (.loopMbJL fa loff slot) else
      none
  | _ => none

/-- Major 0x1F (Table 3.3). -/
def parse1F (fa fb : Reg) : Tail → Option Instr
  | .xd t u =>
      if u.xm = 0 then some (.ldx t.mx fa fb t.fc t.la) else
      if u.xm = 1 then some (.stx t.mx fa fb t.fc t.la) else
      if u.xm = 2 then some (.ldp fa u.fe fb t.fc t.la) else
      if u.xm = 3 then some (.stp fa u.fe fb t.fc t.la) else
      if u.xm = 4 then some (.ldxS t.mx fa fb t.fc t.la) else
      none
  | _ => none

/-- Major 0x20 (Table 3.3). -/
def parse20 (fa fb : Reg) : Tail → Option Instr
  | .xd t u =>
      if t.mx = 0 then some (.vadd u.xm fa fb t.fc (modsOf t u)) else
      none
  | _ => none

/-- Major 0x21 (Table 3.3). -/
def parse21 (fa fb : Reg) : Tail → Option Instr
  | .xd t u =>
      if t.mx = 0 then some (.vsub u.xm fa fb t.fc (modsOf t u)) else
      none
  | _ => none

/-- Major 0x22 (Table 3.3). -/
def parse22 (fa fb : Reg) : Tail → Option Instr
  | .xd t u =>
      if t.mx = 0 then some (.vmul u.xm fa fb t.fc (modsOf t u)) else
      none
  | _ => none

/-- Major 0x23 (Table 3.3). -/
def parse23 (fa fb : Reg) : Tail → Option Instr
  | .xd t u =>
      if t.mx = 0 then some (.vfma u.xm fa fb t.fc u.fe (modsOf t u)) else
      none
  | _ => none

/-- Major 0x24 (Table 3.3). -/
def parse24 (fa fb : Reg) : Tail → Option Instr
  | .xd t u =>
      if t.mx = 0 then some (.vmin u.xm fa fb t.fc (modsOf t u)) else
      if t.mx = 1 then some (.vmax u.xm fa fb t.fc (modsOf t u)) else
      if t.mx = 2 then some (.vrnd u.xm fa fb (modsOf t u)) else
      none
  | _ => none

/-- Major 0x25 (Table 3.3). -/
def parse25 (fa fb : Reg) : Tail → Option Instr
  | .xd t u =>
      if t.mx = 0 then some (.vdiv u.xm fa fb t.fc (modsOf t u) t.la) else
      if t.mx = 1 then some (.vsqrt u.xm fa fb (modsOf t u) t.la) else
      none
  | _ => none

/-- Major 0x26 (Table 3.3). -/
def parse26 (fa fb : Reg) : Tail → Option Instr
  | .xd t u =>
      if t.mx = 0 then some (.vcmp u.xm fa fb t.fc u.fe (modsOf t u)) else
      if t.mx = 1 then some (.vsel u.xm fa fb t.fc u.fe (modsOf t u)) else
      none
  | _ => none

/-- Major 0x27 (Table 3.3). -/
def parse27 (fa fb : Reg) : Tail → Option Instr
  | .xd t u =>
      if t.mx = 0 then some (.vredadd u.xm fa fb (modsOf t u)) else
      if t.mx = 1 then some (.vredmax u.xm fa fb (modsOf t u)) else
      if t.mx = 2 then some (.vredmin u.xm fa fb (modsOf t u)) else
      none
  | _ => none

/-- Major 0x28 (Table 3.3). -/
def parse28 (fa fb : Reg) : Tail → Option Instr
  | .xd t u =>
      if t.mx = 0 then some (.vcvt u.xm u.fe fa fb (modsOf t u)) else
      if t.mx = 1 then some (.vqnt u.xm fa fb t.fc u.fe) else
      if t.mx = 2 then some (.vdqnt u.xm fa fb t.fc u.fe (modsOf t u)) else
      none
  | _ => none

/-- Major 0x29 (Table 3.3). -/
def parse29 (fa fb : Reg) : Tail → Option Instr
  | .xd t u =>
      if t.mx = 0 then some (.vand u.xm fa fb t.fc) else
      if t.mx = 1 then some (.vor u.xm fa fb t.fc) else
      if t.mx = 2 then some (.vxor u.xm fa fb t.fc) else
      none
  | _ => none

/-- Major 0x2A (Table 3.3). -/
def parse2A (fa fb : Reg) : Tail → Option Instr
  | .xd t u =>
      if t.mx = 0 then some (.vshl u.xm fa fb t.fc) else
      if t.mx = 1 then some (.vshr u.xm fa fb t.fc) else
      if t.mx = 2 then some (.vperm u.xm fa fb t.fc (modsOf t u)) else
      if t.mx = 3 then some (.vclr fa) else
      none
  | _ => none

/-- Major 0x2B (Table 3.3). -/
def parse2B (fa fb : Reg) : Tail → Option Instr
  | .xd t u =>
      if t.mx = 0 then some (.vmov u.xm fa fb (modsOf t u)) else
      if t.mx = 1 then some (.vbcast u.xm fa fb) else
      if t.mx = 2 then some (.vins u.xm fa fb u.fe) else
      if t.mx = 3 then some (.vext u.xm fa fb u.fe) else
      none
  | _ => none

/-- Major 0x2C (Table 3.3). -/
def parse2C (fa fb : Reg) : Tail → Option Instr
  | .k la off => some (.vldK fa fb la off)
  | .kl la _ off => some (.vldKL fa fb la off)
  | _ => none

/-- Major 0x2D (Table 3.3). -/
def parse2D (fa fb : Reg) : Tail → Option Instr
  | .k la off => some (.vstK fa fb la off)
  | .kl la _ off => some (.vstKL fa fb la off)
  | _ => none

/-- Major 0x2E (Table 3.3). -/
def parse2E (fa fb : Reg) : Tail → Option Instr
  | .xd t u =>
      if t.mx = 0 then some (.sbind u.xm fa fb) else
      if t.mx = 1 then some (.sunbind fa) else
      if t.mx = 2 then some (.sadv fa fb) else
      if t.mx = 3 then some (.sstat fa fb) else
      none
  | _ => none

/-- Major 0x2F (Table 3.3). -/
def parse2F (fa fb : Reg) : Tail → Option Instr
  | .xd t u =>
      if u.xm = 0 then some (.lda t.mx fa fb u.fe t.la) else
      if u.xm = 1 then some (.stl t.mx fa fb u.fe t.la) else
      if u.xm = 2 then some (.amoAdd t.mx fa fb t.fc u.fe t.la) else
      if u.xm = 3 then some (.amoAnd t.mx fa fb t.fc u.fe t.la) else
      if u.xm = 4 then some (.amoOr t.mx fa fb t.fc u.fe t.la) else
      if u.xm = 5 then some (.amoXor t.mx fa fb t.fc u.fe t.la) else
      if u.xm = 6 then some (.amoMin t.mx fa fb t.fc u.fe t.la) else
      if u.xm = 7 then some (.amoMax t.mx fa fb t.fc u.fe t.la) else
      if u.xm = 8 then some (.amoSwap t.mx fa fb t.fc u.fe t.la) else
      if u.xm = 9 then some (.amoCas t.mx fa fb t.fc u.fe t.la) else
      none
  | _ => none

/-- Major 0x30 (Table 3.3). -/
def parse30 (fa fb : Reg) : Tail → Option Instr
  | .xd t u =>
      if u.xm = 0 then some (.spalloc fa fb t.fc) else
      if u.xm = 1 then some (.spfree fb) else
      if u.xm = 2 then some (.tlk fa fb) else
      if u.xm = 3 then some (.tset fb t.fc) else
      if u.xm = 4 then some (.tclr fb) else
      if u.xm = 5 then some (.dcinv fb) else
      if u.xm = 6 then some (.dcwb fb) else
      if u.xm = 7 then some (.pf fb) else
      if u.xm = 8 then some (.lrwr fb t.fc) else
      if u.xm = 9 then some (.lrrd fb t.fc) else
      if u.xm = 10 then some (.rlq fa fb) else
      if u.xm = 11 then some (.spq fa) else
      none
  | _ => none

/-- Major 0x31 (Table 3.3). -/
def parse31 (fa fb : Reg) : Tail → Option Instr
  | .xd t u =>
      if u.xm = 0 then some (.itld u.fe fb t.la) else
      if u.xm = 1 then some (.iev t.mx fa fb u.fe (modsOf t u) t.la) else
      if u.xm = 2 then some (.iseg t.mx fa fb u.fe t.la) else
      if u.xm = 3 then some (.itinv u.fe t.la) else
      if u.xm = 4 then some (.itq fa u.fe t.la) else
      none
  | _ => none

/-- Major 0x32 (Table 3.3). -/
def parse32 (fa fb : Reg) : Tail → Option Instr
  | .x t =>
      if t.mx = 0 then some (.zpost fa fb t.la) else
      if t.mx = 1 then some (.bseal fa) else
      if t.mx = 2 then some (.bwait fb t.fc) else
      if t.mx = 3 then some (.zstat fa) else
      none
  | _ => none

/-- Major 0x33 (Table 3.3). -/
def parse33 (fa fb : Reg) : Tail → Option Instr
  | .xi _ u imm =>
      if u.xm = 0 then some (.zli fa imm) else
      if u.xm = 2 then some (.zaddXI fa fb imm) else
      if u.xm = 3 then some (.zsubXI fa fb imm) else
      none
  | .xd t u =>
      if u.xm = 1 then some (.zmov fa fb) else
      if u.xm = 2 then some (.zaddXD fa fb t.fc) else
      if u.xm = 3 then some (.zsubXD fa fb t.fc) else
      if u.xm = 4 then some (.zld fa fb t.fc) else
      if u.xm = 5 then some (.zst fa fb t.fc) else
      if u.xm = 6 then some (.zcopy fa fb t.fc) else
      if u.xm = 7 then some (.zstride fb t.fc) else
      if u.xm = 8 then some (.zdone fb) else
      if u.xm = 9 then some (.zhalt) else
      none
  | _ => none

/-- Major 0x34 (Table 3.3). -/
def parse34 (fa fb : Reg) : Tail → Option Instr
  | .j loff slot =>
      if fb = 0 then some (.zjmpJ loff slot) else
      if fb = 1 then some (.zbnzJ fa loff slot) else
      none
  | .jl loff slot =>
      if fb = 0 then some (.zjmpJL loff slot) else
      if fb = 1 then some (.zbnzJL fa loff slot) else
      none
  | _ => none

/-- Major 0x35 (Table 3.3). -/
def parse35 (fa fb : Reg) : Tail → Option Instr
  | .xi t u imm =>
      if u.xm = 0 then some (.mcfg imm t.la) else
      none
  | .xd t u =>
      if u.xm = 1 then some (.mzero fa t.la) else
      if u.xm = 2 then some (.mld fa fb t.la) else
      if u.xm = 3 then some (.mst t.mx fa fb t.rm u.clamp t.la) else
      if u.xm = 4 then some (.mmac fa fb t.fc u.fe t.la) else
      if u.xm = 5 then some (.mmacm fa fb t.fc u.fe t.la) else
      if u.xm = 6 then some (.mmacs fa fb t.fc u.fe t.la) else
      if u.xm = 7 then some (.mbin t.mx fa fb t.fc u.fe t.la) else
      if u.xm = 8 then some (.mres fa t.la) else
      if u.xm = 9 then some (.mwait fa t.la) else
      if u.xm = 10 then some (.mrdp fa t.la) else
      if u.xm = 11 then some (.mwrp fb t.la) else
      if u.xm = 12 then some (.mabort fa t.la) else
      if u.xm = 13 then some (.mstat fa t.la) else
      none
  | _ => none

/-- Major 0x36 (Table 3.3). -/
def parse36 (fa fb : Reg) : Tail → Option Instr
  | .xd t u =>
      if u.xm = 0 then some (.msend fa fb t.fc u.fe) else
      if u.xm = 1 then some (.msendr fa fb t.fc u.fe) else
      if u.xm = 2 then some (.mcast fa fb t.fc u.fe) else
      if u.xm = 3 then some (.mgset fb t.fc) else
      if u.xm = 4 then some (.mig fb) else
      if u.xm = 5 then some (.mlat fa) else
      if u.xm = 6 then some (.mprobe fa fb) else
      if u.xm = 7 then some (.mbufq fa) else
      if u.xm = 8 then some (.mdrain) else
      if u.xm = 9 then some (.mpoll fa) else
      none
  | _ => none

/-- Major 0x37 (Table 3.3). -/
def parse37 (fa fb : Reg) : Tail → Option Instr
  | .xd t u =>
      if u.xm = 0 then some (.glaunch fa fb) else
      if u.xm = 1 then some (.cwait fa fb u.fe) else
      if u.xm = 2 then some (.cancel fa fb u.fe) else
      if u.xm = 3 then some (.cread fa fb u.fe) else
      if u.xm = 4 then some (.dqpush fb) else
      if u.xm = 5 then some (.dqpop fa) else
      if u.xm = 6 then some (.dqsteal fa) else
      if u.xm = 7 then some (.dqmask fb) else
      if u.xm = 8 then some (.dqlen fa) else
      if u.xm = 9 then some (.bgrd fa) else
      if u.xm = 10 then some (.tsrd fa) else
      if u.xm = 11 then some (.earlyok) else
      if u.xm = 12 then some (.lstat fa fb) else
      if u.xm = 13 then some (.cadd fb t.fc u.fe) else
      none
  | _ => none

/-- Major 0x38 (Table 3.3). -/
def parse38 (fa fb : Reg) : Tail → Option Instr
  | .xd t u =>
      if u.xm = 0 then some (.ftrack fb) else
      if u.xm = 1 then some (.funtrack fb) else
      if u.xm = 2 then some (.fopen fa fb t.fc u.fe) else
      if u.xm = 3 then some (.fclose fb) else
      if u.xm = 4 then some (.fstat fa fb) else
      if u.xm = 5 then some (.falpha fa fb) else
      if u.xm = 8 then some (.clrpost fa fb t.fc) else
      if u.xm = 9 then some (.clrrep fa fb) else
      if u.xm = 10 then some (.drreq) else
      if u.xm = 11 then some (.resq fa fb) else
      none
  | _ => none

/-- Major 0x39 (Table 3.3). -/
def parse39 (fa fb : Reg) : Tail → Option Instr
  | .xi _ u imm =>
      if u.xm = 0 then some (.mfsr fa (imm.setWidth 12)) else
      if u.xm = 1 then some (.mtsr fa (imm.setWidth 12)) else
      none
  | .xd t u =>
      if u.xm = 2 then some (.eret) else
      if u.xm = 3 then some (.ptfence) else
      if u.xm = 4 then some (.tlbinv fb t.fc) else
      if u.xm = 5 then some (.icinv fb) else
      if u.xm = 6 then some (.splinter fb t.fc) else
      if u.xm = 7 then some (.rgset fb) else
      if u.xm = 8 then some (.grant fb t.fc) else
      if u.xm = 9 then some (.revoke fb) else
      if u.xm = 10 then some (.vfbind fb t.fc) else
      if u.xm = 11 then some (.dhalt fb) else
      if u.xm = 12 then some (.dstep fb) else
      if u.xm = 13 then some (.dresume fb) else
      if u.xm = 16 then some (.wsw fb) else
      if u.xm = 17 then some (.sealMem fa fb t.fc) else
      if u.xm = 18 then some (.unsealMem fa fb t.fc) else
      if u.xm = 19 then some (.evsign fa fb t.fc) else
      none
  | _ => none


/-- The instruction a head and its tail name, before the operand and unused-field checks (R78 steps 1 to 3). -/
def parse (h : Head) (t : Tail) : Option Instr :=
  match h.major.val with
  | 0 => parse00 h.fa h.fb t
  | 1 => parse01 h.fa h.fb t
  | 2 => parse02 h.fa h.fb t
  | 3 => parse03 h.fa h.fb t
  | 4 => parse04 h.fa h.fb t
  | 5 => parse05 h.fa h.fb t
  | 6 => parse06 h.fa h.fb t
  | 7 => parse07 h.fa h.fb t
  | 8 => parse08 h.fa h.fb t
  | 9 => parse09 h.fa h.fb t
  | 10 => parse0A h.fa h.fb t
  | 11 => parse0B h.fa h.fb t
  | 12 => parse0C h.fa h.fb t
  | 13 => parse0D h.fa h.fb t
  | 14 => parse0E h.fa h.fb t
  | 15 => parse0F h.fa h.fb t
  | 16 => parse10 h.fa h.fb t
  | 17 => parse11 h.fa h.fb t
  | 18 => parse12 h.fa h.fb t
  | 19 => parse13 h.fa h.fb t
  | 20 => parse14 h.fa h.fb t
  | 21 => parse15 h.fa h.fb t
  | 22 => parse16 h.fa h.fb t
  | 23 => parse17 h.fa h.fb t
  | 24 => parse18 h.fa h.fb t
  | 25 => parse19 h.fa h.fb t
  | 26 => parse1A h.fa h.fb t
  | 27 => parse1B h.fa h.fb t
  | 28 => parse1C h.fa h.fb t
  | 29 => parse1D h.fa h.fb t
  | 30 => parse1E h.fa h.fb t
  | 31 => parse1F h.fa h.fb t
  | 32 => parse20 h.fa h.fb t
  | 33 => parse21 h.fa h.fb t
  | 34 => parse22 h.fa h.fb t
  | 35 => parse23 h.fa h.fb t
  | 36 => parse24 h.fa h.fb t
  | 37 => parse25 h.fa h.fb t
  | 38 => parse26 h.fa h.fb t
  | 39 => parse27 h.fa h.fb t
  | 40 => parse28 h.fa h.fb t
  | 41 => parse29 h.fa h.fb t
  | 42 => parse2A h.fa h.fb t
  | 43 => parse2B h.fa h.fb t
  | 44 => parse2C h.fa h.fb t
  | 45 => parse2D h.fa h.fb t
  | 46 => parse2E h.fa h.fb t
  | 47 => parse2F h.fa h.fb t
  | 48 => parse30 h.fa h.fb t
  | 49 => parse31 h.fa h.fb t
  | 50 => parse32 h.fa h.fb t
  | 51 => parse33 h.fa h.fb t
  | 52 => parse34 h.fa h.fb t
  | 53 => parse35 h.fa h.fb t
  | 54 => parse36 h.fa h.fb t
  | 55 => parse37 h.fa h.fb t
  | 56 => parse38 h.fa h.fb t
  | 57 => parse39 h.fa h.fb t
  | _ => none

/-- The head and tail of an instruction, from the same tables; none for an engine step, which has no encoding. -/
def encFields : Instr → Option (Head × Tail)
  | .nop => some (⟨0, 0, 0, 0⟩, .none)
  | .ret => some (⟨0, 0, 1, 0⟩, .none)
  | .jr b => some (⟨0, 0, 2, b⟩, .none)
  | .callr b => some (⟨0, 0, 3, b⟩, .none)
  | .pause n => some (⟨1, 0, 4, 0⟩, .i16 (n))
  | .sys n => some (⟨1, 0, 5, 0⟩, .i16 (n))
  | .tret => some (⟨0, 0, 6, 0⟩, .none)
  | .yield => some (⟨0, 0, 7, 0⟩, .none)
  | .calm => some (⟨0, 0, 8, 0⟩, .none)
  | .fence scope => some (⟨0, 0, 9, scope⟩, .none)
  | .lfence => some (⟨0, 0, 10, 0⟩, .none)
  | .waitpred => some (⟨0, 0, 11, 0⟩, .none)
  | .addHead a b => some (⟨0, 1, a, b⟩, .none)
  | .addX a b c => some (⟨1, 1, a, b⟩, .x ⟨c, 0, false, false, false, false, 0, 0⟩)
  | .addI32 a b imm => some (⟨2, 1, a, b⟩, .i32 imm)
  | .addI64 a b imm => some (⟨3, 1, a, b⟩, .i64 imm)
  | .subHead a b => some (⟨0, 2, a, b⟩, .none)
  | .subX a b c => some (⟨1, 2, a, b⟩, .x ⟨c, 0, false, false, false, false, 0, 0⟩)
  | .subI32 a b imm => some (⟨2, 2, a, b⟩, .i32 imm)
  | .subI64 a b imm => some (⟨3, 2, a, b⟩, .i64 imm)
  | .andX a b c => some (⟨1, 3, a, b⟩, .x ⟨c, 0, false, false, false, false, 0, 0⟩)
  | .andXI a b imm => some (⟨3, 3, a, b⟩, .xi ⟨0, 0, false, false, false, false, 0, 0⟩ ⟨0, false, 0, false, false, 0⟩ imm)
  | .orX a b c => some (⟨1, 3, a, b⟩, .x ⟨c, 0, false, false, false, false, 0, 1⟩)
  | .orXI a b imm => some (⟨3, 3, a, b⟩, .xi ⟨0, 0, false, false, false, false, 0, 1⟩ ⟨0, false, 0, false, false, 0⟩ imm)
  | .xorX a b c => some (⟨1, 3, a, b⟩, .x ⟨c, 0, false, false, false, false, 0, 2⟩)
  | .xorXI a b imm => some (⟨3, 3, a, b⟩, .xi ⟨0, 0, false, false, false, false, 0, 2⟩ ⟨0, false, 0, false, false, 0⟩ imm)
  | .andnX a b c => some (⟨1, 3, a, b⟩, .x ⟨c, 0, false, false, false, false, 0, 3⟩)
  | .andnXI a b imm => some (⟨3, 3, a, b⟩, .xi ⟨0, 0, false, false, false, false, 0, 3⟩ ⟨0, false, 0, false, false, 0⟩ imm)
  | .shlX a b c => some (⟨1, 4, a, b⟩, .x ⟨c, 0, false, false, false, false, 0, 0⟩)
  | .shlXI a b imm => some (⟨3, 4, a, b⟩, .xi ⟨0, 0, false, false, false, false, 0, 0⟩ ⟨0, false, 0, false, false, 0⟩ imm)
  | .shrX a b c => some (⟨1, 4, a, b⟩, .x ⟨c, 0, false, false, false, false, 0, 1⟩)
  | .shrXI a b imm => some (⟨3, 4, a, b⟩, .xi ⟨0, 0, false, false, false, false, 0, 1⟩ ⟨0, false, 0, false, false, 0⟩ imm)
  | .sraX a b c => some (⟨1, 4, a, b⟩, .x ⟨c, 0, false, false, false, false, 0, 2⟩)
  | .sraXI a b imm => some (⟨3, 4, a, b⟩, .xi ⟨0, 0, false, false, false, false, 0, 2⟩ ⟨0, false, 0, false, false, 0⟩ imm)
  | .mulX a b c => some (⟨1, 5, a, b⟩, .x ⟨c, 0, false, false, false, false, 0, 0⟩)
  | .mulXI a b imm => some (⟨3, 5, a, b⟩, .xi ⟨0, 0, false, false, false, false, 0, 0⟩ ⟨0, false, 0, false, false, 0⟩ imm)
  | .mulhX a b c => some (⟨1, 5, a, b⟩, .x ⟨c, 0, false, false, false, false, 0, 1⟩)
  | .mulhXI a b imm => some (⟨3, 5, a, b⟩, .xi ⟨0, 0, false, false, false, false, 0, 1⟩ ⟨0, false, 0, false, false, 0⟩ imm)
  | .mulhuX a b c => some (⟨1, 5, a, b⟩, .x ⟨c, 0, false, false, false, false, 0, 2⟩)
  | .mulhuXI a b imm => some (⟨3, 5, a, b⟩, .xi ⟨0, 0, false, false, false, false, 0, 2⟩ ⟨0, false, 0, false, false, 0⟩ imm)
  | .div a b c la => some (⟨1, 6, a, b⟩, .x ⟨c, la, false, false, false, false, 0, 0⟩)
  | .divu a b c la => some (⟨1, 6, a, b⟩, .x ⟨c, la, false, false, false, false, 0, 1⟩)
  | .rem a b c la => some (⟨1, 6, a, b⟩, .x ⟨c, la, false, false, false, false, 0, 2⟩)
  | .remu a b c la => some (⟨1, 6, a, b⟩, .x ⟨c, la, false, false, false, false, 0, 3⟩)
  | .minX a b c => some (⟨1, 7, a, b⟩, .x ⟨c, 0, false, false, false, false, 0, 0⟩)
  | .minXI a b imm => some (⟨3, 7, a, b⟩, .xi ⟨0, 0, false, false, false, false, 0, 0⟩ ⟨0, false, 0, false, false, 0⟩ imm)
  | .maxX a b c => some (⟨1, 7, a, b⟩, .x ⟨c, 0, false, false, false, false, 0, 1⟩)
  | .maxXI a b imm => some (⟨3, 7, a, b⟩, .xi ⟨0, 0, false, false, false, false, 0, 1⟩ ⟨0, false, 0, false, false, 0⟩ imm)
  | .minuX a b c => some (⟨1, 7, a, b⟩, .x ⟨c, 0, false, false, false, false, 0, 2⟩)
  | .minuXI a b imm => some (⟨3, 7, a, b⟩, .xi ⟨0, 0, false, false, false, false, 0, 2⟩ ⟨0, false, 0, false, false, 0⟩ imm)
  | .maxuX a b c => some (⟨1, 7, a, b⟩, .x ⟨c, 0, false, false, false, false, 0, 3⟩)
  | .maxuXI a b imm => some (⟨3, 7, a, b⟩, .xi ⟨0, 0, false, false, false, false, 0, 3⟩ ⟨0, false, 0, false, false, 0⟩ imm)
  | .ldBK a b la off => some (⟨1, 8, a, b⟩, .k la off)
  | .ldBKL a b la off => some (⟨2, 8, a, b⟩, .kl la 0 off)
  | .ldHK a b la off => some (⟨1, 9, a, b⟩, .k la off)
  | .ldHKL a b la off => some (⟨2, 9, a, b⟩, .kl la 0 off)
  | .ldWK a b la off => some (⟨1, 10, a, b⟩, .k la off)
  | .ldWKL a b la off => some (⟨2, 10, a, b⟩, .kl la 0 off)
  | .ldDK a b la off => some (⟨1, 11, a, b⟩, .k la off)
  | .ldDKL a b la off => some (⟨2, 11, a, b⟩, .kl la 0 off)
  | .stBK a b la off => some (⟨1, 12, a, b⟩, .k la off)
  | .stBKL a b la off => some (⟨2, 12, a, b⟩, .kl la 0 off)
  | .stHK a b la off => some (⟨1, 13, a, b⟩, .k la off)
  | .stHKL a b la off => some (⟨2, 13, a, b⟩, .kl la 0 off)
  | .stWK a b la off => some (⟨1, 14, a, b⟩, .k la off)
  | .stWKL a b la off => some (⟨2, 14, a, b⟩, .kl la 0 off)
  | .stDK a b la off => some (⟨1, 15, a, b⟩, .k la off)
  | .stDKL a b la off => some (⟨2, 15, a, b⟩, .kl la 0 off)
  | .seqX a b c => some (⟨1, 16, a, b⟩, .x ⟨c, 0, false, false, false, false, 0, 0⟩)
  | .seqXI a b imm => some (⟨3, 16, a, b⟩, .xi ⟨0, 0, false, false, false, false, 0, 0⟩ ⟨0, false, 0, false, false, 0⟩ imm)
  | .sneX a b c => some (⟨1, 16, a, b⟩, .x ⟨c, 0, false, false, false, false, 0, 1⟩)
  | .sneXI a b imm => some (⟨3, 16, a, b⟩, .xi ⟨0, 0, false, false, false, false, 0, 1⟩ ⟨0, false, 0, false, false, 0⟩ imm)
  | .sltX a b c => some (⟨1, 16, a, b⟩, .x ⟨c, 0, false, false, false, false, 0, 2⟩)
  | .sltXI a b imm => some (⟨3, 16, a, b⟩, .xi ⟨0, 0, false, false, false, false, 0, 2⟩ ⟨0, false, 0, false, false, 0⟩ imm)
  | .sltuX a b c => some (⟨1, 16, a, b⟩, .x ⟨c, 0, false, false, false, false, 0, 3⟩)
  | .sltuXI a b imm => some (⟨3, 16, a, b⟩, .xi ⟨0, 0, false, false, false, false, 0, 3⟩ ⟨0, false, 0, false, false, 0⟩ imm)
  | .liI16 a imm => some (⟨1, 17, a, 0⟩, .i16 imm)
  | .liI32 a imm => some (⟨2, 17, a, 0⟩, .i32 imm)
  | .liI64 a imm => some (⟨3, 17, a, 0⟩, .i64 imm)
  | .rdc a n => some (⟨1, 17, a, 1⟩, .i16 (n))
  | .wrc a n => some (⟨1, 17, a, 2⟩, .i16 (n))
  | .brJ loff slot => some (⟨1, 18, 0, 0⟩, .j loff slot)
  | .brJL loff slot => some (⟨2, 18, 0, 0⟩, .jl loff slot)
  | .callJ loff slot => some (⟨1, 18, 1, 0⟩, .j loff slot)
  | .callJL loff slot => some (⟨2, 18, 1, 0⟩, .jl loff slot)
  | .mov a b => some (⟨1, 19, a, b⟩, .x ⟨0, 0, false, false, false, false, 0, 0⟩)
  | .neg a b => some (⟨1, 19, a, b⟩, .x ⟨1, 0, false, false, false, false, 0, 0⟩)
  | .not a b => some (⟨1, 19, a, b⟩, .x ⟨2, 0, false, false, false, false, 0, 0⟩)
  | .clz a b => some (⟨1, 19, a, b⟩, .x ⟨3, 0, false, false, false, false, 0, 0⟩)
  | .ctz a b => some (⟨1, 19, a, b⟩, .x ⟨4, 0, false, false, false, false, 0, 0⟩)
  | .popc a b => some (⟨1, 19, a, b⟩, .x ⟨5, 0, false, false, false, false, 0, 0⟩)
  | .bswap a b => some (⟨1, 19, a, b⟩, .x ⟨6, 0, false, false, false, false, 0, 0⟩)
  | .tagof a b => some (⟨1, 19, a, b⟩, .x ⟨7, 0, false, false, false, false, 0, 0⟩)
  | .extBZ a b => some (⟨1, 19, a, b⟩, .x ⟨8, 0, false, false, false, false, 0, 0⟩)
  | .extHZ a b => some (⟨1, 19, a, b⟩, .x ⟨9, 0, false, false, false, false, 0, 0⟩)
  | .extWZ a b => some (⟨1, 19, a, b⟩, .x ⟨10, 0, false, false, false, false, 0, 0⟩)
  | .extBS a b => some (⟨1, 19, a, b⟩, .x ⟨11, 0, false, false, false, false, 0, 0⟩)
  | .extHS a b => some (⟨1, 19, a, b⟩, .x ⟨12, 0, false, false, false, false, 0, 0⟩)
  | .extWS a b => some (⟨1, 19, a, b⟩, .x ⟨13, 0, false, false, false, false, 0, 0⟩)
  | .bnzJ a loff slot => some (⟨1, 20, a, 0⟩, .j loff slot)
  | .bnzJL a loff slot => some (⟨2, 20, a, 0⟩, .jl loff slot)
  | .bzJ a loff slot => some (⟨1, 20, a, 1⟩, .j loff slot)
  | .bzJL a loff slot => some (⟨2, 20, a, 1⟩, .jl loff slot)
  | .beqJ a b loff slot => some (⟨1, 21, a, b⟩, .j loff slot)
  | .beqJL a b loff slot => some (⟨2, 21, a, b⟩, .jl loff slot)
  | .bneJ a b loff slot => some (⟨1, 22, a, b⟩, .j loff slot)
  | .bneJL a b loff slot => some (⟨2, 22, a, b⟩, .jl loff slot)
  | .bltJ a b loff slot => some (⟨1, 23, a, b⟩, .j loff slot)
  | .bltJL a b loff slot => some (⟨2, 23, a, b⟩, .jl loff slot)
  | .bgeJ a b loff slot => some (⟨1, 24, a, b⟩, .j loff slot)
  | .bgeJL a b loff slot => some (⟨2, 24, a, b⟩, .jl loff slot)
  | .bltuJ a b loff slot => some (⟨1, 25, a, b⟩, .j loff slot)
  | .bltuJL a b loff slot => some (⟨2, 25, a, b⟩, .jl loff slot)
  | .bgeuJ a b loff slot => some (⟨1, 26, a, b⟩, .j loff slot)
  | .bgeuJL a b loff slot => some (⟨2, 26, a, b⟩, .jl loff slot)
  | .sleX a b c => some (⟨1, 27, a, b⟩, .x ⟨c, 0, false, false, false, false, 0, 0⟩)
  | .sleXI a b imm => some (⟨3, 27, a, b⟩, .xi ⟨0, 0, false, false, false, false, 0, 0⟩ ⟨0, false, 0, false, false, 0⟩ imm)
  | .sleuX a b c => some (⟨1, 27, a, b⟩, .x ⟨c, 0, false, false, false, false, 0, 1⟩)
  | .sleuXI a b imm => some (⟨3, 27, a, b⟩, .xi ⟨0, 0, false, false, false, false, 0, 1⟩ ⟨0, false, 0, false, false, 0⟩ imm)
  | .bext a b lsb width1 => some (⟨3, 28, a, b⟩, .xi ⟨0, 0, false, false, false, false, 0, 0⟩ ⟨0, false, 0, false, false, 0⟩ (bitfieldImm lsb width1))
  | .bins a b lsb width1 => some (⟨3, 28, a, b⟩, .xi ⟨0, 0, false, false, false, false, 0, 1⟩ ⟨0, false, 0, false, false, 0⟩ (bitfieldImm lsb width1))
  | .sel a b c e => some (⟨2, 28, a, b⟩, .xd ⟨c, 0, false, false, false, false, 0, 2⟩ ⟨e, false, 0, false, false, 0⟩)
  | .paddX a b c => some (⟨1, 29, a, b⟩, .x ⟨c, 0, false, false, false, false, 0, 0⟩)
  | .paddXI a b imm => some (⟨3, 29, a, b⟩, .xi ⟨0, 0, false, false, false, false, 0, 0⟩ ⟨0, false, 0, false, false, 0⟩ imm)
  | .psubX a b c => some (⟨1, 29, a, b⟩, .x ⟨c, 0, false, false, false, false, 0, 1⟩)
  | .psubXI a b imm => some (⟨3, 29, a, b⟩, .xi ⟨0, 0, false, false, false, false, 0, 1⟩ ⟨0, false, 0, false, false, 0⟩ imm)
  | .ptagX a b c => some (⟨1, 29, a, b⟩, .x ⟨c, 0, false, false, false, false, 0, 2⟩)
  | .ptagXI a b imm => some (⟨3, 29, a, b⟩, .xi ⟨0, 0, false, false, false, false, 0, 2⟩ ⟨0, false, 0, false, false, 0⟩ imm)
  | .loopGJ a loff slot => some (⟨1, 30, a, 0⟩, .j loff slot)
  | .loopGJL a loff slot => some (⟨2, 30, a, 0⟩, .jl loff slot)
  | .loopMbJ a loff slot => some (⟨1, 30, a, 1⟩, .j loff slot)
  | .loopMbJL a loff slot => some (⟨2, 30, a, 1⟩, .jl loff slot)
  | .ldx size a b c la => some (⟨2, 31, a, b⟩, .xd ⟨c, la, false, false, false, false, 0, size⟩ ⟨0, false, 0, false, false, 0⟩)
  | .stx size a b c la => some (⟨2, 31, a, b⟩, .xd ⟨c, la, false, false, false, false, 0, size⟩ ⟨0, false, 0, false, false, 1⟩)
  | .ldp a e b c la => some (⟨2, 31, a, b⟩, .xd ⟨c, la, false, false, false, false, 0, 3⟩ ⟨e, false, 0, false, false, 2⟩)
  | .stp a e b c la => some (⟨2, 31, a, b⟩, .xd ⟨c, la, false, false, false, false, 0, 3⟩ ⟨e, false, 0, false, false, 3⟩)
  | .ldxS size a b c la => some (⟨2, 31, a, b⟩, .xd ⟨c, la, false, false, false, false, 0, size⟩ ⟨0, false, 0, false, false, 4⟩)
  | .vadd fmt a b c m => some (⟨2, 32, a, b⟩, .xd ⟨c, 0, m.neg1, m.abs1, m.neg2, m.abs2, m.rm, 0⟩ ⟨0, m.clamp, m.scale, m.neg3, m.abs3, fmt⟩)
  | .vsub fmt a b c m => some (⟨2, 33, a, b⟩, .xd ⟨c, 0, m.neg1, m.abs1, m.neg2, m.abs2, m.rm, 0⟩ ⟨0, m.clamp, m.scale, m.neg3, m.abs3, fmt⟩)
  | .vmul fmt a b c m => some (⟨2, 34, a, b⟩, .xd ⟨c, 0, m.neg1, m.abs1, m.neg2, m.abs2, m.rm, 0⟩ ⟨0, m.clamp, m.scale, m.neg3, m.abs3, fmt⟩)
  | .vfma fmt a b c e m => some (⟨2, 35, a, b⟩, .xd ⟨c, 0, m.neg1, m.abs1, m.neg2, m.abs2, m.rm, 0⟩ ⟨e, m.clamp, m.scale, m.neg3, m.abs3, fmt⟩)
  | .vmin fmt a b c m => some (⟨2, 36, a, b⟩, .xd ⟨c, 0, m.neg1, m.abs1, m.neg2, m.abs2, m.rm, 0⟩ ⟨0, m.clamp, m.scale, m.neg3, m.abs3, fmt⟩)
  | .vmax fmt a b c m => some (⟨2, 36, a, b⟩, .xd ⟨c, 0, m.neg1, m.abs1, m.neg2, m.abs2, m.rm, 1⟩ ⟨0, m.clamp, m.scale, m.neg3, m.abs3, fmt⟩)
  | .vrnd fmt a b m => some (⟨2, 36, a, b⟩, .xd ⟨0, 0, m.neg1, m.abs1, m.neg2, m.abs2, m.rm, 2⟩ ⟨0, m.clamp, m.scale, m.neg3, m.abs3, fmt⟩)
  | .vdiv fmt a b c m la => some (⟨2, 37, a, b⟩, .xd ⟨c, la, m.neg1, m.abs1, m.neg2, m.abs2, m.rm, 0⟩ ⟨0, m.clamp, m.scale, m.neg3, m.abs3, fmt⟩)
  | .vsqrt fmt a b m la => some (⟨2, 37, a, b⟩, .xd ⟨0, la, m.neg1, m.abs1, m.neg2, m.abs2, m.rm, 1⟩ ⟨0, m.clamp, m.scale, m.neg3, m.abs3, fmt⟩)
  | .vcmp fmt a b c cond m => some (⟨2, 38, a, b⟩, .xd ⟨c, 0, m.neg1, m.abs1, m.neg2, m.abs2, m.rm, 0⟩ ⟨cond, m.clamp, m.scale, m.neg3, m.abs3, fmt⟩)
  | .vsel fmt a b c e m => some (⟨2, 38, a, b⟩, .xd ⟨c, 0, m.neg1, m.abs1, m.neg2, m.abs2, m.rm, 1⟩ ⟨e, m.clamp, m.scale, m.neg3, m.abs3, fmt⟩)
  | .vredadd fmt a b m => some (⟨2, 39, a, b⟩, .xd ⟨0, 0, m.neg1, m.abs1, m.neg2, m.abs2, m.rm, 0⟩ ⟨0, m.clamp, m.scale, m.neg3, m.abs3, fmt⟩)
  | .vredmax fmt a b m => some (⟨2, 39, a, b⟩, .xd ⟨0, 0, m.neg1, m.abs1, m.neg2, m.abs2, m.rm, 1⟩ ⟨0, m.clamp, m.scale, m.neg3, m.abs3, fmt⟩)
  | .vredmin fmt a b m => some (⟨2, 39, a, b⟩, .xd ⟨0, 0, m.neg1, m.abs1, m.neg2, m.abs2, m.rm, 2⟩ ⟨0, m.clamp, m.scale, m.neg3, m.abs3, fmt⟩)
  | .vcvt dst src a b m => some (⟨2, 40, a, b⟩, .xd ⟨0, 0, m.neg1, m.abs1, m.neg2, m.abs2, m.rm, 0⟩ ⟨src, m.clamp, m.scale, m.neg3, m.abs3, dst⟩)
  | .vqnt fmt a b c opts => some (⟨2, 40, a, b⟩, .xd ⟨c, 0, false, false, false, false, 0, 1⟩ ⟨opts, false, 0, false, false, fmt⟩)
  | .vdqnt fmt a b c opts m => some (⟨2, 40, a, b⟩, .xd ⟨c, 0, m.neg1, m.abs1, m.neg2, m.abs2, m.rm, 2⟩ ⟨opts, m.clamp, m.scale, m.neg3, m.abs3, fmt⟩)
  | .vand fmt a b c => some (⟨2, 41, a, b⟩, .xd ⟨c, 0, false, false, false, false, 0, 0⟩ ⟨0, false, 0, false, false, fmt⟩)
  | .vor fmt a b c => some (⟨2, 41, a, b⟩, .xd ⟨c, 0, false, false, false, false, 0, 1⟩ ⟨0, false, 0, false, false, fmt⟩)
  | .vxor fmt a b c => some (⟨2, 41, a, b⟩, .xd ⟨c, 0, false, false, false, false, 0, 2⟩ ⟨0, false, 0, false, false, fmt⟩)
  | .vshl fmt a b c => some (⟨2, 42, a, b⟩, .xd ⟨c, 0, false, false, false, false, 0, 0⟩ ⟨0, false, 0, false, false, fmt⟩)
  | .vshr fmt a b c => some (⟨2, 42, a, b⟩, .xd ⟨c, 0, false, false, false, false, 0, 1⟩ ⟨0, false, 0, false, false, fmt⟩)
  | .vperm fmt a b c m => some (⟨2, 42, a, b⟩, .xd ⟨c, 0, m.neg1, m.abs1, m.neg2, m.abs2, m.rm, 2⟩ ⟨0, m.clamp, m.scale, m.neg3, m.abs3, fmt⟩)
  | .vclr a => some (⟨2, 42, a, 0⟩, .xd ⟨0, 0, false, false, false, false, 0, 3⟩ ⟨0, false, 0, false, false, 0⟩)
  | .vmov fmt a b m => some (⟨2, 43, a, b⟩, .xd ⟨0, 0, m.neg1, m.abs1, m.neg2, m.abs2, m.rm, 0⟩ ⟨0, m.clamp, m.scale, m.neg3, m.abs3, fmt⟩)
  | .vbcast fmt a b => some (⟨2, 43, a, b⟩, .xd ⟨0, 0, false, false, false, false, 0, 1⟩ ⟨0, false, 0, false, false, fmt⟩)
  | .vins fmt a b word => some (⟨2, 43, a, b⟩, .xd ⟨0, 0, false, false, false, false, 0, 2⟩ ⟨word, false, 0, false, false, fmt⟩)
  | .vext fmt a b word => some (⟨2, 43, a, b⟩, .xd ⟨0, 0, false, false, false, false, 0, 3⟩ ⟨word, false, 0, false, false, fmt⟩)
  | .vldK a b la off => some (⟨1, 44, a, b⟩, .k la off)
  | .vldKL a b la off => some (⟨2, 44, a, b⟩, .kl la 0 off)
  | .vstK a b la off => some (⟨1, 45, a, b⟩, .k la off)
  | .vstKL a b la off => some (⟨2, 45, a, b⟩, .kl la 0 off)
  | .sbind fmt a b => some (⟨2, 46, a, b⟩, .xd ⟨0, 0, false, false, false, false, 0, 0⟩ ⟨0, false, 0, false, false, fmt⟩)
  | .sunbind a => some (⟨2, 46, a, 0⟩, .xd ⟨0, 0, false, false, false, false, 0, 1⟩ ⟨0, false, 0, false, false, 0⟩)
  | .sadv a b => some (⟨2, 46, a, b⟩, .xd ⟨0, 0, false, false, false, false, 0, 2⟩ ⟨0, false, 0, false, false, 0⟩)
  | .sstat a b => some (⟨2, 46, a, b⟩, .xd ⟨0, 0, false, false, false, false, 0, 3⟩ ⟨0, false, 0, false, false, 0⟩)
  | .lda size a b scope la => some (⟨2, 47, a, b⟩, .xd ⟨0, la, false, false, false, false, 0, size⟩ ⟨scope, false, 0, false, false, 0⟩)
  | .stl size a b scope la => some (⟨2, 47, a, b⟩, .xd ⟨0, la, false, false, false, false, 0, size⟩ ⟨scope, false, 0, false, false, 1⟩)
  | .amoAdd size a b c scope la => some (⟨2, 47, a, b⟩, .xd ⟨c, la, false, false, false, false, 0, size⟩ ⟨scope, false, 0, false, false, 2⟩)
  | .amoAnd size a b c scope la => some (⟨2, 47, a, b⟩, .xd ⟨c, la, false, false, false, false, 0, size⟩ ⟨scope, false, 0, false, false, 3⟩)
  | .amoOr size a b c scope la => some (⟨2, 47, a, b⟩, .xd ⟨c, la, false, false, false, false, 0, size⟩ ⟨scope, false, 0, false, false, 4⟩)
  | .amoXor size a b c scope la => some (⟨2, 47, a, b⟩, .xd ⟨c, la, false, false, false, false, 0, size⟩ ⟨scope, false, 0, false, false, 5⟩)
  | .amoMin size a b c scope la => some (⟨2, 47, a, b⟩, .xd ⟨c, la, false, false, false, false, 0, size⟩ ⟨scope, false, 0, false, false, 6⟩)
  | .amoMax size a b c scope la => some (⟨2, 47, a, b⟩, .xd ⟨c, la, false, false, false, false, 0, size⟩ ⟨scope, false, 0, false, false, 7⟩)
  | .amoSwap size a b c scope la => some (⟨2, 47, a, b⟩, .xd ⟨c, la, false, false, false, false, 0, size⟩ ⟨scope, false, 0, false, false, 8⟩)
  | .amoCas size a b c scope la => some (⟨2, 47, a, b⟩, .xd ⟨c, la, false, false, false, false, 0, size⟩ ⟨scope, false, 0, false, false, 9⟩)
  | .spalloc a b c => some (⟨2, 48, a, b⟩, .xd ⟨c, 0, false, false, false, false, 0, 0⟩ ⟨0, false, 0, false, false, 0⟩)
  | .spfree b => some (⟨2, 48, 0, b⟩, .xd ⟨0, 0, false, false, false, false, 0, 0⟩ ⟨0, false, 0, false, false, 1⟩)
  | .tlk a b => some (⟨2, 48, a, b⟩, .xd ⟨0, 0, false, false, false, false, 0, 0⟩ ⟨0, false, 0, false, false, 2⟩)
  | .tset b c => some (⟨2, 48, 0, b⟩, .xd ⟨c, 0, false, false, false, false, 0, 0⟩ ⟨0, false, 0, false, false, 3⟩)
  | .tclr b => some (⟨2, 48, 0, b⟩, .xd ⟨0, 0, false, false, false, false, 0, 0⟩ ⟨0, false, 0, false, false, 4⟩)
  | .dcinv b => some (⟨2, 48, 0, b⟩, .xd ⟨0, 0, false, false, false, false, 0, 0⟩ ⟨0, false, 0, false, false, 5⟩)
  | .dcwb b => some (⟨2, 48, 0, b⟩, .xd ⟨0, 0, false, false, false, false, 0, 0⟩ ⟨0, false, 0, false, false, 6⟩)
  | .pf b => some (⟨2, 48, 0, b⟩, .xd ⟨0, 0, false, false, false, false, 0, 0⟩ ⟨0, false, 0, false, false, 7⟩)
  | .lrwr b c => some (⟨2, 48, 0, b⟩, .xd ⟨c, 0, false, false, false, false, 0, 0⟩ ⟨0, false, 0, false, false, 8⟩)
  | .lrrd b c => some (⟨2, 48, 0, b⟩, .xd ⟨c, 0, false, false, false, false, 0, 0⟩ ⟨0, false, 0, false, false, 9⟩)
  | .rlq a b => some (⟨2, 48, a, b⟩, .xd ⟨0, 0, false, false, false, false, 0, 0⟩ ⟨0, false, 0, false, false, 10⟩)
  | .spq a => some (⟨2, 48, a, 0⟩, .xd ⟨0, 0, false, false, false, false, 0, 0⟩ ⟨0, false, 0, false, false, 11⟩)
  | .itld n b la => some (⟨2, 49, 0, b⟩, .xd ⟨0, la, false, false, false, false, 0, 0⟩ ⟨n, false, 0, false, false, 0⟩)
  | .iev fmt a b n m la => some (⟨2, 49, a, b⟩, .xd ⟨0, la, m.neg1, m.abs1, m.neg2, m.abs2, m.rm, fmt⟩ ⟨n, m.clamp, m.scale, m.neg3, m.abs3, 1⟩)
  | .iseg fmt a b n la => some (⟨2, 49, a, b⟩, .xd ⟨0, la, false, false, false, false, 0, fmt⟩ ⟨n, false, 0, false, false, 2⟩)
  | .itinv n la => some (⟨2, 49, 0, 0⟩, .xd ⟨0, la, false, false, false, false, 0, 0⟩ ⟨n, false, 0, false, false, 3⟩)
  | .itq a n la => some (⟨2, 49, a, 0⟩, .xd ⟨0, la, false, false, false, false, 0, 0⟩ ⟨n, false, 0, false, false, 4⟩)
  | .zpost a b la => some (⟨1, 50, a, b⟩, .x ⟨0, la, false, false, false, false, 0, 0⟩)
  | .bseal a => some (⟨1, 50, a, 0⟩, .x ⟨0, 0, false, false, false, false, 0, 1⟩)
  | .bwait b c => some (⟨1, 50, 0, b⟩, .x ⟨c, 0, false, false, false, false, 0, 2⟩)
  | .zstat a => some (⟨1, 50, a, 0⟩, .x ⟨0, 0, false, false, false, false, 0, 3⟩)
  | .zli a imm => some (⟨3, 51, a, 0⟩, .xi ⟨0, 0, false, false, false, false, 0, 0⟩ ⟨0, false, 0, false, false, 0⟩ imm)
  | .zmov a b => some (⟨2, 51, a, b⟩, .xd ⟨0, 0, false, false, false, false, 0, 0⟩ ⟨0, false, 0, false, false, 1⟩)
  | .zaddXD a b c => some (⟨2, 51, a, b⟩, .xd ⟨c, 0, false, false, false, false, 0, 0⟩ ⟨0, false, 0, false, false, 2⟩)
  | .zaddXI a b imm => some (⟨3, 51, a, b⟩, .xi ⟨0, 0, false, false, false, false, 0, 0⟩ ⟨0, false, 0, false, false, 2⟩ imm)
  | .zsubXD a b c => some (⟨2, 51, a, b⟩, .xd ⟨c, 0, false, false, false, false, 0, 0⟩ ⟨0, false, 0, false, false, 3⟩)
  | .zsubXI a b imm => some (⟨3, 51, a, b⟩, .xi ⟨0, 0, false, false, false, false, 0, 0⟩ ⟨0, false, 0, false, false, 3⟩ imm)
  | .zld a b c => some (⟨2, 51, a, b⟩, .xd ⟨c, 0, false, false, false, false, 0, 0⟩ ⟨0, false, 0, false, false, 4⟩)
  | .zst a b c => some (⟨2, 51, a, b⟩, .xd ⟨c, 0, false, false, false, false, 0, 0⟩ ⟨0, false, 0, false, false, 5⟩)
  | .zcopy a b c => some (⟨2, 51, a, b⟩, .xd ⟨c, 0, false, false, false, false, 0, 0⟩ ⟨0, false, 0, false, false, 6⟩)
  | .zstride b c => some (⟨2, 51, 0, b⟩, .xd ⟨c, 0, false, false, false, false, 0, 0⟩ ⟨0, false, 0, false, false, 7⟩)
  | .zdone b => some (⟨2, 51, 0, b⟩, .xd ⟨0, 0, false, false, false, false, 0, 0⟩ ⟨0, false, 0, false, false, 8⟩)
  | .zhalt => some (⟨2, 51, 0, 0⟩, .xd ⟨0, 0, false, false, false, false, 0, 0⟩ ⟨0, false, 0, false, false, 9⟩)
  | .zjmpJ loff slot => some (⟨1, 52, 0, 0⟩, .j loff slot)
  | .zjmpJL loff slot => some (⟨2, 52, 0, 0⟩, .jl loff slot)
  | .zbnzJ a loff slot => some (⟨1, 52, a, 1⟩, .j loff slot)
  | .zbnzJL a loff slot => some (⟨2, 52, a, 1⟩, .jl loff slot)
  | .mcfg imm la => some (⟨3, 53, 0, 0⟩, .xi ⟨0, la, false, false, false, false, 0, 0⟩ ⟨0, false, 0, false, false, 0⟩ imm)
  | .mzero a la => some (⟨2, 53, a, 0⟩, .xd ⟨0, la, false, false, false, false, 0, 0⟩ ⟨0, false, 0, false, false, 1⟩)
  | .mld a b la => some (⟨2, 53, a, b⟩, .xd ⟨0, la, false, false, false, false, 0, 0⟩ ⟨0, false, 0, false, false, 2⟩)
  | .mst fmt a b rm clamp la => some (⟨2, 53, a, b⟩, .xd ⟨0, la, false, false, false, false, rm, fmt⟩ ⟨0, clamp, 0, false, false, 3⟩)
  | .mmac a b c e la => some (⟨2, 53, a, b⟩, .xd ⟨c, la, false, false, false, false, 0, 0⟩ ⟨e, false, 0, false, false, 4⟩)
  | .mmacm a b c e la => some (⟨2, 53, a, b⟩, .xd ⟨c, la, false, false, false, false, 0, 0⟩ ⟨e, false, 0, false, false, 5⟩)
  | .mmacs a b c e la => some (⟨2, 53, a, b⟩, .xd ⟨c, la, false, false, false, false, 0, 0⟩ ⟨e, false, 0, false, false, 6⟩)
  | .mbin op a b c e la => some (⟨2, 53, a, b⟩, .xd ⟨c, la, false, false, false, false, 0, op⟩ ⟨e, false, 0, false, false, 7⟩)
  | .mres a la => some (⟨2, 53, a, 0⟩, .xd ⟨0, la, false, false, false, false, 0, 0⟩ ⟨0, false, 0, false, false, 8⟩)
  | .mwait a la => some (⟨2, 53, a, 0⟩, .xd ⟨0, la, false, false, false, false, 0, 0⟩ ⟨0, false, 0, false, false, 9⟩)
  | .mrdp a la => some (⟨2, 53, a, 0⟩, .xd ⟨0, la, false, false, false, false, 0, 0⟩ ⟨0, false, 0, false, false, 10⟩)
  | .mwrp b la => some (⟨2, 53, 0, b⟩, .xd ⟨0, la, false, false, false, false, 0, 0⟩ ⟨0, false, 0, false, false, 11⟩)
  | .mabort a la => some (⟨2, 53, a, 0⟩, .xd ⟨0, la, false, false, false, false, 0, 0⟩ ⟨0, false, 0, false, false, 12⟩)
  | .mstat a la => some (⟨2, 53, a, 0⟩, .xd ⟨0, la, false, false, false, false, 0, 0⟩ ⟨0, false, 0, false, false, 13⟩)
  | .msend a b c e => some (⟨2, 54, a, b⟩, .xd ⟨c, 0, false, false, false, false, 0, 0⟩ ⟨e, false, 0, false, false, 0⟩)
  | .msendr a b c e => some (⟨2, 54, a, b⟩, .xd ⟨c, 0, false, false, false, false, 0, 0⟩ ⟨e, false, 0, false, false, 1⟩)
  | .mcast a b c e => some (⟨2, 54, a, b⟩, .xd ⟨c, 0, false, false, false, false, 0, 0⟩ ⟨e, false, 0, false, false, 2⟩)
  | .mgset b c => some (⟨2, 54, 0, b⟩, .xd ⟨c, 0, false, false, false, false, 0, 0⟩ ⟨0, false, 0, false, false, 3⟩)
  | .mig b => some (⟨2, 54, 0, b⟩, .xd ⟨0, 0, false, false, false, false, 0, 0⟩ ⟨0, false, 0, false, false, 4⟩)
  | .mlat a => some (⟨2, 54, a, 0⟩, .xd ⟨0, 0, false, false, false, false, 0, 0⟩ ⟨0, false, 0, false, false, 5⟩)
  | .mprobe a b => some (⟨2, 54, a, b⟩, .xd ⟨0, 0, false, false, false, false, 0, 0⟩ ⟨0, false, 0, false, false, 6⟩)
  | .mbufq a => some (⟨2, 54, a, 0⟩, .xd ⟨0, 0, false, false, false, false, 0, 0⟩ ⟨0, false, 0, false, false, 7⟩)
  | .mdrain => some (⟨2, 54, 0, 0⟩, .xd ⟨0, 0, false, false, false, false, 0, 0⟩ ⟨0, false, 0, false, false, 8⟩)
  | .mpoll a => some (⟨2, 54, a, 0⟩, .xd ⟨0, 0, false, false, false, false, 0, 0⟩ ⟨0, false, 0, false, false, 9⟩)
  | .glaunch a b => some (⟨2, 55, a, b⟩, .xd ⟨0, 0, false, false, false, false, 0, 0⟩ ⟨0, false, 0, false, false, 0⟩)
  | .cwait a b level => some (⟨2, 55, a, b⟩, .xd ⟨0, 0, false, false, false, false, 0, 0⟩ ⟨level, false, 0, false, false, 1⟩)
  | .cancel a b level => some (⟨2, 55, a, b⟩, .xd ⟨0, 0, false, false, false, false, 0, 0⟩ ⟨level, false, 0, false, false, 2⟩)
  | .cread a b level => some (⟨2, 55, a, b⟩, .xd ⟨0, 0, false, false, false, false, 0, 0⟩ ⟨level, false, 0, false, false, 3⟩)
  | .dqpush b => some (⟨2, 55, 0, b⟩, .xd ⟨0, 0, false, false, false, false, 0, 0⟩ ⟨0, false, 0, false, false, 4⟩)
  | .dqpop a => some (⟨2, 55, a, 0⟩, .xd ⟨0, 0, false, false, false, false, 0, 0⟩ ⟨0, false, 0, false, false, 5⟩)
  | .dqsteal a => some (⟨2, 55, a, 0⟩, .xd ⟨0, 0, false, false, false, false, 0, 0⟩ ⟨0, false, 0, false, false, 6⟩)
  | .dqmask b => some (⟨2, 55, 0, b⟩, .xd ⟨0, 0, false, false, false, false, 0, 0⟩ ⟨0, false, 0, false, false, 7⟩)
  | .dqlen a => some (⟨2, 55, a, 0⟩, .xd ⟨0, 0, false, false, false, false, 0, 0⟩ ⟨0, false, 0, false, false, 8⟩)
  | .bgrd a => some (⟨2, 55, a, 0⟩, .xd ⟨0, 0, false, false, false, false, 0, 0⟩ ⟨0, false, 0, false, false, 9⟩)
  | .tsrd a => some (⟨2, 55, a, 0⟩, .xd ⟨0, 0, false, false, false, false, 0, 0⟩ ⟨0, false, 0, false, false, 10⟩)
  | .earlyok => some (⟨2, 55, 0, 0⟩, .xd ⟨0, 0, false, false, false, false, 0, 0⟩ ⟨0, false, 0, false, false, 11⟩)
  | .lstat a b => some (⟨2, 55, a, b⟩, .xd ⟨0, 0, false, false, false, false, 0, 0⟩ ⟨0, false, 0, false, false, 12⟩)
  | .cadd b c level => some (⟨2, 55, 0, b⟩, .xd ⟨c, 0, false, false, false, false, 0, 0⟩ ⟨level, false, 0, false, false, 13⟩)
  | .ftrack b => some (⟨2, 56, 0, b⟩, .xd ⟨0, 0, false, false, false, false, 0, 0⟩ ⟨0, false, 0, false, false, 0⟩)
  | .funtrack b => some (⟨2, 56, 0, b⟩, .xd ⟨0, 0, false, false, false, false, 0, 0⟩ ⟨0, false, 0, false, false, 1⟩)
  | .fopen a b c e => some (⟨2, 56, a, b⟩, .xd ⟨c, 0, false, false, false, false, 0, 0⟩ ⟨e, false, 0, false, false, 2⟩)
  | .fclose b => some (⟨2, 56, 0, b⟩, .xd ⟨0, 0, false, false, false, false, 0, 0⟩ ⟨0, false, 0, false, false, 3⟩)
  | .fstat a b => some (⟨2, 56, a, b⟩, .xd ⟨0, 0, false, false, false, false, 0, 0⟩ ⟨0, false, 0, false, false, 4⟩)
  | .falpha a b => some (⟨2, 56, a, b⟩, .xd ⟨0, 0, false, false, false, false, 0, 0⟩ ⟨0, false, 0, false, false, 5⟩)
  | .clrpost a b c => some (⟨2, 56, a, b⟩, .xd ⟨c, 0, false, false, false, false, 0, 0⟩ ⟨0, false, 0, false, false, 8⟩)
  | .clrrep a b => some (⟨2, 56, a, b⟩, .xd ⟨0, 0, false, false, false, false, 0, 0⟩ ⟨0, false, 0, false, false, 9⟩)
  | .drreq => some (⟨2, 56, 0, 0⟩, .xd ⟨0, 0, false, false, false, false, 0, 0⟩ ⟨0, false, 0, false, false, 10⟩)
  | .resq a b => some (⟨2, 56, a, b⟩, .xd ⟨0, 0, false, false, false, false, 0, 0⟩ ⟨0, false, 0, false, false, 11⟩)
  | .mfsr a n => some (⟨3, 57, a, 0⟩, .xi ⟨0, 0, false, false, false, false, 0, 0⟩ ⟨0, false, 0, false, false, 0⟩ (n.setWidth 32))
  | .mtsr a n => some (⟨3, 57, a, 0⟩, .xi ⟨0, 0, false, false, false, false, 0, 0⟩ ⟨0, false, 0, false, false, 1⟩ (n.setWidth 32))
  | .eret => some (⟨2, 57, 0, 0⟩, .xd ⟨0, 0, false, false, false, false, 0, 0⟩ ⟨0, false, 0, false, false, 2⟩)
  | .ptfence => some (⟨2, 57, 0, 0⟩, .xd ⟨0, 0, false, false, false, false, 0, 0⟩ ⟨0, false, 0, false, false, 3⟩)
  | .tlbinv b c => some (⟨2, 57, 0, b⟩, .xd ⟨c, 0, false, false, false, false, 0, 0⟩ ⟨0, false, 0, false, false, 4⟩)
  | .icinv b => some (⟨2, 57, 0, b⟩, .xd ⟨0, 0, false, false, false, false, 0, 0⟩ ⟨0, false, 0, false, false, 5⟩)
  | .splinter b c => some (⟨2, 57, 0, b⟩, .xd ⟨c, 0, false, false, false, false, 0, 0⟩ ⟨0, false, 0, false, false, 6⟩)
  | .rgset b => some (⟨2, 57, 0, b⟩, .xd ⟨0, 0, false, false, false, false, 0, 0⟩ ⟨0, false, 0, false, false, 7⟩)
  | .grant b c => some (⟨2, 57, 0, b⟩, .xd ⟨c, 0, false, false, false, false, 0, 0⟩ ⟨0, false, 0, false, false, 8⟩)
  | .revoke b => some (⟨2, 57, 0, b⟩, .xd ⟨0, 0, false, false, false, false, 0, 0⟩ ⟨0, false, 0, false, false, 9⟩)
  | .vfbind b c => some (⟨2, 57, 0, b⟩, .xd ⟨c, 0, false, false, false, false, 0, 0⟩ ⟨0, false, 0, false, false, 10⟩)
  | .dhalt b => some (⟨2, 57, 0, b⟩, .xd ⟨0, 0, false, false, false, false, 0, 0⟩ ⟨0, false, 0, false, false, 11⟩)
  | .dstep b => some (⟨2, 57, 0, b⟩, .xd ⟨0, 0, false, false, false, false, 0, 0⟩ ⟨0, false, 0, false, false, 12⟩)
  | .dresume b => some (⟨2, 57, 0, b⟩, .xd ⟨0, 0, false, false, false, false, 0, 0⟩ ⟨0, false, 0, false, false, 13⟩)
  | .wsw b => some (⟨2, 57, 0, b⟩, .xd ⟨0, 0, false, false, false, false, 0, 0⟩ ⟨0, false, 0, false, false, 16⟩)
  | .sealMem a b c => some (⟨2, 57, a, b⟩, .xd ⟨c, 0, false, false, false, false, 0, 0⟩ ⟨0, false, 0, false, false, 17⟩)
  | .unsealMem a b c => some (⟨2, 57, a, b⟩, .xd ⟨c, 0, false, false, false, false, 0, 0⟩ ⟨0, false, 0, false, false, 18⟩)
  | .evsign a b c => some (⟨2, 57, a, b⟩, .xd ⟨c, 0, false, false, false, false, 0, 0⟩ ⟨0, false, 0, false, false, 19⟩)
  | .codeLineFetch _ => none
  | .resume _ _ _ => none
  | .redirect _ _ _ => none
  | .discard _ _ _ => none
  | .halt _ _ _ => none
  | .present _ _ _ => none
  | .retry _ _ _ _ => none
  | .continue_ _ _ _ _ => none
  | .fail _ _ _ _ _ => none
  | .issueSlotTaken _ => none
  | .registerCacheFill _ _ _ => none
  | .extensionImageFill _ _ => none
  | .pauseExpiry _ _ => none
  | .budget _ _ => none
  | .activationByMessage _ => none
  | .activationByHandOff _ => none
  | .automaticSteal _ => none
  | .overflowReturn _ => none
  | .commit _ => none
  | .becomeSerialising _ => none
  | .readSetRegistration _ _ => none
  | .invalidation _ _ => none
  | .clusterWindowAccess _ => none
  | .edgeMemoryAccess _ => none
  | .pageWalk _ _ _ _ => none
  | .beatArrival _ _ _ => none
  | .tableLoadComplete _ _ _ => none
  | .refetch _ _ _ => none
  | .requestActivation _ _ => none
  | .requestDone _ _ => none
  | .zlimit _ _ => none
  | .kpost _ _ _ _ => none
  | .matrixOperationStart _ => none
  | .fold _ => none
  | .matrixOperationComplete _ => none
  | .injection _ => none
  | .hop _ => none
  | .relay _ => none
  | .handleCacheUpdate _ => none
  | .messageArrival _ => none
  | .migrationArrival _ => none
  | .ack _ => none
  | .nackBusy _ => none
  | .nackStale _ => none
  | .nackBadhandler _ => none
  | .nackRefused _ => none
  | .nackNopath _ => none
  | .backoffExpiry _ _ => none
  | .poisonTail _ => none
  | .launchPooled _ => none
  | .placement _ => none
  | .counterComplete _ _ => none
  | .deadline _ => none
  | .ceilometerCheck _ _ => none
  | .sensorReading _ _ => none
  | .rotation _ => none
  | .calmingEnd _ => none
  | .moveAbandoned _ => none
  | .drainingEnd _ => none
  | .copyingEnd _ => none
  | .switchingEnd _ => none
  | .stubRelease _ _ => none
  | .backstop _ => none
  | .eviction _ => none
  | .cleared _ => none
  | .restore _ _ => none
  | .blockRestored _ => none
  | .sliceEnd _ => none
  | .faultQueueAppend _ => none
  | .heldRecordDelivery _ => none
  | .qevent _ _ => none
  | .rsmcmd _ _ _ => none
  | .mext _ => none
  | .controlSpaceWrite _ _ _ _ => none
  | .regionRekey _ _ => none
  | .sweepComplete _ => none
  | .checkpoint _ _ => none
  | .checkpointComplete _ => none
  | .slotRestore _ _ => none
  | .restoreComplete _ => none
  | .erase _ _ => none
  | .cxlMemRead _ _ _ => none
  | .cxlMemWrite _ _ _ => none
  | .dbell _ _ => none
  | .apertureAccess _ _ _ _ => none
  | .collpost _ => none
  | .collectiveResult _ => none
  | .timeout _ => none
  | .linkdown _ => none
  | .getVersion _ => none
  | .getCapabilities _ => none
  | .negotiateAlgorithms _ => none
  | .getDigests _ => none
  | .getCertificate _ => none
  | .challenge _ _ => none
  | .getMeasurements _ => none
  | .doze => none
  | .run => none
  | .powerApplied => none
  | .selfCalibration _ => none
  | .selfTest _ => none
  | .routerTableWrite _ => none
  | .initialisation _ => none
  | .powerOff => none
  | .response _ => none
  | .tlbInvalidation _ => none
  | .powerGated _ => none

/-- The decoder of one instruction (R78): its head and its tail, as numbers. -/
def decodeInstr (head tail : Nat) : Except DecodeError Instr :=
  let h := unpackHead head
  match layoutOf h.major.val h.tlen with
  | none => .error (if 0x3A ≤ h.major.val then .unallocatedMajor else .tailLength)
  | some l =>
    match parse h (unpackTail tail l) with
    | none => .error .minor
    | some i =>
      if wf i then
        if encFields i = some (h, unpackTail tail l) then .ok i else .error .unusedField
      else .error .operand

/-- The head and tail words of an instruction; none for an engine step. -/
def encode (i : Instr) : Option (Nat × Nat) :=
  (encFields i).map fun p => (packHead p.1, packTail p.2)

/-! Code lines (R44-R46, R66). -/

/-- Half-word k of a code line (R44). -/
def halfWord (l : CodeLine) (k : Nat) : Nat := (l.getD k 0).toNat
/-- HEADS of the descriptor (Table 2.1). -/
def heads (l : CodeLine) : Nat := halfWord l 0 / 2 ^ 11
/-- TL of a tail-length code: half-words of tail (R45). -/
def tailUnits (code : Nat) : Nat := match code with | 0 => 0 | 1 => 1 | 2 => 2 | _ => 4
/-- TL of the head in slot i. -/
def slotTail (l : CodeLine) (i : Nat) : Nat := tailUnits (halfWord l i / 2 ^ 14)
/-- P(i): half-words of tail of heads 1 to i (R45). -/
def tailSum (l : CodeLine) : Nat → Nat
  | 0 => 0
  | i + 1 => tailSum l i + slotTail l (i + 1)
/-- The little-endian value of n half-words from half-word k (R8, R45). -/
def halfWords (l : CodeLine) (k : Nat) : Nat → Nat
  | 0 => 0
  | n + 1 => halfWord l k + 2 ^ 16 * halfWords l (k + 1) n
/-- The tail of the head in slot i, from half-word 32 - P(i) (R45). -/
def tailOf (l : CodeLine) (i : Nat) : Nat := halfWords l (32 - tailSum l i) (slotTail l i)
/-- Majors with J and JL tails (R87). -/
def jumpMajor (m : Nat) : Bool := m == 0x12 || (decide (0x14 ≤ m) && decide (m ≤ 0x1A)) || m == 0x1E || m == 0x34
/-- R66, case 5: a J or JL tail of slot i with LOFF = 0 whose SLOT is 0 or beyond the heads. -/
def badSelfTarget (l : CodeLine) (i : Nat) : Bool :=
  let h := unpackHead (halfWord l i)
  let t := tailOf l i
  jumpMajor h.major.val && (h.tlen.val == 1 || h.tlen.val == 2) && t / 32 == 0 && (t % 32 == 0 || decide (heads l < t % 32))
/-- The gap of a code line is half-words n + 1 to 31 - P(n), all zero (R46). -/
def gapClear (l : CodeLine) : Bool :=
  (List.range 32).all fun k => (decide (k ≤ heads l) || decide (31 - tailSum l (heads l) < k)) || halfWord l k == 0
/-- A code line that control may enter (R66). -/
def lineLegal (l : CodeLine) : Bool :=
  halfWord l 0 % 2 ^ 11 == 0 && heads l != 0 && decide (heads l + tailSum l (heads l) ≤ 31) && gapClear l &&
    (List.range (heads l)).all fun i => !badSelfTarget l (i + 1)
/-- The instruction in slot i of a legal code line, or why it is an illegal encoding (R45, R67). -/
def decodeSlot (l : CodeLine) (i : Nat) : Except DecodeError Instr := decodeInstr (halfWord l i) (tailOf l i)

/-- Half-word k of the code line whose slot 1 holds the given head and tail; the other slots that fit hold nop (R45, R46, R84). -/
def lineHalf (head tail k : Nat) : Half :=
  let tl := tailUnits (head / 2 ^ 14)
  BitVec.ofNat 16
    (if k = 0 then (31 - tl) * 2 ^ 11 else if k = 1 then head
     else if 32 - tl ≤ k then tail / 2 ^ (16 * (k - (32 - tl))) else 0)
/-- The code line of lineHalf. -/
def lineOf (head tail : Nat) : CodeLine := (List.range 32).map (lineHalf head tail)

/-- Head and tail of a word numbered as the opcode table numbers its rows: a 16-bit row is a head, a 32-bit row has the head in its
upper and the tail's first half-word in its lower half. -/
def tableParts (nbits w : Nat) : Nat × Nat := if nbits = 16 then (w % 2 ^ 16, 0) else (w / 2 ^ 16 % 2 ^ 16, w % 2 ^ 16)

/-- The instruction the decoder reads from a table word, laid out as a code line and read back from its slot 1. -/
def decodeTableWord (nbits w : Nat) : Option Instr :=
  let p := tableParts nbits w
  match decodeSlot (lineOf p.1 p.2) 1 with
  | .ok i => some i
  | .error _ => none

end

end Sys2Proof
end

