-- ==== Sys2Proof/Machine/Bits.lean ====
section
/-! DEFINITION. Bit fields, sign extension and byte order (R8, R12, Table 0.2). -/

namespace Sys2Proof.Machine

/-- Bits hi down to lo of a number. -/
def fieldN (n hi lo : Nat) : Nat := n / 2 ^ lo % 2 ^ (hi + 1 - lo)
/-- Bits hi down to lo of a double, as a number. -/
def fld (x : Word) (hi lo : Nat) : Nat := fieldN x.toNat hi lo
/-- Bit k of a double. -/
def bitOf (x : Word) (k : Nat) : Bool := x.getLsbD k
/-- One bit as a double. -/
def boolWord (b : Bool) : Word := if b then 1 else 0
/-- One bit as a number. -/
def boolNat (b : Bool) : Nat := if b then 1 else 0
/-- x with bits hi down to lo replaced by the low bits of v. -/
def setFld (x : Word) (hi lo v : Nat) : Word :=
  BitVec.ofNat 64 (x.toNat - fld x hi lo * 2 ^ lo + v % 2 ^ (hi + 1 - lo) * 2 ^ lo)
/-- x with bit k set to b. -/
def setBit (x : Word) (k : Nat) (b : Bool) : Word := setFld x k k (boolNat b)
/-- A number as a double, low 64 bits (R12). -/
def w64 (n : Nat) : Word := BitVec.ofNat 64 n
/-- An integer as a double, low 64 bits (R12). -/
def i64 (i : Int) : Word := BitVec.ofInt 64 i
/-- The low n bits of x as a two's-complement integer. -/
def sextN (x n : Nat) : Int := let v := x % 2 ^ n; if v < 2 ^ (n - 1) then (v : Int) else (v : Int) - 2 ^ n
/-- SAT of Table 0.2. -/
def sat (x lo hi : Int) : Int := if x < lo then lo else if hi < x then hi else x
/-- Round an address up to a multiple of k. -/
def roundUp (a k : Nat) : Nat := (a + k - 1) / k * k
/-- The least n with x at most 2^n, for x at least 1. -/
def ceilLog2 (x : Nat) : Nat := if x ≤ 1 then 0 else Nat.log2 (x - 1) + 1

/-- The little-endian value of bytes (R8). -/
def fromBytes : List Byte → Nat
  | [] => 0
  | b :: r => b.toNat + 256 * fromBytes r
/-- n bytes of a value, little-endian (R8). -/
def toBytes : Nat → Nat → List Byte
  | 0, _ => []
  | n + 1, v => BitVec.ofNat 8 v :: toBytes n (v / 256)
/-- Doubles laid out in order, little-endian. -/
def wordsBytes : List Word → List Byte
  | [] => []
  | w :: r => toBytes 8 w.toNat ++ wordsBytes r
/-- Byte k of a list, 0 beyond its end. -/
def byteAt (l : List Byte) (k : Nat) : Byte := l.getD k 0
/-- n bytes of a list from byte k as a little-endian value. -/
def leAt (l : List Byte) (k n : Nat) : Nat := fromBytes ((l.drop k).take n)

/-- The 54-bit address of a fat pointer (R116). -/
def addrOf (p : Word) : Nat := p.toNat % 2 ^ 54
/-- A PC-valued field: bits [63:54] read as zero (R135). -/
def pcField (p : Word) : Word := w64 (addrOf p)
/-- MPROG keeps VALID, OP, ACC and KDONE; its reserved bits read as zero (Table 10.6, R328). -/
def mprogMask (v : Word) : Word := v &&& 0x800000F30000FFFF
/-- STATUS without its reserved bits (Table 5.2). -/
def statusMask (v : Word) : Word := v &&& 0xFFF3
/-- TRCAUSE without its reserved bits (Table 5.5). -/
def causeMask (v : Word) : Word := v &&& 0x1FFFF
/-- The tag [63:54] of a fat pointer (R116). -/
def tagOf (p : Word) : Nat := p.toNat / 2 ^ 54
/-- FMT of a fat pointer (Table 4.8). -/
def ptrFmt (p : Word) : Nat := p.toNat / 2 ^ 58
/-- GLOG of a fat pointer (Table 4.8). -/
def ptrGlog (p : Word) : Nat := p.toNat / 2 ^ 54 % 16
/-- A well-formed fat pointer (R117). -/
def ptrOk (p : Word) : Bool :=
  if ptrFmt p == 10 || ptrFmt p == 11 then decide (5 ≤ ptrGlog p) && decide (ptrGlog p ≤ 7)
  else decide (ptrFmt p ≤ 12) && ptrGlog p == 0
/-- CAT(g[63:54], address mod 2^54) (R119). -/
def withAddr (p : Word) (a : Int) : Word := w64 (tagOf p * 2 ^ 54 + (a % 2 ^ 54).toNat)

end Sys2Proof.Machine
end

