-- ==== Sys2Proof/Machine/Flags.lean ====
section
/-! DEFINITION. The flags of FPSTAT (Table 4.5, R108) and QFLAGS (Table 4.12, R129), as masks of a double. -/

namespace Sys2Proof.Machine

/-- INEXACT [0]. -/
def fpInexact : Word := 1
/-- UNDERFLOW [1]. -/
def fpUnderflow : Word := 2
/-- OVERFLOW [2]. -/
def fpOverflow : Word := 4
/-- DIVZERO [3]. -/
def fpDivzero : Word := 8
/-- INVALID [4]. -/
def fpInvalid : Word := 16
/-- FLUSH [5]. -/
def fpFlush : Word := 32
/-- POISON [0]. -/
def qfPoison : Word := 1
/-- ZERO [1]. -/
def qfZero : Word := 2
/-- SAT [2]. -/
def qfSat : Word := 4
/-- DESC [3]. -/
def qfDesc : Word := 8
/-- A flag raised when b holds. -/
def flagIf (b : Bool) (f : Word) : Word := if b then f else 0
/-- The writable flags of FPSTAT (W1C, Table 4.5). -/
def fpstatMask : Word := 0x3F
/-- The writable flags of QFLAGS (W1C, Table 4.12). -/
def qflagsMask : Word := 0xF
/-- A W1C write: every 1 clears its bit of the mask (Table 0.3). -/
def w1c (old v mask : Word) : Word := old &&& ~~~(v &&& mask)

end Sys2Proof.Machine
end

