-- ==== Sys2Proof/Config.lean ====
section
/-! DEFINITION. What the spec leaves open, as constants without a body: nothing can be proved of their values. -/

namespace Sys2Proof.Config

/-- A free value drawn by the counter State.freeCtr (log entry 4). -/
opaque freeWord : Nat → Word
/-- The 14 check bits of a line over its 16 stored bytes and its side bits [17:0] (Table 6.2); the spec states no code (log entry 6). -/
opaque eccCode (line : List Byte) (side : Nat) : Nat

/-- The SECDED check bits of a flit over its VC, lane, kind and 64 bytes (R338); the spec states no code (log entry 6). -/
opaque secded (vc : Nat) (detour : Bool) (kind : Nat) (bytes : List Byte) : Nat

/-- Digests and identities fixed when a part is made (Table 16.3): the boot ROM's measurement, the firmware's by the security version of the
image, the device identity (log entry 10). -/
opaque romDigest : List Byte
/-- The firmware measurement MFW. -/
opaque firmwareDigest : List Byte
/-- The device identity DEVID. -/
opaque deviceId : Nat
/-- A byte of another module's memory, by the module, its physical address and the cycle of the read (log entry 11). -/
opaque remoteByte (module addr cycle : Nat) : Byte
/-- Has a byte of another module that this one has written kept that value (log entry 11). -/
opaque remoteKept (module addr cycle : Nat) : Bool
/-- Does the hub of another module accept an access: a data page exported to this module (R535; log entry 11). -/
opaque remoteAccepts (module addr : Nat) (write : Bool) (cycle : Nat) : Bool
/-- Addresses the island kernel assigns when it places a block (R141, R230, R304): the context image of a thread, its vector image, its matrix
image (log entry 12). -/
opaque imageAddr (handle tid : Nat) : Nat
/-- The vector extension image. -/
opaque vectorImageAddr (handle tid : Nat) : Nat
/-- The matrix extension image. -/
opaque matrixImageAddr (handle tid : Nat) : Nat
/-- The supervisor core that the island kernel names for a block (Table 12.4). -/
opaque supervisorCore (handle : Nat) : Nat
/-- One less than the completion counters of launches that an island can hold (Table 12.2 order 8; no size is stated; log entry 18). -/
opaque counterTableSize : Nat
/-- The device root key DRK in fuses, 32 bytes (R503; log entry 10). -/
opaque deviceRootKey : List Byte
/-- The eviction area that the island kernel assigns to a block: an edge-window address of its tenant (R449; log entry 12). -/
opaque evictionArea (handle : Nat) : Nat
/-- The plaintext bytes of an evicted block's state, by its handle and the free-value counter: the spec states no layout (R449; log entry 21). -/
opaque blockState (handle n : Nat) : List Byte
/-- The random numbers that signatures take, by the free-value counter and a number in it (R514; log entry 22). -/
opaque sm2Nonce (n i : Nat) : Nat
/-- The Laori provisioning certificate of DAK (R513; log entry 22). -/
opaque provisioning : List Byte
/-- The certificate of a function's key without its signature: function and public key (R513; log entry 22). -/
opaque certificateBody (fn : Nat) (key : List Byte) : List Byte
/-- The digest of the debug authority's public key in fuses (R510; log entry 22). -/
opaque debugAuthority : List Byte
/-- The bytes of the retirement record: of each field its number, bad rows, absent tiles and absent clusters, and the retired sites (R511; the spec
states no layout; log entry 10). -/
opaque retireRecord (fields : List (Nat × List Nat × List Nat × List Nat)) (sites : List (Nat × Nat × Nat)) : List Byte
/-- The SM4 key and the MAC key that CKEY gives, and the counter of unit j of a contribution (R515; neither is stated; log entry 23). -/
opaque collectiveKey (ckey : List Byte) : Nat
/-- The key of a contribution's tag. -/
opaque collectiveMac (ckey : List Byte) : List Byte
/-- The counter block of unit j of a module's contribution. -/
opaque collectiveCounter (module tag kgen j : Nat) : Nat
/-- The cycle of the first contribution of another module under a tag (R536; log entry 23). -/
opaque firstPost (tag n : Nat) : Nat
/-- The bytes that MVF digests: function, binding, region rectangle, rights; the spec states no layout (Table 16.4; log entry 22). -/
opaque functionConfig (fn tenant rect rights : Nat) : List Byte
/-- An SPDM answer's bytes beside what the spec fixes: function, request, free-value counter (R513; log entry 22). -/
opaque spdmAnswer (fn request n : Nat) : List Byte
/-- Byte of another module's contribution to a collective: module, tag, byte, free-value counter (R536; log entry 23). -/
opaque contribution (module tag byte n : Nat) : Byte

end Sys2Proof.Config
end

