-- ==== Sys2Proof/Machine/State.lean ====
section
/-! DEFINITION. The state of the part as plain data. Sparse parts are association lists whose unlisted keys hold the reset value; a
field's docstring names the rule of spec/ that gives it. Fields marked MODEL are the model's own (log entries 2 to 4). -/

namespace Sys2Proof.Machine

/-- An association list; a key not listed holds the default its reader names. -/
abbrev Map (κ α : Type) := List (κ × α)

/-- Why a run stops. Every instruction of this part has an effect the spec gives, traps included, so nothing raises a fault. -/
inductive Fault where
  /-- Raised by no definition: kept so that the type says so by having no use. Safe. -/
  | none
deriving DecidableEq, Repr

/-- Why an instruction has no meaning. -/
inductive Refusal where
  /-- An arm of exec with no meaning yet, raised by Dispatch.lean alone. Safe: nothing can be proved of such an instruction. -/
  | notModelled (mnemonic : String)
deriving DecidableEq, Repr

/-! ## Names -/

/-- Where a byte lives (R173): offset of a block's scratchpad, a physical address outside the scratchpads, or a layout record of a cluster. -/
inductive Loc where
  | spad (handle off : Nat)
  | phys (pa : Nat)
  | record (cluster index : Nat)
deriving DecidableEq, Repr

/-- A part of an access inside one line: where it lies, its virtual address, its length, whether it is shared (buffered by Table 6.1) or on
a tile-private page, and the table its range locks are in (Table 6.14). -/
structure Place where
  loc : Loc
  va : Nat
  len : Nat
  shared : Bool
  tp : Bool := false
  edge : Bool := false
  lockTile : Nat
  lockHandle : Option Nat
  lockBase : Nat
deriving DecidableEq, Repr

/-- A register for the lookahead rule (R60); name n is an interpolation table name (R262). -/
inductive RegName where
  | g (n : Nat) | v (n : Nat) | s (n : Nat) | a (n : Nat) | cr (n : Nat) | name (n : Nat)
deriving DecidableEq, Repr

/-- The key a line is enciphered under (R185, R504, Table 16.1). -/
structure Key where
  world : Bool := false
  owner : Nat := 0
  sub : Nat := 0
  gen : Nat := 0
deriving DecidableEq, Repr

/-- Side bits of a line (Table 6.2), its poisoned mark and the error that its next read meets (0 none, 1 correctable, 2 not; R525), and the key it
was written under. -/
structure LineMeta where
  z : Bool := true
  ep : Bool := false
  ver : Nat := 0
  poisoned : Bool := false
  ecc : Nat := 0
  key : Key := {}
deriving DecidableEq, Repr

/-! ## Threads and cores -/

/-- An open lookahead window of a long-latency instruction (R60). -/
structure Window where
  pc : Word
  left : Nat
  writes : List RegName
  readsVec : List RegName
deriving DecidableEq, Repr

/-- The registers of a thread (the 32 doubles of the context image, Table 5.8) or of an island core (R468), and the open windows. -/
structure Regs where
  g : Vector Word 16 := Vector.replicate 16 0
  pc : Word := 0
  status : Word := 0
  fpstat : Word := 0
  qflags : Word := 0
  lcnt0 : Word := 0
  lcnt1 : Word := 0
  ltop0 : Word := 0
  ltop1 : Word := 0
  llast0 : Word := 0
  llast1 : Word := 0
  tvec : Word := 0
  trcause : Word := 0
  trpc : Word := 0
  traddr : Word := 0
  trinfo : Word := 0
  mprog : Word := 0
  windows : List Window := []
deriving DecidableEq, Repr

/-- A bound stream register (R229, Tables 7.6 to 7.8). -/
structure Stream where
  bound : Bool := false
  fmt : Nat := 0
  /-- The 32-byte pattern record as bound (Table 7.7). -/
  pattern : List Byte := []
  /-- Position in beats (R248). -/
  pos : Nat := 0
  ended : Bool := false
  total : Nat := 0
  /-- Beats prefetched ahead of pos, oldest first (R249); a faulted beat carries cause, engine, TRADDR and TRINFO. -/
  ahead : List (Vec × Option (Nat × Nat × Word × Word)) := []
  /-- The range-lock request number of the binding (R215). -/
  req : Nat := 0
deriving DecidableEq, Repr

/-- Vector registers and streams of a context (R229, R230). -/
structure VecState where
  v : Vector Vec 12 := Vector.replicate 12 0
  vlive : Nat := 0
  s : Vector Stream 4 := Vector.replicate 4 {}
deriving DecidableEq, Repr

/-- One accumulator (R302): 32 x 32 words of 32 bits, sparse, unlisted 0. -/
structure Acc where
  live : Bool := false
  /-- MODE: 0 None, 1 FP32, 2 INT32 (R302). -/
  mode : Nat := 0
  cells : Map Nat Nat := []
deriving DecidableEq, Repr

/-- Accumulators and MCFG of a context (R302, R308, Table 10.3). -/
structure MatState where
  a : Vector Acc 4 := Vector.replicate 4 {}
  mcfg : Nat := 0
deriving DecidableEq, Repr

/-- Context states (Table 5.10). -/
inductive CtxState where
  | free | dormant | queued | issuing | setAside | trapped | halted | held
deriving DecidableEq, Repr

/-- Why a context is Set aside (Table 5.9). -/
inductive AsideWhy where
  | none | sliceEnd | handover
deriving DecidableEq, Repr

/-- One of the 64 contexts of a tile (R147). -/
structure Ctx where
  state : CtxState := .free
  why : AsideWhy := .none
  regs : Regs := {}
  /-- Lines of the register cache that differ from the memory copy (R144). -/
  dirty : List Nat := []
  /-- IMGADDR (Table 5.4), and the addresses of the vector and matrix extension images (R230, R304). -/
  img : Nat := 0
  vimg : Nat := 0
  mimg : Nat := 0
  handle : Nat := 0
  /-- THREADID (Table 5.4). -/
  tid : Nat := 0
  slot : Option Nat := none
  task : Option Nat := none
  /-- Cycles a pause has left (R160). -/
  pause : Nat := 0
  /-- The cycle in which it became Queued (Table 5.10). -/
  queuedAt : Nat := 0
  /-- Marked by dhalt (R493). -/
  marked : Bool := false
  /-- It holds, or held, a migrated guest (R364). -/
  guest : Bool := false
  /-- An abort (false) or squash (true) recorded while Halted (R204, R423). -/
  deferred : Option Bool := none
  vec : VecState := {}
  mat : MatState := {}
  /-- The vector and matrix extension state is in the slot (R231, R305). -/
  extResident : Bool := true
  /-- MSTATE and MCFG are held, not to be filled (R306). -/
  matResident : Bool := true
  /-- The next extension fill reloads the checkpoint half (R231, R306). -/
  fromCkpt : Bool := false
  /-- BUDGETLEFT.REMAIN (Table 12.9). -/
  remain : Nat := 0
  /-- SEQ of the thread's sends, last round trip, dropped count (R353, R366). -/
  seq : Nat := 0
  dropped : Nat := 0
  latency : Word := 0
  /-- The thread's outstanding instruction waits on this request: a value the engines fill in (R63, R365). -/
  awaiting : Option Nat := none
  /-- What a glaunch that waits at its step 3 has read at its step 1: BUDGET is deferred meanwhile (R374). -/
  captured : List Byte := []
  /-- The descriptor of a zpost that waits at its step 5 or 6, for which a queue entry is reserved (R281). -/
  posting : List Byte := []
  /-- The unit that a cwait waits on, or level 5 with the result when its block has ended (R380). -/
  waitsOn : Option (Nat × Nat) := none
  /-- The window that the outstanding instruction opens when an engine completes it (R60, R63), and its successor, taken from its code line
  when it issued (R47). -/
  opens : Option Window := none
  succ : Option Word := none
  /-- The instruction of a single step has retired, and an operation of it has yet to complete (R65, R494). -/
  stepDone : Bool := false
  /-- The send-buffer entry that a send which waits at its step 6 has reserved (R353). -/
  sendSlot : Option Nat := none
  sendTo : List Nat := []
  /-- It has retired a calm and waits for the Drift move (R439, R460). -/
  calm : Bool := false
deriving DecidableEq, Repr

/-- An island core (R468, R469, R542) and its instruction cache. -/
structure Core where
  regs : Regs := {}
  cstatus : Word := 0
  epc : Word := 0
  ecause : Word := 0
  eaddr : Word := 0
  einfo : Word := 0
  sscr0 : Word := 0
  sscr1 : Word := 0
  msglaunch : Word := 0
  lgraph : Word := 0
  rsmtgt : Word := 0
  rsmreq : Word := 0
  idle : Bool := true
  stopped : Bool := false
  pause : Nat := 0
  /-- Code lines: tenant, virtual line, physical line (R49). -/
  icache : List (Nat × Nat × Nat × CodeLine) := []
  /-- Multicast groups 0 to 7: member handles in the wafer view (R356). -/
  groups : Map Nat (List Nat) := []
  seq : Nat := 0
  dropped : Nat := 0
  latency : Word := 0
  /-- A dstep under way (R494). -/
  waiting : Bool := false
  /-- Its dhalt, dstep or vfbind has issued and waits: it completes under the rights it had (R472). -/
  granted : Bool := false
  /-- As of a context (R380). -/
  waitsOn : Option (Nat × Nat) := none
  /-- Completion messages of its kernel postings: request id and status (R290; their form is log entry 44). -/
  kdone : List (Nat × Nat) := []
  /-- It waits for the response to an access that was lost with its head (R341). -/
  lost : Bool := false
deriving DecidableEq, Repr

/-! ## Tasks (R199-R207) -/

/-- A read-set entry (R201): the line (by its first byte), the version read, whether its home has acknowledged it, whether a value read
lacked a store already committed by a smaller timestamp of the launch (R190), and of each read its first byte in the line, its length and the
parked tasks whose stores of those bytes its value includes (R419). -/
structure ReadEntry where
  line : Loc
  ver : Nat
  acked : Bool := true
  missed : Bool := false
  parts : List (Nat × Nat × List Nat) := []
deriving DecidableEq, Repr

/-- A buffered layout-record write (R221). -/
structure RecWrite where
  cluster : Nat
  record : Nat
  image : List Byte
deriving DecidableEq, Repr

/-- Where a task stands: with its context; ended and not yet committed (R396); waiting as a restart entry (R399); committed with messages
outstanding (R389). A task that has left its launch is no longer listed. -/
inductive TaskPhase where
  | running | ended | requeued | committed
deriving DecidableEq, Repr

/-- The state a task starts from (Tables 5.11 and 12.7, R393). -/
structure Activation where
  pc : Word := 0
  g0 : Word := 0
  g1 : Word := 0
  g2 : Word := 0
deriving DecidableEq, Repr

/-- A task (R199). -/
structure Task where
  launch : Nat := 0
  stamp : Nat := 0
  handle : Nat := 0
  tile : Nat := 0
  ctx : Nat := 0
  phase : TaskPhase := .running
  serial : Bool := false
  /-- Waiting to become serialising (R206). -/
  wantsSerial : Bool := false
  act : Activation := {}
  /-- The deque entry it was activated from (R395). -/
  entry : Option Nat := none
  /-- Buffered bytes, latest first (R200). -/
  stores : List (Loc × Byte) := []
  /-- Tenant, virtual line and physical line of the buffered stores to edge memory (R210). -/
  xlats : List (Nat × Nat × Nat) := []
  recs : List RecWrite := []
  reads : List ReadEntry := []
  /-- Private scratchpad lines written since the activation (R447). -/
  wrote : List Nat := []
  /-- Deque entries pushed in the interval (R392). -/
  pushes : List Nat := []
  /-- Taint sources (R418): instances, and tasks whose parked stores supplied it. -/
  taint : List Nat := []
  readFrom : List Nat := []
  parked : Bool := false
  /-- The restart point of the last committed interval, none while it is the activation (R205, R399). -/
  saved : Option Regs := none
  savedVec : VecState := {}
  savedMat : MatState := {}
  /-- The checkpoint half could not be written: the tile holds the copy (R142, R230). -/
  ckptHeld : Bool := false
  /-- OPEN, OPENCNT and the unreported failed requests with their status (R280, R283). -/
  zopen : Nat := 0
  zcount : Nat := 0
  zfailed : List (Nat × Nat) := []
  /-- The name of the payload allocation of its message (R358). -/
  payload : Option Nat := none
  /-- The block in which it was activated, once it has migrated: its table names are that block's (R257). -/
  home : Option Nat := none
deriving DecidableEq, Repr

/-! ## Tiles -/

/-- A scratchpad allocation (R177-R179). -/
structure Alloc where
  off : Nat
  size : Nat
  handle : Nat
  shared : Bool
  swz : Nat
  /-- Freed in an interval that has not ended (R180), that of task freer. -/
  dying : Bool := false
  freer : Option Nat := none
  /-- The task in whose interval, not yet ended, it was made (R182). -/
  made : Option Nat := none
  /-- MODEL: the name of the message whose payload it was made for (R358), 0 for none. -/
  msg : Nat := 0
deriving DecidableEq, Repr

/-- A data-cache block (R188): virtual block, tenant, world, physical block, its 64 bytes and the side bits of its four lines as they are in
the cache (R185), and the lines written since it was filled. -/
structure DBlock where
  vblock : Nat
  tenant : Nat
  world : Bool
  pblock : Nat
  bytes : List Byte
  sides : List LineMeta := []
  wrote : List Nat := []
  tp : Bool
  dirty : Bool
  /-- Launch and timestamp of commits that the copy of line k does not include (R190, R204). -/
  stale : List (Nat × Nat × Nat) := []
deriving DecidableEq, Repr

/-- A range-lock entry (R215): lines from base on, of a block's scratchpad or of the edge window as a tenant addresses it. -/
structure RangeLock where
  handle : Option Nat
  tenant : Nat := 0
  base : Nat
  lines : Nat
  dst : Bool
  engine : Nat
  /-- A range of physical scratchpad addresses: lines of the tile whatever block holds them (R277). -/
  spad : Bool := false
  /-- Owning operation: a number unique to it; and its task. -/
  req : Nat
  task : Option Nat := none
deriving DecidableEq, Repr

/-- A tag-table slot (R183). -/
structure TagSlot where
  key : Nat
  handle : Nat
deriving DecidableEq, Repr

/-- An iev with its modifiers, or an iseg: its format, destination and source (R259, R260). -/
structure TableUse where
  fmt : Fin 4
  a : Reg
  b : Reg
  mods : Option FMods
deriving DecidableEq, Repr

/-- A table buffer (R255-R258): the block whose name it is for, whether a load fills it, what it holds of the image, its source and request. -/
structure IBuffer where
  handle : Nat
  name : Nat
  loading : Bool
  image : List Byte
  addr : Word
  req : Nat
  task : Option Nat := none
  /-- A refetch (R256), the context whose instruction loads, and the iev or iseg that a refetch serves. -/
  refetch : Bool := false
  ctx : Option Nat := none
  op : Option TableUse := none
  /-- The image has been read whole; and the thread whose itld this is has since gone on to issue (R263 steps 7 and 8, R270). -/
  whole : Bool := false
  tried : Bool := false
deriving DecidableEq, Repr

/-- State of a Zephyr request (Table 9.1); a Done request has left the queue (R273). -/
inductive ZState where
  | queued | active | faulted | draining
deriving DecidableEq, Repr

/-- A Zephyr request (R272-R293). -/
structure ZReq where
  /-- MODEL: its name in the model, unlike every other's. -/
  uid : Nat := 0
  handle : Nat := 0
  task : Option Nat := none
  tenant : Nat := 0
  world : Bool := false
  /-- REQID (R281). -/
  id : Nat := 0
  state : ZState := .queued
  desc : List Byte := []
  z : Vector Word 8 := Vector.replicate 8 0
  pc : Word := 0
  zrows : Nat := 1
  sstride : Int := 0
  dstride : Int := 0
  isProgram : Bool := false
  phys : Bool := false
  fseq : Nat := 0
  rf : Nat := 0
  /-- Address of the last copy fault's page fault, and the size of its translation page (R293). -/
  faultPage : Option (Nat × Nat) := none
  /-- Cause of the last copy fault. -/
  faultCode : Nat := 0
  /-- The successor that a zhalt took from its code line when it issued (R47, Table 9.9). -/
  succ : Option Word := none
  /-- Has it ever been Active (R275). -/
  started : Bool := false
  /-- Cycles it has been Active, and since when it is (R288). -/
  activeFor : Nat := 0
  since : Nat := 0
  /-- The next row of a direct copy or of the zcopy at its PC. -/
  row : Nat := 0
  /-- Status of its zdone. -/
  status : Nat := 0
  zc : Option Nat := none
  /-- The island core that posted it through KPOST (R290). -/
  poster : Option (Nat × Nat) := none
  /-- Its program waits for the response to an access that was lost with its head (R341). -/
  lost : Bool := false
  /-- Its thread has gone on to issue after the zpost (R294). -/
  tried : Bool := false
deriving DecidableEq, Repr

/-- A queued or running matrix operation (R311, R312): XM of its instruction and what it captured at issue. -/
structure MatOp where
  ctx : Nat
  task : Option Nat
  req : Nat
  xm : Nat
  acc : Nat
  /-- Operand pointers; of mmacs the stream numbers. -/
  aPtr : Word := 0
  bPtr : Word := 0
  /-- Operand FMT and GLOG (R297), rows, columns, row stride. -/
  aFmt : Nat := 0
  bFmt : Nat := 0
  glog : Nat := 0
  m : Nat := 1
  n : Nat := 1
  lds : Nat := 0
  /-- K, the K index of the next step, STEPK. -/
  k : Nat := 0
  kdone : Nat := 0
  stepk : Nat := 1
  mx : Nat := 0
  rm : Fin 4 := 0
  clamp : Bool := false
  begun : Bool := false
  /-- Its instruction has passed its last fault point and retired (R312, R322 to R325). -/
  retired : Bool := false
  /-- Its work is done and MATRIX_OPERATION_COMPLETE is due. -/
  finished : Bool := false
  /-- Its claim met an image that cannot be translated after its instruction had retired. -/
  stuck : Bool := false
  /-- The places of the rows of mld and mst, as its checks found them (R323, R324). -/
  rows : List (List Place) := []
  /-- The K index of the next step to fetch, and the parts of A and B fetched and not yet folded (R312). -/
  kfetch : Nat := 0
  parts : List (List Byte × List Byte) := []
  /-- Flags of its folds or of its rounding, not yet entered (R110). -/
  fp : Word := 0
  qf : Word := 0
deriving DecidableEq, Repr

/-- Send-buffer entry states (Table 11.5). -/
inductive SendState where
  | ready | inFlight | backoff
deriving DecidableEq, Repr

/-- A send-buffer entry (R351): what its heads hold (Table 11.2), the payload, and who has yet to acknowledge. -/
structure SendEntry where
  state : SendState := .ready
  /-- Order in which the entries of a site were reserved. -/
  order : Nat := 0
  /-- KIND: 0 message, 1 migration, 2 multicast copy. -/
  kind : Nat := 0
  /-- SHANDLE: the sender handle in the wafer view and THREADID. -/
  src : Nat := 0
  /-- Destinations still to be sent to, and those whose answer is awaited. -/
  pend : List Nat := []
  out : List Nat := []
  handler : Word := 0
  /-- The ciphertext of its payload flits, or of a migration's (R360), and the tenant and world of the key. -/
  payload : List Byte := []
  owner : Nat := 0
  world : Bool := false
  seq : Nat := 0
  stamp : Nat := 0
  launch : Nat := 0
  task : Option Nat := none
  /-- Context or core of the sender. -/
  ctx : Nat := 0
  /-- BUSY refusals met, and the cycle at which the backoff expires. -/
  tries : Nat := 0
  wakeAt : Nat := 0
  sentAt : Nat := 0
  /-- STENANT (R350), and whether a core sends. -/
  region : Nat := 0
  core : Bool := false
  /-- A core's message sent before its last change of tenant is not counted (R356). -/
  counted : Bool := true
  /-- The remaining budget of a migration (R363), and the pointer that its trap names when it returns (R364). -/
  remain : Nat := 0
  back : Word := 0
  /-- The lookahead windows that a migrating thread has open (R60). -/
  windows : List Window := []
deriving DecidableEq, Repr

/-- An inbox entry (R357): an accepted message that awaits its activation, with the name of its payload allocation; no stamp when it came from
outside its launch (R388). -/
structure InboxEntry where
  handle : Nat
  launch : Nat
  stamp : Option Nat
  act : Activation
  payload : Option Nat
deriving DecidableEq, Repr

/-- A deque entry (R388, R391): handler, argument, pusher; a restart entry names its task (R399). -/
structure DequeEntry where
  id : Nat
  handle : Nat
  launch : Nat
  stamp : Nat
  pc : Word := 0
  arg : Word := 0
  pusher : Nat := 0
  byTask : Option Nat := none
  tainted : Bool := false
  restart : Option Nat := none
deriving DecidableEq, Repr

/-- A tile (R16, R174, R183, R188, R215, R255, R272, R311, R351, R391). -/
structure Tile where
  allocs : List Alloc := []
  tags : Map Nat TagSlot := []
  dcache : List DBlock := []
  locks : List RangeLock := []
  /-- Code lines: tenant, virtual line, physical line (R49). -/
  icache : List (Nat × Nat × Nat × CodeLine) := []
  /-- Register-cache lines (context, image line), most recently used first (R144). -/
  rclru : List (Nat × Nat) := []
  /-- The slot that issued last, and the slots that have waited since (R149). -/
  lastSlot : Nat := 7
  passed : List Nat := []
  ibufs : List IBuffer := []
  zreqs : List ZReq := []
  /-- The request context that issued last (R274). -/
  lastZc : Nat := 3
  matq : List MatOp := []
  /-- Physical accumulators (context, accumulator, dirty), most recently used first (R305). -/
  physAcc : List (Nat × Nat × Bool) := []
  sends : Map Nat SendEntry := []
  inbox : List InboxEntry := []
  hcache : Map Nat Nat := []
  deque : List DequeEntry := []
  /-- Last sensor reading in units of 0.25 °C, and whether a thermal request awaits a reading below DTEMP - 5 (R435, R438). -/
  temp : Nat := 0
  thermal : Bool := false
  /-- The current slice: its SLTAB entry, the cycles counted, the cycle at which its tenant last had an Eligible context, and the cycle of the
  slice end while the change is being measured (R456, R457). -/
  sliceCur : Nat := 0
  sliceCount : Nat := 0
  sliceSeen : Nat := 0
  sliceFrom : Option Nat := none
  gated : Bool := false
deriving DecidableEq, Repr

/-! ## Blocks, launches, counters -/

/-- The state of a block that Clearance has sealed out, as Table 14.3 lists it (R449): lines of its scratchpad by number, with their side bits
and stored bytes. -/
structure Frozen where
  ctxs : List (Nat × Ctx) := []
  allocs : List Alloc := []
  lines : List (Nat × LineMeta × List Byte) := []
  tags : List (Nat × TagSlot) := []
  locks : List RangeLock := []
  zreqs : List ZReq := []
  /-- Physical accumulators that could not be written back (R142). -/
  accs : List (Nat × Nat × Bool) := []
  sends : List (Nat × SendEntry) := []
  inbox : List InboxEntry := []
  deque : List DequeEntry := []
deriving DecidableEq, Repr

/-- A placed block (R17, R32, R377). -/
structure Block where
  live : Bool := true
  evicted : Bool := false
  tile : Nat
  launch : Nat
  tenant : Nat
  /-- The tile index at which the launch placed it: SLOT of a route word (R348). -/
  index : Nat := 0
  quota : Nat := 4096
  threads : Nat := 1
  mailbox : Vector Word 8 := Vector.replicate 8 0
  mswz : Nat := 6
  stealMask : Nat := 0
  /-- The cycle from which it may steal automatically again (R394). -/
  stealAt : Nat := 0
  early : Bool := false
  groups : Map Nat (List Nat) := []
  supervisor : Nat := 0
  moves : Nat := 0
  /-- G of epochs 0 and 1 of its scratchpad key (R504). -/
  gens : Nat × Nat := (0, 1)
  /-- Loaded table names: source pointer and bits [63:0] of the validated header (R255, Table 8.4). -/
  itabs : Map Nat (Nat × Nat) := []
  /-- What its eviction sealed out, and the object written to the eviction area (R449, R506). -/
  frozen : Option Frozen := none
  sealed_ : List Byte := []
  /-- Its eviction area, which the island kernel assigned at placement (R449). -/
  area : Nat := 0
deriving DecidableEq, Repr

/-- Launch states (R376). -/
inductive LaunchState where
  | held | pooled | running | complete | cancelled
deriving DecidableEq, Repr

/-- A launch (R372-R379). -/
structure Launch where
  tenant : Nat
  island : Nat := 0
  desc : List Byte := []
  state : LaunchState := .pooled
  /-- The graph it belongs to (R375). -/
  graph : Nat := 0
  /-- The island whose pool it enters, if not the one that holds its counter: that of its region (R385). -/
  pool : Option Nat := none
  /-- The tile set: wafer rectangle, kind W, and the outlier part's second set (R373, R387). -/
  rect : Nat := 0
  wide : Bool := false
  split : Bool := false
  /-- Mailbox images read at the launch (R374). -/
  mbImage : List Byte := []
  outImage : List Byte := []
  /-- Handle of the launching block, 0 for a core or the host (Table 12.7). -/
  launcher : Nat := 0
  blocks : List Nat := []
  /-- Blocks cancelled alone: their counters stay readable until the launch ends (R378). -/
  dead : List Nat := []
  /-- Blocks placed and blocks that carry the early mark (Table 12.11). -/
  placed : Nat := 0
  marked : Nat := 0
  refs : Int := 0
  /-- Its count has been above 0 (R378). -/
  raised : Bool := false
  frontier : Nat := 0
  passed : Nat := 0
  /-- Placed before its PRED completed (Table 12.11). -/
  early : Bool := false
  deadlineHit : Bool := false
  /-- Order of acceptance (R385). -/
  order : Nat := 0
deriving DecidableEq, Repr

/-- States of a graph, phase or job counter (R378). -/
inductive UnitState where
  | running | complete | cancelled
deriving DecidableEq, Repr

/-- A completion counter of graph, phase or job level (R378, R382); of a job also its registered handler tables (R357). -/
structure Counter where
  tenant : Nat := 0
  refs : Int := 0
  raised : Bool := false
  state : UnitState := .running
  parent : Nat := 0
  handlers : List Nat := []
deriving DecidableEq, Repr

/-! ## Clusters -/

/-- Forecast state of a tracked record (Table 13.1). -/
structure Forecast where
  p1 : Option (List Byte) := none
  p2 : Option (List Byte) := none
  h : Nat := 0
  alpha : Nat := 2
  run : Nat := 0
  hits : Nat := 0
  misses : Nat := 0
  inst : Option Nat := none
deriving DecidableEq, Repr

/-- A forecast instance (R411-R418): record and version, the record image that gives the forecast its shape, the forecast's bytes over its
extent, the captured tolerance record; and the record as the commit left it that the instance is to be checked against (R408, R422). -/
structure FInstance where
  cluster : Nat
  record : Nat
  version : Nat
  shape : List Byte
  forecast : List Byte
  tolerance : List Byte
  committed : Option (List Byte) := none
deriving DecidableEq, Repr

/-- Phases of a Drift move (R440). -/
inductive DriftPhase where
  | idle | calming | draining | copying | switching
deriving DecidableEq, Repr

/-- A cluster TLB entry (R480). -/
structure TlbEntry where
  page : Nat
  size : Nat
  tenant : Nat
  world : Bool
  out : Nat
  r : Bool
  w : Bool
  x : Bool
  tp : Bool
  kind : Nat
  pas : Nat := 0
deriving DecidableEq, Repr

/-- A grant slot (R488). -/
structure Grant where
  rect : Nat
  vc0 : Bool
  vc2 : Bool
deriving DecidableEq, Repr

/-- A cluster (R220, R407, R436, R440, R480). -/
structure Cluster where
  records : Map Nat (List Byte) := []
  forecasts : Map Nat Forecast := []
  drctl : Word := 0x07D05F0A00640003
  drstat : Word := 0
  clrcfg : Word := 0x0000EA6017701000
  sltab : Vector Word 8 := Vector.replicate 8 0
  slstat : Word := 8192
  restore : Word := 0
  tlb : List TlbEntry := []
  drift : DriftPhase := .idle
  driftS : Nat := 0
  driftT : Nat := 0
  driftSince : Nat := 0
  /-- The cycle of the last rotation (R438). -/
  rotatedAt : Nat := 0
  /-- Its placement counter (R504). -/
  placement : Nat := 0
deriving DecidableEq, Repr

/-- What Clearance decides for a task (R447), or that it had ended. -/
inductive Choice where
  | run | checkpoint | discard | runLate | ended
deriving DecidableEq, Repr
/-- A decision (R447, Table 14.7). -/
structure Decision where
  task : Nat
  handle : Nat
  stamp : Nat
  thread : Nat
  choice : Choice
  dirty : Nat
  remain : Nat
deriving DecidableEq, Repr
/-- A Clearance posting (R445-R451): the posting core and its tenant, the wafer rectangle, the deadline and the backstop, the report buffer,
the blocks of the region with their launches, the decisions, the blocks whose record has been written. -/
structure Clearance where
  tenant : Nat
  core : Nat × Nat := (0, 0)
  phys : Bool := false
  rect : Nat
  deadline : Nat
  backstop : Nat
  report : Nat
  tag : Nat
  blocks : List (Nat × Nat) := []
  decisions : List Decision := []
  written : List Nat := []
  done : Bool := false
  /-- Order of acceptance at its island. -/
  order : Nat := 0
deriving DecidableEq, Repr

/-! ## Islands -/

/-- A fault-queue record on its way to a tenant (R483, R484, Table 15.11). -/
structure FaultRecord where
  tenant : Nat
  kind : Nat
  work : Nat
  body : List Byte
  prefer : Option Nat := none
deriving DecidableEq, Repr

/-- An island (R471, R484, R485, R480, R391). -/
structure Island where
  records : Map Nat (List Byte) := []
  inFlight : List FaultRecord := []
  held : List FaultRecord := []
  /-- Tenants of whom a SCHED event has been sent, and tenants with QEVENT pending with the core that the last record prefers (R485). -/
  sched : List Nat := []
  pending : Map Nat (Option Nat) := []
  sends : Map Nat SendEntry := []
  overflow : List DequeEntry := []
  /-- Last-level TLB: partition, gigabyte, leaf entry (R480). -/
  lltlb : List (Nat × Nat × Nat) := []
  /-- The shared cache: world and physical block of each block it holds (R27, R502). -/
  scache : List (Bool × Nat) := []
  nextSerial : Nat := 0
deriving DecidableEq, Repr

/-! ## Fabric, edge, trust -/

/-- What a packet is (Table 11.1, R359). -/
inductive PacketKind where
  | head | ack | nackBusy | nackStale | nackBadHandler | nackRefused | nackNoPath | update | request | response
deriving DecidableEq, Repr

/-- A packet on the fabric (R335-R338, Table 11.2). -/
structure Packet where
  id : Nat
  kind : PacketKind := .head
  vc : Nat := 2
  /-- The router it is at, the port it came in by (0 north, 1 east, 2 south, 3 west, 4 local), and where it goes. -/
  at_ : Nat := 0
  port : Nat := 4
  dst : Nat := 0
  /-- On the detour lane, with the legs left (index, direction, hops), and whether it stops for relay after them (R344). -/
  detour : Bool := false
  legs : List (Nat × Nat × Nat) := []
  relay : Bool := false
  /-- KIND[7] and the relay position (R346). -/
  relayed : Bool := false
  relayPos : Nat := 0
  /-- The router one of whose relay buffers of its VC it holds (R346). -/
  inRelay : Option Nat := none
  hops : Nat := 0
  /-- DHANDLE and SHANDLE, the sending router, SEQ, STENANT, a core's head. -/
  dhandle : Nat := 0
  src : Nat := 0
  srcTile : Nat := 0
  seq : Nat := 0
  region : Nat := 0
  core : Bool := false
  /-- KIND[6:0] and the rest of a head, with the ciphertext of its payload (R360) and the tenant and world of its key. -/
  mkind : Nat := 0
  handler : Word := 0
  payload : List Byte := []
  owner : Nat := 0
  world : Bool := false
  stamp : Nat := 0
  launch : Nat := 0
  remain : Nat := 0
  windows : List Window := []
  /-- Its tail is a poison tail (R361). -/
  poison : Bool := false
  /-- Hops of the path that an acknowledgement answers, or the position that an update reports; the destination that answers. -/
  report : Nat := 0
  member : Nat := 0
  /-- A VC0 request and its response: direction, location, bytes or length, the context that awaits it. -/
  write : Bool := false
  loc : Loc := .phys 0
  bytes : List Byte := []
  len : Nat := 0
  waiter : Option (Nat × Nat) := none
  /-- The request and response of a pf (R192): the address, the tenant, and whether the page is tile-private; of an island core's, the world. -/
  fill : Option (Nat × Nat × Bool) := none
  shared : Option Bool := none
deriving DecidableEq, Repr

/-- A router (R339-R345, R442): its detour entries, forwarding stubs, the cycle at which each was last used, and the table words that an
uncorrectable error has hit. -/
structure Router where
  detours : List Word := []
  stubs : Map Nat Nat := []
  used : Map Nat Nat := []
  bad : List Nat := []
deriving DecidableEq, Repr

/-- A slot of the reserve tier (R527, R528): the bytes of the sealed object in it. -/
structure Reserve where
  object : List Byte
deriving DecidableEq, Repr

/-- An edge controller (Table 17.1, R524-R530). -/
structure Edge where
  ecstat : Word := 0
  erraddr : Word := 0
  ckcmd : Word := 0
  slot0 : Word := 0
  slot1 : Word := 0
  store0 : Option Reserve := none
  store1 : Option Reserve := none
  /-- The running operation: its slot, and whether it is a restore. -/
  op : Option (Nat × Bool) := none
deriving DecidableEq, Repr

/-- A collective in flight (R536). -/
structure Collective where
  tag : Nat
  desc : List Byte
  /-- The contribution sealed under CKEY with its tag, and the CKGEN of its moment (R515). -/
  contrib : List Byte
  mac : List Byte
  kgen : Nat
  /-- The cycle of the first contribution of any member. -/
  started : Nat
deriving DecidableEq, Repr

/-- A sweep of a region (R505), numbered as in rekeyRegion?. -/
structure Sweep where
  region : Nat
  epoch : Bool
  /-- Every line has been rewritten; its REKEY event is still to be sent. -/
  swept : Bool := false
deriving DecidableEq, Repr

/-- Power states (R516, R539). -/
inductive Power where
  | off | boot | run | doze
deriving DecidableEq, Repr

/-- The retirement record of a field (R20, R21). -/
structure FieldRetire where
  badRows : List Nat := []
  absentTiles : List Nat := []
  absentClusters : List Nat := []
deriving DecidableEq, Repr

/-- A debug token (R510): DEVID, the ROM nonce, the debug authority's public key, the signature. -/
structure DebugToken where
  devid : Nat
  nonce : List Byte
  key : Option (Nat × Nat)
  r : Nat
  s : Nat
deriving DecidableEq, Repr

/-- The boot image (R510, R512): whether its signature is valid, its security version, the minimum version and the debug state that it
requests, and the debug token presented with it. -/
structure BootImage where
  signed : Bool := true
  version : Nat := 0
  minimum : Nat := 0
  debug : Nat := 0
  token : Option DebugToken := none
deriving DecidableEq, Repr

/-- An invalidation on its way (R481, R482). -/
inductive Inval where
  /-- tlbinv mode 0: a tenant's entry of an input page. -/
  | page (tenant va : Nat)
  /-- Mode 1: the work of a tenant and of all it presides over. -/
  | work (tenant : Nat)
  /-- Mode 2: entries whose output lies in a physical frame. -/
  | frame (pa : Nat)
  /-- icinv: the code lines of a physical frame. -/
  | code (pa : Nat)
deriving DecidableEq, Repr

/-- Wafer-wide registers: Tables 15.4, 16.3, 17.3. -/
structure Wafer where
  potbase : Word := 0
  rgtbase : Word := 0
  ckgen : Word := 0
  ckey : List Byte := List.replicate 32 0
  mkern : List Byte := List.replicate 32 0
  mlock : Bool := false
  /-- The bytes of MEXT written so far (Table 16.3). -/
  mextIn : List Byte := List.replicate 32 0
  dstate : Nat := 0
  fuses : List (Bool × Bool) := []
  /-- Fuses that cannot be blown, 2k + 0 for A of pair k and 2k + 1 for B (Table 17.5 ERROR 1). -/
  deadFuses : List Nat := []
  boot : BootImage := {}
  /-- The boot ROM has accepted the image of this boot (R512). -/
  accepted : Bool := false
  /-- MODEL: the free-value counter at the boot, which the signatures of the function certificates are drawn by (R513). -/
  certAt : Nat := 0
  power : Power := .off
  ready : Bool := false
  stage : Nat := 0
  retire : Map Nat FieldRetire := []
  retiredSites : List (Nat × Nat × Nat) := []
  /-- The HMAC stored with the retirement record (R511). -/
  retireMac : List Byte := []
  /-- The tables of R339, the same in every router, from stage 4 of the bring-up on. -/
  tables : Map Nat FieldRetire := []
  /-- Doze is that of a thermal trip, asked for or entered (R539). -/
  thermal : Bool := false
  pwrctl : Word := 0
  /-- ERROR of Table 17.5. -/
  error : Nat := 0
  modid : Word := 0
  aptbase : Word := 0
  exptbase : Word := 0
  members : Word := 0
  collpost : Word := 0
  colltmo : Word := 60000
  colls : List Collective := []
  sweeps : List Sweep := []
deriving DecidableEq, Repr

/-- A tenant (R466, R486, R487, R500): region rectangle, world, grants. -/
structure Tenant where
  rect : Option Nat := none
  secure : Bool := false
  grants : Map Nat Grant := []
deriving DecidableEq, Repr

/-- What befalls a stored word from outside: an error of an edge line (R525; 1 correctable, 2 not), or an uncorrectable one of a router's table word
(R339). -/
inductive Upset where
  | line (l ecc : Nat)
  | word (router w : Nat)
deriving DecidableEq, Repr

/-- What the host has been answered (R513, R531-R533). -/
structure HostReply where
  fn : Nat
  code : Nat
  bytes : List Byte
deriving DecidableEq, Repr

/-! ## The state -/

/-- The machine. -/
structure State where
  /-- MODEL: the agent whose turn it is. -/
  cur : Agent := .core 0 0
  /-- MODEL: engine steps that have become due, and inputs of the outside world. -/
  due : List Instr := []
  /-- MODEL: which due step or agent moves next. -/
  choices : List Nat := []
  /-- MODEL: cycles the coming steps take; 1 when empty. -/
  cycleLens : List Nat := []
  /-- MODEL: errors that are to befall memory, one with each coming step (R339, R525). -/
  upsets : List Upset := []
  /-- MODEL: free values drawn so far. -/
  freeCtr : Nat := 0
  /-- MODEL: the instruction that moved last retired (the lookahead windows count it). -/
  retired : Bool := false
  /-- MODEL: names given to requests, packets, tasks. -/
  nextId : Nat := 1
  /-- The wafer cycle counter (Table 15.4). -/
  cycle : Nat := 0
  mem : List Host.Cell := []
  lines : Map Nat LineMeta := []
  ctxs : Map (Nat × Nat) Ctx := []
  cores : Map (Nat × Nat) Core := []
  tiles : Map Nat Tile := []
  clusters : Map Nat Cluster := []
  islands : Map Nat Island := []
  routers : Map Nat Router := []
  edges : Map Nat Edge := []
  tasks : Map Nat Task := []
  blocks : Map Nat Block := []
  launches : Map Nat Launch := []
  counters : Map (Nat × Nat) Counter := []
  insts : Map Nat FInstance := []
  clearances : Map Nat Clearance := []
  tenants : Map Nat Tenant := []
  vfs : Map Nat Nat := []
  packets : List Packet := []
  /-- Invalidations under way, with the core that issued each (R481, R482). -/
  invals : Map Nat ((Nat × Nat) × Inval) := []
  wafer : Wafer := {}
  replies : List HostReply := []
deriving DecidableEq, Repr

/-- The machine when power is applied: every register at its reset value (R15), nothing running, POWER_APPLIED due (R538). -/
def State.reset : State := { due := [.powerApplied] }

end Sys2Proof.Machine
end

