-- ==== Sys2Proof/Machine/Base.lean ====
section
/-! DEFINITION. Association lists, memory in its canonical form, and the accessors of the state's parts. -/

namespace Sys2Proof.Machine

/-! ## Association lists -/

section
variable {κ α : Type} [DecidableEq κ]

/-- The value listed under a key. -/
def mget? : Map κ α → κ → Option α
  | [], _ => none
  | (j, v) :: r, k => if j = k then some v else mget? r k
/-- The value under a key, d when none is listed. -/
def mget (m : Map κ α) (d : α) (k : κ) : α := (mget? m k).getD d
/-- The list with a value under a key. -/
def mset : Map κ α → κ → α → Map κ α
  | [], k, v => [(k, v)]
  | (j, w) :: r, k, v => if j = k then (k, v) :: r else (j, w) :: mset r k v
/-- The list without a key. -/
def mdel (m : Map κ α) (k : κ) : Map κ α := m.filter fun p => p.1 ≠ k
end

/-! ## Memory: rising addresses, no entry equal to what an unlisted byte reads as (R538: zero) -/

/-- A byte of memory; an unlisted byte is 0. -/
def memRead : List Host.Cell → Nat → Byte
  | [], _ => 0
  | (b, v) :: r, a => if b = a then v else memRead r a
/-- Memory with one byte written. -/
def memWrite : List Host.Cell → Nat → Byte → List Host.Cell
  | [], a, v => if v = 0 then [] else [(a, v)]
  | (b, w) :: r, a, v =>
    if a < b then (if v = 0 then (b, w) :: r else (a, v) :: (b, w) :: r)
    else if a = b then (if v = 0 then r else (a, v) :: r)
    else (b, w) :: memWrite r a v
/-- The canonical form. -/
def Memory.wf : List Host.Cell → Bool
  | [] => true
  | [(_, v)] => v != 0
  | (a, v) :: (b, w) :: r => v != 0 && decide (a < b) && Memory.wf ((b, w) :: r)
/-- Bytes written from an address on. -/
def memWrites : List Host.Cell → Nat → List Byte → List Host.Cell
  | m, _, [] => m
  | m, a, v :: r => memWrites (memWrite m a v) (a + 1) r

/-! ## Parts of the state -/

namespace State

/-- Context c of tile t. -/
def ctx (s : State) (t c : Nat) : Ctx := mget s.ctxs {} (t, c)
/-- The state with context c of tile t replaced. -/
def setCtx (s : State) (t c : Nat) (x : Ctx) : State := { s with ctxs := mset s.ctxs (t, c) x }
/-- Core k of island i. -/
def core (s : State) (i k : Nat) : Core := mget s.cores {} (i, k)
/-- The state with core k of island i replaced. -/
def setCore (s : State) (i k : Nat) (x : Core) : State := { s with cores := mset s.cores (i, k) x }
/-- Tile t. -/
def tile (s : State) (t : Nat) : Tile := mget s.tiles {} t
/-- The state with tile t replaced. -/
def setTile (s : State) (t : Nat) (x : Tile) : State := { s with tiles := mset s.tiles t x }
/-- Cluster n. -/
def cluster (s : State) (n : Nat) : Cluster := mget s.clusters {} n
/-- The state with cluster n replaced. -/
def setCluster (s : State) (n : Nat) (x : Cluster) : State := { s with clusters := mset s.clusters n x }
/-- Island i. -/
def island (s : State) (i : Nat) : Island := mget s.islands {} i
/-- The state with island i replaced. -/
def setIsland (s : State) (i : Nat) (x : Island) : State := { s with islands := mset s.islands i x }
/-- Router of position t. -/
def router (s : State) (t : Nat) : Router := mget s.routers {} t
/-- The state with a router replaced. -/
def setRouter (s : State) (t : Nat) (x : Router) : State := { s with routers := mset s.routers t x }
/-- Edge controller e. -/
def edge (s : State) (e : Nat) : Edge := mget s.edges {} e
/-- The state with an edge controller replaced. -/
def setEdge (s : State) (e : Nat) (x : Edge) : State := { s with edges := mset s.edges e x }
/-- Task k. -/
def task? (s : State) (k : Nat) : Option Task := mget? s.tasks k
/-- The state with task k replaced. -/
def setTask (s : State) (k : Nat) (x : Task) : State := { s with tasks := mset s.tasks k x }
/-- The block with a handle (wafer view). -/
def block? (s : State) (h : Nat) : Option Block := mget? s.blocks h
/-- The state with a block replaced. -/
def setBlock (s : State) (h : Nat) (x : Block) : State := { s with blocks := mset s.blocks h x }
/-- Launch l. -/
def launch? (s : State) (l : Nat) : Option Launch := mget? s.launches l
/-- The state with a launch replaced. -/
def setLaunch (s : State) (l : Nat) (x : Launch) : State := { s with launches := mset s.launches l x }
/-- Side bits of the line that holds a physical address. -/
def meta_ (s : State) (pa : Nat) : LineMeta := mget s.lines {} (pa / 16)
/-- A tenant's region and world. -/
def tenant (s : State) (t : Nat) : Tenant := mget s.tenants {} t
/-- The state with a tenant replaced. -/
def setTenant (s : State) (t : Nat) (x : Tenant) : State := { s with tenants := mset s.tenants t x }
/-- The state with an engine step made due. -/
def addDue (s : State) (i : Instr) : State := { s with due := s.due ++ [i] }
/-- The state with an engine step made due unless it already is. -/
def addDueOnce (s : State) (i : Instr) : State := if i ∈ s.due then s else s.addDue i
/-- The state with one occurrence of a due step removed. -/
def dropDue (s : State) (i : Instr) : State := { s with due := s.due.erase i }
/-- A free value and the state after drawing it (log entry 4). -/
def drawFree (s : State) : Word × State := (Config.freeWord s.freeCtr, { s with freeCtr := s.freeCtr + 1 })
/-- A fresh name. -/
def fresh (s : State) : Nat × State := (s.nextId, { s with nextId := s.nextId + 1 })

/-- The request a Zephyr context runs. -/
def zreqOf? (s : State) (t zc : Nat) : Option ZReq := (s.tile t).zreqs.find? fun r => r.zc == some zc
/-- A tile's Zephyr request replaced. -/
def setZreq (s : State) (t : Nat) (r : ZReq) : State :=
  let x := s.tile t
  s.setTile t { x with zreqs := x.zreqs.map fun q => if q.uid = r.uid then r else q }
/-- The registers of an agent; of a Zephyr, the PC of its request. -/
def regsOf (s : State) : Agent → Regs
  | .thread t c => (s.ctx t c).regs
  | .core i k => (s.core i k).regs
  | .zephyr t zc => match s.zreqOf? t zc with | some r => { pc := r.pc } | none => {}
/-- The state with an agent's registers replaced; of a thread the dirty image lines are marked (R144), of a Zephyr only the PC is held. -/
def setRegsOf (s : State) (a : Agent) (dirty : List Nat) (r : Regs) : State :=
  match a with
  | .thread t c => let x := s.ctx t c; s.setCtx t c { x with regs := r, dirty := x.dirty ∪ dirty }
  | .core i k => let x := s.core i k; s.setCore i k { x with regs := r }
  | .zephyr t zc => match s.zreqOf? t zc with | some q => s.setZreq t { q with pc := r.pc } | none => s
/-- The registers of the agent whose turn it is. -/
def regs (s : State) : Regs := s.regsOf s.cur
/-- The state with those registers replaced. -/
def setRegs (s : State) (dirty : List Nat) (r : Regs) : State := s.setRegsOf s.cur dirty r
/-- General register r of the current agent. -/
def getG (s : State) (r : Reg) : Word := s.regs.g[r]
/-- The state with general register r of the current agent written (image line 0 or 1, Table 5.8). -/
def setG (s : State) (r : Reg) (v : Word) : State := s.setRegs [r.val / 8] { s.regs with g := s.regs.g.set r v }
/-- The PC of the current agent. -/
def getPc (s : State) : Word := s.regs.pc
/-- The state with that PC written. -/
def setPc (s : State) (v : Word) : State := s.setRegs [2] { s.regs with pc := v }

end State

/-! ## Geography (R16, R19, R24, R25, R375) -/

/-- Logical column of a tile number. -/
def tileX (t : Nat) : Nat := t % 256
/-- Logical row of a tile number. -/
def tileY (t : Nat) : Nat := t / 256
/-- The tile at (x, y). -/
def tileAt (x y : Nat) : Nat := 256 * y + x
/-- The cluster of a tile (R24). -/
def clusterOf (t : Nat) : Nat := 64 * (tileY t / 4) + tileX t / 4
/-- Tile k (0 to 15) of a cluster. -/
def clusterTile (n k : Nat) : Nat := tileAt (4 * (n % 64) + k % 4) (4 * (n / 64) + k / 4)
/-- Index of a tile in its cluster (R16). -/
def tileIndex (t : Nat) : Nat := 4 * (tileY t % 4) + tileX t % 4
/-- The home island of a cluster (R25, R375). -/
def homeIsland (n : Nat) : Nat := 16 * (n / 64 / 4) + n % 64 / 4
/-- The cluster slot of an island (Table 1.1). -/
def islandCluster (i : Nat) : Nat := 64 * (4 * (i / 16) + 3) + 4 * (i % 16) + 3
/-- An island slot (Table 1.1). -/
def isIslandSlot (n : Nat) : Bool := n % 64 % 4 == 3 && n / 64 % 4 == 3
/-- A W cluster (Table 1.1). -/
def isWCluster (n : Nat) : Bool := n % 64 % 2 == 0 && n / 64 % 2 == 0
/-- The field of a tile (R19): 8 * fy + fx. -/
def fieldOf (t : Nat) : Nat := 8 * (tileY t / 32) + tileX t / 32
/-- The edge controller of a physical edge address (Table 1.6). -/
def emmOf (pa : Nat) : Nat := pa / 0x3000000000

/-- Is a tile one of the two of a Drift move past Calming (R440). -/
def movingTile (s : State) (t : Nat) : Bool :=
  let c := s.cluster (clusterOf t)
  (c.drift == .draining || c.drift == .copying || c.drift == .switching) && (c.driftS == t || c.driftT == t)
/-- Is a tile one of the two of a Drift move in Calming whose slice has begun since the move was armed: the contexts of that slice wait until the move
is Settled (Table 14.12). -/
def calmHeld (s : State) (t : Nat) : Bool :=
  let c := s.cluster (clusterOf t)
  c.drift == .calming && (c.driftS == t || c.driftT == t) && (s.tile t).sliceFrom.any fun n => decide (c.driftSince ≤ n)
/-- The first physical address of a tile's scratchpad (Table 1.6). -/
def spadBase (t : Nat) : Nat := 0x8000000000000 + t * 0x20000
/-- A size-aligned address in the edge window of Table 1.5 (R141, R230, R304). -/
def edgeAligned (n k : Nat) : Nat := 0x40000000 + n % ((0x3FFE0000000000 - 0x40000000) / k) * k
/-- The end of edge memory (Table 1.6). -/
def edgeEnd : Nat := 0x60000000000

end Sys2Proof.Machine
end

