-- ==== Sys2Proof/Machine/Paths.lean ====
section
/-! DEFINITION. The paths of the Jetstream fabric: hops, detours, relays (R335, R337, R340, R341, R344-R347), edge routers (R349), the table
words of routers (R339), fabric faults (R362), and the records and hardware traffic that travel on them. -/

namespace Sys2Proof.Machine

/-! ## Positions and paths (R335, R337, R340, R344) -/

/-- A logical position with a router: inside the grid and not absent (R22, R335, R341). -/
def routerPresent (s : State) (t : Nat) : Bool :=
  decide (t < 256 * 192) &&
  (let f := mget s.wafer.tables {} (fieldOf t)
   !f.absentTiles.contains t && !f.absentClusters.contains (clusterOf t))
/-- The X-then-Y output port from one position towards another: 0 north, 1 east, 2 south, 3 west; none at the destination. -/
def xyDir (a b : Nat) : Option Nat :=
  if tileX a < tileX b then some 1 else if tileX b < tileX a then some 3
  else if tileY a < tileY b then some 0 else if tileY b < tileY a then some 2 else none
/-- The neighbour of a position in a direction, none beyond the grid. -/
def neighbour (t d : Nat) : Option Nat :=
  match d with
  | 0 => if tileY t < 191 then some (t + 256) else none
  | 1 => if tileX t < 255 then some (t + 1) else none
  | 2 => if 0 < tileY t then some (t - 256) else none
  | _ => if 0 < tileX t then some (t - 1) else none
/-- The input port at which a head that travels in a direction enters. -/
def portOf (d : Nat) : Nat := (d + 2) % 4
/-- The bit of INMASK for an input port (Table 11.3). -/
def inMaskBit (port : Nat) : Nat := match port with | 4 => 63 | 0 => 62 | 1 => 61 | 2 => 60 | _ => 59
/-- The legs of a detour entry as (index, direction, hops), those of 0 hops left out. -/
def legsOf (e : Word) : List (Nat × Nat × Nat) :=
  ([0, 1, 2, 3].map fun k => (k, fld e (4 * k + 1) (4 * k), fld e (4 * k + 3) (4 * k + 2))).filter fun p => p.2.2 != 0
/-- Does a detour entry take a base-lane head (R344). -/
def detourMatch (port out dst : Nat) (e : Word) : Bool :=
  bitOf e 55 && bitOf e (inMaskBit port) && fld e 58 57 == out && decide (fld e 54 47 ≤ tileX dst) && decide (tileX dst ≤ fld e 46 39) &&
    decide (fld e 31 24 ≤ tileY dst) && decide (tileY dst ≤ fld e 23 16)
/-- A head on its way: position, input port, lane, legs left, stop for relay. -/
structure Course where
  at_ : Nat
  port : Nat := 4
  detour : Bool := false
  legs : List (Nat × Nat × Nat) := []
  relay : Bool := false
deriving DecidableEq, Repr
/-- What a router does with a head. -/
inductive Turn where
  | arrive | relay | noPath
  | next (c : Course)
deriving DecidableEq, Repr
/-- One hop in a direction, unless the position there is absent (R341). -/
def stepTo (s : State) (c : Course) (d : Nat) : Turn :=
  match neighbour c.at_ d with
  | some n => if routerPresent s n then .next { c with at_ := n, port := portOf d } else .noPath
  | none => .noPath
/-- A hop of the legs that are left. -/
def followLeg (s : State) (c : Course) : List (Nat × Nat × Nat) → Turn
  | [] => .arrive
  | (k, d, n) :: r => stepTo s { c with legs := if n ≤ 1 then r else (k, d, n - 1) :: r } d
/-- The turn of a head at a router (R337, R344, R346). -/
def turn (s : State) (c : Course) (dst : Nat) : Turn :=
  if c.detour && !c.legs.isEmpty then followLeg s c c.legs
  else if c.detour && c.relay then .relay
  else match xyDir c.at_ dst with
    | none => .arrive
    | some d =>
      match (if c.detour then none else (s.router c.at_).detours.find? (detourMatch c.port d dst)) with
      | some e =>
        let c' := { c with detour := true, legs := legsOf e, relay := bitOf e 56 }
        if c'.legs.isEmpty then stepTo s c' d else followLeg s c' c'.legs
      | none => stepTo s c d
/-- The path of a head from a position to a destination: its hops, or the router that drops it (R341, R347). The fuel bounds its length. -/
def pathWalk (s : State) : Nat → Course → Nat → Except Nat Nat
  | 0, c, _ => .error c.at_
  | f + 1, c, dst =>
    match turn s c dst with
    | .arrive => .ok 0
    | .noPath => .error c.at_
    | .relay => pathWalk s f { at_ := c.at_ } dst
    | .next c' => (pathWalk s f c' dst).map (· + 1)
/-- Hops of the path from a position to a destination, none when it is dropped. -/
def pathHops (s : State) (f : Nat) (c : Course) (dst : Nat) : Option Nat := (pathWalk s f c dst).toOption
/-- Does every head travel X-then-Y and arrive: no position is absent and no detour entry is written. -/
def plainRoutes (s : State) : Bool :=
  (s.wafer.tables.all fun p => p.2.absentTiles.isEmpty && p.2.absentClusters.isEmpty) && s.routers.all fun p => p.2.detours.isEmpty

/-! ## Edge routers (R26, R335, R349) -/

/-- Edge links of a controller: 32 for south and north, 24 for west and east (R26). -/
def edgeLinks (e : Nat) : Nat := if e < 16 then 32 else 24
/-- Edge router i of controller e (Table 1.2). -/
def edgeRouter (e i : Nat) : Nat :=
  if e < 8 then tileAt (32 * e + i) 0 else if e < 16 then tileAt (32 * (e - 8) + i) 191
  else if e < 24 then tileAt 0 (24 * (e - 16) + i) else tileAt 255 (24 * (e - 24) + i)
/-- The edge router that a physical edge address is reached by (R349). -/
def edgeRouterOf (pa : Nat) : Nat := edgeRouter (emmOf pa) (pa / 64 % edgeLinks (emmOf pa))
/-- Does a router have an edge link to controller e (R26, R335). -/
def edgeLinked (t e : Nat) : Bool := (List.range (edgeLinks e)).any fun i => edgeRouter e i == t
/-- The controller of host port h (R26). -/
def hostController (h : Nat) : Nat := 2 * h + (if 2 ≤ h then 1 else 0)
/-- The controller of Contrail port p (R26). -/
def contrailController (p : Nat) : Nat := 8 + p

/-- The position from whose router a site's heads leave. -/
def siteTile : Site → Nat
  | .tile t => t
  | .island i => clusterTile (islandCluster i) 0
/-- The site at a router. -/
def siteAt (t : Nat) : Site := if isIslandSlot (clusterOf t) then .island (homeIsland (clusterOf t)) else .tile t

/-! ## Records (R39, R362, R484) -/

/-- A record on VC3 that has the path to an island: the append to a fault queue becomes due (R484). -/
def sendRecord (s : State) (i : Nat) (r : FaultRecord) : State :=
  let isl := s.island i
  (s.setIsland i { isl with inFlight := isl.inFlight ++ [r] }).addDue (.faultQueueAppend i)
/-- The record of a fabric fault (Table 11.8) that router at_ reports of a head; info is the word index of TABLEECC. -/
def fabricRecord (at_ code tenant : Nat) (p : Packet) (info : Nat) : FaultRecord :=
  let body := toBytes 1 code ++ toBytes 1 p.vc ++ toBytes 1 (tileX at_) ++ toBytes 1 (tileY at_) ++ toBytes 4 p.dhandle ++ toBytes 4 p.src ++
    toBytes 4 (p.seq + p.relayPos * 2 ^ 16) ++ wordsBytes [p.handler, w64 info] ++ toBytes 8 0
  { tenant := tenant, kind := 3, work := p.region, body := body }

/-! ## Table words (R339) -/

/-- The neighbour that a router asks for a clean table word (R339): the first of west, south, east, north that is present and is not the router
that asked it. -/
def askFor (s : State) (t : Nat) (asker : Option Nat) : Option Nat :=
  ([3, 2, 1, 0].filterMap (neighbour t)).find? fun n => routerPresent s n && some n != asker
/-- The routers that obtain a clean copy of table word w when router t fetches it, t the last: its neighbour's own copy first (R339); none where no
chain of neighbours has it. -/
def cleanChain (s : State) (w : Nat) : Nat → Nat → Option Nat → Option (List Nat)
  | 0, _, _ => none
  | f + 1, t, asker =>
    match askFor s t asker with
    | none => none
    | some n => (if (s.router n).bad.contains w then cleanChain s w f n (some t) else some []).map fun l => l ++ [t]
/-- A router's table word clean again, and reported with TABLEECC by the head that met it. -/
def cleanWord (p : Packet) (w : Nat) (s : State) (t : Nat) : State :=
  let r := s.router t
  sendRecord (s.setRouter t { r with bad := r.bad.erase w }) (homeIsland (clusterOf t)) (fabricRecord t 0x43 0 p w)
/-- Table words of a router with uncorrectable errors are fetched clean before it routes a head, and reported (R339). -/
def cleanAt (p : Packet) (s : State) (t : Nat) : State :=
  (s.router t).bad.foldl (fun s w => match cleanChain s w 49152 t none with | some l => l.foldl (cleanWord p w) s | none => s) s
/-- Are the tables of every router without uncorrectable errors. -/
def cleanRouters (s : State) : Bool := s.routers.all fun p => p.2.bad.isEmpty
/-- The routers that route a head on its path, in order. -/
def pathRouters (s : State) : Nat → Course → Nat → List Nat
  | 0, _, _ => []
  | f + 1, c, dst =>
    c.at_ :: (match turn s c dst with
      | .arrive => []
      | .noPath => []
      | .relay => pathRouters s f { at_ := c.at_ } dst
      | .next c' => pathRouters s f c' dst)
/-- The tables on the path of a head from a to b cleaned. -/
def cleanPath (s : State) (p : Packet) (a b : Nat) : State :=
  if cleanRouters s || a == b then s else (pathRouters s 4096 { at_ := a } b).foldl (cleanAt p) s
/-- Does a head wait for ever on its path from a to b: at a router with a table word that no neighbour can give (R339). -/
def stuckOn (s : State) (a b : Nat) : Bool :=
  !(cleanRouters s || a == b) && (pathRouters s 4096 { at_ := a } b).any fun t => t != b && !(s.router t).bad.isEmpty

/-! ## What travels in one step (log entry 90) -/

/-- The router that drops a head from one position to another with NOPATH (R341). -/
def dropsHead? (s : State) (a b : Nat) : Option Nat :=
  if plainRoutes s then none else match pathWalk s 4096 { at_ := a } b with | .error r => some r | .ok _ => none
/-- The router that drops a head from a to b, or the response to it from c to a. -/
def dropsAt? (s : State) (a b c : Nat) : Option Nat := (dropsHead? s a b).or (dropsHead? s c a)
/-- A record of a tile or router travels on VC3 to the home island of its cluster (R39, R336). One whose head has no path is lost, and the router
that drops it reports NOPATH, by a record whose own path is not tested (log entry 90). -/
def recordFrom (s : State) (at_ : Nat) (r : FaultRecord) : State :=
  let i := homeIsland (clusterOf at_)
  let p : Packet := { id := 0, vc := 3, at_ := at_, region := r.work }
  let s := cleanPath s p at_ (siteTile (.island i))
  if stuckOn s at_ (siteTile (.island i)) then s
  else match dropsHead? s at_ (siteTile (.island i)) with
    | some n => sendRecord s (homeIsland (clusterOf n)) (fabricRecord n 0x44 0 p 0)
    | none => sendRecord s i r
/-- A fabric fault (R362): one record from the router's position; info is the word index of TABLEECC. -/
def fabricFault (s : State) (at_ code tenant : Nat) (p : Packet) (info : Nat := 0) : State := recordFrom s at_ (fabricRecord at_ code tenant p info)
/-- The head of hardware traffic of position t to a line of edge memory, and its response: the state, and whether the access is performed. One that
is lost is reported with NOPATH (R341, R349). -/
def edgeHead (s : State) (t src pa : Nat) : State × Bool :=
  if edgeEnd ≤ pa then (s, true)
  else
    let p : Packet := { id := 0, kind := .request, vc := 0, at_ := t, src := src }
    let d := edgeRouterOf pa
    let s := cleanPath (cleanPath s p t d) { p with vc := 1 } d t
    if stuckOn s t d || stuckOn s d t then (s, false)
    else match dropsAt? s t d d with
      | some r => (fabricFault s r 0x44 0 p, false)
      | none => (s, true)

end Sys2Proof.Machine
end

