-- ==== Sys2Proof/Machine/Errors.lean ====
section
/-! DEFINITION. Errors of edge lines, met by the access that reads them (R525, R540). -/

namespace Sys2Proof.Machine

/-- A 16-bit count at a place raised by one, saturating. -/
def bump16 (w : Word) (lo : Nat) : Word := setFld w (lo + 15) lo (min 65535 (fld w (lo + 15) lo + 1))
/-- An event record (Table 15.11: code at 8, data at 16-47). -/
def eventRecord (tenant code : Nat) (data : List Byte) : FaultRecord :=
  { tenant := tenant, kind := 4, work := tenant, body := toBytes 8 code ++ data }
/-- The island at which an event of an edge controller is raised: of the square of the first edge router that the controller serves (log entry
24); those of the host ports are the islands of R532. -/
def edgeIsland (e : Nat) : Nat :=
  if e < 8 then 2 * e else if e < 16 then 176 + 2 * (e - 8) else if e < 24 then 16 * (24 * (e - 16) / 16) else 16 * (24 * (e - 24) / 16) + 15
/-- Does a line give zero plaintext: it is poisoned, or its error is not correctable and about to be met (R525). -/
def LineMeta.bad (m : LineMeta) : Bool := m.poisoned || m.ecc == 2
/-- The read of line l that finds a correctable error: CECNT, and the line rewritten with the same VER. -/
def correctLine (s : State) (l : Nat) : State :=
  let e := emmOf (16 * l)
  let s := s.setEdge e { s.edge e with ecstat := bump16 (s.edge e).ecstat 48 }
  { s with lines := mset s.lines l { s.meta_ (16 * l) with ecc := 0 } }
/-- The read of line l that finds an uncorrectable one: the line is poisoned, UECNT, ERRADDR, one MEMERR event with the physical address as its
data. -/
def poisonLine (s : State) (l : Nat) : State :=
  let e := emmOf (16 * l)
  let s := s.setEdge e { s.edge e with ecstat := bump16 (s.edge e).ecstat 32, erraddr := w64 (16 * l) }
  sendRecord { s with lines := mset s.lines l { s.meta_ (16 * l) with poisoned := true, ecc := 0 } } (edgeIsland e) (eventRecord 0 4 (toBytes 32 (16 * l)))
/-- The error of line l, if it has one, met. -/
def meetLine (s : State) (l : Nat) : State :=
  if edgeEnd ≤ 16 * l then s
  else if (s.meta_ (16 * l)).ecc = 1 then correctLine s l else if (s.meta_ (16 * l)).ecc = 2 then poisonLine s l else s
/-- Is no line about to give an error. -/
def soundLines (s : State) : Bool := s.lines.all fun l => l.2.ecc == 0
/-- The errors of the lines of n bytes from a physical address met by a read of them. -/
def meetAt (s : State) (pa n : Nat) : State :=
  if soundLines s then s else (List.range ((pa + n + 15) / 16 - pa / 16)).foldl (fun s k => meetLine s (pa / 16 + k)) s
/-- The word that a walker reads at each of these addresses (R477). -/
def meetWords (s : State) (l : List Nat) : State := l.foldl (fun s pa => meetAt s pa 8) s
/-- The next of the errors that are to befall memory does. -/
def strike (s : State) : State :=
  match s.upsets with
  | [] => s
  | .line l k :: r => { s with upsets := r, lines := mset s.lines l { s.meta_ (16 * l) with ecc := k } }
  | .word t w :: r => let x := s.router t; { s.setRouter t { x with bad := if x.bad.contains w then x.bad else x.bad ++ [w] } with upsets := r }

end Sys2Proof.Machine
end

