-- ==== Sys2Proof/Machine/Sm3.lean ====
section
/-! DEFINITION. The SM3 hash (GB/T 32905) and HMAC-SM3, which the trust engine uses (R504, R509, R511). PRESUMED: the spec names the
algorithms and does not print them (log entry 9). -/

namespace Sys2Proof.Machine

/-- A 32-bit word of the hash. -/
abbrev W32 := BitVec 32
/-- Rotation left. -/
def rol (x : W32) (n : Nat) : W32 := x.rotateLeft n
/-- P0 of SM3. -/
def sm3P0 (x : W32) : W32 := x ^^^ rol x 9 ^^^ rol x 17
/-- P1 of SM3. -/
def sm3P1 (x : W32) : W32 := x ^^^ rol x 15 ^^^ rol x 23
/-- FF of round j. -/
def sm3FF (j : Nat) (x y z : W32) : W32 := if j < 16 then x ^^^ y ^^^ z else (x &&& y) ||| (x &&& z) ||| (y &&& z)
/-- GG of round j. -/
def sm3GG (j : Nat) (x y z : W32) : W32 := if j < 16 then x ^^^ y ^^^ z else (x &&& y) ||| (~~~x &&& z)
/-- The chaining value. -/
structure Sm3State where
  a : W32
  b : W32
  c : W32
  d : W32
  e : W32
  f : W32
  g : W32
  h : W32
/-- The initial value. -/
def sm3Iv : Sm3State := ⟨0x7380166f, 0x4914b2b9, 0x172442d7, 0xda8a0600, 0xa96f30bc, 0x163138aa, 0xe38dee4d, 0xb0fb0e4e⟩
/-- The message schedule, newest word first, n more words to make. -/
def sm3Expand : Nat → List W32 → List W32
  | 0, l => l
  | n + 1, l =>
    let w (k : Nat) : W32 := l.getD (k - 1) 0
    sm3Expand n ((sm3P1 (w 16 ^^^ w 9 ^^^ rol (w 3) 15) ^^^ rol (w 13) 7 ^^^ w 6) :: l)
/-- One round. -/
def sm3Round (s : Sm3State) (j : Nat) (w w4 : W32) : Sm3State :=
  let t : W32 := if j < 16 then 0x79cc4519 else 0x7a879d8a
  let ss1 := rol (rol s.a 12 + s.e + rol t (j % 32)) 7
  let ss2 := ss1 ^^^ rol s.a 12
  let tt1 := sm3FF j s.a s.b s.c + s.d + ss2 + (w ^^^ w4)
  let tt2 := sm3GG j s.e s.f s.g + s.h + ss1 + w
  ⟨tt1, s.a, rol s.b 9, s.c, sm3P0 tt2, s.e, rol s.f 19, s.g⟩
/-- Rounds from j on, over the schedule in order. -/
def sm3Rounds : Nat → Nat → List W32 → Sm3State → Sm3State
  | 0, _, _, s => s
  | n + 1, j, l, s => sm3Rounds n (j + 1) l.tail (sm3Round s j (l.headD 0) (l.getD 4 0))
/-- The big-endian value of bytes. -/
def beNat (l : List Byte) : Nat := fromBytes l.reverse
/-- n bytes of a value, big-endian. -/
def beBytes (n v : Nat) : List Byte := (toBytes n v).reverse
/-- The sixteen words of a block. -/
def sm3Words (b : List Byte) : List W32 := (List.range 16).map fun k => BitVec.ofNat 32 (beNat ((b.drop (4 * k)).take 4))
/-- The compression of one block. -/
def sm3Block (v : Sm3State) (b : List Byte) : Sm3State :=
  let w := (sm3Expand 52 (sm3Words b).reverse).reverse
  let r := sm3Rounds 64 0 w v
  ⟨r.a ^^^ v.a, r.b ^^^ v.b, r.c ^^^ v.c, r.d ^^^ v.d, r.e ^^^ v.e, r.f ^^^ v.f, r.g ^^^ v.g, r.h ^^^ v.h⟩
/-- Blocks compressed in order; the fuel is their number. -/
def sm3Blocks : Nat → Sm3State → List Byte → Sm3State
  | 0, v, _ => v
  | n + 1, v, l => sm3Blocks n (sm3Block v (l.take 64)) (l.drop 64)
/-- The padded message. -/
def sm3Pad (m : List Byte) : List Byte :=
  m ++ [0x80] ++ List.replicate ((119 - m.length % 64) % 64) 0 ++ beBytes 8 (8 * m.length)
/-- SM3 of a message. -/
def sm3 (m : List Byte) : List Byte :=
  let p := sm3Pad m
  let v := sm3Blocks (p.length / 64) sm3Iv p
  ([v.a, v.b, v.c, v.d, v.e, v.f, v.g, v.h].map fun x => beBytes 4 x.toNat).flatten
/-- HMAC-SM3. -/
def hmacSm3 (key m : List Byte) : List Byte :=
  let k := (if 64 < key.length then sm3 key else key)
  let k := k ++ List.replicate (64 - k.length) 0
  sm3 ((k.map fun b => b ^^^ 0x5C) ++ sm3 ((k.map fun b => b ^^^ 0x36) ++ m))

end Sys2Proof.Machine
end

