-- ==== Sys2Proof/Machine/Sm4.lean ====
section
/-! DEFINITION. SM4, the cipher that the spec names and does not define (R503, R507): PRESUMED to be the public standard of that name (log
entry 9), blocks as big-endian numbers. -/

namespace Sys2Proof.Machine

/-- The substitution box, sixteen bytes a row, the first byte highest. -/
def sm4Rows : List Nat :=
  [0xD690E9FECCE13DB716B614C228FB2C05, 0x2B679A762ABE04C3AA44132649860699, 0x9C4250F491EF987A33540B43EDCFAC62,
   0xE4B31CA9C908E89580DF94FA758F3FA6, 0x4707A7FCF37317BA83593C19E6854FA8, 0x686B81B27164DA8BF8EB0F4B70569D35,
   0x1E240E5E6358D1A225227C3B01217887, 0xD40046579FD327524C3602E7A0C4C89E, 0xEABF8AD240C738B5A3F7F2CEF96115A1,
   0xE0AE5DA49B341A55AD933230F58CB1E3, 0x1DF6E22E8266CA60C02923AB0D534E6F, 0xD5DB3745DEFD8E2F03FF6A726D6C5B51,
   0x8D1BAF92BBDDBC7F11D95C411F105AD8, 0x0AC13188A5CD7BBD2D74D012B8E5B4B0, 0x8969974A0C96777E65B9F109C56EC684,
   0x18F07DEC3ADC4D2079EE5F3ED7CB3948]
/-- The substitution of one byte. -/
def sm4S (b : Nat) : Nat := (sm4Rows.getD (b / 16) 0) / 256 ^ (15 - b % 16) % 256
/-- The substitution of each byte of a word. -/
def sm4Tau (w : W32) : W32 := BitVec.ofNat 32 (((List.range 4).map fun k => sm4S (w.toNat / 256 ^ k % 256) * 256 ^ k).sum)
/-- The round transformation. -/
def sm4T (w : W32) : W32 := let b := sm4Tau w; b ^^^ rol b 2 ^^^ rol b 10 ^^^ rol b 18 ^^^ rol b 24
/-- The key transformation. -/
def sm4TKey (w : W32) : W32 := let b := sm4Tau w; b ^^^ rol b 13 ^^^ rol b 23
/-- Round constant i. -/
def sm4Ck (i : Nat) : W32 := BitVec.ofNat 32 (((List.range 4).map fun j => (4 * i + j) * 7 % 256 * 256 ^ (3 - j)).sum)
/-- Word k of a block, the first highest. -/
def sm4Word (n k : Nat) : W32 := BitVec.ofNat 32 (n / 2 ^ (96 - 32 * k))
/-- The key schedule from round i on, four words at hand. -/
def sm4Keys : Nat → Nat → W32 → W32 → W32 → W32 → List W32
  | 0, _, _, _, _, _ => []
  | f + 1, i, a, b, c, d => let k := a ^^^ sm4TKey (b ^^^ c ^^^ d ^^^ sm4Ck i); k :: sm4Keys f (i + 1) b c d k
/-- The rounds. -/
def sm4Rounds : List W32 → W32 → W32 → W32 → W32 → Nat
  | [], a, b, c, d => ((d.toNat * 2 ^ 32 + c.toNat) * 2 ^ 32 + b.toNat) * 2 ^ 32 + a.toNat
  | k :: r, a, b, c, d => sm4Rounds r b c d (a ^^^ sm4T (b ^^^ c ^^^ d ^^^ k))
/-- One block enciphered. -/
def sm4 (key block : Nat) : Nat :=
  let w := sm4Word
  let ks := sm4Keys 32 0 (w key 0 ^^^ 0xA3B1BAC6) (w key 1 ^^^ 0x56AA3350) (w key 2 ^^^ 0x677D9197) (w key 3 ^^^ 0xB27022DC)
  sm4Rounds ks (w block 0) (w block 1) (w block 2) (w block 3)

end Sys2Proof.Machine
end

