-- ==== Sys2Proof/Machine/Cipher.lean ====
section
/-! DEFINITION. Keys derived from the device root key (R503, Table 16.1), and the storage cipher of lines: SM4 in counter mode (R185). -/

namespace Sys2Proof.Machine

/-- The bytes of a label. -/
def label (l : String) : List Byte := l.toList.map fun c => BitVec.ofNat 8 c.toNat
/-- KDF: the first n bytes of HMAC-SM3. -/
def kdf (k : List Byte) (n : Nat) (s : List Byte) : List Byte := (hmacSm3 k s).take n
/-- WRK(w) under a debug state. -/
def worldKey (w : Bool) (dstate : Nat) : List Byte := kdf Config.deviceRootKey 32 (label "world" ++ toBytes 1 (boolNat w) ++ toBytes 1 dstate)
/-- The edge region key or the scratchpad key that a line at a physical address is enciphered under (Table 16.1), as the number that SM4
takes. -/
def lineKey (edge : Bool) (dstate pa : Nat) (k : Key) : Nat :=
  beNat (kdf (worldKey k.world dstate) 16
    (if edge then label "edge" ++ toBytes 2 k.owner ++ toBytes 2 k.sub ++ toBytes 4 (pa / 2 ^ 21) ++ toBytes 4 k.gen
     else label "spad" ++ toBytes 4 k.owner ++ toBytes 4 k.sub ++ toBytes 8 k.gen))
/-- The counter of a line (R185): of an edge line 0, its physical address [51:4] and VER; of a scratchpad line 1, the block's handle, its
offset [16:4] and VER. -/
def lineCounter (edge : Bool) (pa : Nat) (k : Key) (ver : Nat) : Nat :=
  if edge then pa / 16 * 2 ^ 16 + ver else 2 ^ 53 + k.sub * 2 ^ 29 + pa % 0x20000 / 16 * 2 ^ 16 + ver
/-- The keystream byte of a physical address for a line of a version under a key (R185; the order of a block's bytes is log entry 9). -/
def keystreamByte (edge : Bool) (dstate pa : Nat) (k : Key) (ver : Nat) : Byte :=
  byteAt (beBytes 16 (sm4 (lineKey edge dstate pa k) (lineCounter edge pa k ver))) (pa % 16)

/-- The flit key of a tenant in a world (Table 16.1). -/
def flitKey (w : Bool) (dstate tenant : Nat) : Nat := beNat (kdf (worldKey w dstate) 16 (label "flit" ++ toBytes 4 tenant))
/-- The keystream byte at an offset of a payload (R360): SM4 on CAT(sender handle, SEQ, flit index) with the block of the flit below it, padded
with zeros at the top (log entry 48). -/
def flitStreamByte (key handle seq off : Nat) : Byte :=
  byteAt (beBytes 16 (sm4 key (((handle * 2 ^ 16 + seq) * 2 ^ 8 + off / 64) * 4 + off % 64 / 16))) (off % 16)
/-- A payload under its keystream: enciphered, or deciphered again. -/
def flitCrypt (key handle seq : Nat) (bs : List Byte) : List Byte := bs.mapIdx fun k b => b ^^^ flitStreamByte key handle seq k

end Sys2Proof.Machine
end

