-- ==== Sys2Proof/Machine/Regions.lean ====
section
/-! DEFINITION. Tenants, worlds, regions, views and agent records (R466, R471, R486-R490, R500). -/

namespace Sys2Proof.Machine

/-- Partition number of a tenant id (R466). -/
def partOf (t : Nat) : Nat := t / 4096 % 4096
/-- Slice number of a tenant id (R466). -/
def sliceOf (t : Nat) : Nat := t % 4096
/-- The partition tenant of a tenant id. -/
def partTenant (t : Nat) : Nat := partOf t * 4096
/-- LEVELOF (R466). -/
def levelOf (t : Nat) : Nat := if t = 0 then 0 else if sliceOf t = 0 then 1 else 2
/-- The parent of a tenant (R466). -/
def parentOf (t : Nat) : Nat := if sliceOf t = 0 then 0 else partTenant t
/-- PRESIDES (R466). -/
def presides (t u : Nat) : Bool := t == u || t == 0 || (sliceOf t == 0 && sliceOf u != 0 && partTenant u == t)

/-- The world of a tenant (R500): true is secure. -/
def worldOf (s : State) (t : Nat) : Bool := if t = 0 then true else (s.tenant (partTenant t)).secure

/-! Rectangles of clusters: CX0 [7:0], CY0 [15:8], CX1 [23:16], CY1 [31:24] (R487). -/

/-- Is cluster n inside a rectangle. -/
def rectHas (r n : Nat) : Bool :=
  decide (fieldN r 7 0 ≤ n % 64) && decide (n % 64 ≤ fieldN r 23 16) && decide (fieldN r 15 8 ≤ n / 64) && decide (n / 64 ≤ fieldN r 31 24)
/-- An empty rectangle: CX0 > CX1. -/
def rectEmpty (r : Nat) : Bool := decide (fieldN r 23 16 < fieldN r 7 0)
/-- The rectangle moved by an origin, modulo the field widths. -/
def rectShift (r ox oy : Nat) : Nat :=
  let x (n : Nat) : Nat := min 255 (n + ox)
  let y (n : Nat) : Nat := min 255 (n + oy)
  x (fieldN r 7 0) + y (fieldN r 15 8) * 2 ^ 8 + x (fieldN r 23 16) * 2 ^ 16 + y (fieldN r 31 24) * 2 ^ 24
/-- Does rectangle a lie inside rectangle b. -/
def rectInside (a b : Nat) : Bool :=
  decide (fieldN b 7 0 ≤ fieldN a 7 0) && decide (fieldN a 23 16 ≤ fieldN b 23 16) &&
  decide (fieldN b 15 8 ≤ fieldN a 15 8) && decide (fieldN a 31 24 ≤ fieldN b 31 24)
/-- Do two rectangles share a cluster. -/
def rectMeet (a b : Nat) : Bool :=
  decide (fieldN a 7 0 ≤ fieldN b 23 16) && decide (fieldN b 7 0 ≤ fieldN a 23 16) &&
  decide (fieldN a 15 8 ≤ fieldN b 31 24) && decide (fieldN b 15 8 ≤ fieldN a 31 24)
/-- The whole wafer, 64 x 48 clusters. -/
def waferRect : Nat := 63 * 2 ^ 16 + 47 * 2 ^ 24

/-- The rectangle of a tenant's region; tenant 0 has the wafer (R486). -/
def regionRect (s : State) (t : Nat) : Option Nat := if t = 0 then some waferRect else (s.tenant t).rect
/-- Is cluster n inside the region rectangle of tenant t. -/
def regionHas (s : State) (t n : Nat) : Bool :=
  match regionRect s t with
  | some r => rectHas r n
  | none => false
/-- The innermost tenant whose rectangle covers a cluster; a router outside every partition is tenant 0's (R486). -/
def regionTenant (s : State) (n : Nat) : Nat :=
  match s.tenants.find? fun p => sliceOf p.1 != 0 && regionHas s p.1 n && regionHas s (partTenant p.1) n with
  | some p => p.1
  | none =>
    match s.tenants.find? fun p => p.1 != 0 && sliceOf p.1 == 0 && regionHas s p.1 n with
    | some p => p.1
    | none => 0
/-- May a head of sending region t reach cluster n: inside its rectangle or under one of its grants (R350, R488); vc2 selects the channel. -/
def regionAllows (s : State) (t n : Nat) (vc2 : Bool) : Bool :=
  regionHas s t n || (s.tenant t).grants.any fun g => rectHas g.2.rect n && (if vc2 then g.2.vc2 else g.2.vc0)

/-- Is a tile in a region under Clearance (R446). -/
def clearing (s : State) (t : Nat) : Bool := s.clearances.any fun p => !p.2.done && rectHas p.2.rect (clusterOf t)
/-- The view origin of a tenant as a cluster-number offset (R490). -/
def viewOffset (s : State) (t : Nat) : Nat :=
  match regionRect s t with
  | some r => 64 * fieldN r 15 8 + fieldN r 7 0
  | none => 0
/-- A cluster number of the tenant's view as a wafer cluster number (R490). -/
def fromViewCluster (s : State) (t n : Nat) : Nat := (n + viewOffset s t) % 4096
/-- A wafer cluster number in the tenant's view (R490). -/
def toViewCluster (s : State) (t n : Nat) : Nat := (n + 4096 - viewOffset s t % 4096) % 4096
/-- A handle of the tenant's view as a wafer handle (R32, R490). -/
def fromViewHandle (s : State) (t h : Nat) : Nat := fromViewCluster s t (h / 4096 % 4096) * 4096 + h % 4096
/-- A wafer handle in the tenant's view (R32, R490). -/
def toViewHandle (s : State) (t h : Nat) : Nat := toViewCluster s t (h / 4096 % 4096) * 4096 + h % 4096
/-- A wafer rectangle of a rectangle in the tenant's view (R490). -/
def fromViewRect (s : State) (t r : Nat) : Nat := rectShift r (viewOffset s t % 64) (viewOffset s t / 64)

/-! Agent records (Table 15.2). -/

/-- A field of a 64-byte record. -/
def recFld (b : List Byte) (hi lo : Nat) : Nat := fieldN (fromBytes b) hi lo
/-- A 64-byte record with a field replaced. -/
def recSet (b : List Byte) (hi lo v : Nat) : List Byte :=
  let n := fromBytes b
  toBytes 64 (n - fieldN n hi lo * 2 ^ lo + v % 2 ^ (hi + 1 - lo) * 2 ^ lo)
/-- The index of a tenant's valid record at an island; tenant 0's is index 0 (R471). -/
def recordIndex? (s : State) (i t : Nat) : Option Nat :=
  if t = 0 then some 0
  else ((s.island i).records.find? fun p => p.1 != 0 && recFld p.2 447 447 == 1 && recFld p.2 439 416 == t).map Prod.fst
/-- A tenant's record at an island; zeros when it has none. -/
def agentRecord (s : State) (i t : Nat) : List Byte :=
  match recordIndex? s i t with
  | some k => mget (s.island i).records (List.replicate 64 0) k
  | none => List.replicate 64 0
/-- Does tenant t have a valid record at island i; tenant 0's is valid from W48READY (R469). -/
def recordValid (s : State) (i t : Nat) : Bool :=
  if t = 0 then s.wafer.ready else recFld (agentRecord s i t) 447 447 == 1
/-- ROOT, ROOT2, ROOT3 of a tenant at an island, 0 without a valid record. -/
def rootOf (s : State) (i t stage : Nat) : Nat :=
  if t = 0 ∨ recordValid s i t then recFld (agentRecord s i t) (64 * stage - 1) (64 * (stage - 1)) else 0
/-- TBIAS of a tenant at an island (R471). -/
def tbiasOf (s : State) (i t : Nat) : Nat := recFld (agentRecord s i t) 511 448
/-- A right of Table 15.3; tenant 0 holds every right (R472). -/
def hasRight (s : State) (i t bitNo : Nat) : Bool :=
  t == 0 || (recordValid s i t && recFld (agentRecord s i t) (400 + bitNo) (400 + bitNo) == 1)
/-- The wafer cycle counter as tenant t sees it at island i (R468, R490). -/
def cycleFor (s : State) (i t : Nat) : Word := w64 (s.cycle + tbiasOf s i t)

end Sys2Proof.Machine
end

