-- ==== Sys2Proof/Machine/Translate.lean ====
section
/-! DEFINITION. The storage cipher's effect on reads and writes (R185-R187, R504), three-stage translation, page ownership and the TLBs
(R475-R480). -/

namespace Sys2Proof.Machine

/-! ## Lines and keys -/

/-- A stored byte, whatever key it is under; of a poisoned line zero (R525). -/
def rawByte (s : State) (pa : Nat) : Byte := if (s.meta_ pa).bad then 0 else memRead s.mem pa
/-- n stored bytes from a physical address, little-endian. -/
def rawLe (s : State) (pa : Nat) : Nat → Nat
  | 0 => 0
  | n + 1 => (rawByte s pa).toNat + 256 * rawLe s (pa + 1) n
/-- The page ownership entry of an edge address (R478). -/
def potEntry (s : State) (pa : Nat) : Nat := rawLe s (s.wafer.potbase.toNat + 4 * (pa / 4096)) 4
/-- The block whose scratchpad allocation covers a physical scratchpad address, if any. -/
def spadOwner (s : State) (pa : Nat) : Option Nat :=
  let t := (pa - spadBase 0) / 0x20000
  let off := pa % 0x20000
  if pa < spadBase 0 then none
  else ((s.tile t).allocs.find? fun a => decide (a.off ≤ off) && decide (off < a.off + a.size)).map Alloc.handle
/-- The key of a line under an epoch (R185, R504, Table 16.1). -/
def keyAt (s : State) (pa : Nat) (ep : Bool) : Key :=
  if pa < edgeEnd then
    let e := potEntry s pa
    { world := fieldN e 30 30 == 1, owner := fieldN e 27 16, sub := fieldN e 15 4,
      gen := rawLe s (s.wafer.rgtbase.toNat + 8 * (pa / 2 ^ 21) + (if ep then 4 else 0)) 4 }
  else match spadOwner s pa with
    | some h =>
      match s.block? h with
      | some b => { world := worldOf s b.tenant, owner := b.tenant, sub := h, gen := if ep then b.gens.2 else b.gens.1 }
      | none => {}
    | none => {}
/-- Is a physical address in the aperture range (Table 1.6). -/
def inAperture (pa : Nat) : Bool := decide (2 ^ 50 ≤ pa) && decide (pa < 2 ^ 51)
/-- The aperture entry of an aperture address (R535). -/
def apertureEntry (s : State) (pa : Nat) : Nat := rawLe s (s.wafer.aptbase.toNat + 8 * ((pa - 2 ^ 50) / 2 ^ 30)) 8
/-- The keystream byte of an address in a line of the machine. -/
def streamByte (s : State) (pa : Nat) (k : Key) (ver : Nat) : Byte := keystreamByte (decide (pa < edgeEnd)) s.wafer.dstate pa k ver
/-- The plaintext of a byte of a line with side bits m (R185, R186, R504, R525). Memory and the data caches hold a byte as the key of its last
write deciphers it; its ciphertext is that byte XOR the keystream of that key. Zero on a line with Z = 1 or poisoned; under another key what
that key makes of the ciphertext. -/
def decipher (s : State) (pa : Nat) (m : LineMeta) (b : Byte) : Byte :=
  if m.z || m.bad then 0
  else
    let k := keyAt s pa m.ep
    if m.key = k then b else b ^^^ streamByte s pa m.key m.ver ^^^ streamByte s pa k m.ver
/-- The ciphertext of a byte, as its home holds it (R185). -/
def storedByte (s : State) (pa : Nat) : Byte := memRead s.mem pa ^^^ streamByte s pa (s.meta_ pa).key (s.meta_ pa).ver
/-- The module that an aperture address reaches, and the physical address there: CAT(BASE, A[29:0]) (R535). -/
def remoteOf (s : State) (pa : Nat) : Nat × Nat :=
  let e := apertureEntry s pa
  (fieldN e 62 54, fieldN e 51 30 * 2 ^ 30 + pa % 2 ^ 30)
/-- A byte of another module: a free value, or what this module has written last where nothing has changed it since (R535; log entry 11). -/
def remoteByte (s : State) (pa : Nat) : Byte :=
  let r := remoteOf s pa
  if !(s.meta_ pa).z && Config.remoteKept r.1 r.2 s.cycle then memRead s.mem pa else Config.remoteByte r.1 r.2 s.cycle
/-- The plaintext of a byte. -/
def readByte (s : State) (pa : Nat) : Byte := if inAperture pa then remoteByte s pa else decipher s pa (s.meta_ pa) (memRead s.mem pa)
/-- The side bits of a line as the word of Table 6.2: ECC [31:18] over the stored line and bits [17:0], Z, EP, VER. -/
def sideWord (s : State) (pa : Nat) : Nat :=
  let m := s.meta_ pa
  let low := boolNat m.z * 2 ^ 17 + boolNat m.ep * 2 ^ 16 + m.ver % 2 ^ 16
  Config.eccCode ((List.range 16).map fun k => storedByte s (pa / 16 * 16 + k)) low % 2 ^ 14 * 2 ^ 18 + low
/-- The bank of a scratchpad offset in an allocation of swizzle code w (R175). -/
def bankOf (w a : Nat) : Nat :=
  let low := fieldN a 7 4
  if 6 ≤ w then low
  else if w = 5 then low ^^^ fieldN a 12 9
  else low ^^^ (a / 2 ^ (w + 4) % 16 &&& (0xF * 2 ^ (4 - w) % 16))
/-- The row of a scratchpad offset in its bank (R174). -/
def rowOf (a : Nat) : Nat := fieldN a 16 8
/-- n bytes from a physical address. -/
def readPhys (s : State) (pa n : Nat) : List Byte := (List.range n).map fun k => readByte s (pa + k)
/-- The little-endian value of n bytes. -/
def readLe (s : State) (pa n : Nat) : Nat := fromBytes (readPhys s pa n)

/-- The number that a rekey names the region of an address by (R187): an edge region's (R504), or after all of those the handle of the block
whose scratchpad it is (DESIGN CHOICE, log entry 37: R504 gives a scratchpad its key by its block, and no region). -/
def rekeyRegion? (s : State) (pa : Nat) : Option Nat :=
  if pa < edgeEnd then some (pa / 2 ^ 21) else (spadOwner s pa).map fun h => edgeEnd / 2 ^ 21 + h
/-- Is a rekey of an address's region incomplete: its event is on its way, or its sweep runs (R187). -/
def rekeying (s : State) (pa : Nat) : Bool :=
  (s.wafer.sweeps.any fun w => !w.swept && rekeyRegion? s pa == some w.region) ||
    s.due.any fun i => match i with | .regionRekey r _ => rekeyRegion? s pa == some r | _ => false
/-- Would a write of the line invert EP while its region's previous rekey is incomplete (R187). -/
def rekeyBlocked (s : State) (pa : Nat) : Bool := (s.meta_ pa).ver == 0xFFFF && rekeying s pa
/-- The side bits after a write of a line at a physical address (R186, R187): VER rises modulo 2^16, a wrap inverts EP, Z clears. -/
def sideWritten (s : State) (pa : Nat) (m : LineMeta) : LineMeta :=
  let wrap := m.ver == 0xFFFF
  let ep := m.ep != wrap
  { m with z := false, ep := ep, ver := if wrap then 0 else m.ver + 1, key := keyAt s pa ep, poisoned := false, ecc := 0 }
/-- The region-rekey event of a write that wraps VER (R187). -/
def noteWrap (s : State) (pa : Nat) (m : LineMeta) : State :=
  match (if m.ver == 0xFFFF then rekeyRegion? s pa else none) with
  | some r => s.addDueOnce (.regionRekey r (boolNat m.ep))
  | none => s

/-- One line written from byte pa on with bytes that lie inside it (R186, R187): the rest keeps its plaintext, VER rises, Z clears, a
wrap of VER inverts EP and makes a region-rekey event due. -/
def writeLine (s : State) (pa : Nat) (bs : List Byte) : State :=
  let l := pa / 16 * 16
  let m := s.meta_ pa
  let keep := !m.z && !m.bad && m.key == keyAt s pa m.ep
  let old := if keep then s.mem else memWrites s.mem l (readPhys s l 16)
  noteWrap { s with mem := memWrites old pa bs, lines := mset s.lines (pa / 16) (sideWritten s pa m) } pa m
/-- Bytes written from a physical address, line by line; the fuel is the number of bytes. -/
def writePhysFuel : Nat → State → Nat → List Byte → State
  | 0, s, _, _ => s
  | f + 1, s, pa, bs =>
    if bs = [] then s
    else
      let n := 16 - pa % 16
      writePhysFuel f (writeLine s pa (bs.take n)) (pa + n) (bs.drop n)
/-- Bytes written from a physical address. -/
def writePhys (s : State) (pa : Nat) (bs : List Byte) : State := writePhysFuel bs.length s pa bs
/-- Lines made to read as zero (R177, R501). -/
def zeroLines (s : State) (pa n : Nat) : State :=
  { s with
    mem := s.mem.filter fun c => decide (c.1 < pa) || decide (pa + n ≤ c.1)
    lines := s.lines.map fun p => if pa / 16 ≤ p.1 ∧ p.1 < (pa + n) / 16 then (p.1, { p.2 with z := true }) else p }

/-! ## Translation -/

/-- What an access does (Table 15.8 ACCESS, R477). -/
inductive AccKind where
  | read | write | exec | atomic
deriving DecidableEq, Repr
/-- ACCESS of Table 15.8. -/
def AccKind.code : AccKind → Nat
  | .read => 0 | .write => 1 | .exec => 2 | .atomic => 1
/-- Who makes an access (R479). -/
inductive Who where
  | tile | zephyr | core | image
deriving DecidableEq, Repr

/-- A page fault (Table 15.8). -/
structure PFault where
  stage : Nat
  kind : Nat
  tlevel : Nat := 0
  walk : Bool := false
deriving DecidableEq, Repr
/-- NOTPRESENT to ROOT of Table 15.8. -/
def pfNotPresent : Nat := 1
/-- PERM. -/
def pfPerm : Nat := 2
/-- MALFORMED. -/
def pfMalformed : Nat := 3
/-- MISALIGN. -/
def pfMisalign : Nat := 4
/-- RANGE. -/
def pfRange : Nat := 5
/-- OWNER. -/
def pfOwner : Nat := 6
/-- ROOT. -/
def pfRoot : Nat := 7
/-- The information word of Table 15.8. -/
def PFault.info (f : PFault) (a : AccKind) : Nat :=
  boolNat f.walk * 2 ^ 15 + f.tlevel % 8 * 2 ^ 12 + a.code * 2 ^ 10 + f.stage * 2 ^ 8 + f.kind

/-- A stage to walk (Table 15.6): its number, its root, the tenant that owns it, the partition of its last-level TLB entries. -/
structure Stage where
  num : Nat
  root : Nat
  owner : Nat
deriving DecidableEq, Repr
/-- A leaf found by a walk. -/
structure Leaf where
  stage : Nat
  level : Nat
  entry : Nat
  inp : Nat := 0
  /-- The table words that its walk has read (R525). -/
  path : List Nat := []
deriving DecidableEq, Repr

/-- The stages of a tenant's work at an island that are not bypassed (R475, Table 15.6). -/
def stagesOf (s : State) (i t : Nat) : List Stage :=
  if t = 0 then (if rootOf s i 0 1 = 0 then [] else [⟨1, rootOf s i 0 1, 0⟩])
  else if sliceOf t = 0 then [⟨1, rootOf s i t 1, t⟩, ⟨3, rootOf s i t 3, 0⟩]
  else [⟨1, rootOf s i t 1, t⟩, ⟨2, rootOf s i (partTenant t) 2, partTenant t⟩, ⟨3, rootOf s i (partTenant t) 3, 0⟩]

/-- The ownership part of R479 for an owner tenant and a world: VALID, KIND, WORLD, owner. -/
def ownerOk (e owner : Nat) (world : Bool) : Bool :=
  fieldN e 31 31 == 1 && fieldN e 29 28 != 0 && (fieldN e 30 30 == 1) == world &&
  (owner == 0 || (fieldN e 27 16 == partOf owner &&
    (if sliceOf owner == 0 then fieldN e 15 4 == 0 else fieldN e 15 4 == sliceOf owner || fieldN e 15 4 == 0xFFF)))
/-- The check of R479 for an access to edge memory. -/
def pageOk (s : State) (pa owner : Nat) (world : Bool) (who : Who) (acc : AccKind) : Bool :=
  let e := potEntry s pa
  let kind := fieldN e 29 28
  ownerOk e owner world &&
  (match who with
   | .image => kind == 2
   | .core => kind != 3 || acc == .write
   | .tile | .zephyr => kind == 1)
/-- The check of R479 for a walker's read of a table page. -/
def tablePageOk (s : State) (pa owner : Nat) (world : Bool) : Bool :=
  decide (pa < edgeEnd) && ownerOk (potEntry s pa) owner world && fieldN (potEntry s pa) 29 28 == 3

/-- INDEX (R476). -/
def tableIndex (stage inp lv : Nat) : Nat :=
  if lv = 4 then (if stage = 1 then fieldN inp 53 48 else fieldN inp 51 48) else inp / 2 ^ (12 + 9 * lv) % 512
/-- RESERVEDSET (R477). -/
def reservedSet (e : Nat) : Bool :=
  fieldN e 63 52 != 0 || fieldN e 11 8 != 0 || (fieldN e 1 1 == 0 && fieldN e 7 2 != 0)

/-- How an address was resolved: a page fault, or an output Table 1.6 does not list. -/
inductive XFault where
  | page (f : PFault)
  | hole (pa : Nat)
deriving DecidableEq, Repr
/-- A fault met while a later stage translates a table address (Table 15.8 WALK). -/
def XFault.inWalk : XFault → XFault
  | .page f => .page { f with walk := true }
  | f => f
/-- OWNER of a table page that a walk has reached at table level lv through those leaves: the walk that gave its address is the later stage's,
stopped at that stage's leaf (log entry 74). -/
def ownerInWalk (lv : Nat) (leaves : List Leaf) : PFault :=
  match leaves.getLast? with
  | some l => ⟨3, pfOwner, l.level, true⟩
  | none => ⟨3, pfOwner, lv, false⟩
/-- Is a position a compute tile that is present (R22, R35). -/
def tilePresent (s : State) (t : Nat) : Bool :=
  decide (t < 256 * 192) && !isIslandSlot (clusterOf t) &&
  (let f := mget s.wafer.tables {} (fieldOf t)
   !f.absentTiles.contains t && !f.absentClusters.contains (clusterOf t))
/-- Does Table 1.6 list a physical address. -/
def physListed (s : State) (pa : Nat) : Bool :=
  decide (pa < edgeEnd) || (decide (2 ^ 50 ≤ pa) && decide (pa < 2 ^ 51)) ||
  (decide (spadBase 0 ≤ pa) && decide (pa < spadBase (256 * 192)) && tilePresent s ((pa - spadBase 0) / 0x20000)) ||
  (decide (0xF000000000000 ≤ pa) && decide (pa < 2 ^ 52))

/-- The levels of one stage (R477), from table level lv down; tr translates a table address through the later stages. -/
def walkLevels (s : State) (world : Bool) (st : Stage) (tr : Nat → Except XFault (Nat × List Leaf)) (inp : Nat) :
    Nat → Nat → Except XFault (Nat × Leaf)
  | fuel, t =>
    match fuel with
    | 0 => .error (.page ⟨st.num, pfMalformed, 0, false⟩)
    | lv + 1 =>
      match tr (t + 8 * tableIndex st.num inp lv) with
      | .error f => .error f.inWalk
      | .ok (pa, leaves) =>
        match leaves.find? fun l => fieldN l.entry 2 2 == 0 with
        | some l => .error (.page ⟨l.stage, pfPerm, l.level, true⟩)
        | none =>
          if physListed s pa = false then .error (.hole pa)
          else if tablePageOk s pa st.owner world = false then .error (.page (ownerInWalk lv leaves))
          else
            let e := readLe s pa 8
            if fieldN e 0 0 = 0 then .error (.page ⟨st.num, pfNotPresent, lv, false⟩)
            else if reservedSet e || (fieldN e 1 1 == 1 && decide (3 ≤ lv)) || (fieldN e 1 1 == 0 && lv == 0) || fieldN e 7 6 == 3 then
              .error (.page ⟨st.num, pfMalformed, lv, false⟩)
            else if fieldN e 1 1 = 1 then
              let size := 2 ^ (12 + 9 * lv)
              let base := fieldN e 51 12 * 4096
              if base % size ≠ 0 then .error (.page ⟨st.num, pfMisalign, lv, false⟩)
              else .ok (base + inp % size, ⟨st.num, lv, e, inp, pa :: leaves.flatMap Leaf.path⟩)
            else
              match walkLevels s world st tr inp lv (fieldN e 51 12 * 4096) with
              | .error f => .error f
              | .ok (out, l) => .ok (out, { l with path := pa :: leaves.flatMap Leaf.path ++ l.path })

/-- A walk through a list of stages: the output and the leaves, in stage order (R475-R477). The last-level TLB answers for a 1 GiB leaf of
stage 3 that it holds (R480). -/
def walkStages (s : State) (i : Nat) (part : Nat) (world : Bool) : List Stage → Nat → Except XFault (Nat × List Leaf)
  | [], inp => .ok (inp, [])
  | st :: later, inp =>
    if 2 ^ (if st.num = 1 then 54 else 52) ≤ inp then .error (.page ⟨st.num, pfRange, 4, false⟩)
    else
      match (if st.num = 3 then ((s.island i).lltlb.find? fun e => e.1 == part && e.2.1 == inp / 2 ^ 30) else none) with
      | some e => .ok (fieldN e.2.2 51 12 * 4096 + inp % 2 ^ 30, [⟨3, 2, e.2.2, inp, []⟩])
      | none =>
        if st.root = 0 then .error (.page ⟨st.num, pfRoot, 4, false⟩)
        else
          match walkLevels s world st (walkStages s i part world later) inp 5 st.root with
          | .error f => .error f
          | .ok (out, leaf) =>
            match walkStages s i part world later out with
            | .error f => .error f
            | .ok (out', leaves) => .ok (out', leaf :: leaves)

/-- An effective translation (R477). -/
structure Trans where
  out : Nat
  size : Nat
  r : Bool := true
  w : Bool := true
  x : Bool := true
  tp : Bool := false
  leaves : List Leaf := []
deriving DecidableEq, Repr
/-- The permissions combined over the leaves (R477). -/
def effective (out : Nat) (leaves : List Leaf) : Trans :=
  { out := out
    size := leaves.foldl (fun m l => min m (2 ^ (12 + 9 * l.level))) (2 ^ 30)
    r := leaves.all fun l => fieldN l.entry 2 2 == 1
    w := leaves.all fun l => fieldN l.entry 3 3 == 1
    x := leaves.all fun l => fieldN l.entry 4 4 == 1
    tp := leaves.any fun l => fieldN l.entry 5 5 == 1
    leaves := leaves }
/-- The first leaf that lacks a permission bit, as a PERM fault. -/
def permFault (ls : List Leaf) (k : Nat) : Option PFault :=
  (ls.find? fun l => fieldN l.entry k k == 0).map fun l => ⟨l.stage, pfPerm, l.level, false⟩
/-- The permission check of R477; image traffic needs none. -/
def permCheck (t : Trans) (who : Who) (acc : AccKind) : Option PFault :=
  if who = .image then none
  else match acc with
    | .read => permFault t.leaves 2
    | .write => permFault t.leaves 3
    | .atomic => match permFault t.leaves 2, permFault t.leaves 3 with
      | some a, some b => some (if b.stage < a.stage then b else a)
      | a, b => a.or b
    | .exec =>
      match permFault t.leaves 4 with
      | some f => some f
      | none =>
        if t.w && (who = .tile || who = .zephyr) then
          some (match t.leaves with
            | l :: _ => ⟨l.stage, pfPerm, l.level, false⟩
            | [] => ⟨1, pfPerm, 0, false⟩)
        else none

/-- The ownership check by where the output lies, of work of a tenant in a world (R479); lv is the table level at which the walk ended. -/
def outputCheckAs (s : State) (world : Bool) (t : Nat) (who : Who) (acc : AccKind) (pa lv : Nat) : Option XFault :=
  let owner := some (XFault.page ⟨3, pfOwner, lv, false⟩)
  if physListed s pa = false then some (.hole pa)
  else if pa < edgeEnd then (if pageOk s pa t world who acc then none else owner)
  else if pa < 2 ^ 51 then (if world then owner else none)
  else if pa < 0xF000000000000 then (if who = .core && t = 0 then none else owner)
  else (if who = .core then none else owner)

/-- The ownership check of a tenant's own work. -/
def outputCheck (s : State) (t : Nat) (who : Who) (acc : AccKind) (pa lv : Nat) : Option XFault := outputCheckAs s (worldOf s t) t who acc pa lv
/-- Control space is reached from level 1 and 2 through a 4 KiB leaf of stage 3 only (R474). -/
def controlLeaf (t : Nat) (who : Who) (out : Nat) (leaves : List Leaf) : Bool :=
  !(who == .core && t != 0 && decide (0xF000000000000 ≤ out)) || leaves.any fun l => l.stage == 3 && l.level == 0
/-- The table level at which a walk through those leaves ended: its last stage's (Table 15.8; log entry 74). -/
def endLevel (leaves : List Leaf) : Nat := (leaves.getLast?.map Leaf.level).getD 0
/-- The effective translation of an edge-window address by a walk, its permissions checked: or the fault (R475-R477). -/
def walk (s : State) (i t : Nat) (who : Who) (acc : AccKind) (va : Nat) : Except XFault Trans :=
  match walkStages s i (partOf t) (worldOf s t) (stagesOf s i t) va with
  | .error f => .error f
  | .ok (out, leaves) => match permCheck (effective out leaves) who acc with
    | some f => .error (.page f)
    | none => .ok (effective out leaves)
/-- Translation of an edge-window address by a walk, with the ownership check of its output: the effective translation, or the fault (R475-R479). -/
def translate (s : State) (i t : Nat) (who : Who) (acc : AccKind) (va : Nat) : Except XFault Trans :=
  match walk s i t who acc va with
  | .error f => .error f
  | .ok tr =>
    match outputCheck s t who acc tr.out (endLevel tr.leaves) with
    | some f => .error f
    | none => if controlLeaf t who tr.out tr.leaves then .ok tr else .error (.page ⟨3, pfOwner, endLevel tr.leaves, false⟩)

/-! ## TLBs (R480, R481) -/

/-- The size a fill installs: the effective size up to 2 MiB, or 4 KiB when some other page of it fails R479 (R480). -/
def fillSize (s : State) (t : Nat) (who : Who) (acc : AccKind) (tr : Trans) : Nat :=
  let sz := min tr.size (2 ^ 21)
  if sz = 4096 then 4096
  else if (List.range (sz / 4096)).all fun k => (outputCheck s t who acc (tr.out / sz * sz + 4096 * k) 0).isNone then sz else 4096
/-- The cluster TLB filled with a translation (R480). -/
def fillTlb (s : State) (n t : Nat) (who : Who) (acc : AccKind) (va : Nat) (tr : Trans) : State :=
  let sz := fillSize s t who acc tr
  let e : TlbEntry :=
    { page := va / sz * sz, size := sz, tenant := t, world := worldOf s t, out := tr.out / sz * sz
      r := tr.r, w := tr.w, x := tr.x, tp := tr.tp, kind := fieldN (potEntry s tr.out) 29 28 }
  let c := s.cluster n
  s.setCluster n { c with tlb := (e :: c.tlb).take 1024 }
/-- The last-level TLB filled with the 1 GiB stage-3 leaf of a translation, if it has one (R480). -/
def fillLast (s : State) (i t : Nat) (tr : Trans) : State :=
  match tr.leaves.find? fun l => l.stage == 3 && l.level == 2 with
  | none => s
  | some l =>
    let isl := s.island i
    let e := (partOf t, l.inp / 2 ^ 30, l.entry)
    if isl.lltlb.contains e then s else s.setIsland i { isl with lltlb := (e :: isl.lltlb).take 512 }
/-- What a walk leaves: the errors of the table words it has read are met, and the TLBs are filled. -/
def walked (s : State) (n t : Nat) (who : Who) (acc : AccKind) (va : Nat) (tr : Trans) : State :=
  meetWords (fillLast (fillTlb s n t who acc va tr) (homeIsland n) t tr) (tr.leaves.flatMap Leaf.path)
/-- The entry of the cluster TLB that translates an address. -/
def tlbFind? (s : State) (n t va : Nat) : Option TlbEntry :=
  (s.cluster n).tlb.find? fun e => e.tenant == t && e.world == worldOf s t && decide (e.page ≤ va) && decide (va < e.page + e.size)
/-- Does a TLB entry serve an access (permissions and page kind); otherwise the walk decides. -/
def tlbServes (e : TlbEntry) (who : Who) (acc : AccKind) : Bool :=
  match who with
  | .image => e.kind == 2 && decide (e.out < edgeEnd)
  | _ => (decide (edgeEnd ≤ e.out) || e.kind == 1) &&
    (match acc with
     | .read => e.r
     | .write => e.w
     | .atomic => e.r && e.w
     | .exec => e.x && !e.w)

/-- Translation for a tile of cluster n through the cluster TLB (R34, R480): the output, whether the page is tile-private, and the state with the fill. -/
def tileTranslate (s : State) (n t : Nat) (who : Who) (acc : AccKind) (va : Nat) : Except XFault (Nat × Bool × State) :=
  match tlbFind? s n t va with
  | some e =>
    if tlbServes e who acc then .ok (e.out + (va - e.page), e.tp, s)
    else
      match translate s (homeIsland n) t who acc va with
      | .error f => .error f
      | .ok tr => .ok (tr.out, tr.tp, walked s n t who acc va tr)
  | none =>
    match translate s (homeIsland n) t who acc va with
    | .error f => .error f
    | .ok tr => .ok (tr.out, tr.tp, walked s n t who acc va tr)

end Sys2Proof.Machine
end

