-- ==== Sys2Proof/Machine/Rekey.lean ====
section
/-! DEFINITION. The rekey of a region (R187, R504, R505): its lines rewritten under the other epoch, and the writes that wait for that. -/

namespace Sys2Proof.Machine

/-! ## Copies in a data cache -/

/-- The side bits of line k of a block. -/
def DBlock.side (b : DBlock) (k : Nat) : LineMeta := b.sides.getD k {}
/-- n bytes of a block, from a physical address that lies in it. -/
def blockBytes (s : State) (b : DBlock) (pa n : Nat) : List Byte :=
  (List.range n).map fun k => decipher s (pa + k) (b.side ((pa + k) % 64 / 16)) (byteAt b.bytes ((pa + k) % 64))

/-! ## The sweep (R505) -/

/-- A cached copy of a line re-enciphered with it: its plaintext as it was. -/
def sweepCopy (s : State) (e : Bool) (pa : Nat) (b : DBlock) : DBlock :=
  let j := pa % 64 / 16
  let m := b.side j
  if b.pblock ≠ pa / 64 ∨ m.ep ≠ e then b
  else { b with
    bytes := b.bytes.take (16 * j) ++ blockBytes s b pa 16 ++ b.bytes.drop (16 * j + 16)
    sides := b.sides.set j { m with ep := !e, ver := 0, key := keyAt s pa !e } }
/-- The physical address of a read-set entry's line, none for a layout record. -/
def entryAddr? (s : State) : Loc → Option Nat
  | .spad h o => (s.block? h).map fun b => spadBase b.tile + o
  | .phys pa => some pa
  | .record _ _ => none
/-- One line re-enciphered under the other epoch: its plaintext and its Z as they were, VER 0, also in the read-set entries of the line (R505). -/
def sweepLine (s : State) (e : Bool) (l : Nat) : State :=
  let pa := 16 * l
  let m := s.meta_ pa
  if m.ep ≠ e then s
  else
    let k := keyAt s pa !e
    { s with
      mem := if m.z || m.key = keyAt s pa m.ep then s.mem else memWrites s.mem pa (readPhys s pa 16)
      lines := mset s.lines l { m with ep := !e, ver := 0, key := k }
      tiles := s.tiles.map fun p => (p.1, { p.2 with dcache := p.2.dcache.map (sweepCopy s e pa) })
      tasks := s.tasks.map fun (p : Nat × Task) =>
        (p.1, { p.2 with reads := p.2.reads.map fun r => if entryAddr? s r.line = some pa then { r with ver := 0 } else r }) }
/-- An edge region swept: every line of the epoch rewritten, then its generation replaced in the table. -/
def sweepEdge (s : State) (w : Sweep) : State :=
  let s := (List.range 131072).foldl (fun s k => sweepLine s w.epoch (w.region * 131072 + k)) s
  let at_ := s.wafer.rgtbase.toNat + 8 * w.region
  let g := max (rawLe s at_ 4) (rawLe s (at_ + 4) 4) + 1
  writePhys s (at_ + if w.epoch then 4 else 0) (toBytes 4 g)
/-- The scratchpad of block h swept: every line of its allocations; the new generation comes from the cluster's placement counter, which has
given out neither of the block's nor any that a later block may get (R504; log entry 37). -/
def sweepScratch (s : State) (w : Sweep) (h : Nat) (b : Block) : State :=
  let s := (s.tile b.tile).allocs.foldl (fun s a =>
    if a.handle = h then (List.range (a.size / 16)).foldl (fun s k => sweepLine s w.epoch ((spadBase b.tile + a.off) / 16 + k)) s else s) s
  let n := clusterOf b.tile
  let g := (s.cluster n).placement
  let s := s.setCluster n { s.cluster n with placement := g + 1 }
  s.setBlock h { b with gens := if w.epoch then (b.gens.1, g) else (g, b.gens.2) }
/-- A sweep carried out, whatever its region. -/
def sweepRegion (s : State) (w : Sweep) : State :=
  if w.region < edgeEnd / 2 ^ 21 then sweepEdge s w
  else match s.block? (w.region - edgeEnd / 2 ^ 21) with
    | some b => sweepScratch s w (w.region - edgeEnd / 2 ^ 21) b
    | none => s
/-- REGION_REKEY (R187, R505): the sweep of an epoch of a region begins. -/
def beginSweep (s : State) (region : Nat) (epoch : Bool) : State :=
  ({ s with wafer := { s.wafer with sweeps := s.wafer.sweeps ++ [{ region := region, epoch := epoch }] } } : State).addDueOnce (.sweepComplete region)

/-! ## Waiting writes (R187) -/

/-- The rekey of a region completed: an event on its way starts its sweep, and the sweeps of the region rewrite their lines; their REKEY event
stays due. -/
def finishRekey (s : State) (region : Nat) : State :=
  let s := (s.due.filter fun i => match i with | .regionRekey r _ => r == region | _ => false).foldl (fun s i =>
    match i with
    | .regionRekey r e => beginSweep (s.dropDue i) r (e == 1)
    | _ => s) s
  let s := (s.wafer.sweeps.filter fun w => w.region == region && !w.swept).foldl sweepRegion s
  { s with wafer := { s.wafer with sweeps := s.wafer.sweeps.map fun w => if w.region = region then { w with swept := true } else w } }
/-- A write of a line that would invert EP again waits until the rekey completes: the wait passes inside the step (DESIGN CHOICE, log entry 94). -/
def awaitRekey (s : State) (pa : Nat) : State :=
  if rekeyBlocked s pa then (match rekeyRegion? s pa with | some r => finishRekey s r | none => s) else s
/-- Bytes written from a physical address by hardware, each line after the rekey that it waits for; the fuel is the number of bytes. -/
def putPhysFuel : Nat → State → Nat → List Byte → State
  | 0, s, _, _ => s
  | f + 1, s, pa, bs =>
    if bs = [] then s
    else
      let n := 16 - pa % 16
      putPhysFuel f (writeLine (awaitRekey s pa) pa (bs.take n)) (pa + n) (bs.drop n)
/-- Bytes written from a physical address by hardware (R186, R187). -/
def putPhys (s : State) (pa : Nat) (bs : List Byte) : State := putPhysFuel bs.length s pa bs

end Sys2Proof.Machine
end

