-- ==== Sys2Proof/Machine/Ops.lean ====
section
/-! DEFINITION. The shared operations of every instruction: context images (R141-R145), code fetch and target checks (R47-R49), the loop-end
action and transfers (R167, R168), fault messages (R39, R483), and taking a trap, an exception or a copy fault (R138, R291, R454, R469). -/

namespace Sys2Proof.Machine

/-! ## Traps -/

/-- A trap, exception or copy fault before it is taken: cause code, engine number (R136), TRADDR, TRINFO, and TRPC when it is not the
instruction itself. -/
structure Trap where
  code : Nat
  engine : Nat := 0
  addr : Word := 0
  info : Word := 0
  pc : Option Word := none
deriving DecidableEq, Repr

/-- How an instruction ends other than by retiring: a precise trap, a wait at issue, a page-fault handover (R454). -/
inductive Stop where
  | trap (t : Trap)
  | wait
  | handover (t : Trap)
  /-- The interval has been committed, or what the instruction does first has been done, in that state; then it traps or waits. -/
  | kept (s : State) (t : Option Trap)
  /-- The task must become serialising first (R206, R207). -/
  | serialise
deriving DecidableEq, Repr

/-- Engine numbers of Table 1.7. -/
def engScalar : Nat := 0
/-- Local memory. -/
def engLocal : Nat := 1
/-- Vector. -/
def engVector : Nat := 2
/-- Table interpolation. -/
def engInterp : Nat := 3
/-- Matrix. -/
def engMatrix : Nat := 4
/-- Zephyr. -/
def engZephyr : Nat := 5
/-- Jetstream. -/
def engJetstream : Nat := 6
/-- Task. -/
def engTask : Nat := 7
/-- Forecast. -/
def engForecast : Nat := 8
/-- Residency. -/
def engResidency : Nat := 9
/-- Island. -/
def engIsland : Nat := 10
/-- Trust. -/
def engTrust : Nat := 11

/-- The trap of a translation fault (Table 5.6: PAGEFAULT with the word of Table 15.8, PHYSHOLE with the address). -/
def xTrap (f : XFault) (acc : AccKind) (p : Word) : Trap :=
  match f with
  | .page g => { code := 0x16, engine := engScalar, addr := p, info := w64 (g.info acc) }
  | .hole pa => { code := 0x13, engine := engLocal, addr := w64 pa }

/-! ## Who an agent works for -/

/-- The tile of an agent; an island core's is its island's slot. -/
def agentTile : Agent → Nat
  | .thread t _ => t
  | .zephyr t _ => t
  | .core i _ => clusterTile (islandCluster i) 0
/-- The tenant of a block, 0 without one. -/
def blockTenant (s : State) (h : Nat) : Nat := match s.block? h with | some b => b.tenant | none => 0
/-- CSTATUS.TENANT (Table 15.1). -/
def coreTenant (c : Core) : Nat := fld c.cstatus 31 8
/-- CSTATUS.LEVEL (Table 15.1). -/
def coreLevel (c : Core) : Nat := fld c.cstatus 1 0
/-- The tenant whose work an agent does (R466). -/
def agentTenant (s : State) : Agent → Nat
  | .thread t c => blockTenant s (s.ctx t c).handle
  | .core i k => coreTenant (s.core i k)
  | .zephyr t zc => match s.zreqOf? t zc with | some r => r.tenant | none => 0
/-- The home island of an agent (R25), or the core's own. -/
def agentIsland (a : Agent) : Nat :=
  match a with
  | .core i _ => i
  | a => homeIsland (clusterOf (agentTile a))
/-- A level-0 core with XLATE = 0 (R35). -/
def physicalCore (c : Core) : Bool := coreLevel c == 0 && !bitOf c.cstatus 6
/-- Translation of an edge-window address for an agent; a level-0 core with XLATE = 0 issues bits [51:0] as physical (Table 15.1). -/
def agentTranslate (s : State) (a : Agent) (acc : AccKind) (va : Nat) : Except XFault (Nat × Bool × State) :=
  match a with
  | .thread t _ => tileTranslate s (clusterOf t) (agentTenant s a) .tile acc va
  | .zephyr t _ => tileTranslate s (clusterOf t) (agentTenant s a) .zephyr acc va
  | .core i k =>
    if physicalCore (s.core i k) then
      (if physListed s (va % 2 ^ 52) then .ok (va % 2 ^ 52, false, s) else .error (.hole (va % 2 ^ 52)))
    else
      match translate s i (agentTenant s a) .core acc va with
      | .error f => .error f
      | .ok tr => .ok (tr.out, tr.tp, meetWords (fillLast s i (agentTenant s a) tr) (tr.leaves.flatMap Leaf.path))

/-! ## Code lines (R47-R49) -/

/-- The half-words of 64 bytes. -/
def codeLineOf : List Byte → CodeLine
  | a :: b :: r => (b ++ a : BitVec 16) :: codeLineOf r
  | _ => []
/-- The instruction cache an agent fetches from. -/
def icacheOf (s : State) : Agent → List (Nat × Nat × Nat × CodeLine)
  | .core i k => (s.core i k).icache
  | a => (s.tile (agentTile a)).icache
/-- The code line cached for an address. -/
def cachedLine? (s : State) (a : Agent) (va : Nat) : Option CodeLine :=
  ((icacheOf s a).find? fun e => e.1 == agentTenant s a && e.2.1 == va / 64).map fun e => e.2.2.2
/-- The code line at an address: cached, or read through a translation that grants execution (R48, R49); its physical line when read. -/
def readCodeLine (s : State) (a : Agent) (va : Nat) : Except XFault (CodeLine × Option Nat × State) :=
  match cachedLine? s a va with
  | some l => .ok (l, none, s)
  | none =>
    match agentTranslate s a .exec (va / 64 * 64) with
    | .error f => .error f
    | .ok (pa, _, s') => .ok (codeLineOf (readPhys s' pa 64), some (pa / 64), meetAt s' pa 64)
/-- A code line installed in an agent's instruction cache of 256 lines (R49, Table 1.3). -/
def installLine (s : State) (a : Agent) (va pl : Nat) (l : CodeLine) : State :=
  let e := (agentTenant s a, va / 64, pl, l)
  match a with
  | .core i k => let c := s.core i k; s.setCore i k { c with icache := (e :: c.icache).take 256 }
  | a => let t := s.tile (agentTile a); s.setTile (agentTile a) { t with icache := (e :: t.icache).take 256 }
/-- The edge window of Table 1.5. -/
def inEdgeWindow (a : Nat) : Bool := decide (0x40000000 ≤ a) && decide (a < 0x3FFE0000000000)
/-- Checks a transfer target under R48: BADTARGET, or the fault of reading its code line. -/
def checkTarget (s : State) (a : Agent) (pc : Word) (t : Nat) : Except Stop CodeLine :=
  let bad : Except Stop CodeLine := .error (.trap { code := 0x03, engine := engScalar, info := w64 t, pc := some pc })
  let slot := t % 64 / 2
  if !inEdgeWindow t || t % 2 == 1 || slot == 0 then bad
  else match readCodeLine s a t with
    | .error f => .error (.trap { xTrap f .exec (w64 t) with addr := w64 t, pc := some pc })
    | .ok (l, _, _) => if heads l < slot then bad else .ok l
/-- NEXT(a) on a code line (R47). -/
def nextOn (l : CodeLine) (a : Nat) : Nat := if a % 64 / 2 < heads l then a + 2 else (a / 64 + 1) * 64 + 2
/-- The successor that a thread's outstanding instruction took from its code line when it issued. -/
def keptNext (s : State) : Agent → Option Word
  | .thread t c => (s.ctx t c).succ
  | _ => none
/-- NEXT(a), a 54-bit address (R47): from the code line that the instruction issued from. An instruction that issues has its line cached, so the
last case is met only where exec is applied by itself. -/
def nextPc (s : State) (ag : Agent) (a : Nat) : Nat :=
  match keptNext s ag with
  | some n => n.toNat
  | none => match readCodeLine s ag a with
    | .ok (l, _, _) => nextOn l a % 2 ^ 54
    | .error _ => (a + 2) % 2 ^ 54
/-- The head and tail of the instruction at an agent's PC, from its instruction cache. -/
def curWords (s : State) (ag : Agent) (pc : Nat) : Nat × Nat :=
  match cachedLine? s ag pc with
  | some l => (halfWord l (pc % 64 / 2), tailOf l (pc % 64 / 2))
  | none => (0, 0)

/-! ## STATUS and loop fields (Table 5.2, R135) -/

/-- LDEPTH [5:4]. -/
def ldepth (r : Regs) : Nat := fld r.status 5 4
/-- INTRAP [6]. -/
def intrap (r : Regs) : Bool := bitOf r.status 6
/-- STEP [7]. -/
def stepping (r : Regs) : Bool := bitOf r.status 7
/-- Has a thread an engine operation that has not completed: a matrix operation or a table load (R65). -/
def engineBusy (s : State) (t c : Nat) : Bool :=
  ((s.tile t).matq.any fun o => o.ctx == c) || (s.tile t).ibufs.any fun b => b.loading && b.ctx == some c
/-- Does a context hold live vector, stream or accumulator state (R229, R303). -/
def anchored (x : Ctx) : Bool :=
  x.vec.vlive != 0 || x.vec.s.toList.any (fun m => m.bound) || x.mat.a.toList.any (fun m => m.live)
/-- ANCHORED: that state, or a matrix operation outstanding in the engine (R303). -/
def isAnchored (s : State) (t c : Nat) : Bool := anchored (s.ctx t c) || (s.tile t).matq.any fun o => o.ctx == c
/-- TAINT of a task (R418): the largest depth among its sources, an instance 1, a tainted task one more than its own; never above 4 (R420), also
where the TAINT of a running pusher has risen to 4 since (DESIGN CHOICE, log entry 96). -/
def taintDepth (s : State) : Nat → Nat → Nat
  | 0, _ => 0
  | f + 1, k => match s.task? k with
    | none => 0
    | some x => ((x.taint.map fun _ => 1) ++ x.readFrom.map fun r => let d := taintDepth s f r; if d = 0 then 0 else min 4 (d + 1)).foldl max 0
/-- Is a task tainted (R418): has it a source that has not resolved. -/
def isTainted (s : State) (k : Nat) : Bool := taintDepth s 9 k != 0
/-- Sources of a task that have not resolved (R418). -/
def sourceCount (s : State) (x : Task) : Nat := x.taint.length + (x.readFrom.filter (isTainted s)).length
/-- STATUS of a thread with its live fields: SERIAL, TAINT, WORLD, ANCHORED and LEVEL (Table 5.2). -/
def liveStatus (s : State) (t c : Nat) : Word :=
  let x := s.ctx t c
  let ten := blockTenant s x.handle
  let k := x.task.bind s.task?
  let st := setBit (statusMask x.regs.status) 14 (match k with | some k => k.serial | none => false)
  let st := setFld st 13 11 (match x.task with | some k => taintDepth s 9 k | none => 0)
  let st := setBit st 10 (worldOf s ten)
  setFld (setBit st 9 (isAnchored s t c)) 1 0 (levelOf ten)
/-- LLAST of a level. -/
def llast (r : Regs) (j : Nat) : Word := if j = 0 then r.llast0 else r.llast1
/-- LTOP of a level. -/
def ltop (r : Regs) (j : Nat) : Word := if j = 0 then r.ltop0 else r.ltop1
/-- LCNT of a level. -/
def lcnt (r : Regs) (j : Nat) : Word := if j = 0 then r.lcnt0 else r.lcnt1
/-- A level's registers zeroed and LDEPTH := j (R167). -/
def popLevel (r : Regs) (j : Nat) : Regs :=
  let r := { r with status := setFld r.status 5 4 j }
  if j = 0 then { r with lcnt0 := 0, ltop0 := 0, llast0 := 0 } else { r with lcnt1 := 0, ltop1 := 0, llast1 := 0 }
/-- A level pushed (R165). -/
def pushLevel (r : Regs) (n top last : Word) : Regs :=
  let j := ldepth r
  let r := { r with status := setFld r.status 5 4 (j + 1) }
  if j = 0 then { r with lcnt0 := n, ltop0 := top, llast0 := last } else { r with lcnt1 := n, ltop1 := top, llast1 := last }
/-- LCNT of a level decremented (R167). -/
def countDown (r : Regs) (j : Nat) : Regs := if j = 0 then { r with lcnt0 := r.lcnt0 - 1 } else { r with lcnt1 := r.lcnt1 - 1 }
/-- The loop-end action at address a, levels below n still to look at (R167). -/
def loopEnd (a : Word) : Nat → Regs → Regs
  | 0, r => r
  | j + 1, r =>
    if a = llast r j then
      if 1 < (lcnt r j).toNat then { countDown r j with pc := ltop r j } else loopEnd a j (popLevel r j)
    else r
/-- The successor of an instruction at a that retires without transferring control: NEXT(a), then the loop-end action unless INTRAP (R167). -/
def successor (r : Regs) (a next : Word) : Regs :=
  let r := { r with pc := next }
  if intrap r then r else loopEnd a (ldepth r) r
/-- Levels popped by a taken transfer to t, innermost first (R168). -/
def popOutside (t : Nat) : Nat → Regs → Regs
  | 0, r => r
  | j + 1, r => if (ltop r j).toNat ≤ t ∧ t ≤ (llast r j).toNat then r else popOutside t j (popLevel r j)
/-- A taken transfer to t; pops says whether it pops loop levels (R168). -/
def transfer (r : Regs) (t : Nat) (pops : Bool) : Regs :=
  let r := { r with pc := w64 t }
  if pops && !intrap r then popOutside t (ldepth r) r else r

/-- The state after the current agent's instruction retires and control falls through (R47, R167). -/
def State.retire (s : State) : State :=
  let r := s.regs
  { s.setRegs [2, 3] (successor r r.pc (w64 (nextPc s s.cur r.pc.toNat))) with retired := true }
/-- The state after the current agent transfers control to t; pops says whether loop levels pop (R168). -/
def State.jump (s : State) (t : Nat) (pops : Bool) : State :=
  { s.setRegs [2, 3] (transfer s.regs t pops) with retired := true }

/-! ## Context images (R141-R145) -/

/-- The doubles of image line k (Table 5.8). -/
def imageWords (r : Regs) (k : Nat) : List Word :=
  match k with
  | 0 => r.g.toList.take 8
  | 1 => r.g.toList.drop 8
  | 2 => [r.pc, r.status, r.fpstat, r.qflags, r.lcnt0, r.lcnt1, r.ltop0, r.ltop1]
  | _ => [r.llast0, r.llast1, r.tvec, r.trcause, r.trpc, r.traddr, r.trinfo, r.mprog]
/-- Double k of a list of bytes. -/
def dword (b : List Byte) (k : Nat) : Word := w64 (leAt b (8 * k) 8)
/-- The registers with image line k taken from 64 bytes (Table 5.8); reserved bits read as zero whatever the bytes hold (R14). -/
def withImageLine (r : Regs) (k : Nat) (b : List Byte) : Regs :=
  match k with
  | 0 => { r with g := Vector.ofFn fun i => if i.val < 8 then dword b i.val else r.g[i] }
  | 1 => { r with g := Vector.ofFn fun i => if i.val < 8 then r.g[i] else dword b (i.val - 8) }
  | 2 => { r with pc := pcField (dword b 0), status := statusMask (dword b 1), fpstat := dword b 2 &&& fpstatMask,
                  qflags := dword b 3 &&& qflagsMask, lcnt0 := dword b 4, lcnt1 := dword b 5, ltop0 := pcField (dword b 6),
                  ltop1 := pcField (dword b 7) }
  | _ => { r with llast0 := pcField (dword b 0), llast1 := pcField (dword b 1), tvec := pcField (dword b 2),
                  trcause := causeMask (dword b 3), trpc := pcField (dword b 4), traddr := dword b 5, trinfo := dword b 6,
                  mprog := mprogMask (dword b 7) }
/-- The physical address of a byte of a context's image through the translation of image traffic (R142). -/
def imagePhys (s : State) (t c off : Nat) (acc : AccKind) : Except XFault (Nat × State) :=
  let x := s.ctx t c
  match tileTranslate s (clusterOf t) (blockTenant s x.handle) .image acc ((x.img + off) % 2 ^ 54) with
  | .error f => .error f
  | .ok (pa, _, s') => .ok (pa, s')
/-- IMAGEFAULT on a unit of an image (Table 5.6): the address of the unit and its number. -/
def imageTrap (addr unit : Nat) : Trap := { code := 0x09, engine := engScalar, addr := w64 (addr % 2 ^ 54), info := w64 unit }
/-- Is an image line of a context in the register cache (R144). -/
def resident (s : State) (t c k : Nat) : Bool := (s.tile t).rclru.contains (c, k)
/-- SHANDLE of a context's heads: its handle and THREADID. -/
def contextSender (s : State) (t c : Nat) : Nat := (s.ctx t c).handle + (s.ctx t c).tid * 2 ^ 24
/-- Image line k of a context written back when it is dirty; it stays dirty when it cannot be translated (R142). -/
def writeBackLine (s : State) (t c k : Nat) : State × Option Trap :=
  if ((s.ctx t c).dirty.contains k && resident s t c k) = false then (s, none)
  else match imagePhys s t c (64 * k) .write with
    | .error _ => (s, some (imageTrap ((s.ctx t c).img + 64 * k) k))
    | .ok (pa, s') =>
      let e := edgeHead s' t (contextSender s' t c) pa
      let s' := if e.2 then putPhys e.1 pa (wordsBytes (imageWords { (e.1.ctx t c).regs with status := liveStatus e.1 t c } k)) else e.1
      let x := s'.ctx t c
      (s'.setCtx t c { x with dirty := x.dirty.erase k }, none)
/-- Steps on a state run in order, the first trap kept. -/
def runSteps (s : State) : List (State → State × Option Trap) → State × Option Trap
  | [] => (s, none)
  | f :: r =>
    let a := f s
    let b := runSteps a.1 r
    (b.1, a.2.or b.2)
/-- The four lines of a context written back where they are dirty (R145). -/
def writeBack (s : State) (t c : Nat) : State × Option Trap := runSteps s ([0, 1, 2, 3].map fun k s => writeBackLine s t c k)
/-- Every line and physical accumulator of a context dropped: the context has no state any more. -/
def dropLines (s : State) (t c : Nat) : State :=
  let x := s.tile t
  s.setTile t { x with rclru := x.rclru.filter fun e => e.1 != c, physAcc := x.physAcc.filter fun e => e.1 != c }
/-- The clean lines of a context dropped from the register cache, so that the image is the current copy (R143). -/
def dropClean (s : State) (t c : Nat) : State :=
  let x := s.tile t
  let d := (s.ctx t c).dirty
  s.setTile t { x with rclru := x.rclru.filter fun e => e.1 != c || d.contains e.2 }

/-! ## Extension images (R230, R231, R304-R306) -/

/-- Bytes of an extension image written through the translation of image traffic, 64-byte unit by unit; base is the image's address, first
the TRINFO of its unit 0. -/
def writeImage (s : State) (t c base first off : Nat) (bs : List Byte) : State × Option Trap :=
  runSteps s ((List.range ((bs.length + 63) / 64)).map fun k s =>
    match tileTranslate s (clusterOf t) (blockTenant s (s.ctx t c).handle) .image .write ((base + off + 64 * k) % 2 ^ 54) with
    | .error _ => (s, some (imageTrap (base + off + 64 * k) (first + off / 64 + k)))
    | .ok (pa, _, s') =>
      let e := edgeHead s' t (contextSender s' t c) pa
      (if e.2 then putPhys e.1 pa ((bs.drop (64 * k)).take 64) else e.1, none))
/-- Bytes of an extension image read in the same way. -/
def readImage (s : State) (t c base first off n : Nat) : Except Trap (List Byte × State) :=
  (List.range ((n + 63) / 64)).foldl (fun (acc : Except Trap (List Byte × State)) k =>
    match acc with
    | .error e => .error e
    | .ok (l, s) =>
      match tileTranslate s (clusterOf t) (blockTenant s (s.ctx t c).handle) .image .read ((base + off + 64 * k) % 2 ^ 54) with
      | .error _ => .error (imageTrap (base + off + 64 * k) (first + off / 64 + k))
      | .ok (pa, _, s') => .ok (l ++ readPhys s' pa (min 64 (n - 64 * k)), meetAt s' pa (min 64 (n - 64 * k)))) (.ok ([], s))
/-- Beats of a stream not yet read. -/
def Stream.remain (m : Stream) : Nat := m.total - m.pos
/-- The word of Table 7.8. -/
def streamWord (m : Stream) : Word :=
  if m.bound then
    let f := match m.ahead with | (_, some _) :: _ => true | _ => false
    w64 (2 ^ 63 + boolNat m.ended * 2 ^ 62 + boolNat f * 2 ^ 61 + m.fmt * 2 ^ 48 + m.remain)
  else 0
/-- VSTATE (Table 7.3). -/
def vstate (v : VecState) : Nat :=
  v.vlive + ((v.s.toList.mapIdx fun k m => boolNat m.bound * 2 ^ (12 + k)).foldl (· + ·) 0)
/-- The 128 bytes of a stream in the image (Table 7.2). -/
def streamBytes (m : Stream) : List Byte :=
  if m.bound then m.pattern ++ toBytes 8 m.pos ++ toBytes 8 (streamWord m).toNat ++ List.replicate 80 0 else List.replicate 128 0
/-- One half of the vector extension image (Table 7.2). -/
def vectorBytes (v : VecState) : List Byte :=
  v.v.toList.flatMap (fun x => toBytes 32 x.toNat) ++ toBytes 8 (vstate v) ++ List.replicate 120 0 ++ v.s.toList.flatMap streamBytes
/-- Streams with their prefetched beats discarded. -/
def dropBeats (v : VecState) : VecState := { v with s := Vector.ofFn fun k => { v.s[k] with ahead := [] } }
/-- The vector state of an anchored context written to the working half as it leaves its slot (R231); it stays in the slot's set when it cannot
be written (R142). -/
def vectorLeave (s : State) (t c : Nat) : State × Option Trap :=
  let x := s.ctx t c
  if anchored x = false ∨ x.extResident = false then (s, none)
  else
    let v := dropBeats x.vec
    let r := writeImage (s.setCtx t c { x with vec := v }) t c x.vimg 4 0 (vectorBytes v)
    if r.2.isSome then r else (r.1.setCtx t c { r.1.ctx t c with extResident := false }, none)
/-- The vector state a half of the image holds over an older one: formats and patterns of bound streams come with it. -/
def vectorOf (b : List Byte) (old : VecState) : VecState :=
  let vs := leAt b 384 8
  let live (k : Nat) : Bool := fieldN vs k k == 1
  { v := Vector.ofFn fun k => if live k.val then BitVec.ofNat 256 (leAt b (32 * k.val) 32) else 0
    vlive := vs % 2 ^ 12
    s := Vector.ofFn fun k =>
      let o := 512 + 128 * k.val
      let w := leAt b (o + 40) 8
      if fieldN vs (12 + k.val) (12 + k.val) = 1 then
        { old.s[k] with
          bound := true, fmt := fieldN w 51 48, pattern := (b.drop o).take 32, pos := leAt b (o + 32) 8, ended := fieldN w 62 62 == 1
          total := leAt b (o + 32) 8 + fieldN w 47 0, ahead := [] }
      else {} }
/-- MSTATE (Table 10.3). -/
def mstate (m : MatState) : Nat :=
  ((m.a.toList.mapIdx fun k a => boolNat a.live * 2 ^ k + a.mode * 2 ^ (16 + 2 * k)).foldl (· + ·) 0)
/-- The 4,096 bytes of an accumulator. -/
def accBytes (a : Acc) : List Byte := (List.range 1024).flatMap fun k => toBytes 4 (mget a.cells 0 k)
/-- The elements that 4,096 bytes hold. -/
def cellsOf (b : List Byte) : Map Nat Nat := (List.range 1024).filterMap fun k => let v := leAt b (4 * k) 4; if v = 0 then none else some (k, v)
/-- MSTATE and MCFG of a half of the matrix extension image (Table 10.4). -/
def matrixTail (m : MatState) : List Byte := toBytes 8 (mstate m) ++ toBytes 8 m.mcfg ++ List.replicate 48 0
/-- Accumulator a of a context written to the working image and clean (R305, R306). -/
def writeAcc (s : State) (t c a : Nat) : State × Option Trap :=
  let x := s.ctx t c
  let r := writeImage s t c x.mimg 64 (4096 * a) (accBytes (x.mat.a.toList.getD a {}))
  if r.2.isSome then r
  else
    let tl := r.1.tile t
    (r.1.setTile t { tl with physAcc := tl.physAcc.map fun e => if e.1 = c ∧ e.2.1 = a then (c, a, false) else e }, none)
/-- MSTATE and MCFG written to the working image; from then on they are filled from there, unless the engine still works on them. -/
def writeTail (s : State) (t c : Nat) : State × Option Trap :=
  let x := s.ctx t c
  let r := writeImage s t c x.mimg 64 16384 (matrixTail x.mat)
  if r.2.isSome then r
  else (r.1.setCtx t c { r.1.ctx t c with matResident := (s.tile t).matq.any fun o => o.ctx == c }, none)
/-- Dirty resident accumulators, MSTATE and MCFG written at a switch-out (R306). MSTATE and MCFG that are still to be filled are the image's. -/
def matrixLeave (s : State) (t c : Nat) : State × Option Trap :=
  let x := s.ctx t c
  let d := (s.tile t).physAcc.filter fun e => e.1 == c && e.2.2
  runSteps s ((d.map fun e s => writeAcc s t c e.2.1) ++ if x.matResident then [fun s => writeTail s t c] else [])
/-- The clean physical accumulators of a context that no operation uses dropped, so that the image is the current copy (R143, R304). -/
def dropCleanAccs (s : State) (t c : Nat) : State :=
  let x := s.tile t
  let busy (a : Nat) : Bool := x.matq.any fun o => o.ctx == c && o.acc == a
  s.setTile t { x with physAcc := x.physAcc.filter fun e => e.1 != c || e.2.2 || busy e.2.1 }
/-- A range that an fopen of a task holds while it waits (R415 step 7). -/
def fopenLock (k : Option Nat) (l : RangeLock) : Bool := k.isSome && l.engine == engForecast && l.task == k
/-- The ranges that a waiting fopen of the thread has registered released (R218, R415). -/
def dropFopen (s : State) (t c : Nat) : State :=
  let k := (s.ctx t c).task
  { s with tiles := s.tiles.map fun p => (p.1, { p.2 with locks := p.2.locks.filter fun l => !fopenLock k l }) }
/-- A switch-out (R145, R231, R306): every dirty line and the extension state written back; a waiting fopen ends. -/
def switchOut (s : State) (t c : Nat) : State × Option Trap :=
  let r := runSteps (dropFopen s t c) [fun s => writeBack s t c, fun s => vectorLeave s t c, fun s => matrixLeave s t c]
  (dropCleanAccs (dropClean r.1 t c) t c, r.2)
/-- Physical accumulators of a context dropped (R307, R493). -/
def dropAccs (s : State) (t c : Nat) : State :=
  let x := s.tile t
  s.setTile t { x with physAcc := x.physAcc.filter fun e => e.1 != c }
/-- The copy of an anchored thread's state in the checkpoint halves at the end of an interval (R231, R306): its vector state, and its Live
accumulators with MSTATE and MCFG. -/
def checkpointImages (s : State) (t c : Nat) : State × Option Trap :=
  let x := s.ctx t c
  if anchored x = false then (s, none)
  else
    let live := [0, 1, 2, 3].filter fun k => (x.mat.a.toList.getD k {}).live
    let accs := live.map fun k s => writeImage s t c x.mimg 64 (16448 + 4096 * k) (accBytes (x.mat.a.toList.getD k {}))
    runSteps s ([fun s => writeImage s t c x.vimg 4 1024 (vectorBytes (dropBeats x.vec))] ++ accs ++
      [fun s => writeImage s t c x.mimg 64 (16448 + 16384) (matrixTail x.mat)])

/-! ## Fault messages (R39, R483) -/

/-- The owner of a translation stage for the work of tenant t (R482). -/
def stageOwner (t stage : Nat) : Nat := if stage = 1 then t else if stage = 2 then partTenant t else 0
/-- The receiving tenant of a PAGEFAULT with an information word (Table 15.10). -/
def pageFaultReceiver (t info : Nat) : Nat :=
  if info % 256 = pfOwner ∨ info % 256 = pfRoot then 0 else stageOwner t (info / 2 ^ 8 % 4)
/-- The receiving tenant of a thread trap (Table 15.10): t the launch's tenant, region the tenant of the region being left. -/
def trapReceiver (t region code info : Nat) : Nat :=
  if code = 0x16 then pageFaultReceiver t info
  else if code = 0x17 then parentOf region
  else if code = 0x13 ∨ code = 0x09 then 0
  else t
/-- The body of a thread-trap record (Table 15.11, bytes 8-47), handles in the wafer view. -/
def trapBody (r : Regs) (h tid : Nat) (handover : Bool) : List Byte :=
  wordsBytes [r.trcause, r.trpc, r.traddr, r.trinfo] ++ toBytes 4 (h + tid * 2 ^ 24) ++ toBytes 4 (boolNat handover)
/-- The fault message of a thread (R138 step 5): one record to its home island. -/
def sendTrap (s : State) (t c code info : Nat) (handover : Bool) : State :=
  let x := s.ctx t c
  let ten := blockTenant s x.handle
  recordFrom s t
    { tenant := trapReceiver ten (regionTenant s (clusterOf t)) code info, kind := 1, work := ten,
      body := trapBody x.regs x.handle x.tid handover, prefer := some x.handle }

/-! ## Taking a trap (R136-R138, R454, R494) -/

/-- TRCAUSE (Table 5.5). -/
def causeWord (nested : Bool) (engine code : Nat) : Word := w64 (boolNat nested * 2 ^ 16 + engine * 2 ^ 8 + code)
/-- The trap record written (R138 step 2). The lookahead windows stay open: they count the thread's next instructions, whenever it issues them
(R60; log entry 26). -/
def recordTrap (r : Regs) (tr : Trap) : Regs :=
  { r with trcause := causeWord (intrap r) tr.engine tr.code, trpc := w64 (addrOf (tr.pc.getD r.pc)), traddr := tr.addr, trinfo := tr.info }
/-- The context leaves its slot (R145): issue stops, the pause is dropped. -/
def leaveSlot (x : Ctx) : Ctx :=
  { x with slot := none, pause := 0, awaiting := none, opens := none, succ := none, stepDone := false, sendSlot := none, captured := [], posting := []
           waitsOn := none, calm := false }
/-- A freed slot of a tile is offered to the Queued contexts (Table 5.10). -/
def slotFreed (s : State) (t : Nat) : State := s.addDueOnce (.issueSlotTaken t)

/-! ## The register cache (R144) -/

/-- A context whose thread IMAGEFAULT can stop: one that is not stopped already (R142, Table 5.10). -/
def stoppable (x : Ctx) : Bool := x.state == .issuing || x.state == .queued || x.state == .setAside || x.state == .dormant
/-- A line evicted to make room: the least recently used that no slot pins and that can be written back; stop is what becomes of the owner of one
that cannot: it stops with IMAGEFAULT and keeps the line (R142, R144). -/
def evictFrom (stop : State → Nat → Nat → Trap → State) (s : State) (t : Nat) : List (Nat × Nat) → State
  | [] => s
  | (c, k) :: r =>
    if (s.tile t).rclru.length < 64 then s
    else if (s.ctx t c).slot.isSome || !resident s t c k then evictFrom stop s t r
    else
      let wb := writeBackLine s t c k
      match wb.2 with
      | some f => evictFrom stop (if stoppable (s.ctx t c) then stop wb.1 t c f else wb.1) t r
      | none =>
        let x := wb.1.tile t
        wb.1.setTile t { x with rclru := x.rclru.erase (c, k) }
/-- A line that hardware writes is in the register cache: filled unless it is resident (R143). One that cannot be filled holds the values last
held of it (log entry 27). -/
def ensureLineBy (stop : State → Nat → Nat → Trap → State) (s : State) (t c k : Nat) : State :=
  if resident s t c k then s
  else
    let s := evictFrom stop s t (s.tile t).rclru.reverse
    let s := match imagePhys s t c (64 * k) .read with
      | .error _ => s
      | .ok (pa, s') => let x := s'.ctx t c; (meetAt s' pa 64).setCtx t c { x with regs := withImageLine x.regs k (readPhys s' pa 64) }
    let x := s.tile t
    s.setTile t { x with rclru := (c, k) :: x.rclru }
/-- A thread stops Trapped with IMAGEFAULT on a unit that could not be moved (R142); the debugger's mark is set under dstep. Its lines 2 and 3
may evict lines of others, which stop meets. -/
def trapImageBy (stop : State → Nat → Nat → Trap → State) (s : State) (t c : Nat) (tr : Trap) : State :=
  let s := ensureLineBy stop (ensureLineBy stop s t c 2) t c 3
  let x := s.ctx t c
  let s := s.setCtx t c { leaveSlot x with
    regs := recordTrap x.regs tr, state := .trapped, dirty := x.dirty ∪ [3], marked := x.marked || stepping x.regs }
  sendTrap (slotFreed (switchOut s t c).1 t) t c 0x09 tr.info.toNat false
/-- The same, n owners of evicted lines deep. -/
def trapImageTo : Nat → State → Nat → Nat → Trap → State
  | 0 => fun s _ _ _ => s
  | n + 1 => trapImageBy (trapImageTo n)
/-- A thread stops Trapped with IMAGEFAULT (R142); each of the tile's 64 threads can be stopped by it once. -/
def trapImage (s : State) (t c : Nat) (tr : Trap) : State := trapImageTo 64 s t c tr
/-- A line that hardware writes made resident (R143). -/
def ensureLine (s : State) (t c k : Nat) : State := ensureLineBy trapImage s t c k
/-- Lines 2 and 3 made resident: those of the PC, STATUS and the trap record. -/
def ensureTrapLines (s : State) (t c : Nat) : State := ensureLine (ensureLine s t c 2) t c 3
/-- IMAGEFAULT of the first of lines 2 and 3 of a context that would have to be filled and cannot be (R142). -/
def lineFault? (s : State) (t c : Nat) : Option Trap :=
  [2, 3].findSome? fun k =>
    if resident s t c k then none
    else match imagePhys s t c (64 * k) .read with
      | .error _ => some (imageTrap ((s.ctx t c).img + 64 * k) k)
      | .ok _ => none
/-- The thread of a context stopped by an IMAGEFAULT that was found, if one was. -/
def orImageFault (f : Option Trap) (s : State) (t c : Nat) : State := match f with | some tr => trapImage s t c tr | none => s
/-- The lines of a context become the most recently used of the tile's: it has used them in its slot (R144). -/
def touchLines (s : State) (t c : Nat) : State :=
  let x := s.tile t
  s.setTile t { x with rclru := (x.rclru.filter fun e => e.1 == c) ++ x.rclru.filter fun e => e.1 != c }

/-! ## Stopping a thread -/

/-- A thread trap (R138): the record, the write-back, the state Trapped, the fault message. Under dstep a trap other than IMAGEFAULT sends
no message and leaves the context Halted at the instruction (R494). A write-back that cannot be translated makes the trap IMAGEFAULT (R142,
log entry 7). -/
def takeTrap (s : State) (t c : Nat) (tr : Trap) : State :=
  let s := ensureTrapLines s t c
  let x := s.ctx t c
  let step := stepping x.regs && tr.code != 0x09
  let r := recordTrap x.regs tr
  let r := if step then { r with pc := r.trpc, status := setBit r.status 7 false } else r
  let s1 := s.setCtx t c { leaveSlot x with
    regs := r, state := if step then .halted else .trapped, dirty := x.dirty ∪ [2, 3], marked := x.marked || (stepping x.regs && !step) }
  let wb := switchOut s1 t c
  match wb.2 with
  | some f => trapImage (wb.1.setCtx t c { wb.1.ctx t c with regs := { r with status := x.regs.status } }) t c { f with pc := some r.trpc }
  | none => if step then slotFreed (dropAccs wb.1 t c) t else sendTrap (slotFreed wb.1 t) t c tr.code tr.info.toNat false
/-- Page-fault handover (R454): the record, the context set aside with its vector state written out (R231), the marked message. While an
operation of the thread runs, it is at no boundary yet: the instruction waits and meets the fault again (R65). -/
def takeHandover (s : State) (t c : Nat) (tr : Trap) : State :=
  let x := s.ctx t c
  if engineBusy s t c then s
  else if stepping x.regs then takeTrap s t c tr
  else
    let s := ensureTrapLines s t c
    let x := s.ctx t c
    let s1 := s.setCtx t c { leaveSlot x with regs := recordTrap x.regs tr, state := .setAside, why := .handover, dirty := x.dirty ∪ [3] }
    let r := vectorLeave s1 t c
    match r.2 with
    | some f => trapImage r.1 t c { f with pc := some (w64 (addrOf (tr.pc.getD x.regs.pc))) }
    | none => sendTrap (slotFreed r.1 t) t c tr.code tr.info.toNat true

/-! ## Fills of the register cache (R144) -/

/-- A line installed as the most recently used of the 64 (R144). When no line can be evicted it is installed beside them (DESIGN CHOICE, log
entry 92: the spec is silent). -/
def makeResident (s : State) (t c k : Nat) : State :=
  let s := if resident s t c k then s else evictFrom trapImage s t (s.tile t).rclru.reverse
  let x := s.tile t
  s.setTile t { x with rclru := (c, k) :: x.rclru.erase (c, k) }
/-- All four lines of a context written by hardware: resident and dirty. -/
def makeAllResident (s : State) (t c : Nat) : State :=
  let s := [2, 3, 0, 1].foldl (fun s k => makeResident s t c k) s
  s.setCtx t c { s.ctx t c with dirty := [0, 1, 2, 3] }
/-- An image line of a context filled unless it is resident: the state, or IMAGEFAULT (R142, R144). -/
def fillLine (s : State) (t c k : Nat) : Except Trap State :=
  if resident s t c k then .ok s
  else match imagePhys s t c (64 * k) .read with
    | .error _ => .error (imageTrap ((s.ctx t c).img + 64 * k) k)
    | .ok (pa, s') =>
      let e := edgeHead s' t (contextSender s' t c) pa
      let s' := e.1
      let x := s'.ctx t c
      if e.2 = false then .ok s'
      else .ok (makeResident ((meetAt s' pa 64).setCtx t c { x with regs := withImageLine x.regs k (readPhys s' pa 64) }) t c k)

/-! ## Island-core exceptions (R469) -/

/-- The first tenant from t up to whose handler address at the island is a valid target: its HVEC; none when tenant 0's fails too. Three
levels at most (R466). -/
def handlerOf (s : State) (i k : Nat) : Nat → Nat → Option (Nat × Nat)
  | 0, _ => none
  | f + 1, t =>
    let hv := recFld (agentRecord s i t) 255 192 % 2 ^ 54
    let c := s.core i k
    -- the read is made as tenant t (R469)
    let s' := s.setCore i k { c with cstatus := setFld (setFld c.cstatus 31 8 t) 1 0 (levelOf t) }
    let ok := recordValid s i t && (match checkTarget s' (.core i k) 0 hv with | .ok l => lineLegal l | .error _ => false)
    if ok then some (t, hv) else if t = 0 then none else handlerOf s i k f (parentOf t)
/-- CSTATUS on entry to tenant t at its level: PLEVEL, PTENANT, PIE saved, IE cleared, WORLD that of t. -/
def enterStatus (s : State) (cs : Word) (t : Nat) : Word :=
  let cs := setFld cs 3 2 (fld cs 1 0)
  let cs := setFld cs 55 32 (fld cs 31 8)
  let cs := setBit cs 5 (bitOf cs 4)
  let cs := setBit cs 4 false
  let cs := setFld cs 1 0 (levelOf t)
  setBit (setFld cs 31 8 t) 7 (worldOf s t)
/-- What a change of a core's tenant ends: its multicast groups and the count of its messages (R356). -/
def newTenancy (s : State) (i k old : Nat) : State :=
  let c := s.core i k
  if coreTenant c = old then s
  else
    let isl := s.island i
    let mark (p : Nat × SendEntry) : Nat × SendEntry := if p.2.ctx = k then (p.1, { p.2 with counted := false }) else p
    (s.setCore i k { c with groups := [], dropped := 0, latency := 0 }).setIsland i { isl with sends := isl.sends.map mark }
/-- An exception on a core that enters tenant t, or its parents (R469): the saved registers, the status and the handler. An idle core
saves EPC 0 (R542); when tenant 0's handler fails too the core stops at level 0. A change of world empties the instruction cache (R502). -/
def enterException (s : State) (i k t : Nat) (cause addr info epc : Word) : State :=
  let c := s.core i k
  let h := handlerOf s i k 3 t
  let t' := match h with | some p => p.1 | none => 0
  let cs := enterStatus s c.cstatus t'
  let pc := match h with | some p => w64 p.2 | none => c.regs.pc
  newTenancy (s.setCore i k { c with
        epc := if c.idle then 0 else epc
        ecause := cause, eaddr := addr, einfo := info, cstatus := cs
        regs := { c.regs with pc := pc }
        idle := false, stopped := h.isNone, pause := 0, waiting := false, granted := false, waitsOn := none
        icache := if worldOf s (coreTenant c) = worldOf s t' then c.icache else [] }) i k (coreTenant c)
/-- The receiving tenant of a core's exception (Table 15.10). -/
def exceptionReceiver (t code info : Nat) : Nat :=
  if code = 0x16 then pageFaultReceiver t info
  else if code = 0x05 then parentOf t
  else if code = 0x17 then parentOf t
  else if code = 0x13 then 0
  else t
/-- An exception raised by a core's instruction (R469, R483). -/
def takeException (s : State) (i k : Nat) (tr : Trap) : State :=
  let c := s.core i k
  enterException s i k (exceptionReceiver (coreTenant c) tr.code tr.info.toNat)
    (causeWord false tr.engine tr.code) tr.addr tr.info (w64 (addrOf (tr.pc.getD c.regs.pc)))

/-! ## Copy faults (R291, R293) -/

/-- The record of Table 9.7, handles in the wafer view. -/
def copyBody (r : ZReq) (tid : Nat) (zpc : Word) (code : Nat) (addr info : Word) : List Byte :=
  toBytes 8 r.id ++ toBytes 4 (r.handle + tid * 2 ^ 24) ++ toBytes 1 code ++ toBytes 1 r.fseq ++ toBytes 1 r.rf ++
    toBytes 1 (boolNat r.isProgram) ++ wordsBytes [zpc, addr, info]
/-- Queue entries of a tile in use: by requests, and reserved for a zpost that waits (R272, R281). -/
def queueUsed (s : State) (t : Nat) : Nat := (s.tile t).zreqs.length + (s.ctxs.filter fun p => p.1.1 == t && !p.2.posting.isEmpty).length
/-- A request with its re-fault count ended: an access passed (R293). -/
def passed (r : ZReq) : ZReq := { r with rf := 0, faultPage := none }
/-- The size of the translation page that a page fault is about: of the leaf or entry at its table level, 1 GiB at most (R480, Table 15.8). -/
def faultSize (info : Nat) : Nat := 2 ^ (12 + 9 * min 2 (fieldN info 14 12))
/-- Is an address on a request's faulted page, of the size that the fault met. -/
def onFaultPage (r : ZReq) (a size : Nat) : Bool := match r.faultPage with | some p => p.1 / size == a / size | none => false
/-- A copy fault of a request (R291): it becomes Faulted, its context is freed, one record goes to the supervisor core's island. Another
fault on the page of the last one is REFAULT and raises RF; at RF 3 no core is preferred (R293). A kernel request has no block: its record
carries HANDLE 0 and prefers the supervisor core of that handle (DESIGN CHOICE, log entry 103). -/
def takeCopyFault (s : State) (t : Nat) (r : ZReq) (tr : Trap) : State :=
  let size := faultSize tr.info.toNat
  let again := tr.code == 0x16 && onFaultPage r (addrOf tr.addr) size
  let rf := if again then (if r.rf = 3 then 1 else r.rf + 1) else 0
  let code := if again then 0x30 else tr.code
  let zpc := tr.pc.getD r.pc
  let info : Word := if tr.code = 0x16 then tr.info else 0
  let r' := { r with
    state := .faulted, zc := none, fseq := (r.fseq + 1) % 256, rf := rf, faultCode := code
    activeFor := r.activeFor + (s.cycle - r.since), faultPage := if tr.code = 0x16 then some (addrOf tr.addr, size) else none }
  let recv := if tr.code = 0x16 then pageFaultReceiver r.tenant tr.info.toNat
    else if tr.code = 0x17 then parentOf (regionTenant s (clusterOf t)) else if tr.code = 0x13 then 0 else r.tenant
  let recv := if rf = 3 then stageOwner r.tenant (tr.info.toNat / 2 ^ 8 % 4) else recv
  let tid := match r.task.bind s.task? with | some k => (s.ctx k.tile k.ctx).tid | none => 0
  recordFrom (s.setZreq t r') t
    { tenant := recv, kind := 2, work := r.tenant, body := copyBody r' tid zpc code tr.addr info,
      prefer := if rf = 3 then none else some r.handle }

/-! ## One operation for every agent -/

/-- Taking a trap on the agent whose turn it is: a thread trap, a core's exception or a copy fault (R138, R291, R469). -/
def raise (s : State) (tr : Trap) : State :=
  match s.cur with
  | .thread t c => takeTrap s t c tr
  | .core i k => takeException s i k tr
  | .zephyr t zc => match s.zreqOf? t zc with | some r => takeCopyFault s t r tr | none => s
/-- The current thread's task waits to become serialising (R206). -/
def wantSerial (s : State) : State :=
  match s.cur with
  | .thread t c =>
    (match (s.ctx t c).task with
     | some k => (match s.task? k with
       | some x => (s.setTask k { x with wantsSerial := true }).addDueOnce (.becomeSerialising k)
       | none => s)
     | none => s)
  | _ => s
/-- A stop of an instruction that has committed its interval, or done its first part, in a state: what it has done stays (R206). -/
def Stop.keptIn (s : State) : Stop → Stop
  | .trap tr => .kept s (some tr)
  | .wait => .kept s none
  | .serialise => .kept (wantSerial s) none
  | st => st
/-- What a stop does: the trap, the wait (the instruction issues again later), the handover. -/
def onStop (s : State) (st : Stop) : State :=
  match st with
  | .trap tr => raise s tr
  | .wait => s
  | .kept s' (some tr) => raise s' tr
  | .kept s' none => s'
  | .serialise => wantSerial s
  | .handover tr =>
    match s.cur with
    | .thread t c => takeHandover s t c tr
    | _ => raise s tr
/-- The ILLEGALOP trap of the current instruction (R67, R79): TRINFO holds its head and the low 48 bits of its tail. -/
def illegalOp (s : State) : Trap :=
  let w := curWords s s.cur s.getPc.toNat
  { code := 0x02, engine := engScalar, info := w64 (w.1 + w.2 % 2 ^ 48 * 2 ^ 16) }

/-! ## Profiles (R79, Table 3.1) -/

/-- Which agents may execute an instruction. -/
structure Profile where
  thread : Bool := true
  zephyr : Bool := false
  core : Bool := true
  /-- The engine whose instruction it is (R136, Table 1.7). -/
  engine : Nat := 0
deriving DecidableEq, Repr
/-- Does a profile allow an agent. -/
def Profile.allows (p : Profile) : Agent → Bool
  | .thread _ _ => p.thread
  | .core _ _ => p.core
  | .zephyr _ _ => p.zephyr
/-- Threads and island cores. -/
def profBoth : Profile := {}
/-- Tile threads only. -/
def profThread : Profile := { core := false }
/-- Island cores only. -/
def profCore : Profile := { thread := false }
/-- Zephyrs only. -/
def profZephyr : Profile := { thread := false, zephyr := true, core := false }
/-- Every agent. -/
def profAll : Profile := { zephyr := true }

/-- The engine number of a trap an instruction raises: its own engine's (R136), but for the causes that belong to another (R67, R142, R463). -/
def ownEngine (e : Nat) (st : Stop) : Stop :=
  let own (tr : Trap) : Trap := if tr.code = 0x02 ∨ tr.code = 0x09 ∨ tr.code = 0x1E then tr else { tr with engine := e }
  match st with
  | .trap tr => .trap (own tr)
  | .handover tr => .handover (own tr)
  | .kept s t => .kept s (t.map own)
  | st => st
/-- An instruction as its body: ILLEGALOP outside the agent's profile (R79), what its stop does, or the state after it. -/
def runInstr (p : Profile) (s : State) (body : State → Except Stop State) : Host.Outcome State Fault Refusal :=
  if p.allows s.cur then
    match body s with
    | .ok s' => .next s'
    | .error st => .next (onStop s (ownEngine p.engine st))
  else .next (raise s (illegalOp s))

end Sys2Proof.Machine
end

