-- ==== Sys2Proof/Machine/Routes.lean ====
section
/-! DEFINITION. Routes of the Jetstream fabric (R342, R348): the position that a handle names, and what a lost access does to its agent. -/

namespace Sys2Proof.Machine

/-! ## Handles and positions (R342, R348) -/

/-- The position of the lowest tile index present in a cluster (R342). -/
def lowestTile (s : State) (n : Nat) : Nat := (((List.range 16).map (clusterTile n)).find? (tilePresent s)).getD (clusterTile n 0)
/-- Is a handle a core handle (R356): its island and core. -/
def coreOfHandle (h : Nat) : Option (Nat × Nat) := if 0xFFF000 ≤ h then some ((h - 0xFFF000) / 8, h % 8) else none
/-- The destination position of a head formed at a site for a handle (R342, R356). -/
def destOf (s : State) (x : Site) (h : Nat) : Nat :=
  match coreOfHandle h with
  | some (i, _) => siteTile (.island i)
  | none =>
    match x with
    | .tile t => (mget? (s.tile t).hcache h).getD (lowestTile s (h / 4096))
    | .island _ => lowestTile s (h / 4096)
/-- A handle-cache entry of a tile, the latest first, 32 at most (R342). -/
def cacheHandle (s : State) (t h pos : Nat) : State :=
  let x := s.tile t
  s.setTile t { x with hcache := ((h, pos) :: mdel x.hcache h).take 32 }
/-- The sender field of an agent's heads, wafer view: handle and THREADID of a thread, the core handle of R356. -/
def senderOf (s : State) : Agent → Nat
  | .thread t c => contextSender s t c
  | .core i k => 0xFFF000 + 8 * i + k
  | .zephyr _ _ => 0
/-- A packet that starts at a router. -/
def launchPacket (s : State) (p : Packet) : State :=
  let (n, s) := s.fresh
  ({ s with packets := s.packets ++ [{ p with id := n }] }).addDue (.hop n)
/-! ## Accesses on VC0 (R33, R341, R343, R349) -/

/-- An agent whose access was lost with its head: it waits for a response that does not come (R341). -/
def hang (s : State) : Agent → State
  | .thread t c => let (n, s) := s.fresh; s.setCtx t c { s.ctx t c with awaiting := some n }
  | .core i k => s.setCore i k { s.core i k with lost := true }
  | .zephyr t zc => match s.zreqOf? t zc with | some r => s.setZreq t { r with lost := true } | none => s
end Sys2Proof.Machine
end

