-- ==== Sys2Proof/Machine/Access.lean ====
section
/-! DEFINITION. The paths of an access to memory (R171-R173, R188-R194, R197, R200-R201, R215-R219, R419): windows, checks, the data cache,
read sets, store buffers, range locks. Commit and abort are in Commit.lean. -/

namespace Sys2Proof.Machine

/-! ## Who asks -/

/-- A requester: the agent, the tile and block it acts for, its tenant, how its translations are checked (R479), whether it issues physical
addresses (R35), and the task whose buffers and read set it uses; no task for an agent that runs none (R172). -/
structure Req where
  agent : Agent
  tile : Nat := 0
  handle : Nat := 0
  tenant : Nat := 0
  who : Who := .tile
  phys : Bool := false
  core : Bool := false
  task : Option Nat := none
deriving DecidableEq, Repr
/-- The requester that a thread, or an engine working for it, is. -/
def threadReq (s : State) (t c : Nat) : Req :=
  let x := s.ctx t c
  { agent := .thread t c, tile := t, handle := x.handle, tenant := blockTenant s x.handle, task := x.task }
/-- The requester an island core is. -/
def coreReq (s : State) (i k : Nat) : Req :=
  { agent := .core i k, tenant := coreTenant (s.core i k), who := .core, phys := physicalCore (s.core i k), core := true }
/-- The requester a Zephyr request is: the task's while that is of the interval, else none (R278, R289). -/
def zephyrReq (s : State) (t zc : Nat) (r : ZReq) : Req :=
  { agent := .zephyr t zc, tile := t, handle := r.handle, tenant := r.tenant, who := .zephyr, phys := r.phys
    task := r.task.bind fun k => if (s.task? k).isSome then some k else none }
/-- The requester of the current agent. -/
def curReq (s : State) : Req :=
  match s.cur with
  | .thread t c => threadReq s t c
  | .core i k => coreReq s i k
  | .zephyr t zc => match s.zreqOf? t zc with | some r => zephyrReq s t zc r | none => { agent := .zephyr t zc, tile := t, who := .zephyr }
/-- The task a requester works in. -/
def Req.task? (q : Req) (s : State) : Option Task := q.task.bind s.task?
/-- The region a requester's heads leave from (R350): its tile's, or its core's current tenant's. -/
def Req.region (q : Req) (s : State) : Nat := if q.core then q.tenant else regionTenant s (clusterOf q.tile)

/-- The position from whose router a requester's heads leave. -/
def Req.site (q : Req) : Nat := match q.agent with | .core i _ => siteTile (.island i) | _ => q.tile

/-! ## Places -/

/-- The parts of n bytes from address a, one a line, addresses modulo 2^54 (R197); the fuel is n. -/
def segmentsFuel : Nat → Nat → Nat → List (Nat × Nat)
  | 0, _, _ => []
  | f + 1, a, n =>
    if n = 0 then []
    else
      let k := min n (16 - a % 16)
      (a, k) :: segmentsFuel f ((a + k) % 2 ^ 54) (n - k)
/-- The parts of n bytes from address a. -/
def segments (a n : Nat) : List (Nat × Nat) := segmentsFuel n a n
/-- Windows of Table 1.5. -/
def inLocal (a : Nat) : Bool := decide (a < 0x20000)
/-- The hole of Table 1.5. -/
def inHole (a : Nat) : Bool := decide (0x20000 ≤ a) && decide (a < 0x40000000)
/-- The cluster window of Table 1.5. -/
def inCluster (a : Nat) : Bool := decide (0x3FFE0000000000 ≤ a)

/-- A trap of the local memory engine on a pointer. -/
def memTrap (code : Nat) (p : Word) (info : Nat := 0) : Trap := { code := code, engine := engLocal, addr := p, info := w64 info }
/-- The live allocation of a block that holds bytes o to o + n - 1 of its tile's scratchpad (R31). -/
def allocAt (s : State) (tile handle o n : Nat) : Option Alloc :=
  (s.tile tile).allocs.find? fun a => a.handle == handle && !a.dying && decide (a.off ≤ o) && decide (o + n ≤ a.off + a.size)
/-- A place in a block's scratchpad. -/
def spadPlace (b : Block) (h : Nat) (al : Alloc) (va o n : Nat) : Place :=
  { loc := .spad h o, va := va, len := n, shared := al.shared, lockTile := b.tile, lockHandle := some h, lockBase := o / 16 * 16 }
/-- A local-window part (R31). An island core has no tile and no block: its access traps LOCALRANGE (DESIGN CHOICE, log entry 35: no rule gives
it an outcome). -/
def localPlace (s : State) (q : Req) (p : Word) (a n : Nat) : Except Trap Place :=
  match (if q.core then none else s.block? q.handle) with
  | none => .error (memTrap 0x11 p)
  | some b => match allocAt s b.tile q.handle a n with
    | some al => .ok (spadPlace b q.handle al a a n)
    | none => .error (memTrap 0x11 p)
/-- A cluster-window part (R33, R452): the handle in the requester's view; STALEHANDLE, EVICTED, LOCALRANGE, REFUSED in that order. -/
def clusterPlace (s : State) (q : Req) (p : Word) (a n : Nat) : Except Trap Place :=
  let view := a / 2 ^ 17 % 2 ^ 24
  let h := fromViewHandle s q.tenant view
  let o := a % 2 ^ 17
  if h = q.handle ∧ q.core = false ∧ (s.block? h).isSome = true then localPlace s q p o n
  else match s.block? h with
    | none => .error (memTrap 0x12 p)
    | some b =>
      if b.live = false then .error (memTrap 0x12 p)
      else if b.evicted then .error { code := 0x1E, engine := engResidency, addr := p, info := w64 view }
      else match (allocAt s b.tile h o n).filter Alloc.shared with
        | none => .error (memTrap 0x11 p)
        | some al =>
          if regionAllows s (q.region s) (clusterOf b.tile) false = false then
            .error { code := 0x17, engine := engIsland, addr := p, info := w64 view }
          else .ok (spadPlace b h al a o n)
/-- The place of a physical address. -/
def physPlace (q : Req) (va pa n : Nat) (tp : Bool) : Place :=
  { loc := .phys pa, va := va, len := n, shared := (decide (pa < edgeEnd) || inAperture pa) && !tp && !q.core && !q.phys, tp := tp, edge := !q.phys,
    lockTile := q.tile, lockHandle := none, lockBase := va / 16 * 16 }
/-- An aperture address whose entry has V = 0, or whose access the remote hub refuses (R535). -/
def apertureShut (s : State) (acc : AccKind) (pa : Nat) : Bool :=
  inAperture pa && (fieldN (apertureEntry s pa) 63 63 == 0 || !Config.remoteAccepts (remoteOf s pa).1 (remoteOf s pa).2 (acc != .read) s.cycle)
/-- The entry of Table 1.6 that lists a physical address. -/
def physEntry (pa : Nat) : Option Nat :=
  if pa < edgeEnd then some 0
  else if inAperture pa then some 1
  else if spadBase 0 ≤ pa ∧ pa < spadBase (256 * 192) then some 2
  else if 0xF000000000000 ≤ pa ∧ pa < 2 ^ 52 then some 3
  else none
/-- Does a data-cache block hold an address for a requester (R188). -/
def holdsVa (s : State) (q : Req) (va : Nat) (b : DBlock) : Bool :=
  b.vblock == va / 64 && b.tenant == q.tenant && b.world == worldOf s q.tenant
/-- The data-cache block that holds an address. -/
def dblock? (s : State) (q : Req) (va : Nat) : Option DBlock := (s.tile q.tile).dcache.find? (holdsVa s q va)
/-- An edge-window part (R34, R35, R188): a read that hits in the data cache is not translated; every other access is. -/
def edgePlace (s : State) (q : Req) (acc : AccKind) (p : Word) (a n : Nat) : Except Trap (Place × State) :=
  if q.phys then
    if apertureShut s acc (a % 2 ^ 52) then .error { code := 0x17, engine := engIsland, addr := p }
    else if physListed s (a % 2 ^ 52) then .ok (physPlace q a (a % 2 ^ 52) n false, s)
    else .error { code := 0x13, engine := engLocal, addr := w64 (a % 2 ^ 52) }
  else
    match (if acc = .read ∧ q.core = false then dblock? s q a else none) with
    | some b => .ok (physPlace q a (b.pblock * 64 + a % 64) n b.tp, s)
    | none =>
      let r := match q.agent with
        | .core _ _ => agentTranslate s q.agent acc a
        | _ => tileTranslate s (clusterOf q.tile) q.tenant q.who acc a
      match r with
      | .error f => .error (xTrap f acc p)
      | .ok (pa, tp, s') => if apertureShut s' acc pa then .error { code := 0x17, engine := engIsland, addr := p } else .ok (physPlace q a pa n tp, s')
/-- One part (R194 step 3). -/
def placeOf (s : State) (q : Req) (acc : AccKind) (p : Word) (a n : Nat) : Except Trap (Place × State) :=
  if inLocal a then (localPlace s q p a n).map fun x => (x, s)
  else if inCluster a then (clusterPlace s q p a n).map fun x => (x, s)
  else edgePlace s q acc p a n
/-- The parts in order. -/
def placesOf (s : State) (q : Req) (acc : AccKind) (p : Word) : List (Nat × Nat) → Except Trap (List Place × State)
  | [] => .ok ([], s)
  | (a, n) :: r =>
    match placeOf s q acc p a n with
    | .error t => .error t
    | .ok (x, s') => match placesOf s' q acc p r with
      | .error t => .error t
      | .ok (xs, s'') => .ok (x :: xs, s'')

/-! ## Range locks (R215-R219) -/

/-- Does an entry cover a line of a place. -/
def lockCovers (l : RangeLock) (tenant : Nat) (x : Place) : Bool :=
  (if l.spad then x.lockHandle.isSome else l.handle == x.lockHandle && (x.lockHandle.isSome || l.tenant == tenant)) && decide (l.base ≤ x.lockBase) && decide (x.lockBase < l.base + 16 * l.lines)
/-- The entry that forbids an access (R216): any access to a destination, a write to a source. -/
def lockHit (s : State) (q : Req) (write : Bool) (x : Place) : Option RangeLock :=
  if q.core ∨ q.phys then none else (s.tile x.lockTile).locks.find? fun l => lockCovers l q.tenant x && (l.dst || write)
/-- R194 steps 1 to 3: the tag, the hole, the windows. -/
def resolve (s : State) (q : Req) (acc : AccKind) (p : Word) (n : Nat) : Except Trap (List Place × State) :=
  if ptrOk p = false then .error (memTrap 0x14 p)
  else if (segments (addrOf p) n).any fun g => inHole g.1 then .error (memTrap 0x10 p)
  else placesOf s q acc p (segments (addrOf p) n)
/-- R194 whole: then the range locks (step 4). -/
def check (s : State) (q : Req) (acc : AccKind) (p : Word) (n : Nat) : Except Trap (List Place × State) :=
  match resolve s q acc p n with
  | .error t => .error t
  | .ok (xs, s') =>
    match xs.findSome? (lockHit s' q (acc != .read)) with
    | some l => .error (memTrap 0x15 p l.base)
    | none => .ok (xs, s')

/-! ## Bytes of a home -/

/-- The physical address of a byte; a block's scratchpad wherever the block now is (R33). -/
def physOf (s : State) : Loc → Nat
  | .spad h o => match s.block? h with | some b => spadBase b.tile + o | none => 0
  | .phys pa => pa
  | .record _ _ => 0
/-- The first byte of the line of a location. -/
def lineLoc : Loc → Loc
  | .spad h o => .spad h (o / 16 * 16)
  | .phys pa => .phys (pa / 16 * 16)
  | .record c k => .record c k
/-- The location k bytes on. -/
def Loc.add : Loc → Nat → Loc
  | .spad h o, k => .spad h (o + k)
  | .phys pa, k => .phys (pa + k)
  | .record c r, _ => .record c r
/-- VERSION of a layout record (Table 6.16). -/
def recVersion (b : List Byte) : Nat := recFld b 287 256
/-- Layout record k of a cluster. -/
def layoutRecord (s : State) (n k : Nat) : List Byte := mget (s.cluster n).records (List.replicate 64 0) k
/-- The version of a line at its home (Table 6.2), or of a record. -/
def versionAt (s : State) : Loc → Nat
  | .record c k => recVersion (layoutRecord s c k)
  | l => (s.meta_ (physOf s l)).ver

/-! ## The data cache (R188-R193) -/

/-- One line of a block stored at its home with its side bits: the write was made in the cache (R186). -/
def storeLine (b : DBlock) (s : State) (k : Nat) : State :=
  { s with
    mem := memWrites s.mem (b.pblock * 64 + 16 * k) ((b.bytes.drop (16 * k)).take 16)
    lines := mset s.lines (b.pblock * 4 + k) (b.side k) }
/-- A data-cache block written back: the lines written since it was filled. -/
def writeBackBlock (s : State) (b : DBlock) : State := if b.dirty then b.wrote.foldl (storeLine b) s else s
/-- The data cache of a tile. -/
def setDcache (s : State) (t : Nat) (l : List DBlock) : State := s.setTile t { s.tile t with dcache := l }
/-- A dirty block of a tile's data cache sent to its home: lost when its head is (R341). -/
def writeBackFrom (t : Nat) (s : State) (b : DBlock) : State :=
  if b.dirty = false then s
  else
    let e := edgeHead s t 0 (b.pblock * 64)
    if e.2 then writeBackBlock e.1 b else e.1
/-- Blocks of a tile's data cache that pass a test are written back and removed. -/
def flushBlocks (s : State) (t : Nat) (p : DBlock → Bool) : State :=
  let l := (s.tile t).dcache
  setDcache ((l.filter p).foldl (writeBackFrom t) s) t (l.filter fun b => !p b)
/-- The set of a virtual block (R188). -/
def dset (vblock : Nat) : Nat := vblock % 64
/-- A block filled (R188, R191): another copy of the physical line leaves first, then the least recently used of a full set. -/
def fillBlock (s : State) (q : Req) (va pa : Nat) (tp : Bool) : State :=
  let s := meetAt (flushBlocks s q.tile fun b => b.pblock == pa / 64) (pa / 64 * 64) 64
  let same := (s.tile q.tile).dcache.filter fun b => dset b.vblock == dset (va / 64)
  let s := if 4 ≤ same.length then
      (match same.getLast? with
       | some v => flushBlocks s q.tile fun b => b.vblock == v.vblock && b.tenant == v.tenant && b.world == v.world
       | none => s) else s
  let base := pa / 64 * 64
  let b : DBlock :=
    { vblock := va / 64, tenant := q.tenant, world := worldOf s q.tenant, pblock := pa / 64
      bytes := (List.range 64).map fun k => memRead s.mem (base + k)
      sides := [0, 16, 32, 48].map fun k => s.meta_ (base + k), tp := tp, dirty := false }
  setDcache s q.tile (b :: (s.tile q.tile).dcache)
/-- A tile's tile-private block of a physical line written back and removed, before the line is accessed at its home: the tile's threads see their
accesses to a byte in program order, under whatever address (R172, R191). -/
def flushAlias (s : State) (t pa : Nat) : State := flushBlocks s t fun b => b.tp && b.dirty && b.pblock == pa / 64
/-- The same of a location, for a requester with a tile. -/
def flushOwn (s : State) (q : Req) : Loc → State
  | .phys pa => if q.core || q.phys then s else flushAlias s q.tile pa
  | _ => s
/-- A block made most recently used. -/
def touchBlock (s : State) (t : Nat) (b : DBlock) : State := setDcache s t (b :: (s.tile t).dcache.erase b)
/-- Copies of a physical line in every tile's data cache marked stale by a write of a launch's task with a stamp (launch 0: no task), each
with an invalidation on its way (R190); the writer's own tile drops its copy at once (R172). -/
def spreadInvalidations (s : State) (own pa launch stamp : Nat) : State :=
  let holds (b : DBlock) : Bool := b.pblock == pa / 64 && !b.tp
  let hit := s.tiles.filterMap fun p => if p.1 ≠ own ∧ p.2.dcache.any holds = true then some p.1 else none
  let mark (b : DBlock) : DBlock := if holds b then { b with stale := (pa % 64 / 16, launch, stamp) :: b.stale } else b
  let s1 := { s with tiles := s.tiles.map fun p =>
    (p.1, { p.2 with dcache := if p.1 = own then p.2.dcache.filter fun b => !holds b else p.2.dcache.map mark }) }
  hit.foldl (fun s t => s.addDueOnce (.invalidation t (pa / 64))) s1
/-- Stale blocks of a tile leave at once: after a synchronising access (R212, R379). -/
def dropStale (s : State) (t : Nat) : State := setDcache s t ((s.tile t).dcache.filter fun b => b.stale.isEmpty)

/-! ## Who is oldest (R199, R388) -/

/-- What the Evicted blocks hold. -/
def frozenBlocks (s : State) : List Frozen := s.blocks.filterMap fun p => p.2.frozen
/-- Every deque and overflow entry, those of Evicted blocks among them. -/
def allEntries (s : State) : List DequeEntry :=
  s.tiles.flatMap (fun p => p.2.deque) ++ s.islands.flatMap (fun p => p.2.overflow) ++ (frozenBlocks s).flatMap Frozen.deque
/-- Every inbox entry. -/
def allInbox (s : State) : List InboxEntry := s.tiles.flatMap (fun p => p.2.inbox) ++ (frozenBlocks s).flatMap Frozen.inbox
/-- Is a task tainted (R418). -/
def Task.tainted (k : Task) : Bool := !k.taint.isEmpty || !k.readFrom.isEmpty
/-- Is an abort or squash of the task's thread deferred until dresume (R204, R423): the thread is Halted, or makes a single step (R494). -/
def isDeferred (s : State) (x : Task) : Bool := x.phase == .running && (s.ctx x.tile x.ctx).deferred.isSome
/-- Is a task oldest (R199, R204, R421): untainted, and nothing of its launch with a smaller timestamp has yet to leave it. -/
def oldest (s : State) (k : Nat) (x : Task) : Bool :=
  !x.tainted && !isDeferred s x &&
  (s.tasks.all fun p => p.1 == k || p.2.launch != x.launch || decide (x.stamp ≤ p.2.stamp)) &&
  ((allEntries s).all fun e => e.launch != x.launch || decide (x.stamp ≤ e.stamp)) &&
  ((allInbox s).all fun e => e.launch != x.launch || (match e.stamp with | some n => decide (x.stamp ≤ n) | none => true))

/-! ## Forecast stores (R418-R420) -/

/-- The parked tasks whose stores a task of a launch and stamp sees, earliest first (R419); those of equal stamps in the order of the list of
tasks (DESIGN CHOICE, log entry 95: the rule leaves it unspecified). -/
def suppliers (s : State) (launch stamp : Nat) : List (Nat × Task) :=
  (s.tasks.filter fun p => p.2.parked && p.2.launch == launch && decide (p.2.stamp < stamp)).mergeSort fun a b => decide (a.2.stamp ≤ b.2.stamp)
/-- The latest buffered byte of a list of stores at a location. -/
def storedAt (l : List (Loc × Byte)) (x : Loc) : Option Byte := (l.find? fun p => p.1 == x).map Prod.snd
/-- The byte a task sees at a location over the home's value, and the parked task that supplied it (R208, R419). -/
def forwarded (sup : List (Nat × Task)) (x : Loc) (b : Byte) : Byte × Option Nat :=
  sup.foldl (fun acc p => match storedAt p.2.stores x with | some v => (v, some p.1) | none => acc) (b, none)

/-! ## Heads of accesses (R33, R341-R343, R349) -/

/-- The position to which the head of an access to a home travels from a position: an edge router, or the destination that a handle gives. -/
def homeRouter? (s : State) (at_ : Nat) : Loc → Option Nat
  | .phys pa => if pa < edgeEnd then some (edgeRouterOf pa) else none
  | .spad h _ => match s.block? h with | some b => if b.tile = at_ then none else some (destOf s (siteAt at_) h) | none => none
  | .record _ _ => none
/-- The position from which the response to an access returns: the tile that holds the block, or the router that the head went to. -/
def answerFrom (s : State) (d : Nat) : Loc → Nat
  | .spad h _ => ((s.block? h).map Block.tile).getD d
  | _ => d
/-- The router that drops the head of an access, or its response, to a home. -/
def lostAt? (s : State) (at_ : Nat) (l : Loc) : Option Nat := (homeRouter? s at_ l).bind fun d => dropsAt? s at_ d (answerFrom s d l)
/-- A head that its router drops with NOPATH, lost together with its access (R341). -/
def loseHead (s : State) (src at_ : Nat) (l : Loc) : State :=
  fabricFault s at_ 0x44 0
    { id := 0, kind := .request, vc := 0, at_ := at_, dhandle := match l with | .spad h _ => h | _ => 0, src := src }
/-- The way of the head of an access to a home: the tables on it cleaned (R339), then the state in which it arrives, or in which it is lost or waits
for a table word for ever. -/
def headWay (s : State) (src at_ : Nat) (l : Loc) : Except State State :=
  match homeRouter? s at_ l with
  | none => .ok s
  | some d =>
    let s := cleanPath s { id := 0, kind := .request, vc := 0, at_ := at_, src := src } at_ d
    if stuckOn s at_ d then .error s
    else match lostAt? s at_ l with
      | some r => .error (loseHead s src r l)
      | none => .ok s
/-- The head of an access that reached its block over the cluster network: the holding tile is reported to the sender's handle cache (R343). -/
def correctCache (s : State) (at_ : Nat) : Loc → State
  | .spad h _ =>
    (match s.block? h, siteAt at_ with
     | some b, .tile u =>
       let d := destOf s (.tile u) h
       if b.tile = u ∨ d = b.tile then s
       else launchPacket s { id := 0, kind := .update, vc := 1, at_ := d, dst := u, dhandle := h, srcTile := d, report := b.tile }
     | _, _ => s)
  | _ => s
/-- Is a read of a place, by a thread or an engine, served by the tile's data cache, so that no head leaves the tile (R188). -/
def servedHere (s : State) (q : Req) (engine : Bool) (x : Place) : Bool :=
  x.edge && !q.core && !(engine && !x.tp) && (dblock? s q x.va).isSome
/-- The head of an access to a place: the state when it is lost with the access, or the state in which it has arrived. -/
def sendHead (s : State) (q : Req) (x : Place) : Except State State :=
  match headWay s (senderOf s q.agent) q.site x.loc with
  | .error u => .error (hang u q.agent)
  | .ok u => .ok (correctCache u q.site x.loc)

/-- Does the head of an access to a place wait at a router: its block is in a Drift move past Calming, on another tile than the access comes from
(R434), or a core's physical access reaches such a tile (R443). -/
def headHeld (s : State) (q : Req) (x : Place) : Bool :=
  match x.loc with
  | .spad h _ => (s.block? h).any fun b => (q.core || b.tile != q.tile) && movingTile s b.tile
  | .phys pa => q.core && decide (spadBase 0 ≤ pa) && decide (pa < spadBase (256 * 192)) && movingTile s ((pa - spadBase 0) / 0x20000)
  | .record _ _ => false

/-! ## Reading -/

/-- Home capacity for read-set entries (R201). -/
def homeCap : Loc → Nat
  | .spad _ _ => 2048
  | .phys _ => 262144
  | .record _ _ => 1024
/-- Do two locations have one home (R173). -/
def sameHome (s : State) : Loc → Loc → Bool
  | .spad h _, .spad g _ => match s.block? h, s.block? g with | some a, some b => a.tile == b.tile | _, _ => false
  | .phys a, .phys b => emmOf a == emmOf b
  | .record a _, .record b _ => a == b
  | _, _ => false
/-- Read-set entries a home holds. -/
def homeEntries (s : State) (l : Loc) : Nat :=
  s.tasks.foldl (fun n p => n + (p.2.reads.filter fun e => sameHome s e.line l).length) 0
/-- Would an entry for a line exceed the home's entries or the task's 1,024 (R207). -/
def readFull (s : State) (k : Task) (l : Loc) : Bool := decide (1024 ≤ k.reads.length) || decide (homeCap l ≤ homeEntries s l)

/-- How a read ends when it cannot be performed now: the task must become serialising, or a forecast supplier must resolve (R207, R420), or it
was lost with its head in that state (R341). -/
inductive Hold where
  | serialise
  | wait
  /-- An engine's read whose registration does not fit waits until the task is oldest (R207). -/
  | full
  | lost (s : State)
deriving DecidableEq, Repr

/-- The copy of a line that a thread's or an engine's read of an edge place finds: from the data cache, filled on a miss (R188); an
engine's read of shared memory goes to the home. Its bytes, its version, whether it missed a store committed by a smaller timestamp
of the launch, whether it came from the cache. -/
def edgeCopy (s : State) (q : Req) (engine : Bool) (x : Place) (pa : Nat) : List Byte × Nat × Bool × Bool × State :=
  if engine ∧ x.tp = false then let s := meetAt (flushOwn s q x.loc) pa x.len; (readPhys s pa x.len, (s.meta_ pa).ver, false, false, s)
  else
    let hit := dblock? s q x.va
    let s := match hit with | some b => touchBlock s q.tile b | none => fillBlock s q x.va pa x.tp
    match dblock? s q x.va with
    | none => (readPhys s pa x.len, (s.meta_ pa).ver, false, false, s)
    | some b =>
      let missed := match q.task? s with
        | some k => b.stale.any fun e => e.1 == pa % 64 / 16 && e.2.1 == k.launch && decide (e.2.2 < k.stamp)
        | none => false
      (blockBytes s b pa x.len, (b.side (pa % 64 / 16)).ver, missed, hit.isSome, s)
/-- The home's bytes of a place, with the copy's facts as in edgeCopy. -/
def homeCopy (s : State) (q : Req) (engine : Bool) (x : Place) : List Byte × Nat × Bool × Bool × State :=
  match x.loc with
  | .phys pa => if x.edge && decide (pa < edgeEnd) && !q.core then edgeCopy s q engine x pa else let s := meetAt s pa x.len; (readPhys s pa x.len, (s.meta_ pa).ver, false, false, s)
  | l => (readPhys s (physOf s l) x.len, versionAt s l, false, false, s)
/-- The offset of a location in its line. -/
def Loc.inLine : Loc → Nat
  | .spad _ o => o % 16
  | .phys pa => pa % 16
  | .record _ _ => 0
/-- A task's entry for a line with another read of it: it lacks what either value lacked (R204). -/
def ReadEntry.again (e : ReadEntry) (missed fromCache : Bool) (part : Nat × Nat × List Nat) : ReadEntry :=
  { e with missed := e.missed || missed, acked := e.acked && !fromCache, parts := part :: e.parts }
/-- Does a task's value of a line include these stores of task t: every read of their bytes did, and there was one (R419). -/
def ReadEntry.includes (e : ReadEntry) (t : Nat) (stores : List (Loc × Byte)) : Bool :=
  let w := (stores.filter fun b => lineLoc b.1 == e.line).map fun b => b.1.inLine
  let hit := e.parts.filter fun p => w.any fun o => decide (p.1 ≤ o) && decide (o < p.1 + p.2.1)
  !hit.isEmpty && hit.all fun p => p.2.2.contains t
/-- A read-set entry for a line (R201), one a task and line; a read that hit in the data cache awaits its registration (R190). -/
def addRead (s : State) (kid : Nat) (k : Task) (l : Loc) (ver : Nat) (missed fromCache : Bool) (part : Nat × Nat × List Nat) : State :=
  if k.serial then s
  else
    let old := k.reads.any fun e => e.line == l
    let reads : List ReadEntry :=
      if old then k.reads.map fun e => if e.line = l then e.again missed fromCache part else e
      else { line := l, ver := ver, acked := !fromCache, missed := missed, parts := [part] } :: k.reads
    let s := s.setTask kid { k with reads := reads }
    match l with
    | .phys pa => if fromCache then s.addDueOnce (.readSetRegistration kid (pa / 16)) else s
    | _ => s
/-- A shared place read by a task (R171, R172, R208, R419): the home's value, parked stores of smaller timestamps, its own stores. An
engine's read whose entry does not fit waits until the task is oldest and then makes none (R207). -/
def readShared (s : State) (q : Req) (kid : Nat) (k : Task) (engine : Bool) (x : Place) : Except Hold (List Byte × State) :=
  let line := lineLoc x.loc
  let full := !k.serial && !(k.reads.any fun e => e.line == line) && readFull s k line
  if full && !engine then .error .serialise
  else if full && !oldest s kid k then .error .full
  else
    let c := homeCopy s q engine x
    let sup := suppliers s k.launch k.stamp
    let fw := c.1.mapIdx fun i b => forwarded sup (x.loc.add i) b
    let src := (fw.filterMap Prod.snd).dedup.filter fun t => !k.readFrom.contains t
    let deep := src.any fun t => taintDepth s 9 t == 4
    if deep || decide (4 < sourceCount s k + (src.filter (isTainted s)).length) then .error .wait
    else
      let s' := c.2.2.2.2
      let k' := { k with readFrom := k.readFrom ++ src }
      let s' := s'.setTask kid k'
      let s' := if full then s' else addRead s' kid k' line c.2.1 c.2.2.1 c.2.2.2.1 (x.loc.inLine, x.len, sup.map Prod.fst)
      .ok (fw.mapIdx fun i b => (storedAt k.stores (x.loc.add i)).getD b.1, s')
/-- One place read where it is (Table 6.1): on a tile-private page too with the thread's own buffered bytes (R172). -/
def readHome (s : State) (q : Req) (engine : Bool) (x : Place) : Except Hold (List Byte × State) :=
  match q.task, q.task? s with
  | some kid, some k =>
    if x.shared then readShared s q kid k engine x
    else let c := homeCopy s q engine x; .ok (c.1.mapIdx fun i b => (storedAt k.stores (x.loc.add i)).getD b, c.2.2.2.2)
  | _, _ => let c := homeCopy s q engine x; .ok (c.1, c.2.2.2.2)
/-- One place read, its head first. -/
def readPlace (s : State) (q : Req) (engine : Bool) (x : Place) : Except Hold (List Byte × State) :=
  if servedHere s q engine x then readHome s q engine x
  else if headHeld s q x then .error .wait
  else match sendHead s q x with
    | .error u => .error (.lost u)
    | .ok u => readHome u q engine x
/-- Places read in order. -/
def readPlaces (s : State) (q : Req) (engine : Bool) : List Place → Except Hold (List Byte × State)
  | [] => .ok ([], s)
  | x :: r =>
    match readPlace s q engine x with
    | .error h => .error h
    | .ok (b, s') => match readPlaces s' q engine r with
      | .error h => .error h
      | .ok (c, s'') => .ok (b ++ c, s'')
/-- A place read as an immediate access: the home's value with the thread's own buffered bytes (R172, R213). -/
def readNow (s : State) (q : Req) (x : Place) : List Byte :=
  let own := match q.task? s with | some k => k.stores | none => []
  let home := match (if x.tp then dblock? s q x.va else none) with
    | some b => blockBytes s b (physOf s x.loc) x.len
    | none => readPhys (flushOwn s q x.loc) (physOf s x.loc) x.len
  home.mapIdx fun i b => (storedAt own (x.loc.add i)).getD b

/-- The errors that an immediate read of a place meets: none where a tile-private block is cached (R525). -/
def meetPlace (q : Req) (s : State) (x : Place) : State :=
  match x.loc with
  | .phys pa => if x.tp && (dblock? s q x.va).isSome then s else meetAt s pa x.len
  | _ => s
/-- Of places read at once. -/
def meetPlaces (s : State) (q : Req) (xs : List Place) : State := xs.foldl (meetPlace q) s

/-! ## Writing -/

/-- Lines of a list of buffered bytes. -/
def storeLines (l : List (Loc × Byte)) : List Loc := (l.map fun p => lineLoc p.1).dedup
/-- Entries of the task store buffer in use (R200): one a line, four a record write. -/
def bufferEntries (k : Task) : Nat := (storeLines k.stores).length + 4 * k.recs.length
/-- Would a store to these places need a 257th entry (R207). -/
def bufferFull (k : Task) (xs : List Place) : Bool :=
  let new := ((xs.map fun x => lineLoc x.loc).dedup.filter fun l => !(storeLines k.stores).contains l).length
  new != 0 && decide (256 < bufferEntries k + new)
/-- A place's bytes entered in the task store buffer (R200). -/
def bufferBytes (k : Task) (tenant : Nat) (x : Place) (bs : List Byte) : Task :=
  let new := bs.mapIdx fun i b => (x.loc.add i, b)
  let xl := match x.loc with | .phys pa => [(tenant, x.va / 16, pa / 16)] | _ => []
  { k with stores := new.reverse ++ k.stores, xlats := xl ++ k.xlats }
/-- A place's bytes, inside one line, written to a tile-private page through the data cache, write-back (R189); the line's version rises there
(R186, R187). -/
def writeCached (s : State) (q : Req) (x : Place) (pa : Nat) (bs : List Byte) : State :=
  let s := match dblock? s q x.va with | some b => touchBlock s q.tile b | none => fillBlock s q x.va pa true
  match dblock? s q x.va with
  | none => writePhys s pa bs
  | some b =>
    let k := pa % 64 / 16
    let line := blockBytes s b (pa / 16 * 16) 16
    let new := line.take (pa % 16) ++ bs ++ line.drop (pa % 16 + bs.length)
    let b' := { b with
      bytes := b.bytes.take (16 * k) ++ new ++ b.bytes.drop (16 * k + 16), sides := b.sides.set k (sideWritten s pa (b.side k))
      wrote := if b.wrote.contains k then b.wrote else k :: b.wrote, dirty := true }
    noteWrap (setDcache s q.tile ((s.tile q.tile).dcache.map fun d => if d = b then b' else d)) pa (b.side k)
/-- A private scratchpad line written by a task, noted (R447). -/
def notePrivate (s : State) (q : Req) (x : Place) : State :=
  match q.task, q.task? s, x.loc with
  | some kid, some k, .spad _ o => if x.shared ∨ k.wrote.contains (o / 16) = true then s else s.setTask kid { k with wrote := o / 16 :: k.wrote }
  | _, _, _ => s
/-- A task without buffered bytes of a place, which an immediate write of it follows: they would come before it (R172). -/
def dropBuffered (s : State) (q : Req) (x : Place) (n : Nat) : State :=
  match q.task, q.task? s with
  | some kid, some k =>
    let mine (b : Loc × Byte) : Bool := (List.range n).any fun i => b.1 == x.loc.add i
    if k.stores.any mine then s.setTask kid { k with stores := k.stores.filter fun b => !mine b } else s
  | _, _ => s
/-- Does a write of a place wait for a rekey of its region (R187): by the version of its line in the data cache, where it is written there. -/
def placeBlocked (s : State) (q : Req) (x : Place) : Bool :=
  let pa := physOf s x.loc
  match (if x.tp then dblock? s q x.va else none) with
  | some b => (b.side (pa % 64 / 16)).ver == 0xFFFF && rekeying s pa
  | none => rekeyBlocked s pa
/-- The rekey that a write of a place waits for completed: of a line that an earlier line of the same access has made wait (R187). -/
def awaitPlace (s : State) (q : Req) (x : Place) : State :=
  if placeBlocked s q x then (match rekeyRegion? s (physOf s x.loc) with | some r => finishRekey s r | none => s) else s
/-- A place written where it is: through the data cache on a tile-private page, else at its home, whose cached copies elsewhere become stale
(R186, R190). -/
def writeHome (s : State) (q : Req) (x : Place) (bs : List Byte) : State :=
  let s := awaitPlace (dropBuffered s q x bs.length) q x
  match x.loc with
  | .phys pa =>
    if x.tp && decide (pa < edgeEnd) then writeCached s q x pa bs
    else
      let s := writePhys (flushOwn s q x.loc) pa bs
      let k := q.task? s
      if pa < edgeEnd then
        spreadInvalidations s (if q.core then 2 ^ 16 else q.tile) pa ((k.map Task.launch).getD 0) ((k.map Task.stamp).getD 0)
      else s
  | l => writePhys (notePrivate s q x) (physOf s l) bs
/-- Is an immediate access to a place served by the tile's data cache: of a tile-private page that it holds (R189). -/
def servedNow (s : State) (q : Req) (x : Place) : Bool := x.tp && (dblock? s q x.va).isSome
/-- The heads of an immediate read's places: the state when one is lost with the access, or the state in which all have arrived. -/
def sendHeads (s : State) (q : Req) : List Place → Except State State
  | [] => .ok s
  | x :: r =>
    if servedNow s q x then sendHeads s q r
    else match sendHead s q x with
      | .error u => .error u
      | .ok u => sendHeads u q r
/-- A place written as an immediate access: nothing is written when its head is lost. -/
def writeNow (s : State) (q : Req) (x : Place) (bs : List Byte) : State :=
  if servedNow s q x then writeHome s q x bs
  else match sendHead s q x with
    | .error u => u
    | .ok u => writeHome u q x bs
/-- Places written in order as immediate accesses. -/
def writeNowAll (s : State) (q : Req) : List Place → List Byte → State
  | [], _ => s
  | x :: r, bs => writeNowAll (writeNow s q x (bs.take x.len)) q r (bs.drop x.len)
/-- Does a write of any of these places wait for a rekey. -/
def writesWait (s : State) (q : Req) (xs : List Place) : Bool := xs.any fun x => placeBlocked s q x || headHeld s q x

end Sys2Proof.Machine
end

