-- ==== Sys2Proof/Machine/Numbers.lean ====
section
/-! DEFINITION. Number formats and exact arithmetic (spec/04): the values of the floating-point formats, the one place where a
result is rounded (R57, R105, R109, Table 4.4), and the operations on exact values. -/

namespace Sys2Proof.Machine

/-- The floating-point formats of Table 4.2. -/
inductive FpFmt where
  | fp32 | fp16 | bf16 | e4m3 | e5m2
deriving DecidableEq, Repr

/-- Fraction width (Table 4.2). -/
def FpFmt.frac : FpFmt → Nat
  | .fp32 => 23 | .fp16 => 10 | .bf16 => 7 | .e4m3 => 3 | .e5m2 => 2
/-- Exponent width (Table 4.2). -/
def FpFmt.expo : FpFmt → Nat
  | .fp32 => 8 | .fp16 => 5 | .bf16 => 8 | .e4m3 => 4 | .e5m2 => 5
/-- Bias (Table 4.2). -/
def FpFmt.bias : FpFmt → Nat
  | .fp32 => 127 | .fp16 => 15 | .bf16 => 127 | .e4m3 => 7 | .e5m2 => 15
/-- Width in bits. -/
def FpFmt.width (f : FpFmt) : Nat := 1 + f.expo + f.frac
/-- The exponent of the smallest normal. -/
def FpFmt.emin (f : FpFmt) : Int := 1 - (f.bias : Int)
/-- The bits of the largest finite value (Table 4.2). -/
def FpFmt.maxBits : FpFmt → Nat
  | .fp32 => 0x7F7FFFFF | .fp16 => 0x7BFF | .bf16 => 0x7F7F | .e4m3 => 0x7E | .e5m2 => 0x7B
/-- The bits of +∞ (Table 4.3); E4M3 has none and takes its NaN (R106). -/
def FpFmt.infBits : FpFmt → Nat
  | .fp32 => 0x7F800000 | .fp16 => 0x7C00 | .bf16 => 0x7F80 | .e4m3 => 0x7F | .e5m2 => 0x7C
/-- The canonical NaN (Table 4.3). -/
def FpFmt.nanBits : FpFmt → Nat
  | .fp32 => 0x7FC00000 | .fp16 => 0x7E00 | .bf16 => 0x7FC0 | .e4m3 => 0x7F | .e5m2 => 0x7E
/-- The sign bit of a format. -/
def FpFmt.signBit (f : FpFmt) : Nat := 2 ^ (f.width - 1)

/-- Rounding modes (Table 2.4). -/
inductive RMode where
  | rne | rtz | rup | rdn
deriving DecidableEq, Repr
/-- RM codes (Table 2.4). -/
def RMode.ofCode (c : Fin 4) : RMode :=
  match c.val with
  | 0 => .rne | 1 => .rtz | 2 => .rup | _ => .rdn

/-- The value of a bit pattern: a NaN, an infinity, or (-1)^neg · m · 2^e. -/
inductive FpVal where
  | nan (signalling : Bool)
  | inf (neg : Bool)
  | num (neg : Bool) (m : Nat) (e : Int)
deriving DecidableEq, Repr

/-- An exact result before rounding: a NaN, an infinity, or (-1)^neg · p/q · 2^e. -/
inductive Exact where
  | nan
  | inf (neg : Bool)
  | ratio (neg : Bool) (p q : Nat) (e : Int)
deriving DecidableEq, Repr

/-- The value of a pattern (R100, R101), subnormals kept. -/
def FpFmt.decode (f : FpFmt) (b : Nat) : FpVal :=
  let neg := decide (b / f.signBit % 2 = 1)
  let ex := b / 2 ^ f.frac % 2 ^ f.expo
  let fr := b % 2 ^ f.frac
  if f = .e4m3 then
    if ex = 15 ∧ fr = 7 then .nan false
    else if ex = 0 then .num neg fr (f.emin - f.frac) else .num neg (2 ^ f.frac + fr) ((ex : Int) - f.bias - f.frac)
  else if ex = 2 ^ f.expo - 1 then
    if fr = 0 then .inf neg else .nan (decide (fr / 2 ^ (f.frac - 1) = 0))
  else if ex = 0 then .num neg fr (f.emin - f.frac)
  else .num neg (2 ^ f.frac + fr) ((ex : Int) - f.bias - f.frac)

/-- An operand read as a value: BF16 subnormals are read as zero and set FLUSH (R104). -/
def FpFmt.read (f : FpFmt) (b : Nat) : FpVal × Word :=
  match f.decode b with
  | .num neg m e =>
    if f = .bf16 ∧ m ≠ 0 ∧ b / 2 ^ f.frac % 2 ^ f.expo = 0 then (.num neg 0 e, fpFlush) else (.num neg m e, 0)
  | v => (v, 0)

/-- The source modifiers of R56 on the bits: ABS clears the sign, NEG inverts it. -/
def FpFmt.modify (f : FpFmt) (neg abs : Bool) (b : Nat) : Nat :=
  let b := if abs then b % f.signBit else b
  if neg then (if b < f.signBit then b + f.signBit else b - f.signBit) else b

/-- N/D rounded to an integer in a mode, neg the sign of the value (R105). -/
def roundDiv (m : RMode) (neg : Bool) (n d : Nat) : Nat :=
  let q := n / d
  let r := n % d
  match m with
  | .rne => if d < 2 * r ∨ (2 * r = d ∧ q % 2 = 1) then q + 1 else q
  | .rtz => q
  | .rup => if r ≠ 0 ∧ neg = false then q + 1 else q
  | .rdn => if r ≠ 0 ∧ neg = true then q + 1 else q

/-- p/q · 2^k as a fraction of naturals. -/
def scaled (p q : Nat) (k : Int) : Nat × Nat :=
  if 0 ≤ k then (p * 2 ^ k.toNat, q) else (p, q * 2 ^ (-k).toNat)

/-- floor(log2(p/q)) + e, for p, q at least 1. -/
def exponentOf (p q : Nat) (e : Int) : Int :=
  let k : Int := (Nat.log2 p : Int) - Nat.log2 q
  let s := scaled p q (-k)
  if s.2 ≤ s.1 then k + e else k - 1 + e

/-- The overflow result of Table 4.4. -/
def overflowBits (f : FpFmt) (m : RMode) (neg : Bool) : Nat :=
  let toInf := match m with
    | .rne => true
    | .rtz => false
    | .rup => !neg
    | .rdn => neg
  (if toInf then f.infBits else f.maxBits) + (if neg then f.signBit else 0)

/-- The bits of significand sig at quantum 2^u, sig below 2^(frac+1), u at least emin - frac. -/
def packBits (f : FpFmt) (neg : Bool) (sig : Nat) (u : Int) : Nat :=
  let s := if neg then f.signBit else 0
  if sig < 2 ^ f.frac then s + sig
  else s + (u + f.frac + f.bias).toNat * 2 ^ f.frac + (sig - 2 ^ f.frac)

/-- A finite non-zero exact value rounded into f (R104, R105, R109, Table 4.4): the bits and the flags. -/
def roundFinite (f : FpFmt) (m : RMode) (neg : Bool) (p q : Nat) (e : Int) : Nat × Word :=
  let ex := exponentOf p q e
  let su := scaled p q (e - (ex - f.frac))
  let ru := roundDiv m neg su.1 su.2
  -- the magnitude rounded with an unbounded exponent: its own exponent
  let exU := if ru = 2 ^ (f.frac + 1) then ex + 1 else ex
  let tiny := decide (exU < f.emin)
  let u := if f = .bf16 then ex - f.frac else max (ex - f.frac) (f.emin - f.frac)
  let s := scaled p q (e - u)
  let r0 := roundDiv m neg s.1 s.2
  let inexact := s.1 % s.2 != 0
  let r := if r0 = 2 ^ (f.frac + 1) then 2 ^ f.frac else r0
  let u := if r0 = 2 ^ (f.frac + 1) then u + 1 else u
  if f = .bf16 ∧ tiny = true then
    ((if neg then f.signBit else 0), fpFlush ||| fpUnderflow ||| fpInexact)
  else
    let b := packBits f false r u
    if f.maxBits < b then (overflowBits f m neg, fpOverflow ||| fpInexact)
    else (b + (if neg then f.signBit else 0), flagIf inexact fpInexact ||| flagIf (tiny && inexact) fpUnderflow)

/-- SAT of the written value to ±MAXFIN (R57); a NaN stays. The argument is no NaN. -/
def clampBits (f : FpFmt) (clamp : Bool) (b : Nat) : Nat :=
  if clamp && b % f.signBit == f.infBits then b - f.infBits + f.maxBits else b

/-- The destination rule of R57: scale, one rounding, clamp. -/
def finish (f : FpFmt) (m : RMode) (scale : Int) (clamp : Bool) : Exact → Nat × Word
  | .nan => (f.nanBits, 0)
  | .inf neg =>
    if f = .e4m3 ∧ clamp = false then (f.nanBits, 0)
    else (clampBits f clamp (f.infBits + (if neg then f.signBit else 0)), 0)
  | .ratio neg p q e =>
    if p = 0 then ((if neg then f.signBit else 0), 0)
    else
      let r := roundFinite f m neg p q (e + scale)
      let b := clampBits f clamp r.1
      (if f = .e4m3 ∧ b % f.signBit = f.infBits then f.nanBits else b, r.2)

/-- SCALE as a signed number (Table 2.4). -/
def scaleOf (c : Fin 16) : Int := if c.val < 8 then c.val else (c.val : Int) - 16

/-- Is the value a NaN. -/
def FpVal.isNan : FpVal → Bool
  | .nan _ => true
  | _ => false
/-- Is the value a signalling NaN. -/
def FpVal.isSnan : FpVal → Bool
  | .nan s => s
  | _ => false
/-- Is the value an infinity. -/
def FpVal.isInf : FpVal → Bool
  | .inf _ => true
  | _ => false
/-- Is the value a zero. -/
def FpVal.isZero : FpVal → Bool
  | .num _ m _ => m == 0
  | _ => false
/-- The sign; false for a NaN. -/
def FpVal.sign : FpVal → Bool
  | .nan _ => false
  | .inf n => n
  | .num n _ _ => n
/-- The value with its sign inverted. -/
def FpVal.negate : FpVal → FpVal
  | .nan s => .nan s
  | .inf n => .inf !n
  | .num n m e => .num (!n) m e
/-- The value as an exact result. -/
def FpVal.exact : FpVal → Exact
  | .nan _ => .nan
  | .inf n => .inf n
  | .num n m e => .ratio n m 1 e

/-- A signed integer multiple of 2^e. -/
def FpVal.toInt (lo : Int) : FpVal → Int
  | .num n m e => let v : Int := m * 2 ^ (e - lo).toNat; if n then -v else v
  | _ => 0
/-- The exponent of a finite value; 0 otherwise. -/
def FpVal.lowExp : FpVal → Int
  | .num _ _ e => e
  | _ => 0

/-- The sign of an exact zero sum of two values: their common sign, else + except in RDN (IEEE 754-2019, R102). -/
def zeroSign (m : RMode) (a b : Bool) : Bool := if a = b then a else m = .rdn

/-- A signed integer at exponent lo as an exact value; sgn0 is the sign of a zero. -/
def Exact.ofInt (i : Int) (lo : Int) (sgn0 : Bool) : Exact :=
  if i = 0 then .ratio sgn0 0 1 lo else .ratio (decide (i < 0)) i.natAbs 1 lo

/-- a + b (R102): the exact result and INVALID. -/
def fpAdd (m : RMode) (a b : FpVal) : Exact × Word :=
  match a, b with
  | .nan s, y => (.nan, flagIf (s || y.isSnan) fpInvalid)
  | x, .nan s => (.nan, flagIf (s || x.isSnan) fpInvalid)
  | .inf x, .inf y => if x = y then (.inf x, 0) else (.nan, fpInvalid)
  | .inf x, .num .. => (.inf x, 0)
  | .num .., .inf y => (.inf y, 0)
  | .num n1 m1 e1, .num n2 m2 e2 =>
    let lo := min e1 e2
    (Exact.ofInt (FpVal.toInt lo (.num n1 m1 e1) + FpVal.toInt lo (.num n2 m2 e2)) lo
      (if m1 = 0 ∧ m2 = 0 then zeroSign m n1 n2 else m = .rdn), 0)

/-- a · b as a value (R102): exact, a NaN with INVALID for 0 · ∞. -/
def fpMulVal (a b : FpVal) : FpVal × Word :=
  match a, b with
  | .nan s, y => (.nan false, flagIf (s || y.isSnan) fpInvalid)
  | x, .nan s => (.nan false, flagIf (s || x.isSnan) fpInvalid)
  | .inf x, y => if y.isZero then (.nan false, fpInvalid) else (.inf (x != y.sign), 0)
  | x, .inf y => if x.isZero then (.nan false, fpInvalid) else (.inf (x.sign != y), 0)
  | .num n1 m1 e1, .num n2 m2 e2 => (.num (n1 != n2) (m1 * m2) (e1 + e2), 0)

/-- a · b (R102). -/
def fpMul (a b : FpVal) : Exact × Word := let r := fpMulVal a b; (r.1.exact, r.2)

/-- a · b + c with one rounding to come (R102, R235). -/
def fpFma (m : RMode) (a b c : FpVal) : Exact × Word :=
  let p := fpMulVal a b
  let s := fpAdd m p.1 c
  (s.1, p.2 ||| s.2)

/-- a / b (R102, R236): INVALID for 0/0 and ∞/∞, DIVZERO for a finite non-zero over zero. -/
def fpDiv (a b : FpVal) : Exact × Word :=
  match a, b with
  | .nan s, y => (.nan, flagIf (s || y.isSnan) fpInvalid)
  | x, .nan s => (.nan, flagIf (s || x.isSnan) fpInvalid)
  | .inf _, .inf _ => (.nan, fpInvalid)
  | .inf x, .num n _ _ => (.inf (x != n), 0)
  | .num n _ _, .inf y => (.ratio (n != y) 0 1 0, 0)
  | .num n1 m1 e1, .num n2 m2 e2 =>
    if m2 = 0 then (if m1 = 0 then (.nan, fpInvalid) else (.inf (n1 != n2), fpDivzero))
    else (.ratio (n1 != n2) m1 m2 (e1 - e2), 0)

/-- floor of the square root of x below 2^(2k), bit by bit from bit k - 1. -/
def sqrtBits (x : Nat) : Nat → Nat → Nat
  | 0, r => r
  | k + 1, r => let c := r + 2 ^ k; sqrtBits x k (if c * c ≤ x then c else r)
/-- floor of the square root. -/
def natSqrt (x : Nat) : Nat := sqrtBits x (Nat.log2 x / 2 + 1) 0

/-- The square root of a non-negative m · 2^e to 40 bits beyond its integer part, with a last bit that says whether it is exact: enough for
every rounding of Table 4.2's formats. -/
def sqrtExact (m : Nat) (e : Int) : Exact :=
  let odd := e % 2 = 1
  let m := if odd then 2 * m else m
  let h := if odd then (e - 1) / 2 else e / 2
  let x := m * 2 ^ 80
  let r := natSqrt x
  .ratio false (2 * r + (if r * r = x then 0 else 1)) 1 (h - 41)

/-- Square root (R102, R236): that of -0 is -0, of any other negative INVALID. -/
def fpSqrt : FpVal → Exact × Word
  | .nan s => (.nan, flagIf s fpInvalid)
  | .inf n => if n then (.nan, fpInvalid) else (.inf false, 0)
  | .num n m e => if m = 0 then (.ratio n 0 1 0, 0) else if n then (.nan, fpInvalid) else (sqrtExact m e, 0)

/-- a < b for values that are no NaN; -0 equals +0. -/
def fpLt (a b : FpVal) : Bool :=
  match a, b with
  | .nan _, _ => false
  | _, .nan _ => false
  | .inf x, .inf y => x && !y
  | .inf x, .num .. => x
  | .num .., .inf y => !y
  | .num n1 m1 e1, .num n2 m2 e2 =>
    let lo := min e1 e2
    decide (FpVal.toInt lo (.num n1 m1 e1) < FpVal.toInt lo (.num n2 m2 e2))
/-- a = b for values that are no NaN. -/
def fpEq (a b : FpVal) : Bool := !a.isNan && !b.isNan && !fpLt a b && !fpLt b a

/-- The order of vmin and vmax: -0 below +0 (R102). -/
def fpTotalLt (a b : FpVal) : Bool := fpLt a b || (fpEq a b && a.isZero && b.isZero && a.sign && !b.sign)

/-- A finite value rounded to an integer in a mode. -/
def roundToInt (m : RMode) (neg : Bool) (p q : Nat) (e : Int) : Int :=
  let s := scaled p q e
  let r := roundDiv m neg s.1 s.2
  if neg then -(r : Int) else r

/-- The written value of vrnd (R236): b · 2^scale rounded to an integral value in mode m, then CLAMP. -/
def fpRnd (f : FpFmt) (m : RMode) (scale : Int) (clamp : Bool) (b : FpVal) : Nat × Word :=
  match b with
  | .nan s => (f.nanBits, flagIf s fpInvalid)
  | .inf n => (clampBits f clamp (f.infBits + (if n then f.signBit else 0)), 0)
  | .num n v e =>
    let s := scaled v 1 (e + scale)
    let r := roundDiv m n s.1 s.2
    if r = 0 then ((if n then f.signBit else 0), 0)
    else
      -- an integral value; beyond MAXFIN the overflow result of Table 4.4
      let w := roundFinite f m n r 1 0
      if w.2 &&& fpOverflow != 0 then (clampBits f clamp w.1, w.2) else (clampBits f clamp w.1, 0)

/-- Float to integer of w bits (R107): saturated, never wrapped. -/
def fpToInt (w : Nat) (m : RMode) : FpVal → Int × Word
  | .nan _ => (0, fpInvalid)
  | .inf n => (if n then -(2 ^ (w - 1) : Int) else 2 ^ (w - 1) - 1, fpInvalid)
  | .num n v e =>
    let r := roundToInt m n v 1 e
    let lo : Int := -(2 ^ (w - 1) : Int)
    let hi : Int := 2 ^ (w - 1) - 1
    if r < lo ∨ hi < r then (sat r lo hi, fpInvalid)
    else
      let s := scaled v 1 e
      (r, flagIf (s.1 % s.2 != 0) fpInexact)

/-- Integer to float (R107). -/
def intToFp (f : FpFmt) (m : RMode) (scale : Int) (clamp : Bool) (i : Int) : Nat × Word :=
  finish f m scale clamp (Exact.ofInt i 0 false)

/-- The low w bits of an exact integer, or saturated (R57, R98). -/
def intFinal (w : Nat) (clamp : Bool) (y : Int) : Nat :=
  let y := if clamp then sat y (-(2 ^ (w - 1) : Int)) (2 ^ (w - 1) - 1) else y
  (y % (2 ^ w : Int)).toNat

/-! Element formats of Table 3.2. -/

/-- The floating-point format of an element-format code. -/
def fpCode : Nat → Option FpFmt
  | 0 => some .fp32
  | 1 => some .fp16
  | 2 => some .bf16
  | 6 => some .e4m3
  | 7 => some .e5m2
  | _ => none
/-- The lane width in bits of an element-format code 0 to 7. -/
def laneWidth : Nat → Nat
  | 0 => 32 | 1 => 16 | 2 => 16 | 3 => 32 | 4 => 16 | 5 => 8 | 6 => 8 | 7 => 8 | _ => 256

/-- vcvt of one lane (R106, R107, R240): source and target element-format codes 0 to 7. An infinite E5M2 operand converted to E4M3 sets
INVALID as R106 says of the infinite operands of its other formats (DESIGN CHOICE, log entry 42: the rule does not name E5M2). -/
def convert (src dst : Nat) (m : RMode) (scale : Int) (clamp neg abs : Bool) (bits : Nat) : Nat × Word :=
  match fpCode src, fpCode dst with
  | none, none => (intFinal (laneWidth dst) clamp (sextN bits (laneWidth src)), 0)
  | none, some f => intToFp f m scale clamp (sextN bits (laneWidth src))
  | some f, none =>
    let v := f.read (f.modify neg abs bits)
    let r := fpToInt (laneWidth dst) m v.1
    ((r.1 % (2 ^ laneWidth dst : Int)).toNat, v.2 ||| r.2)
  | some f, some g =>
    let v := f.read (f.modify neg abs bits)
    let r := finish g m scale clamp v.1.exact
    (r.1, v.2 ||| r.2 ||| flagIf (v.1.isSnan || (v.1.isInf && g = .e4m3)) fpInvalid)

end Sys2Proof.Machine
end

