-- ==== Sys2Proof/Machine/Ranges.lean ====
section
/-! DEFINITION. Range locks as engines register them (R215, R217, R218, Table 6.14) and the address patterns of streams (R246, R247). -/

namespace Sys2Proof.Machine

/-! ## Ranges (R215, R217) -/

/-- The table, block and offset that an address is registered under (Table 6.14); handles in the tenant's view. -/
def lockPlace (s : State) (t h tenant a : Nat) : Option (Nat × Option Nat × Nat) :=
  if inLocal a then (s.block? h).map fun b => (b.tile, some h, a)
  else if inHole a then none
  else if inCluster a then
    let g := fromViewHandle s tenant (a / 2 ^ 17 % 2 ^ 24)
    (s.block? g).map fun b => (b.tile, some g, a % 2 ^ 17)
  else some (t, none, a)
/-- A range to register: its table's tile and the entry. -/
abbrev RangeSpec := Nat × RangeLock
/-- The range of n bytes from an address for an operation of a block on a tile; none when the address names no block. -/
def rangeSpec (s : State) (t h tenant engine req : Nat) (task : Option Nat) (dst : Bool) (a n : Nat) : Option RangeSpec :=
  (lockPlace s t h tenant a).map fun p =>
    (p.1, { handle := p.2.1, tenant := tenant, base := p.2.2 / 16 * 16, lines := (p.2.2 % 16 + n + 15) / 16, dst := dst
            engine := engine, req := req, task := task })
/-- The parts of n bytes from a cluster-window address that lie in further blocks than the first: a range covers every line that its operation may
touch (R215). -/
def furtherParts (s : State) (tenant a n : Nat) : List (Nat × Nat) :=
  if inCluster a = false ∨ a % 2 ^ 17 + n ≤ 2 ^ 17 then []
  else s.blocks.filterMap fun p =>
    let v := 2 ^ 54 - 2 ^ 41 + toViewHandle s tenant p.1 * 2 ^ 17
    if a < v ∧ v < a + n ∧ fromViewHandle s tenant (toViewHandle s tenant p.1) = p.1 then some (v, min (2 ^ 17) (a + n - v)) else none
/-- The ranges of n bytes from an address: one in each block that they lie in (R215, Table 6.14). -/
def rangeSpecs (s : State) (t h tenant engine req : Nat) (task : Option Nat) (dst : Bool) (a n : Nat) : List RangeSpec :=
  ((a, n) :: furtherParts s tenant a n).filterMap fun p => rangeSpec s t h tenant engine req task dst p.1 p.2
/-- The range of n physical bytes for an operation of level 0 (R277, R290): of scratchpads in the table of each tile that holds some of them,
whatever blocks hold them there; otherwise in that of the issuing tile, beside other physical ranges only (DESIGN CHOICE, log entry 45). -/
def physSpecs (t req : Nat) (dst : Bool) (pa n : Nat) : List RangeSpec :=
  let one (own a n : Nat) (spad : Bool) : RangeSpec :=
    (own, { handle := none, tenant := 2 ^ 24, base := a / 16 * 16, lines := (a % 16 + n + 15) / 16, dst := dst, engine := 5, req := req, spad := spad })
  if physEntry pa = some 2 then
    let first := (pa - spadBase 0) / 0x20000
    (List.range ((pa % 0x20000 + n + 0x1FFFF) / 0x20000)).map fun k =>
      let a := if k = 0 then pa % 0x20000 else 0
      one (first + k) a (min (pa % 0x20000 + n - 0x20000 * k) 0x20000 - a) true
  else [one t pa n false]
/-- Is there room for ranges in the 16-entry tables (Table 1.3). -/
def rangesFit (s : State) (l : List RangeSpec) : Bool :=
  l.all fun p => decide ((s.tile p.1).locks.length + (l.filter fun q => q.1 == p.1).length ≤ 16)
/-- Ranges registered, in order. -/
def registerRanges (s : State) (l : List RangeSpec) : State :=
  l.foldl (fun s p => let x := s.tile p.1; s.setTile p.1 { x with locks := x.locks ++ [p.2] }) s
/-- The ranges of a request released (R218), those that an Evicted block carries among them (R449). -/
def releaseRanges (s : State) (req : Nat) : State :=
  let keep (l : List RangeLock) : List RangeLock := l.filter fun x => x.req != req
  { s with
    tiles := s.tiles.map fun p => (p.1, { p.2 with locks := keep p.2.locks })
    blocks := s.blocks.map fun p => (p.1, { p.2 with frozen := p.2.frozen.map fun z => { z with locks := keep z.locks } }) }
/-- Do two ranges overlap with either a destination (R217). -/
def rangesConflict (a b : RangeLock) : Bool :=
  (if a.spad || b.spad then (a.spad || a.handle.isSome) && (b.spad || b.handle.isSome)
   else a.handle == b.handle && (a.handle.isSome || a.tenant == b.tenant)) && (a.dst || b.dst) &&
    decide (a.base < b.base + 16 * b.lines) && decide (b.base < a.base + 16 * a.lines)
/-- Does a range of a request in a table, oldest first, wait for one registered before it. -/
def waitsIn (req : Nat) : List RangeLock → List RangeLock → Bool
  | _, [] => false
  | before, l :: r => (l.req == req && before.any fun b => b.req != req && rangesConflict b l) || waitsIn req (before ++ [l]) r
/-- May a request act: none of its ranges waits for an earlier one (R217). -/
def rangesClear (s : State) (req : Nat) : Bool := s.tiles.all fun p => !waitsIn req [] p.2.locks

/-! ## Patterns (R246, R247) -/

/-- Base, counts and strides of a pattern record (Table 7.7). -/
structure Pattern where
  base : Word
  c0 : Nat
  c1 : Nat
  c2 : Nat
  s0 : Int
  s1 : Int
  s2 : Int
/-- A pattern record read from its 32 bytes. -/
def patternOf (b : List Byte) : Pattern :=
  { base := w64 (leAt b 0 8), c0 := leAt b 8 2, c1 := leAt b 10 2, c2 := leAt b 12 2
    s0 := sextN (leAt b 16 4) 32, s1 := sextN (leAt b 20 4) 32, s2 := sextN (leAt b 24 4) 32 }
/-- N (R246). -/
def Pattern.count (p : Pattern) : Nat := p.c0 * p.c1 * p.c2
/-- ADDR(n) as an exact sum. -/
def Pattern.addr (p : Pattern) (n : Nat) : Int :=
  addrOf p.base + (n % p.c0 : Nat) * p.s0 + (n / p.c0 % p.c1 : Nat) * p.s1 + (n / (p.c0 * p.c1) : Nat) * p.s2
/-- The pointer to element n, with BASE's tag. -/
def Pattern.ptr (p : Pattern) (n : Nat) : Word := withAddr p.base (p.addr n)
/-- The lowest element address, from the signs of the strides (R247). -/
def Pattern.low (p : Pattern) : Int :=
  addrOf p.base + min 0 ((p.c0 - 1 : Nat) * p.s0) + min 0 ((p.c1 - 1 : Nat) * p.s1) + min 0 ((p.c2 - 1 : Nat) * p.s2)
/-- The highest element address. -/
def Pattern.high (p : Pattern) : Int :=
  addrOf p.base + max 0 ((p.c0 - 1 : Nat) * p.s0) + max 0 ((p.c1 - 1 : Nat) * p.s1) + max 0 ((p.c2 - 1 : Nat) * p.s2)
/-- Bytes of an element of format code 0 to 5. -/
def elemBytes (fmt : Nat) : Nat := laneWidth fmt / 8
/-- Elements in a beat (R248, Table 7.1). -/
def beatElems (fmt : Nat) : Nat := 256 / laneWidth fmt
/-- The source range of a stream (R247 step 5). -/
def streamRange (s : State) (t h tenant req : Nat) (task : Option Nat) (fmt : Nat) (p : Pattern) : List RangeSpec :=
  rangeSpecs s t h tenant 2 req task false (p.low % 2 ^ 54).toNat ((p.high - p.low).toNat + elemBytes fmt)
/-- Is a request's range registered. -/
def rangeHeld (s : State) (req : Nat) : Bool := s.tiles.any fun p => p.2.locks.any fun l => l.req == req
/-- The range of a bound stream that lacks it. -/
def rangeLacked (s : State) (t c : Nat) (m : Stream) : List RangeSpec :=
  let x := s.ctx t c
  if m.bound && !rangeHeld s m.req then
    (streamRange s t x.handle (blockTenant s x.handle) m.req x.task m.fmt (patternOf m.pattern))
  else []
/-- The range of a bound stream registered again where a discard released it and the table has room (R205, R215, R231, Table 7.10). -/
def regainLock (s : State) (t c : Nat) (m : Stream) : State :=
  if rangesFit s (rangeLacked s t c m) then registerRanges s (rangeLacked s t c m) else s
/-- The ranges of a context's bound streams registered again; those that find the table full wait for room, and fetch no beat (R215). -/
def regainLocks (s : State) (t c : Nat) : State :=
  (List.range 4).foldl (fun s k => (regainLock s t c ((s.ctx t c).vec.s.toList.getD k {})).addDueOnce (.beatArrival t c k)) s
/-- May a stream be read now: its range is registered and waits for none registered before it (R215, R217). -/
def streamClear (s : State) (t c : Nat) (m : Stream) : Bool := (rangeLacked s t c m).isEmpty && rangesClear s m.req

end Sys2Proof.Machine
end

