-- ==== Sys2Proof/Machine/Commit.lean ====
section
/-! DEFINITION. The commit model: who is oldest, commits, aborts, squashes and discards with their cascades, restart points and restart
entries, serialising tasks (R199-R210, R221, R378, R388-R399, R408, R423, R424). -/

namespace Sys2Proof.Machine

/-! ## Activation states (Tables 5.11, 12.7, R232, R307) -/

/-- STATUS bits kept by an activation: SLICECLAMP and AUTOMIG (Table 5.11). -/
def keptStatus (st : Word) : Word := st &&& 0x8100
/-- The registers at an activation (Table 5.11): TVEC and the kept bits stay, everything else is zero. -/
def activationRegs (old : Regs) (a : Activation) : Regs :=
  { g := ((((Vector.replicate 16 (0 : Word)).set 0 a.g0).set 1 a.g1).set 2 a.g2), pc := a.pc, status := keptStatus old.status, tvec := old.tvec }
/-- BUDGET of a launch; 0 means 2^32 - 1 (Table 12.1). -/
def launchBudget (l : Launch) : Nat := let b := recFld l.desc 287 256; if b = 0 then 2 ^ 32 - 1 else b
/-- BUDGET of a task's launch. -/
def taskBudget (s : State) (x : Task) : Nat := match s.launch? x.launch with | some l => launchBudget l | none => 2 ^ 32 - 1
/-- A context with vector and matrix state v and m, held in the tile: nothing is to be filled. -/
def withExt (c : Ctx) (v : VecState) (m : MatState) : Ctx := { c with vec := v, mat := m, extResident := true, matResident := true, fromCkpt := false }
/-- STATUS at the end of a committed interval, with the SLICECLAMP that stands now (R457) and no single step. -/
def restartStatus (saved now : Word) : Word := setBit (setBit saved 15 (bitOf now 15)) 7 false
/-- A context with its task's restart point: the end of its last committed interval, or its activation (R205, R399); FPSTAT and QFLAGS
return to their values at activation (R110). The vector and matrix state of an interval's end is that of the checkpoint half, which the next
extension fill reloads (R231, R306), unless the half could not be written. -/
def atRestart (c : Ctx) (x : Task) : Ctx :=
  match x.saved with
  | some r =>
    let y := withExt { c with regs := { r with fpstat := 0, qflags := 0, windows := [], status := restartStatus r.status c.regs.status } } x.savedVec x.savedMat
    if anchored y && !x.ckptHeld then { y with extResident := false, fromCkpt := true } else y
  | none => withExt { c with regs := activationRegs c.regs x.act } {} {}
/-- A context queued (Table 5.10). -/
def enqueue (s : State) (t c : Nat) (x : Ctx) : State :=
  slotFreed (s.setCtx t c { x with
    state := .queued, why := .none, slot := none, pause := 0, awaiting := none, succ := none, queuedAt := s.cycle }) t
/-- A context queued at a state that hardware writes: its lines are resident and dirty, no accumulator of an older task stays (R148, R307). -/
def enqueueFresh (s : State) (t c : Nat) (x : Ctx) : State :=
  let keep := !x.fromCkpt && x.mat.a.toList.any fun a => a.live
  makeAllResident (enqueue (if keep then s else dropAccs s t c) t c x) t c

/-! ## Counting (R199, R378, R388) -/

/-- Live tasks of a launch (R378): tasks, waiting entries other than restart entries, inbox entries. -/
def liveTasks (s : State) (l : Nat) : Nat :=
  (s.tasks.filter fun p => p.2.launch == l).length + ((allEntries s).filter fun e => e.launch == l && e.restart.isNone).length +
  ((allInbox s).filter fun e => e.launch == l).length
/-- Live tasks of a block (R378). -/
def blockTasks (s : State) (h : Nat) : Nat :=
  (s.tasks.filter fun p => p.2.handle == h).length + ((allEntries s).filter fun e => e.handle == h && e.restart.isNone).length +
  ((allInbox s).filter fun e => e.handle == h).length
/-- Count of a launch with its references (R378, R382). -/
def launchCount (s : State) (l : Nat) : Int := liveTasks s l + ((s.launch? l).map Launch.refs).getD 0
/-- The launch's counter looked at again: COUNTER_COMPLETE becomes due when its count has returned to 0 (R378). -/
def noteCount (s : State) (l : Nat) : State :=
  match s.launch? l with
  | some x => if x.raised && launchCount s l == 0 then s.addDueOnce (.counterComplete 1 l) else s
  | none => s
/-- A launch's count raised above 0 (R378). -/
def noteRaised (s : State) (l : Nat) : State := match s.launch? l with | some x => s.setLaunch l { x with raised := true } | none => s

/-- Requests of a task's interval not yet Done (R289), those of Evicted blocks among them. -/
def openRequests (s : State) (k : Nat) : Bool :=
  (s.tiles.any fun p => p.2.zreqs.any fun r => r.task == some k) || (frozenBlocks s).any fun z => z.zreqs.any fun r => r.task == some k
/-- Matrix operations of a task not yet completed (R306, R396). -/
def openMatrix (s : State) (k : Nat) : Bool := s.tiles.any fun p => p.2.matq.any fun m => m.task == some k
/-- Messages of a task outside Free (R389). -/
def openSends (s : State) (k : Nat) : Bool :=
  (s.tiles.any fun p => p.2.sends.any fun e => e.2.task == some k) || (frozenBlocks s).any fun z => z.sends.any fun e => e.2.task == some k
/-- Lines under a check of the Ceilometer that has not been made (R422). -/
def checkPending (s : State) : Bool := s.due.any fun i => match i with | .ceilometerCheck _ _ => true | _ => false
/-- Is the block of a scratchpad line Evicted: its lines are at no tile until it is restored (R449). -/
def homeEvicted (s : State) : Loc → Bool
  | .spad h _ => (s.block? h).any fun b => b.live && b.evicted
  | _ => false
/-- Is a line in a block that a Drift move is taking, on another tile than t: a commit's write waits at its router (R434). -/
def homeMoving (s : State) (t : Nat) : Loc → Bool
  | .spad h _ => (s.block? h).any fun b => b.tile != t && movingTile s b.tile
  | _ => false
/-- May the interval of a task commit (R187, R202, R289, R306, R422, R434). -/
def canCommit (s : State) (k : Nat) (x : Task) : Bool :=
  oldest s k x && x.reads.all ReadEntry.acked && !openRequests s k && !openMatrix s k &&
  (storeLines x.stores).all (fun l => !rekeyBlocked s (physOf s l) && !homeEvicted s l && !homeMoving s x.tile l) && !(checkPending s && !(x.stores.isEmpty && x.recs.isEmpty))

/-! ## Layout records (R221, R224, R407, R408) -/

/-- The RW-T fields of Table 6.16. -/
def recMask : Nat :=
  (2 ^ 64 - 1) + (2 ^ 96 - 2 ^ 64) + (2 ^ 160 - 2 ^ 96) + 7 * 2 ^ 160 + 15 * 2 ^ 168 + 255 * 2 ^ 176 + (2 ^ 48 - 1) * 2 ^ 192 + 15 * 2 ^ 240
/-- A record with the RW-T fields of an image, VERSION one more, TRACKED kept, reserved fields zero (R221). -/
def recMerge (old img : List Byte) : List Byte :=
  let o := fromBytes old
  toBytes 64 ((fromBytes img) &&& recMask ||| ((fieldN o 287 256 + 1) % 2 ^ 32 * 2 ^ 256 + fieldN o 288 288 * 2 ^ 288))
/-- A record write made visible: the record, the history of a tracked one, and the check of an instance that awaits the version, which is then
no longer the record's open one (R408, R422). -/
def recordCommit (s : State) (n k : Nat) (img : List Byte) : State :=
  let c := s.cluster n
  let new := recMerge (layoutRecord s n k) img
  let f := mget c.forecasts {} k
  let tracked := recFld new 288 288 == 1
  let awaits := tracked && (match f.inst.bind (mget? s.insts) with | some x => x.version == recVersion new | none => false)
  let f' := if tracked then { f with p2 := f.p1, p1 := some new, h := min (f.h + 1) 2, inst := if awaits then none else f.inst } else f
  let s := s.setCluster n { c with records := mset c.records k new, forecasts := if tracked then mset c.forecasts k f' else c.forecasts }
  if awaits then
    ({ s with insts := s.insts.map fun p => if some p.1 = f.inst then (p.1, { p.2 with committed := some new }) else p } : State).addDueOnce
      (.ceilometerCheck n k)
  else s

/-! ## Deques (R391) -/

/-- An entry pushed on top of a tile's deque; a full deque first moves its bottom entry to the home island's overflow list (R391). The
list's head is the top. -/
def pushEntry (s : State) (t : Nat) (e : DequeEntry) : State :=
  let x := s.tile t
  if x.deque.length < 64 then s.setTile t { x with deque := e :: x.deque }
  else
    let i := homeIsland (clusterOf t)
    let isl := s.island i
    ((s.setTile t { x with deque := e :: x.deque.dropLast }).setIsland i { isl with overflow := isl.overflow ++ x.deque.getLast?.toList }).addDueOnce
      (.overflowReturn i)
/-- What the Evicted blocks hold changed. -/
def mapFrozen (f : Frozen → Frozen) (s : State) : State :=
  { s with blocks := s.blocks.map fun p => (p.1, { p.2 with frozen := p.2.frozen.map f }) }
/-- The allocations of every tile and of every Evicted block changed. -/
def mapAllocs (f : List Alloc → List Alloc) (s : State) : State :=
  mapFrozen (fun z => { z with allocs := f z.allocs }) { s with tiles := s.tiles.map fun p => (p.1, { p.2 with allocs := f p.2.allocs }) }
/-- Entries that pass a test removed everywhere, from what Evicted blocks hold too (R395). -/
def dropEntries (s : State) (p : DequeEntry → Bool) : State :=
  mapFrozen (fun z => { z with deque := z.deque.filter fun e => !p e })
    { s with
      tiles := s.tiles.map fun t => (t.1, { t.2 with deque := t.2.deque.filter fun e => !p e })
      islands := s.islands.map fun i => (i.1, { i.2 with overflow := i.2.overflow.filter fun e => !p e }) }

/-! ## Discards (R205, R395, R423, R424) -/

/-- What becomes of a task whose interval is discarded: it runs again in place (an abort), it is requeued (a squash, Clearance, a slice
end), or it is discarded for good. -/
inductive Fate where
  | restart | requeue | gone
deriving DecidableEq, Repr

/-- Names whose load a task had in flight become Empty (Table 8.1). -/
def dropLoads (s : State) (k : Nat) : State :=
  (s.tiles.flatMap fun p => p.2.ibufs.filter fun b => b.loading && !b.refetch && b.task == some k).foldl
    (fun s b => match s.block? b.handle with | some x => s.setBlock b.handle { x with itabs := mdel x.itabs b.name } | none => s) s
/-- The engine operations of a task's interval cancelled and their range locks released (R205 step 2), at Evicted blocks too; the matrix queues go
on. -/
def cancelEngines (s : State) (k : Nat) : State :=
  let s := dropLoads s k
  let hit := (s.tiles.filter fun p => p.2.matq.any fun m => m.task == some k).map Prod.fst
  let s : State := { s with tiles := s.tiles.map fun p => (p.1, { p.2 with
      locks := p.2.locks.filter fun l => l.task != some k
      zreqs := p.2.zreqs.filter fun r => r.task != some k
      matq := p.2.matq.filter fun m => m.task != some k
      ibufs := p.2.ibufs.filter fun b => !(b.loading && b.task == some k) }) }
  let s := mapFrozen (fun z => { z with locks := z.locks.filter fun l => l.task != some k, zreqs := z.zreqs.filter fun r => r.task != some k }) s
  hit.foldl (fun s t => s.addDueOnce (.matrixOperationStart t)) s
/-- The allocations after a discard of the interval of task k: those made in it freed, those freed in it live again (R180, R182). -/
def allocsUndone (k : Nat) (l : List Alloc) : List Alloc :=
  (l.filter fun a => a.made != some k).map fun a => if a.freer = some k then { a with dying := false, freer := none } else a
/-- The allocations after the end of the interval of task k: those freed in it returned, those made in it kept (R180, R182). -/
def allocsEnded (k : Nat) (l : List Alloc) : List Alloc :=
  (l.filter fun a => !(a.dying && a.freer == some k)).map fun a => if a.made = some k then { a with made := none } else a
/-- No value read of task k's parked stores any more: its next run makes others (R419, R423). -/
def forgetParked (s : State) (k : Nat) : State :=
  let part (p : Nat × Nat × List Nat) : Nat × Nat × List Nat := (p.1, p.2.1, p.2.2.filter fun t => t != k)
  { s with tasks := s.tasks.map fun p => (p.1, { p.2 with reads := p.2.reads.map fun e => { e with parts := e.parts.map part } }) }
/-- The interval of a task dropped: its engine operations, buffered stores, record writes, read-set entries, allocations and frees (R205). A task
that has become serialising stays so until it ends (R206). -/
def dropInterval (s : State) (k : Nat) (x : Task) : State :=
  let s := forgetParked (mapAllocs (allocsUndone k) (cancelEngines s k)) k
  let s := dropEntries s fun e => x.pushes.contains e.id
  s.setTask k { x with
    stores := [], xlats := [], recs := [], reads := [], pushes := [], taint := [], readFrom := []
    wrote := if x.saved.isNone then [] else x.wrote, parked := false, serial := x.serial && x.saved.isSome, wantsSerial := false
    zopen := 0, zcount := 0, zfailed := [] }
/-- Instances that the discard leaves without a holder stay open (R422); tasks that read from this one no longer list it. -/
def forgetReaders (s : State) (k : Nat) : State :=
  { s with tasks := s.tasks.map fun p => (p.1, { p.2 with readFrom := p.2.readFrom.filter fun r => r != k }) }
/-- The payload allocation of a task's message freed when the task leaves (R358). -/
def freePayload (s : State) (x : Task) : State :=
  match x.payload with
  | none => s
  | some n => mapAllocs (fun l => l.filter fun a => a.msg != n) s
/-- A task leaves its launch (R199, R389). -/
def leaveLaunch (s : State) (k : Nat) (x : Task) : State :=
  let s := freePayload s x
  let s := forgetReaders { s with tasks := mdel s.tasks k } k
  noteCount s x.launch
/-- A context without its task: Dormant, or Free for a guest (Table 5.10). -/
def freedCtx (c : Ctx) : Ctx :=
  { withExt (leaveSlot c) {} {} with state := if c.guest then .free else .dormant, why := .none, task := none, deferred := none }
/-- The context of a discarded task: Dormant, or Free for a guest (Table 5.10). -/
def freeContext (s : State) (x : Task) : State :=
  let c := s.ctx x.tile x.ctx
  let s := s.setCtx x.tile x.ctx (freedCtx c)
  let s := if c.guest then dropLines s x.tile x.ctx else dropAccs s x.tile x.ctx
  (slotFreed s x.tile).addDueOnce (.activationByHandOff x.tile)
/-- The restart entry of a requeued task, in the deque of the tile of its block (R399). -/
def requeueTask (s : State) (k : Nat) (x : Task) : State :=
  let (n, s) := s.fresh
  let t := match s.block? x.handle with | some b => b.tile | none => x.tile
  let s := s.setTask k { x with phase := .requeued }
  (pushEntry s t { id := n, handle := x.handle, launch := x.launch, stamp := x.stamp, restart := some k }).addDueOnce (.activationByHandOff t)
/-- The context states that hold the thread of a running task (Table 5.10). -/
def holdsTask (c : Ctx) (k : Nat) : Bool := c.task == some k && c.state != .free && c.state != .dormant
/-- What a block holds while it is Evicted, changed. -/
def setFrozen (s : State) (h : Nat) (f : Frozen → Frozen) : State :=
  match s.block? h with
  | some b => s.setBlock h { b with frozen := b.frozen.map f }
  | none => s
/-- A task discarded for good leaves its launch: once none of its messages is outside Free (R389). -/
def leaveGone (s : State) (k : Nat) : State :=
  match s.task? k with
  | some x => if openSends s k then s.setTask k { x with phase := .committed } else leaveLaunch s k x
  | none => s
/-- A task of an Evicted block dealt its fate: its restart entry waits in what the block holds (R449); a Halted context defers it (R204). -/
def frozenFate (s : State) (k : Nat) (f : Fate) (x : Task) (z : Frozen) : State :=
  if f ≠ .gone ∧ z.ctxs.any (fun p => p.2.task == some k && p.2.state == .halted) = true then
    let note (p : Nat × Ctx) : Nat × Ctx :=
      if p.2.task = some k then (p.1, { p.2 with deferred := some (f == .requeue || p.2.deferred == some true) }) else p
    setFrozen s x.handle fun z => { z with ctxs := z.ctxs.map note }
  else
    let (n, s) := (dropInterval s k x).fresh
    let s := setFrozen s x.handle fun z => { z with ctxs := z.ctxs.map fun p => if p.2.task = some k then (p.1, freedCtx p.2) else p }
    if f = .gone then leaveGone (dropEntries s fun e => e.restart == some k) k
    else if x.phase = .requeued then s
    else
      let e : DequeEntry := { id := n, handle := x.handle, launch := x.launch, stamp := x.stamp, restart := some k }
      let s := match s.task? k with | some y => s.setTask k { y with phase := .requeued } | none => s
      setFrozen s x.handle fun z => { z with deque := e :: z.deque }
/-- What the block of a task holds while it is Evicted. -/
def frozenOf (s : State) (x : Task) : Option Frozen := (s.block? x.handle).bind Block.frozen
/-- One task dealt its fate (R204, R205, R399, R423). -/
def dealFate (s : State) (k : Nat) (f : Fate) : State :=
  match s.task? k with
  | none => s
  | some x =>
    match frozenOf s x with
    | some z => frozenFate s k f x z
    | none =>
    let c := s.ctx x.tile x.ctx
    let held := x.phase == .running && holdsTask c k
    if held && (c.state == .halted || c.deferred.isSome) && f != .gone then s.setCtx x.tile x.ctx { c with deferred := some (f == .requeue || c.deferred == some true) }
    else
      let s := dropInterval s k x
      match s.task? k with
      | none => s
      | some x =>
        match f with
        | .gone =>
          let s := if held then freeContext s x else dropEntries s fun e => e.restart == some k
          leaveGone s k
        | .restart =>
          if held && (c.state == .issuing || c.state == .queued || c.state == .setAside) then
            let e := lineFault? s x.tile x.ctx
            let s := ensureTrapLines s x.tile x.ctx
            let s := enqueueFresh s x.tile x.ctx { atRestart (leaveSlot (s.ctx x.tile x.ctx)) x with remain := taskBudget s x }
            orImageFault e (regainLocks s x.tile x.ctx) x.tile x.ctx
          else if x.phase = .requeued then s
          else requeueTask (if held then freeContext s x else s) k x
        | .requeue =>
          if x.phase = .requeued then s else requeueTask (if held then freeContext s x else s) k x
/-- The tasks that the discard of a task draws in (R395, R424): readers of its parked stores are squashed, tasks activated from entries its
interval pushed are discarded for good. -/
def drawnIn (s : State) (k : Nat) : List (Nat × Fate) :=
  match s.task? k with
  | none => []
  | some x =>
    (s.tasks.filterMap fun p => if p.2.readFrom.contains k then some (p.1, Fate.requeue) else none) ++
    s.tasks.filterMap fun p => match p.2.entry with | some e => if x.pushes.contains e then some (p.1, Fate.gone) else none | none => none
/-- The cascade of a discard (R423 steps 3 and 4, R424), each task once, discarded for good if either step says so. -/
def cascade (s : State) : Nat → List (Nat × Fate) → List (Nat × Fate) → List (Nat × Fate)
  | 0, _, acc => acc
  | _ + 1, [], acc => acc
  | n + 1, (k, f) :: r, acc =>
    if acc.any fun p => p.1 == k then cascade s n r (if f = .gone then acc.map fun p => if p.1 = k then (k, .gone) else p else acc)
    else cascade s n (r ++ drawnIn s k) (acc ++ [(k, f)])
/-- Tasks discarded, aborted or squashed with everything that follows (R205, R423, R424). -/
def discardTasks (s : State) (l : List (Nat × Fate)) : State :=
  (cascade s ((s.tasks.length + 1) * (s.tasks.length + 1) + l.length) l []).foldl (fun s p => dealFate s p.1 p.2) s

/-! ## Commit (R202-R204) -/

/-- Is the home of a line there: the block of a scratchpad line lives. -/
def homeLives (s : State) : Loc → Bool
  | .spad h _ => (s.block? h).any Block.live
  | _ => true
/-- Is the head of a commit write refused on its path: its block lies outside the sending region, and no grant of it covers the block any more
(R350). -/
def commitRefused (s : State) (x : Task) : Loc → Bool
  | .spad h _ => (s.block? h).any fun b => b.tile != x.tile && !regionAllows s (regionTenant s (clusterOf x.tile)) (clusterOf b.tile) false
  | _ => false
/-- ROUTEREFUSED of a commit write, from the router at which its head leaves the sending region (R350, R362). -/
def refuseCommit (s : State) (x : Task) (src : Nat) (l : Loc) : State :=
  let t := regionTenant s (clusterOf x.tile)
  let d := (homeRouter? s x.tile l).getD x.tile
  let at_ := (((pathRouters s 4096 { at_ := x.tile } d).takeWhile fun r => regionHas s t (clusterOf r)).getLast?).getD x.tile
  fabricFault s at_ 0x41 (parentOf t)
    { id := 0, kind := .request, vc := 0, at_ := at_, dhandle := match l with | .spad h _ => h | _ => 0, src := src, region := t }
/-- A line's buffered bytes merged over its plaintext and written once (R186, R202); those of a block that has ended are lost with it, and
those of a commit write whose head is refused or lost with that (R341,
R350). -/
def publishLine (x : Task) (s : State) (l : Loc) : State :=
  if homeLives s l = false then s
  else
  let src := x.handle + (s.ctx x.tile x.ctx).tid * 2 ^ 24
  if commitRefused s x l then refuseCommit s x src l
  else match headWay s src x.tile l with
  | .error u => u
  | .ok s =>
  let pa := physOf s l
  let s := match l with | .phys _ => flushAlias s x.tile pa | _ => s
  let bs := (readPhys s pa 16).mapIdx fun i b => (storedAt x.stores (l.add i)).getD b
  let s := putPhys (match l with | .phys _ => meetAt s pa 16 | _ => s) pa bs
  match l with
  | .phys pa => if pa < edgeEnd then spreadInvalidations s x.tile pa x.launch x.stamp else s
  | _ => s
/-- Tasks that a write of these lines by a task of a launch and stamp aborts (R204): later stamps of the launch that read one of them, unless
the value read includes the writer's parked stores (R419). -/
def abortedBy (s : State) (k launch stamp : Nat) (lines : List Loc) : List (Nat × Fate) :=
  let stores := match s.task? k with | some x => x.stores | none => []
  s.tasks.filterMap fun p =>
    if p.1 ≠ k ∧ p.2.launch = launch ∧ stamp < p.2.stamp ∧
      p.2.reads.any (fun e => lines.contains e.line && !e.includes k stores) = true then some (p.1, .restart) else none
/-- The interval of a task becomes visible at all its homes at once (R202, R221), frees take place (R180), later readers are aborted (R204). -/
def publish (s : State) (k : Nat) (x : Task) : State :=
  let lines := storeLines x.stores
  let dead := abortedBy s k x.launch x.stamp (lines ++ x.recs.map fun w => Loc.record w.cluster w.record)
  let s := lines.foldl (publishLine x) s
  let s := x.recs.reverse.foldl (fun s w => recordCommit s w.cluster w.record w.image) s
  let s := mapAllocs (allocsEnded k) s
  let s := match s.launch? x.launch with
    | some l => s.setLaunch x.launch { l with frontier := max l.frontier x.stamp }
    | none => s
  let s := s.setTask k { x with stores := [], xlats := [], recs := [], reads := [], pushes := [], parked := false }
  discardTasks (forgetReaders s k) dead
/-- The prefetch of every bound stream of a context made due (R249). -/
def beatsDue (s : State) (t c : Nat) : State :=
  [0, 1, 2, 3].foldl (fun s k => if ((s.ctx t c).vec.s.toList.getD k {}).bound then s.addDueOnce (.beatArrival t c k) else s) s
/-- An interval ends before its task does: prefetched beats are fetched again, and the restart point moves here (R231, R249, R306, R399). A
checkpoint half that cannot be written stops the thread with IMAGEFAULT (R142, R230, R304). -/
def endInterval (s : State) (k : Nat) (x : Task) : State × Option Trap :=
  let s := publish s k x
  match s.task? k with
  | none => (s, none)
  | some y =>
    let c := s.ctx y.tile y.ctx
    let c := { c with vec := dropBeats c.vec }
    let r := checkpointImages (s.setCtx y.tile y.ctx c) y.tile y.ctx
    (beatsDue (r.1.setTask k { y with saved := some c.regs, savedVec := c.vec, savedMat := c.mat, ckptHeld := r.2.isSome }) y.tile y.ctx, r.2)
/-- A state reached by ending an interval: what comes next is done in it, or its IMAGEFAULT is taken. -/
def afterInterval (r : State × Option Trap) : Except Stop State :=
  match r.2 with
  | none => .ok r.1
  | some f => .error (.kept r.1 (some f))
/-- IMAGEFAULT of the thread of a task, if there is one, taken outside an instruction. -/
def faultOf (r : State × Option Trap) (k : Nat) : State :=
  match r.2, r.1.task? k with
  | some f, some x => trapImage r.1 x.tile x.ctx f
  | _, _ => r.1
/-- COMMIT of a task that has ended (R202, R396, R389). -/
def commitEnded (s : State) (k : Nat) (x : Task) : State :=
  let s := publish s k x
  match s.task? k with
  | none => s
  | some y => if openSends s k then s.setTask k { y with phase := .committed } else leaveLaunch s k y
/-- COMMIT: an ended task that may commit does (R202); otherwise it stays due. -/
def commitBody (s : State) (k : Nat) : State :=
  match s.task? k with
  | none => s
  | some x =>
    if x.phase = .ended then (if canCommit s k x then commitEnded s k x else s.addDueOnce (.commit k)) else s
/-- COMMIT (R202). -/
def execCommit (task : Nat) (s : State) : Host.Outcome State Fault Refusal := .next (commitBody s task)
/-- BECOME_SERIALISING (R206): when oldest, its interval commits and SERIAL is set; otherwise it stays due. -/
def becomeSerialBody (s : State) (k : Nat) : State :=
  match s.task? k with
  | none => s
  | some x =>
    if x.wantsSerial = false then s
    else if x.phase ≠ .running then s.setTask k { x with wantsSerial := false }
    else if canCommit s k x then
      let r := endInterval s k x
      match r.1.task? k with
      | none => r.1
      | some y => faultOf (dropStale (r.1.setTask k { y with serial := true, wantsSerial := false }) y.tile, r.2) k
    else s.addDueOnce (.becomeSerialising k)
/-- BECOME_SERIALISING (R206). -/
def execBecomeSerialising (task : Nat) (s : State) : Host.Outcome State Fault Refusal := .next (becomeSerialBody s task)
/-- READ_SET_REGISTRATION (R190, R201): the home acknowledges; a read of an older value than a committed smaller timestamp's aborts (R204). -/
def registrationBody (s : State) (k line : Nat) : State :=
  match s.task? k with
  | none => s
  | some x =>
    let l := Loc.phys (16 * line)
    if x.reads.any fun e => e.line == l && e.missed then discardTasks s [(k, .restart)]
    else s.setTask k { x with reads := x.reads.map fun e => if e.line = l then { e with acked := true } else e }
/-- READ_SET_REGISTRATION (R190). -/
def execReadSetRegistration (task line : Nat) (s : State) : Host.Outcome State Fault Refusal := .next (registrationBody s task line)
/-- INVALIDATION (R190): the tile's copies of the 64-byte block leave; tile-private ones stay. -/
def execInvalidation (tile line : Nat) (s : State) : Host.Outcome State Fault Refusal :=
  .next (setDcache s tile ((s.tile tile).dcache.filter fun b => b.pblock != line || b.tp))

/-! ## Accesses as instructions make them -/

/-- A task made ready for an interval-ending access (R171, R206, R213): serialising, with its buffered stores committed. A requester without a
task has nothing to end. -/
def settle (s : State) (q : Req) : Except Stop State :=
  match q.task, q.task? s with
  | some kid, some k =>
    if k.serial = false then .error .serialise
    else if k.stores.isEmpty && k.recs.isEmpty then .ok s
    else if canCommit s kid k then afterInterval (endInterval s kid k) else .error .wait
  | _, _ => .ok s
/-- A resolved hold as a stop. -/
def holdStop : Hold → Stop
  | .serialise => .serialise
  | .wait => .wait
  | .full => .wait
  | .lost s => .kept s none
/-- An ordinary read (R171, R194, R195): every check, then the bytes by their paths. -/
def memLoad (s : State) (q : Req) (engine : Bool) (p : Word) (n : Nat) : Except Stop (List Byte × State) :=
  match check s q .read p n with
  | .error t => .error (.trap t)
  | .ok (xs, s') => match readPlaces s' q engine xs with
    | .error h => .error (holdStop h)
    | .ok r => .ok r
/-- Places stored by a task as ordinary stores: shared ones buffered, the others at once (R171, R200). -/
def storePlaces (s : State) (q : Req) : List Place → List Byte → State
  | [], _ => s
  | x :: r, bs =>
    let s' := match q.task, q.task? s with
      | some kid, some k => if x.shared then s.setTask kid (bufferBytes k q.tenant x (bs.take x.len)) else writeNow s q x (bs.take x.len)
      | _, _ => writeNow s q x (bs.take x.len)
    storePlaces s' q r (bs.drop x.len)
/-- An ordinary store (R171, R194, R197): every check, room in the store buffer (a serialising task commits a
full one, R206), then the bytes by their paths. -/
def memStore (s : State) (q : Req) (p : Word) (bs : List Byte) : Except Stop State :=
  match check s q .write p bs.length with
  | .error t => .error (.trap t)
  | .ok (xs, s') =>
    if writesWait s' q (xs.filter fun x => !(x.shared && q.task.isSome)) then .error .wait
    else
      match q.task, q.task? s' with
      | some kid, some k =>
        let sh := xs.filter Place.shared
        if bufferFull k sh then
          (if k.serial = false then .error .serialise
           else if canCommit s' kid k then (match afterInterval (endInterval s' kid k) with
             | .error e => .error e
             | .ok s' => .ok (storePlaces s' q xs bs))
           else .error .wait)
        else .ok (storePlaces s' q xs bs)
      | _, _ => .ok (storePlaces s' q xs bs)
/-- Later readers of the launch aborted by an immediate shared write of a serialising task (R204). -/
def noteWrite (s : State) (q : Req) (xs : List Place) : State :=
  match q.task, q.task? s with
  | some kid, some k => discardTasks s (abortedBy s kid k.launch k.stamp ((xs.filter Place.shared).map fun x => lineLoc x.loc))
  | _, _ => s
/-- Places written at once with that consequence: an immediate write of a thread or of an engine working for it (R171, R204, R207). A write
of shared memory first ends the interval. -/
def writeImmediate (s : State) (q : Req) (xs : List Place) (bs : List Byte) : Except Stop State :=
  match (if xs.any Place.shared then settle s q else .ok s) with
  | .error e => .error e
  | .ok s => if writesWait s q xs then .error (.kept s none) else .ok (noteWrite (writeNowAll s q xs bs) q xs)

end Sys2Proof.Machine
end

