-- ==== Sys2Proof/Machine/Control.lean ====
section
/-! DEFINITION. Control space: the registers of clusters, islands, edge controllers and the wafer block, field by field (R13, R436,
R471-R474, R509, R524, R534). -/

namespace Sys2Proof.Machine

/-! ## Live words -/

/-- Compute positions missing from the logical numbering (R511). -/
def retCount (s : State) : Nat :=
  s.wafer.retire.foldl (fun n p =>
    n + 16 * p.2.absentClusters.length + (p.2.absentTiles.filter fun t => !p.2.absentClusters.contains (clusterOf t)).length) 0
/-- GRADE (R23, R511): 0 A, 1 B, 2 C, 3 U. -/
def gradeOf (s : State) : Nat :=
  let n := 46080 - retCount s
  if n = 46080 then 0 else if 45056 ≤ n then 1 else if 43008 ≤ n then 2 else 3
/-- ARBCNT (R512). -/
def arbCount (s : State) : Nat := s.wafer.fuses.length - (s.wafer.fuses.reverse.takeWhile fun p => !p.1 && !p.2).length
/-- The retired-site bitmap (R511). -/
def retiredBitmap (s : State) : List Byte :=
  toBytes 6528 (s.wafer.retiredSites.dedup.foldl (fun n p => n + 2 ^ (1088 * p.1 + 32 * p.2.1 + p.2.2)) 0)
/-- W48STAT (Table 17.5). -/
def w48stat (s : State) : Word :=
  w64 (boolNat s.wafer.ready * 2 ^ 63 + (if 3 ≤ s.wafer.stage then gradeOf s else 0) * 2 ^ 16 + s.wafer.stage % 256 * 2 ^ 8 + s.wafer.error % 256)
/-- TRSTAT (Table 16.3). -/
def trstat (s : State) : Word :=
  w64 (retCount s * 2 ^ 48 + arbCount s * 2 ^ 40 + s.wafer.dstate % 4 * 2 ^ 8 + gradeOf s)

/-! ## Registers that act when written -/

/-- A digest's 32 bytes. -/
def digest32 (l : List Byte) : List Byte := (l ++ List.replicate 32 0).take 32
/-- MKERN extended by a value, unless it is locked (Table 16.3). -/
def extendKernel (s : State) (value : List Byte) : State :=
  if s.wafer.mlock then s else { s with wafer := { s.wafer with mkern := sm3 (digest32 s.wafer.mkern ++ value) } }
/-- A write of STATE = 0 (R539): Doze ends, and one not yet entered is taken back. -/
def leaveDoze (s : State) : State :=
  { s with
    due := s.due.filter fun d => d != .doze
    wafer := { s.wafer with pwrctl := 0, thermal := false, power := if s.wafer.power = .doze then .run else s.wafer.power } }

/-! ## Fields a level may write -/

/-- A word with the bits of a mask taken from v. -/
def masked (old v mask : Word) : Word := (old &&& ~~~mask) ||| (v &&& mask)
/-- DRCTL bits that a level may write (Table 14.1). -/
def drctlMask (lv : Nat) : Word := if lv = 0 then 0xFFFFFFFFFFFF0003 else if lv = 1 then 0xFFFF00FFFFFF0001 else 0
/-- SLTAB bits (Table 14.1). -/
def sltabMask : Word := 0x80FFFFFFFFFFFFFF
/-- RIGHTS bits that name a right (Table 15.3). -/
def rightsMask : Nat := 0x7F

/-! ## Agent records (R471, R472) -/

/-- The fields of Table 15.2 that an agent of level lv may write in a record of level rl: high bit, low bit. -/
def recordFields (lv rl : Nat) : List (Nat × Nat) :=
  let own := decide (lv ≤ rl)
  let par := decide (lv ≤ rl - 1)
  (if par then [(511, 448), (447, 447), (439, 416), (415, 400)] else []) ++
  (if own then [(355, 352), (335, 320), (319, 256), (255, 192), (63, 0)] else []) ++
  (if lv = 0 then [(191, 128)] else []) ++ (if lv ≤ 1 then [(127, 64)] else [])
/-- A record after a write of double k by an agent of level lv whose rights at the island are given (R13, R471, R472). -/
def recordWrite (b : List Byte) (lv rights k : Nat) (v : Word) : List Byte :=
  let rl := levelOf (recFld b 439 416)
  let b' := (recordFields lv rl).foldl (fun acc f =>
    if f.2 / 64 = k then
      let x := fld v (f.1 % 64) (f.2 % 64)
      recSet acc f.1 f.2 (if f.2 = 400 then x &&& rightsMask &&& rights else x)
    else acc) b
  recSet b' 446 445 (levelOf (recFld b' 439 416))
/-- Rights cleared in a partition's record leave the records of its slices at the island too (R472). -/
def revokeRights (l : Map Nat (List Byte)) (part cleared : Nat) : Map Nat (List Byte) :=
  l.map fun p =>
    let t := recFld p.2 439 416
    if sliceOf t ≠ 0 ∧ partTenant t = part then (p.1, recSet p.2 415 400 (recFld p.2 415 400 &&& (0xFFFF ^^^ cleared))) else p
/-- Cores of an island that had stopped for want of tenant 0's handler try the entry again (R469). -/
def retryStopped (s : State) (i : Nat) : State :=
  (List.range 8).foldl (fun s k =>
    let c := s.core i k
    if c.stopped then
      match handlerOf s i k 3 0 with
      | some p => s.setCore i k { c with stopped := false, regs := { c.regs with pc := w64 p.2 } }
      | none => s
    else s) s
/-- A record as control space shows it: tenant 0's record is VALID from W48READY (R469). -/
def shownRecord (s : State) (i k : Nat) : List Byte :=
  let b := mget (s.island i).records (List.replicate 64 0) k
  if k = 0 && s.wafer.ready then recSet b 447 447 1 else b
/-- A write of double j of record k of island i by tenant t; a queue with new room takes the island's held records (R484). -/
def writeRecord (s : State) (t i k j : Nat) (v : Word) : State :=
  let isl := s.island i
  let old := mget isl.records (List.replicate 64 0) k
  let rights := if t = 0 then rightsMask else recFld (agentRecord s i t) 415 400
  let new := recordWrite old (levelOf t) rights j v
  let rs := mset isl.records k new
  let nt := recFld new 439 416
  let rs := if levelOf nt = 1 then revokeRights rs nt (recFld old 415 400 &&& (0xFFFF ^^^ recFld new 415 400)) else rs
  let s := s.setIsland i { isl with records := rs }
  let s := if isl.held.isEmpty then s else s.addDueOnce (.heldRecordDelivery i)
  if k = 0 then retryStopped s i else s

/-! ## Cluster blocks (R436, R473) -/

/-- The word at an offset of a cluster's control block (Tables 14.1, 15.5). -/
def clusterWord (s : State) (n off : Nat) : Word :=
  let c := s.cluster n
  let rt := regionTenant s n
  if off = 0 then c.drctl
  else if off = 8 then c.drstat
  else if off = 0x10 then (if fld c.clrcfg 15 8 = 0 then setFld c.clrcfg 15 8 1 else c.clrcfg)
  else if off < 0x58 then c.sltab.toList.getD ((off - 0x18) / 8) 0
  else if off = 0x58 then c.slstat
  else if off = 0x60 then c.restore
  else if off = 0x100 then w64 (rt * 2 ^ 32 + (regionRect s rt).getD 0)
  else if 0x140 ≤ off ∧ off < 0x1C0 ∧ off % 16 = 0 then
    match mget? (s.tenant rt).grants ((off - 0x140) / 16) with
    | some g => w64 (g.rect + boolNat g.vc0 * 2 ^ 32 + boolNat g.vc2 * 2 ^ 33)
    | none => 0
  else if 0x1000 ≤ off ∧ off < 0x2000 ∧ off % 256 = 8 ∧ tilePresent s (clusterTile n ((off - 0x1000) / 256)) = true then w64 (32 - queueUsed s (clusterTile n ((off - 0x1000) / 256)))
  else 0
/-- A write of a word of a cluster's control block by tenant t at island i, core k. -/
def writeClusterWord (s : State) (t i k n off : Nat) (v : Word) : State :=
  let c := s.cluster n
  let lv := levelOf t
  if off = 0 then s.setCluster n { c with drctl := masked c.drctl v (drctlMask lv) }
  else if off = 0x10 then (if lv = 0 then s.setCluster n { c with clrcfg := v &&& 0xFFFFFFFFFFFFFF00 } else s)
  else if 0x18 ≤ off ∧ off < 0x58 then
    (if lv ≤ 1 ∧ hasRight s i t 5 = true then
      let s := s.setCluster n { c with sltab := Vector.ofFn fun j => if j.val = (off - 0x18) / 8 then v &&& sltabMask else c.sltab[j] }
      ((List.range 16).map (clusterTile n)).foldl (fun s t => if tilePresent s t then s.addDueOnce (.sliceEnd t) else s) s else s)
  else if off = 0x60 then
    (if lv ≤ 1 then
      let h := fromViewHandle s t (fld v 23 0)
      let begins := h / 4096 == n && (match s.block? h with | some b => b.evicted && presides t b.tenant | none => false)
      let s := s.setCluster n { c with restore := w64 (boolNat (begins || bitOf c.restore 63) * 2 ^ 63 + fld v 23 0) }
      if begins then s.addDueOnce (.restore n h) else s
     else s)
  else if 0x1000 ≤ off ∧ off < 0x2000 ∧ off % 256 = 0 then
    (if lv = 0 ∧ tilePresent s (clusterTile n ((off - 0x1000) / 256)) = true then
      s.addDue (.kpost i k (clusterTile n ((off - 0x1000) / 256)) v.toNat) else s)
  else s

/-! ## Edge and wafer blocks (R509, R524, R534) -/

/-- The word at an offset of an edge controller's block (Table 17.1). -/
def edgeWord (s : State) (e off : Nat) : Word :=
  let x := s.edge e
  if off = 0 then x.ecstat else if off = 8 then x.erraddr else if off = 0x10 then x.ckcmd &&& 0x100
  else if off = 0x18 then x.slot0 else if off = 0x20 then x.slot1 else 0
/-- A write of CKCMD (Table 17.1): ignored while an operation runs; CKOP starts one. -/
def writeEdgeWord (s : State) (e off : Nat) (v : Word) : State :=
  let x := s.edge e
  if off ≠ 0x10 ∨ fld x.ecstat 3 2 = 1 then s
  else
    let s := s.setEdge e { x with ckcmd := v &&& 0x100 }
    let slot := fld v 8 8
    let running (s : State) : State := let x := s.edge e; s.setEdge e { x with ecstat := setFld x.ecstat 3 2 1 }
    match fld v 1 0 with
    | 1 => (running s).addDue (.checkpoint e slot)
    | 2 => (running s).addDue (.slotRestore e slot)
    | 3 => s.addDue (.erase e slot)
    | _ => s
/-- Double k of a 32-byte digest. -/
def digestWord (l : List Byte) (k : Nat) : Word := dword l k
/-- The word at an offset of the wafer block (Tables 15.4, 16.3, 17.3). -/
def waferWord (s : State) (off : Nat) : Word :=
  let w := s.wafer
  if off = 0 then w64 s.cycle
  else if off = 8 then w.potbase
  else if off = 0x200 then trstat s
  else if off = 0x208 then w.rgtbase
  else if off = 0x220 then w.ckgen
  else if 0x260 ≤ off ∧ off < 0x280 then digestWord (sm3 (retiredBitmap s)) ((off - 0x260) / 8)
  else if 0x280 ≤ off ∧ off < 0x2A0 then digestWord Config.romDigest ((off - 0x280) / 8)
  else if 0x2A0 ≤ off ∧ off < 0x2C0 then digestWord Config.firmwareDigest ((off - 0x2A0) / 8)
  else if 0x2C0 ≤ off ∧ off < 0x2E0 then digestWord w.mkern ((off - 0x2C0) / 8)
  else if off = 0x300 then boolWord w.mlock
  else if 0x310 ≤ off ∧ off < 0x320 then digestWord (toBytes 16 Config.deviceId) ((off - 0x310) / 8)
  else if off = 0x400 then w.pwrctl
  else if off = 0x408 then w48stat s
  else if off = 0x410 then w.modid
  else if off = 0x418 then w.aptbase
  else if off = 0x420 then w.exptbase
  else if off = 0x428 then w.members
  else if off = 0x438 then w.colltmo
  else 0
/-- 52 address bits. -/
def addr52 (v : Word) : Word := v &&& 0x000FFFFFFFFFFFFF
/-- Eight bytes of a list replaced. -/
def putDouble (l : List Byte) (k : Nat) (v : Word) : List Byte := l.take (8 * k) ++ toBytes 8 v.toNat ++ l.drop (8 * k + 8)
/-- A write of a word of the wafer block by level 0. The write of MEXT's last double extends MKERN (log entry 13). -/
def writeWaferWord (s : State) (off : Nat) (v : Word) : State :=
  let w := s.wafer
  let put (w : Wafer) : State := { s with wafer := w }
  if off = 8 then put { w with potbase := addr52 v }
  else if off = 0x208 then put { w with rgtbase := addr52 v }
  else if off = 0x220 then put { w with ckgen := v &&& 0xFFFFFFFF }
  else if 0x240 ≤ off ∧ off < 0x260 then put { w with ckey := putDouble w.ckey ((off - 0x240) / 8) v }
  else if 0x2E0 ≤ off ∧ off < 0x300 then
    let m := putDouble w.mextIn ((off - 0x2E0) / 8) v
    let s := put { w with mextIn := m }
    if off = 0x2F8 then extendKernel s m else s
  else if off = 0x300 then put { w with mlock := w.mlock || bitOf v 0 }
  else if off = 0x400 then
    (if fld v 1 0 = 0 then leaveDoze s else if fld v 1 0 = 1 then (put { w with pwrctl := 1 }).addDueOnce .doze else s)
  else if off = 0x410 then put { w with modid := v &&& 0x1FF }
  else if off = 0x418 then put { w with aptbase := addr52 v }
  else if off = 0x420 then put { w with exptbase := addr52 v }
  else if off = 0x428 then put { w with members := addr52 v }
  else if off = 0x430 then (put { w with collpost := addr52 v }).addDue (.collpost (addr52 v).toNat)
  else if off = 0x438 then put { w with colltmo := v &&& 0xFFFFFFFF }
  else s

/-! ## Control space as a whole (R473, R474) -/

/-- The block that a control-space double belongs to. -/
inductive ControlAt where
  | cluster (n off : Nat)
  | record (i k j : Nat)
  | edge (e off : Nat)
  | wafer (off : Nat)
  | none
deriving DecidableEq, Repr
/-- Table 15.4, by the address of a double. -/
def controlAt (a : Nat) : ControlAt :=
  let o := a - 0xF000000000000
  if o < 3072 * 0x10000 then .cluster (o / 0x10000) (o % 0x10000)
  else if 0x100000000 ≤ o ∧ o < 0x100000000 + 192 * 0x10000 then
    let q := o - 0x100000000
    if q % 0x10000 < 256 * 64 then .record (q / 0x10000) (q % 0x10000 / 64) (q % 64 / 8) else .none
  else if 0x200000000 ≤ o ∧ o < 0x200000000 + 32 * 0x100000 then .edge ((o - 0x200000000) / 0x100000) (o % 0x100000)
  else if 0x300000000 ≤ o ∧ o < 0x300001000 then .wafer (o - 0x300000000)
  else .none
/-- Is a control-space double reachable by a tenant's core (R474). -/
def controlReach (s : State) (t : Nat) : ControlAt → Bool
  | .cluster n _ => presides t (regionTenant s n)
  | .record i k _ => presides t (recFld (mget (s.island i).records (List.replicate 64 0) k) 439 416)
  | .edge _ _ => t == 0
  | .wafer _ => t == 0
  | .none => false
/-- A double of control space as a tenant's core reads it; an unreachable one reads as zero (R474). -/
def controlWord (s : State) (t a : Nat) : Word :=
  let c := controlAt a
  if controlReach s t c = false then 0
  else match c with
    | .cluster n off => clusterWord s n off
    | .record i k j => dword (shownRecord s i k) j
    | .edge e off => edgeWord s e off
    | .wafer off => waferWord s off
    | .none => 0
/-- A double of control space written by a tenant's core k at island i; a write of an unreachable one is ignored (R474). -/
def controlSet (s : State) (t i k a : Nat) (v : Word) : State :=
  let c := controlAt a
  if controlReach s t c = false then s
  else match c with
    | .cluster n off => writeClusterWord s t i k n off v
    | .record isl r j => writeRecord s t isl r j v
    | .edge e off => writeEdgeWord s e off v
    | .wafer off => writeWaferWord s off v
    | .none => s
/-- Bytes of control space read from an address on. -/
def controlRead (s : State) (t a n : Nat) : List Byte :=
  (List.range n).map fun k => let b := a + k; BitVec.ofNat 8 ((controlWord s t (b / 8 * 8)).toNat / 2 ^ (8 * (b % 8)))
/-- Bytes of one double written. A store narrower than the double writes all of it, the other bytes as they read, so that fields which act
when written act again with what they read (DESIGN CHOICE, log entry 39: R473 and the spec's register tables give no narrower write). -/
def controlPut (s : State) (t i k a : Nat) (bs : List Byte) : State :=
  let d := toBytes 8 (controlWord s t (a / 8 * 8)).toNat
  let o := a % 8
  controlSet s t i k (a / 8 * 8) (w64 (fromBytes (d.take o ++ bs ++ d.drop (o + bs.length))))
/-- Bytes written from an address on, double by double; the fuel is their number. -/
def controlWriteFuel : Nat → State → Nat → Nat → Nat → Nat → List Byte → State
  | 0, s, _, _, _, _, _ => s
  | f + 1, s, t, i, k, a, bs =>
    if bs = [] then s
    else
      let n := 8 - a % 8
      controlWriteFuel f (controlPut s t i k a (bs.take n)) t i k (a + n) (bs.drop n)
/-- Bytes written to control space. -/
def controlWrite (s : State) (t i k a : Nat) (bs : List Byte) : State := controlWriteFuel bs.length s t i k a bs
/-- CONTROL_SPACE_WRITE (R474): a tenant's write of a control-space word. -/
def execControlSpaceWrite (tenant addr size value : Nat) (s : State) : Host.Outcome State Fault Refusal :=
  .next (controlWrite s tenant 0 0 addr (toBytes size value))

/-- Is a physical address in control space (Table 1.6). -/
def inControl (pa : Nat) : Bool := decide (0xF000000000000 ≤ pa)
/-- One place of a core's access read: control space or memory, always at once (R172, R474). -/
def coreReadPlace (s : State) (q : Req) (x : Place) : List Byte :=
  match x.loc with
  | .phys pa => if inControl pa then controlRead s q.tenant pa x.len else readPhys s pa x.len
  | l => readPhys s (physOf s l) x.len
/-- One place of a core's access written at once. -/
def coreWritePlace (s : State) (q : Req) (x : Place) (bs : List Byte) : State :=
  match x.loc, q.agent with
  | .phys pa, .core i k => if inControl pa then controlWrite s q.tenant i k pa bs else writeNow s q x bs
  | _, _ => writeNow s q x bs
/-- Places of a core's access written in order. -/
def coreWriteAll (s : State) (q : Req) : List Place → List Byte → State
  | [], _ => s
  | x :: r, bs => coreWriteAll (coreWritePlace s q x (bs.take x.len)) q r (bs.drop x.len)

end Sys2Proof.Machine
end

