-- ==== Sys2Proof/Machine/Scalar.lean ====
section
/-! DEFINITION. The scalar thread engine's instructions (R131-R170): integer operations, control registers, transfers, hardware loops, pause,
system call and trap return. -/

namespace Sys2Proof.Machine

/-! ## Integer values (R152-R156) -/

/-- A sign-extended immediate (R54). -/
def sx32 (imm : BitVec 32) : Word := imm.signExtend 64
/-- Shift counts take the low six bits (Table 5.14). -/
def shamt (b : Word) : Nat := b.toNat % 64
/-- Bits [127:64] of the signed product. -/
def mulhS (a b : Word) : Word := i64 (a.toInt * b.toInt / 2 ^ 64)
/-- Bits [127:64] of the unsigned product. -/
def mulhU (a b : Word) : Word := w64 (a.toNat * b.toNat / 2 ^ 64)
/-- div of Table 5.15. -/
def divS (a b : Word) : Word := if b = 0 then BitVec.allOnes 64 else a.sdiv b
/-- divu of Table 5.15. -/
def divU (a b : Word) : Word := if b = 0 then BitVec.allOnes 64 else a / b
/-- rem of Table 5.15. -/
def remS (a b : Word) : Word := if b = 0 then a else a.srem b
/-- remu of Table 5.15. -/
def remU (a b : Word) : Word := if b = 0 then a else a % b
/-- Count of leading zero bits (Table 5.16). -/
def clzW (x : Word) : Nat := if x = 0 then 64 else 63 - Nat.log2 x.toNat
/-- Trailing zero bits of a number, at most n. -/
def ctzFuel : Nat → Nat → Nat
  | 0, _ => 0
  | n + 1, x => if x % 2 = 1 then 0 else 1 + ctzFuel n (x / 2)
/-- One bits among the low n of a number. -/
def popFuel : Nat → Nat → Nat
  | 0, _ => 0
  | n + 1, x => x % 2 + popFuel n (x / 2)
/-- The bytes of a double in reverse order. -/
def bswapW (x : Word) : Word := w64 (fromBytes (toBytes 8 x.toNat).reverse)
/-- bext of R155; width1 is the width less 1. -/
def bextW (x : Word) (lsb width1 : Nat) : Word := w64 (x.toNat / 2 ^ lsb % 2 ^ (width1 + 1))
/-- bins of R155. -/
def binsW (x y : Word) (lsb width1 : Nat) : Word :=
  let m : Word := w64 ((2 ^ (width1 + 1) - 1) * 2 ^ lsb)
  (x &&& ~~~m) ||| ((y <<< lsb) &&& m)
/-- padd and psub of R156: the tag kept, the address moved modulo 2^54. -/
def ptrMove (p : Word) (d : Int) : Word := withAddr p (addrOf p + d)
/-- ptag of R156. -/
def ptrTag (p : Word) (t : Nat) : Word := w64 (t % 1024 * 2 ^ 54 + addrOf p)
/-- A truth value as the compares write it. -/
def cmpW (b : Bool) : Word := boolWord b

/-! ## Writing a result -/

/-- A general register written, then the fall-through with its loop-end action (R152, R167). -/
def alu (a : Reg) (v : Word) (s : State) : State := (s.setG a v).retire
/-- An integer instruction of threads and island cores: gA takes a value of the registers. -/
def execAlu (a : Reg) (f : State → Word) (s : State) : Host.Outcome State Fault Refusal :=
  runInstr profBoth s fun s => .ok (alu a (f s) s)

/-- add gA, gB (R152). -/
def execAddHead (a b : Reg) (s : State) : Host.Outcome State Fault Refusal := execAlu a (fun s => s.getG a + s.getG b) s
/-- add gA, gB, gC (R152). -/
def execAddX (a b c : Reg) (s : State) : Host.Outcome State Fault Refusal := execAlu a (fun s => s.getG b + s.getG c) s
/-- add gA, gB, imm (R152). -/
def execAddI32 (a b : Reg) (imm : BitVec 32) (s : State) : Host.Outcome State Fault Refusal := execAlu a (fun s => s.getG b + sx32 imm) s
/-- add gA, gB, imm (R152). -/
def execAddI64 (a b : Reg) (imm : BitVec 64) (s : State) : Host.Outcome State Fault Refusal := execAlu a (fun s => s.getG b + imm) s
/-- sub gA, gB (R152). -/
def execSubHead (a b : Reg) (s : State) : Host.Outcome State Fault Refusal := execAlu a (fun s => s.getG a - s.getG b) s
/-- sub gA, gB, gC (R152). -/
def execSubX (a b c : Reg) (s : State) : Host.Outcome State Fault Refusal := execAlu a (fun s => s.getG b - s.getG c) s
/-- sub gA, gB, imm (R152). -/
def execSubI32 (a b : Reg) (imm : BitVec 32) (s : State) : Host.Outcome State Fault Refusal := execAlu a (fun s => s.getG b - sx32 imm) s
/-- sub gA, gB, imm (R152). -/
def execSubI64 (a b : Reg) (imm : BitVec 64) (s : State) : Host.Outcome State Fault Refusal := execAlu a (fun s => s.getG b - imm) s
/-- and (Table 5.14). -/
def execAndX (a b c : Reg) (s : State) : Host.Outcome State Fault Refusal := execAlu a (fun s => (s.getG b) &&& (s.getG c)) s
/-- and (Table 5.14). -/
def execAndXI (a b : Reg) (imm : BitVec 32) (s : State) : Host.Outcome State Fault Refusal := execAlu a (fun s => (s.getG b) &&& (sx32 imm)) s
/-- or (Table 5.14). -/
def execOrX (a b c : Reg) (s : State) : Host.Outcome State Fault Refusal := execAlu a (fun s => (s.getG b) ||| (s.getG c)) s
/-- or (Table 5.14). -/
def execOrXI (a b : Reg) (imm : BitVec 32) (s : State) : Host.Outcome State Fault Refusal := execAlu a (fun s => (s.getG b) ||| (sx32 imm)) s
/-- xor (Table 5.14). -/
def execXorX (a b c : Reg) (s : State) : Host.Outcome State Fault Refusal := execAlu a (fun s => (s.getG b) ^^^ (s.getG c)) s
/-- xor (Table 5.14). -/
def execXorXI (a b : Reg) (imm : BitVec 32) (s : State) : Host.Outcome State Fault Refusal := execAlu a (fun s => (s.getG b) ^^^ (sx32 imm)) s
/-- andn (Table 5.14). -/
def execAndnX (a b c : Reg) (s : State) : Host.Outcome State Fault Refusal := execAlu a (fun s => (s.getG b) &&& ~~~(s.getG c)) s
/-- andn (Table 5.14). -/
def execAndnXI (a b : Reg) (imm : BitVec 32) (s : State) : Host.Outcome State Fault Refusal := execAlu a (fun s => (s.getG b) &&& ~~~(sx32 imm)) s
/-- shl (Table 5.14). -/
def execShlX (a b c : Reg) (s : State) : Host.Outcome State Fault Refusal := execAlu a (fun s => (s.getG b) <<< shamt (s.getG c)) s
/-- shl (Table 5.14). -/
def execShlXI (a b : Reg) (imm : BitVec 32) (s : State) : Host.Outcome State Fault Refusal := execAlu a (fun s => (s.getG b) <<< shamt (sx32 imm)) s
/-- shr (Table 5.14). -/
def execShrX (a b c : Reg) (s : State) : Host.Outcome State Fault Refusal := execAlu a (fun s => (s.getG b) >>> shamt (s.getG c)) s
/-- shr (Table 5.14). -/
def execShrXI (a b : Reg) (imm : BitVec 32) (s : State) : Host.Outcome State Fault Refusal := execAlu a (fun s => (s.getG b) >>> shamt (sx32 imm)) s
/-- sra (Table 5.14). -/
def execSraX (a b c : Reg) (s : State) : Host.Outcome State Fault Refusal := execAlu a (fun s => (s.getG b).sshiftRight (shamt (s.getG c))) s
/-- sra (Table 5.14). -/
def execSraXI (a b : Reg) (imm : BitVec 32) (s : State) : Host.Outcome State Fault Refusal := execAlu a (fun s => (s.getG b).sshiftRight (shamt (sx32 imm))) s
/-- mul (Table 5.14). -/
def execMulX (a b c : Reg) (s : State) : Host.Outcome State Fault Refusal := execAlu a (fun s => (s.getG b) * (s.getG c)) s
/-- mul (Table 5.14). -/
def execMulXI (a b : Reg) (imm : BitVec 32) (s : State) : Host.Outcome State Fault Refusal := execAlu a (fun s => (s.getG b) * (sx32 imm)) s
/-- mulh (Table 5.14). -/
def execMulhX (a b c : Reg) (s : State) : Host.Outcome State Fault Refusal := execAlu a (fun s => mulhS (s.getG b) (s.getG c)) s
/-- mulh (Table 5.14). -/
def execMulhXI (a b : Reg) (imm : BitVec 32) (s : State) : Host.Outcome State Fault Refusal := execAlu a (fun s => mulhS (s.getG b) (sx32 imm)) s
/-- mulhu (Table 5.14). -/
def execMulhuX (a b c : Reg) (s : State) : Host.Outcome State Fault Refusal := execAlu a (fun s => mulhU (s.getG b) (s.getG c)) s
/-- mulhu (Table 5.14). -/
def execMulhuXI (a b : Reg) (imm : BitVec 32) (s : State) : Host.Outcome State Fault Refusal := execAlu a (fun s => mulhU (s.getG b) (sx32 imm)) s
/-- min (Table 5.14). -/
def execMinX (a b c : Reg) (s : State) : Host.Outcome State Fault Refusal := execAlu a (fun s => if (s.getG b).slt (s.getG c) then (s.getG b) else (s.getG c)) s
/-- min (Table 5.14). -/
def execMinXI (a b : Reg) (imm : BitVec 32) (s : State) : Host.Outcome State Fault Refusal := execAlu a (fun s => if (s.getG b).slt (sx32 imm) then (s.getG b) else (sx32 imm)) s
/-- max (Table 5.14). -/
def execMaxX (a b c : Reg) (s : State) : Host.Outcome State Fault Refusal := execAlu a (fun s => if (s.getG b).slt (s.getG c) then (s.getG c) else (s.getG b)) s
/-- max (Table 5.14). -/
def execMaxXI (a b : Reg) (imm : BitVec 32) (s : State) : Host.Outcome State Fault Refusal := execAlu a (fun s => if (s.getG b).slt (sx32 imm) then (sx32 imm) else (s.getG b)) s
/-- minu (Table 5.14). -/
def execMinuX (a b c : Reg) (s : State) : Host.Outcome State Fault Refusal := execAlu a (fun s => if (s.getG b).ult (s.getG c) then (s.getG b) else (s.getG c)) s
/-- minu (Table 5.14). -/
def execMinuXI (a b : Reg) (imm : BitVec 32) (s : State) : Host.Outcome State Fault Refusal := execAlu a (fun s => if (s.getG b).ult (sx32 imm) then (s.getG b) else (sx32 imm)) s
/-- maxu (Table 5.14). -/
def execMaxuX (a b c : Reg) (s : State) : Host.Outcome State Fault Refusal := execAlu a (fun s => if (s.getG b).ult (s.getG c) then (s.getG c) else (s.getG b)) s
/-- maxu (Table 5.14). -/
def execMaxuXI (a b : Reg) (imm : BitVec 32) (s : State) : Host.Outcome State Fault Refusal := execAlu a (fun s => if (s.getG b).ult (sx32 imm) then (sx32 imm) else (s.getG b)) s
/-- seq (Table 5.14). -/
def execSeqX (a b c : Reg) (s : State) : Host.Outcome State Fault Refusal := execAlu a (fun s => cmpW ((s.getG b) == (s.getG c))) s
/-- seq (Table 5.14). -/
def execSeqXI (a b : Reg) (imm : BitVec 32) (s : State) : Host.Outcome State Fault Refusal := execAlu a (fun s => cmpW ((s.getG b) == (sx32 imm))) s
/-- sne (Table 5.14). -/
def execSneX (a b c : Reg) (s : State) : Host.Outcome State Fault Refusal := execAlu a (fun s => cmpW ((s.getG b) != (s.getG c))) s
/-- sne (Table 5.14). -/
def execSneXI (a b : Reg) (imm : BitVec 32) (s : State) : Host.Outcome State Fault Refusal := execAlu a (fun s => cmpW ((s.getG b) != (sx32 imm))) s
/-- slt (Table 5.14). -/
def execSltX (a b c : Reg) (s : State) : Host.Outcome State Fault Refusal := execAlu a (fun s => cmpW ((s.getG b).slt (s.getG c))) s
/-- slt (Table 5.14). -/
def execSltXI (a b : Reg) (imm : BitVec 32) (s : State) : Host.Outcome State Fault Refusal := execAlu a (fun s => cmpW ((s.getG b).slt (sx32 imm))) s
/-- sltu (Table 5.14). -/
def execSltuX (a b c : Reg) (s : State) : Host.Outcome State Fault Refusal := execAlu a (fun s => cmpW ((s.getG b).ult (s.getG c))) s
/-- sltu (Table 5.14). -/
def execSltuXI (a b : Reg) (imm : BitVec 32) (s : State) : Host.Outcome State Fault Refusal := execAlu a (fun s => cmpW ((s.getG b).ult (sx32 imm))) s
/-- sle (Table 5.14). -/
def execSleX (a b c : Reg) (s : State) : Host.Outcome State Fault Refusal := execAlu a (fun s => cmpW ((s.getG b).sle (s.getG c))) s
/-- sle (Table 5.14). -/
def execSleXI (a b : Reg) (imm : BitVec 32) (s : State) : Host.Outcome State Fault Refusal := execAlu a (fun s => cmpW ((s.getG b).sle (sx32 imm))) s
/-- sleu (Table 5.14). -/
def execSleuX (a b c : Reg) (s : State) : Host.Outcome State Fault Refusal := execAlu a (fun s => cmpW ((s.getG b).ule (s.getG c))) s
/-- sleu (Table 5.14). -/
def execSleuXI (a b : Reg) (imm : BitVec 32) (s : State) : Host.Outcome State Fault Refusal := execAlu a (fun s => cmpW ((s.getG b).ule (sx32 imm))) s
/-- div (Table 5.15); LA is checked where instructions issue. -/
def execDiv (a b c _la : Reg) (s : State) : Host.Outcome State Fault Refusal := execAlu a (fun s => divS (s.getG b) (s.getG c)) s
/-- divu (Table 5.15); LA is checked where instructions issue. -/
def execDivu (a b c _la : Reg) (s : State) : Host.Outcome State Fault Refusal := execAlu a (fun s => divU (s.getG b) (s.getG c)) s
/-- rem (Table 5.15); LA is checked where instructions issue. -/
def execRem (a b c _la : Reg) (s : State) : Host.Outcome State Fault Refusal := execAlu a (fun s => remS (s.getG b) (s.getG c)) s
/-- remu (Table 5.15); LA is checked where instructions issue. -/
def execRemu (a b c _la : Reg) (s : State) : Host.Outcome State Fault Refusal := execAlu a (fun s => remU (s.getG b) (s.getG c)) s
/-- Table 5.16. -/
def execMov (a b : Reg) (s : State) : Host.Outcome State Fault Refusal := execAlu a (fun s => (s.getG b)) s
/-- Table 5.16. -/
def execNeg (a b : Reg) (s : State) : Host.Outcome State Fault Refusal := execAlu a (fun s => -(s.getG b)) s
/-- Table 5.16. -/
def execNot (a b : Reg) (s : State) : Host.Outcome State Fault Refusal := execAlu a (fun s => ~~~(s.getG b)) s
/-- Table 5.16. -/
def execClz (a b : Reg) (s : State) : Host.Outcome State Fault Refusal := execAlu a (fun s => w64 (clzW (s.getG b))) s
/-- Table 5.16. -/
def execCtz (a b : Reg) (s : State) : Host.Outcome State Fault Refusal := execAlu a (fun s => w64 (ctzFuel 64 (s.getG b).toNat)) s
/-- Table 5.16. -/
def execPopc (a b : Reg) (s : State) : Host.Outcome State Fault Refusal := execAlu a (fun s => w64 (popFuel 64 (s.getG b).toNat)) s
/-- Table 5.16. -/
def execBswap (a b : Reg) (s : State) : Host.Outcome State Fault Refusal := execAlu a (fun s => bswapW (s.getG b)) s
/-- Table 5.16. -/
def execTagof (a b : Reg) (s : State) : Host.Outcome State Fault Refusal := execAlu a (fun s => w64 (tagOf (s.getG b))) s
/-- Table 5.16. -/
def execExtBZ (a b : Reg) (s : State) : Host.Outcome State Fault Refusal := execAlu a (fun s => w64 ((s.getG b).toNat % 2 ^ 8)) s
/-- Table 5.16. -/
def execExtHZ (a b : Reg) (s : State) : Host.Outcome State Fault Refusal := execAlu a (fun s => w64 ((s.getG b).toNat % 2 ^ 16)) s
/-- Table 5.16. -/
def execExtWZ (a b : Reg) (s : State) : Host.Outcome State Fault Refusal := execAlu a (fun s => w64 ((s.getG b).toNat % 2 ^ 32)) s
/-- Table 5.16. -/
def execExtBS (a b : Reg) (s : State) : Host.Outcome State Fault Refusal := execAlu a (fun s => i64 (sextN (s.getG b).toNat 8)) s
/-- Table 5.16. -/
def execExtHS (a b : Reg) (s : State) : Host.Outcome State Fault Refusal := execAlu a (fun s => i64 (sextN (s.getG b).toNat 16)) s
/-- Table 5.16. -/
def execExtWS (a b : Reg) (s : State) : Host.Outcome State Fault Refusal := execAlu a (fun s => i64 (sextN (s.getG b).toNat 32)) s
/-- bext (R155). -/
def execBext (a b : Reg) (lsb width1 : BitVec 6) (s : State) : Host.Outcome State Fault Refusal := execAlu a (fun s => bextW (s.getG b) lsb.toNat width1.toNat) s
/-- bins (R155). -/
def execBins (a b : Reg) (lsb width1 : BitVec 6) (s : State) : Host.Outcome State Fault Refusal := execAlu a (fun s => binsW (s.getG a) (s.getG b) lsb.toNat width1.toNat) s
/-- sel (R155). -/
def execSel (a b c e : Reg) (s : State) : Host.Outcome State Fault Refusal := execAlu a (fun s => if s.getG b ≠ 0 then s.getG c else s.getG e) s
/-- padd (R156). -/
def execPaddX (a b c : Reg) (s : State) : Host.Outcome State Fault Refusal := execAlu a (fun s => ptrMove (s.getG b) (s.getG c).toInt) s
/-- padd (R156). -/
def execPaddXI (a b : Reg) (imm : BitVec 32) (s : State) : Host.Outcome State Fault Refusal := execAlu a (fun s => ptrMove (s.getG b) imm.toInt) s
/-- psub (R156). -/
def execPsubX (a b c : Reg) (s : State) : Host.Outcome State Fault Refusal := execAlu a (fun s => ptrMove (s.getG b) (-(s.getG c).toInt)) s
/-- psub (R156). -/
def execPsubXI (a b : Reg) (imm : BitVec 32) (s : State) : Host.Outcome State Fault Refusal := execAlu a (fun s => ptrMove (s.getG b) (-imm.toInt)) s
/-- ptag (R156). -/
def execPtagX (a b c : Reg) (s : State) : Host.Outcome State Fault Refusal := execAlu a (fun s => ptrTag (s.getG b) (s.getG c).toNat) s
/-- ptag (R156). -/
def execPtagXI (a b : Reg) (imm : BitVec 32) (s : State) : Host.Outcome State Fault Refusal := execAlu a (fun s => ptrTag (s.getG b) imm.toNat) s
/-- li (R157). -/
def execLiI16 (a : Reg) (imm : BitVec 16) (s : State) : Host.Outcome State Fault Refusal := execAlu a (fun _ => imm.signExtend 64) s
/-- li (R157). -/
def execLiI32 (a : Reg) (imm : BitVec 32) (s : State) : Host.Outcome State Fault Refusal := execAlu a (fun _ => sx32 imm) s
/-- li (R157). -/
def execLiI64 (a : Reg) (imm : BitVec 64) (s : State) : Host.Outcome State Fault Refusal := execAlu a (fun _ => imm) s

/-! ## Control registers (R132-R135, R157) -/

/-- TILEID of a tenant's view (Table 5.3, R16, R490). -/
def tileId (s : State) (t tenant : Nat) : Word :=
  let n := toViewCluster s tenant (clusterOf t)
  w64 (boolNat (isWCluster (clusterOf t)) * 2 ^ 20 + (4 * (n / 64) + tileY t % 4) % 256 * 2 ^ 12 + (4 * (n % 64) + tileX t % 4) * 2 ^ 4 + tileIndex t)
/-- The value rdc reads from control register n of a thread (Table 5.1), reserved bits zero (R14); none for a number the table does not
assign. -/
def ctlRead (s : State) (t c n : Nat) : Option Word :=
  let x := s.ctx t c
  let r := x.regs
  let ten := blockTenant s x.handle
  match n with
  | 0 => some (liveStatus s t c)
  | 1 => some (tileId s t ten)
  | 2 => some (w64 (toViewHandle s ten x.handle))
  | 3 => some (w64 x.tid)
  | 4 => some (r.fpstat &&& fpstatMask)
  | 5 => some (r.qflags &&& qflagsMask)
  | 6 => some (mprogMask r.mprog)
  | 7 => some (pcField r.tvec)
  | 8 => some (causeMask r.trcause)
  | 9 => some (pcField r.trpc)
  | 10 => some r.traddr
  | 11 => some r.trinfo
  | 12 => some r.lcnt0
  | 13 => some r.lcnt1
  | 14 => some (pcField r.ltop0)
  | 15 => some (pcField r.ltop1)
  | 16 => some (pcField r.llast0)
  | 17 => some (pcField r.llast1)
  | 18 => some (pcField (w64 x.img))
  | 19 => some (w64 x.remain)
  | n => if h : 24 ≤ n ∧ n < 32 then
      some (match s.block? x.handle with | some b => b.mailbox[n - 24] | none => 0)
    else none
/-- STATUS after a thread's wrc: AUTOMIG is RW-T, SLICECLAMP W1C-T, the rest kept (Table 5.2). -/
def statusWrite (old v : Word) : Word :=
  let x := setBit old 8 (bitOf v 8)
  if bitOf v 15 then setBit x 15 false else x
/-- The registers after wrc of control register n, with the dirty image lines (R13, R132); none for an unassigned number. -/
def ctlWrite (r : Regs) (n : Nat) (v : Word) : Option (Regs × List Nat) :=
  match n with
  | 0 => some ({ r with status := statusWrite r.status v }, [2])
  | 4 => some ({ r with fpstat := w1c r.fpstat v fpstatMask }, [2])
  | 5 => some ({ r with qflags := w1c r.qflags v qflagsMask }, [2])
  | 6 => some ({ r with mprog := mprogMask v }, [3])
  | 7 => some ({ r with tvec := pcField v }, [3])
  | 9 => some ({ r with trpc := pcField v }, [3])
  | 12 => some ({ r with lcnt0 := v }, [2])
  | 13 => some ({ r with lcnt1 := v }, [2])
  | n => if n ≤ 19 ∨ (24 ≤ n ∧ n < 32) then some (r, []) else none
/-- Does an access to a control register wait: for the flags of the thread's matrix operations in FPSTAT and QFLAGS (R110, R312), for an accumulate
operation in MPROG (R311). -/
def ctlBusy (s : State) (t c n : Nat) : Bool :=
  (s.tile t).matq.any fun o => o.ctx == c && (n == 4 || n == 5 || (n == 6 && decide (4 ≤ o.xm) && decide (o.xm ≤ 7)))
/-- rdc gA, n (R157); an island core has FPSTAT and QFLAGS alone (R132). -/
def rdcBody (a : Reg) (n : Nat) (s : State) : Except Stop State :=
  match s.cur with
  | .thread t c => if ctlBusy s t c n then .error .wait else match ctlRead s t c n with
    | some v => .ok (alu a v s)
    | none => .error (.trap (illegalOp s))
  | _ =>
    if n = 4 then .ok (alu a (s.regs.fpstat &&& fpstatMask) s)
    else if n = 5 then .ok (alu a (s.regs.qflags &&& qflagsMask) s)
    else .error (.trap (illegalOp s))
/-- rdc gA, n (R157). -/
def execRdc (a : Reg) (n : BitVec 16) (s : State) : Host.Outcome State Fault Refusal := runInstr profBoth s (rdcBody a n.toNat)
/-- wrc gA, n (R132, R157): a stopped matrix operation follows MPROG (R320). -/
def wrcBody (a : Reg) (n : Nat) (s : State) : Except Stop State :=
  let legal := match s.cur with | .thread _ _ => true | _ => n == 4 || n == 5
  let busy := match s.cur with | .thread t c => ctlBusy s t c n | _ => false
  if busy then .error .wait
  else match ctlWrite s.regs n (s.getG a) with
  | some (r, d) => if legal then .ok (s.setRegs d r).retire else .error (.trap (illegalOp s))
  | none => .error (.trap (illegalOp s))
/-- wrc gA, n (R132, R157). -/
def execWrc (a : Reg) (n : BitVec 16) (s : State) : Host.Outcome State Fault Refusal := runInstr profBoth s (wrcBody a n.toNat)

/-! ## Transfers (R55, R158, R168) -/

/-- The target of a J or JL tail (R55). -/
def jTarget (pc : Word) (loff : Int) (slot : Nat) : Nat := ((addrOf pc / 64 * 64 : Int) + 64 * loff + 2 * slot) % 2 ^ 54 |>.toNat
/-- A taken transfer to t: R48 first, then the link if there is one, then the PC and the pops (R158, R168). -/
def takeTransfer (t : Nat) (link pops : Bool) (s : State) : Except Stop State :=
  match checkTarget s s.cur s.getPc t with
  | .error e => .error e
  | .ok _ =>
    let next := w64 (nextPc s s.cur s.getPc.toNat)
    let s' := if link then s.setG 14 next else s
    .ok (s'.jump t pops)
/-- A transfer when a condition holds, the fall-through otherwise (R158). -/
def branchIf (cond : Bool) (loff : Int) (slot : Nat) (s : State) : Except Stop State :=
  if cond then takeTransfer (jTarget s.getPc loff slot) false true s else .ok s.retire
/-- A conditional branch of threads and island cores. -/
def execBranch (cond : State → Bool) (loff : Int) (slot : Nat) (s : State) : Host.Outcome State Fault Refusal :=
  runInstr profBoth s fun s => branchIf (cond s) loff slot s
/-- br target (Table 5.17). -/
def execBrJ (loff : BitVec 11) (slot : BitVec 5) (s : State) : Host.Outcome State Fault Refusal := execBranch (fun _ => true) loff.toInt slot.toNat s
/-- call target: g14 takes the fall-through; nothing pops (Table 5.17, R168). -/
def execCallJ (loff : BitVec 11) (slot : BitVec 5) (s : State) : Host.Outcome State Fault Refusal :=
  runInstr profBoth s fun s => takeTransfer (jTarget s.getPc loff.toInt slot.toNat) true false s
/-- bnz gA, target (Table 5.17). -/
def execBnzJ (a : Reg) (loff : BitVec 11) (slot : BitVec 5) (s : State) : Host.Outcome State Fault Refusal := execBranch (fun s => s.getG a != 0) loff.toInt slot.toNat s
/-- bz gA, target (Table 5.17). -/
def execBzJ (a : Reg) (loff : BitVec 11) (slot : BitVec 5) (s : State) : Host.Outcome State Fault Refusal := execBranch (fun s => s.getG a == 0) loff.toInt slot.toNat s
/-- beq gA, gB, target (Table 5.17). -/
def execBeqJ (a b : Reg) (loff : BitVec 11) (slot : BitVec 5) (s : State) : Host.Outcome State Fault Refusal :=
  execBranch (fun s => s.getG a == s.getG b) loff.toInt slot.toNat s
/-- bne gA, gB, target (Table 5.17). -/
def execBneJ (a b : Reg) (loff : BitVec 11) (slot : BitVec 5) (s : State) : Host.Outcome State Fault Refusal :=
  execBranch (fun s => s.getG a != s.getG b) loff.toInt slot.toNat s
/-- blt gA, gB, target (Table 5.17). -/
def execBltJ (a b : Reg) (loff : BitVec 11) (slot : BitVec 5) (s : State) : Host.Outcome State Fault Refusal :=
  execBranch (fun s => (s.getG a).slt (s.getG b)) loff.toInt slot.toNat s
/-- bge gA, gB, target (Table 5.17). -/
def execBgeJ (a b : Reg) (loff : BitVec 11) (slot : BitVec 5) (s : State) : Host.Outcome State Fault Refusal :=
  execBranch (fun s => (s.getG b).sle (s.getG a)) loff.toInt slot.toNat s
/-- bltu gA, gB, target (Table 5.17). -/
def execBltuJ (a b : Reg) (loff : BitVec 11) (slot : BitVec 5) (s : State) : Host.Outcome State Fault Refusal :=
  execBranch (fun s => (s.getG a).ult (s.getG b)) loff.toInt slot.toNat s
/-- bgeu gA, gB, target (Table 5.17). -/
def execBgeuJ (a b : Reg) (loff : BitVec 11) (slot : BitVec 5) (s : State) : Host.Outcome State Fault Refusal :=
  execBranch (fun s => (s.getG b).ule (s.getG a)) loff.toInt slot.toNat s
/-- br target (Table 5.17). -/
def execBrJL (loff : BitVec 27) (slot : BitVec 5) (s : State) : Host.Outcome State Fault Refusal := execBranch (fun _ => true) loff.toInt slot.toNat s
/-- call target: g14 takes the fall-through; nothing pops (Table 5.17, R168). -/
def execCallJL (loff : BitVec 27) (slot : BitVec 5) (s : State) : Host.Outcome State Fault Refusal :=
  runInstr profBoth s fun s => takeTransfer (jTarget s.getPc loff.toInt slot.toNat) true false s
/-- bnz gA, target (Table 5.17). -/
def execBnzJL (a : Reg) (loff : BitVec 27) (slot : BitVec 5) (s : State) : Host.Outcome State Fault Refusal := execBranch (fun s => s.getG a != 0) loff.toInt slot.toNat s
/-- bz gA, target (Table 5.17). -/
def execBzJL (a : Reg) (loff : BitVec 27) (slot : BitVec 5) (s : State) : Host.Outcome State Fault Refusal := execBranch (fun s => s.getG a == 0) loff.toInt slot.toNat s
/-- beq gA, gB, target (Table 5.17). -/
def execBeqJL (a b : Reg) (loff : BitVec 27) (slot : BitVec 5) (s : State) : Host.Outcome State Fault Refusal :=
  execBranch (fun s => s.getG a == s.getG b) loff.toInt slot.toNat s
/-- bne gA, gB, target (Table 5.17). -/
def execBneJL (a b : Reg) (loff : BitVec 27) (slot : BitVec 5) (s : State) : Host.Outcome State Fault Refusal :=
  execBranch (fun s => s.getG a != s.getG b) loff.toInt slot.toNat s
/-- blt gA, gB, target (Table 5.17). -/
def execBltJL (a b : Reg) (loff : BitVec 27) (slot : BitVec 5) (s : State) : Host.Outcome State Fault Refusal :=
  execBranch (fun s => (s.getG a).slt (s.getG b)) loff.toInt slot.toNat s
/-- bge gA, gB, target (Table 5.17). -/
def execBgeJL (a b : Reg) (loff : BitVec 27) (slot : BitVec 5) (s : State) : Host.Outcome State Fault Refusal :=
  execBranch (fun s => (s.getG b).sle (s.getG a)) loff.toInt slot.toNat s
/-- bltu gA, gB, target (Table 5.17). -/
def execBltuJL (a b : Reg) (loff : BitVec 27) (slot : BitVec 5) (s : State) : Host.Outcome State Fault Refusal :=
  execBranch (fun s => (s.getG a).ult (s.getG b)) loff.toInt slot.toNat s
/-- bgeu gA, gB, target (Table 5.17). -/
def execBgeuJL (a b : Reg) (loff : BitVec 27) (slot : BitVec 5) (s : State) : Host.Outcome State Fault Refusal :=
  execBranch (fun s => (s.getG b).ule (s.getG a)) loff.toInt slot.toNat s
/-- ret: to g14[53:0] (Table 5.17). -/
def execRet (s : State) : Host.Outcome State Fault Refusal := runInstr profBoth s fun s => takeTransfer (addrOf (s.getG 14)) false true s
/-- jr gB (Table 5.17). -/
def execJr (b : Reg) (s : State) : Host.Outcome State Fault Refusal := runInstr profBoth s fun s => takeTransfer (addrOf (s.getG b)) false true s
/-- callr gB: the register is read before the link is written (R158). -/
def execCallr (b : Reg) (s : State) : Host.Outcome State Fault Refusal := runInstr profBoth s fun s => takeTransfer (addrOf (s.getG b)) true false s

/-! ## nop, pause, sys, tret (R159-R163) -/

/-- nop, the only encoding defined to do nothing (R84). -/
def execNop (s : State) : Host.Outcome State Fault Refusal := runInstr profAll s fun s => .ok s.retire
/-- The last cycle a pause issued now lasts (R160), 0 when it does not pause. -/
def pauseUntil (s : State) (n : Nat) : Nat := if n = 0 then 0 else s.cycle + n
/-- pause n (R160): the slot is Paused until the PAUSE_EXPIRY step; a core issues again in the cycle after the last of the n. -/
def pauseBody (n : Nat) (s : State) : State :=
  let s := s.retire
  match s.cur with
  | .thread t c => if n = 0 then s else (s.setCtx t c { s.ctx t c with pause := pauseUntil s n }).addDue (.pauseExpiry t c)
  | .core i k => if n = 0 then s else s.setCore i k { s.core i k with pause := pauseUntil s n + 1 }
  | .zephyr _ _ => s
/-- pause n (R160). -/
def execPause (n : BitVec 16) (s : State) : Host.Outcome State Fault Refusal := runInstr profBoth s fun s => .ok (pauseBody n.toNat s)
/-- sys n (R161): it retires, loop-end action included, and then traps SYSCALL at its successor. -/
def sysBody (n : Nat) (s : State) : State :=
  let s := s.retire
  raise s { code := 0x08, engine := engScalar, info := w64 n, pc := some s.getPc }
/-- sys n (R161). -/
def execSys (n : BitVec 16) (s : State) : Host.Outcome State Fault Refusal := runInstr profBoth s fun s => .ok (sysBody n.toNat s)
/-- tret (R162): to TRPC with the loop state unchanged. -/
def tretBody (s : State) : Except Stop State :=
  let r := s.regs
  if !intrap r then .error (.trap { code := 0x07, engine := engScalar })
  else match checkTarget s s.cur r.pc (addrOf r.trpc) with
    | .error e => .error e
    | .ok _ => .ok { s.setRegs [2] { r with pc := w64 (addrOf r.trpc), status := setBit r.status 6 false } with retired := true }
/-- tret (R162). -/
def execTret (s : State) : Host.Outcome State Fault Refusal := runInstr profThread s tretBody

/-! ## Hardware loops (R164-R167) -/

/-- Does the head of a code line's slot belong to a loop. -/
def namesLoop (l : CodeLine) (t : Nat) : Bool := halfWord l (t % 64 / 2) / 2 ^ 8 % 64 == 0x1E
/-- The checks of loop's target (R165). -/
def loopTarget (t : Nat) (s : State) : Except Stop CodeLine :=
  let r := s.regs
  let bad : Except Stop CodeLine := .error (.trap { code := 0x03, engine := engScalar, info := w64 t })
  match checkTarget s s.cur r.pc t with
  | .error e => .error e
  | .ok l =>
    if !lineLegal l || decide (t ≤ addrOf r.pc) || namesLoop l t || (ldepth r == 1 && decide (r.llast0.toNat < t)) then bad else .ok l
/-- loop with count n and last instruction t (R165): the zero-trip skip, or the push. -/
def loopBody (n : Word) (t : Nat) (s : State) : Except Stop State :=
  match loopTarget t s with
  | .error e => .error e
  | .ok l =>
    let r := s.regs
    if ldepth r = 2 ∨ intrap r = true then .error (.trap { code := 0x06, engine := engScalar })
    else
      let done (r : Regs) : Except Stop State := .ok { s.setRegs [2, 3] r with retired := true }
      if n = 0 then
        let r' := { r with pc := w64 (nextOn l t % 2 ^ 54) }
        done (if ldepth r = 1 ∧ r.llast0 = w64 t then loopEnd (w64 t) 1 r' else r')
      else
        let next := w64 (nextPc s s.cur r.pc.toNat)
        done { pushLevel r n next (w64 t) with pc := next }
/-- The value of a mailbox register of a thread's block (R377). -/
def mailbox (s : State) (k : Nat) : Word :=
  match s.cur with
  | .thread t c => (match s.block? (s.ctx t c).handle with | some b => b.mailbox.toList.getD k 0 | none => 0)
  | _ => 0
/-- loop gA, last (R164). -/
def execLoopGJ (a : Reg) (loff : BitVec 11) (slot : BitVec 5) (s : State) : Host.Outcome State Fault Refusal :=
  runInstr profBoth s fun s => loopBody (s.getG a) (jTarget s.getPc loff.toInt slot.toNat) s
/-- loop mbA, last (R164); ILLEGALOP on an island core. -/
def execLoopMbJ (a : Reg) (loff : BitVec 11) (slot : BitVec 5) (s : State) : Host.Outcome State Fault Refusal :=
  runInstr profThread s fun s => loopBody (mailbox s a.val) (jTarget s.getPc loff.toInt slot.toNat) s
/-- loop gA, last (R164). -/
def execLoopGJL (a : Reg) (loff : BitVec 27) (slot : BitVec 5) (s : State) : Host.Outcome State Fault Refusal :=
  runInstr profBoth s fun s => loopBody (s.getG a) (jTarget s.getPc loff.toInt slot.toNat) s
/-- loop mbA, last (R164); ILLEGALOP on an island core. -/
def execLoopMbJL (a : Reg) (loff : BitVec 27) (slot : BitVec 5) (s : State) : Host.Outcome State Fault Refusal :=
  runInstr profThread s fun s => loopBody (mailbox s a.val) (jTarget s.getPc loff.toInt slot.toNat) s

end Sys2Proof.Machine
end

