-- ==== Sys2Proof/Machine/Send.lean ====
section
/-! DEFINITION. Send buffers and the start of a migration (R146, R350, R351, R363), shared by the Jetstream instructions and by the loads and
stores that migrate (R365). -/

namespace Sys2Proof.Machine

/-! ## Send buffers (R351, R356) -/

/-- The send buffer of a site: 8 entries, an unlisted one Free. -/
def sendsOf (s : State) : Site → Map Nat SendEntry
  | .tile t => (s.tile t).sends
  | .island i => (s.island i).sends
/-- The state with a site's send buffer replaced. -/
def setSends (s : State) (x : Site) (m : Map Nat SendEntry) : State :=
  match x with
  | .tile t => s.setTile t { s.tile t with sends := m }
  | .island i => s.setIsland i { s.island i with sends := m }
/-- The site an agent sends from. -/
def siteOf : Agent → Site
  | .core i _ => .island i
  | a => .tile (agentTile a)
/-- Is entry k of a site's send buffer reserved by a send that waits at its step 6 (R353). -/
def sendReserved (s : State) (x : Site) (k : Nat) : Bool :=
  match x with
  | .tile t => s.ctxs.any fun p => p.1.1 == t && p.2.sendSlot == some k
  | .island _ => false
/-- The Free entries of a site's send buffer. -/
def freeSends (s : State) (x : Site) : List Nat := (List.range 8).filter fun k => (mget? (sendsOf s x) k).isNone && !sendReserved s x k
/-- The first Free entry of a site's send buffer. -/
def freeSend? (s : State) (x : Site) : Option Nat := (freeSends s x).head?
/-- An entry written and its site's injection made due. -/
def putSend (s : State) (x : Site) (k : Nat) (e : SendEntry) : State :=
  (setSends s x (mset (sendsOf s x) k e)).addDueOnce (.injection (siteTile x))
/-- Messages of a thread that are not Free. -/
def threadSends (s : State) (t c : Nat) : List (Nat × SendEntry) :=
  (s.tile t).sends.filter fun e => e.2.src == senderOf s (.thread t c)
/-- Is a destination block refused to a requester: outside its region without a grant, or of the other world (R350, R353 step 4). -/
def sendRefused (s : State) (q : Req) (b : Block) : Bool :=
  !regionAllows s (q.region s) (clusterOf b.tile) true || worldOf s b.tenant != worldOf s q.tenant

/-! ## Migration (R146, R363) -/

/-- May a thread migrate (R146, R365): neither anchored nor in a loop nor in a trap handler. -/
def mayMigrate (s : State) (t c : Nat) : Bool := let x := s.ctx t c; !isAnchored s t c && ldepth x.regs == 0 && !intrap x.regs
/-- Has a thread an engine request that is not Done, or a message outside Free (R280, R363 step 4). -/
def threadBusy (s : State) (t c : Nat) : Bool :=
  let x := s.ctx t c
  ((s.tile t).zreqs.any fun r => r.handle == x.handle && r.task == x.task) || ((s.tile t).matq.any fun m => m.ctx == c) || !(threadSends s t c).isEmpty
/-- A payload under the flit key of its sender's tenant and world (R360). -/
def sealFlits (s : State) (q : Req) (src seq : Nat) (bs : List Byte) : List Byte :=
  flitCrypt (flitKey (worldOf s q.tenant) s.wafer.dstate q.tenant) (src % 2 ^ 24) seq bs
/-- The doubles of a migration message (R363 step 6): g0 to g15, the resumption PC, STATUS, FPSTAT, QFLAGS. -/
def migrationImage (r : Regs) (pc : Word) : List Word := r.g.toList ++ [pc, r.status, r.fpstat, r.qflags]
/-- R363 steps 4 to 6 for thread (t, c) to block h, resuming at pc: the waits, the commit, which stays when step 6 waits, the write-back of
tile-private blocks (R193), the switch-out, and the migration message; back is the pointer that the trap of a returned migration names. -/
def startMigration (s : State) (t c h : Nat) (pc back : Word) : Except Stop State :=
  if threadBusy s t c then .error .wait
  else match settle s (threadReq s t c) with
    | .error e => .error e
    | .ok s =>
      match freeSend? s (.tile t) with
      | none => .error (.kept s none)
      | some k =>
        let own := blockTenant s (s.ctx t c).handle
        let s := flushBlocks s t fun d => d.tp && d.dirty && d.tenant == own
        let wb := switchOut s t c
        match wb.2 with
        | some f => .error (.kept s (some f))
        | none =>
          let s := wb.1
          let x := s.ctx t c
          let k? := x.task.bind s.task?
          let (n, s) := s.fresh
          let q := threadReq s t c
          let src := senderOf s (.thread t c)
          let e : SendEntry :=
            { order := n, kind := 1, src := src, pend := [h], handler := pc, seq := x.seq, task := x.task, ctx := c
              payload := sealFlits s q src x.seq (wordsBytes (migrationImage x.regs pc)), owner := q.tenant, world := worldOf s q.tenant
              stamp := (k?.map Task.stamp).getD 0, launch := (k?.map Task.launch).getD 0, region := regionTenant s (clusterOf t)
              remain := x.remain, back := back, windows := x.regs.windows }
          let s := s.setCtx t c { leaveSlot x with state := .held, seq := (x.seq + 1) % 2 ^ 16 }
          .ok ((putSend s (.tile t) k e).addDueOnce (.issueSlotTaken t))
/-- The block that a load or store of a thread migrates to (R365): AUTOMIG is 1, the address names a live block of the thread's launch on
another tile, and the thread may migrate. -/
def autoTarget (s : State) (t c : Nat) (p : Word) : Option Nat :=
  let x := s.ctx t c
  if ptrOk p && inCluster (addrOf p) && bitOf x.regs.status 8 && mayMigrate s t c then
    let h := fromViewHandle s (blockTenant s x.handle) (addrOf p / 2 ^ 17 % 2 ^ 24)
    match s.block? h, s.block? x.handle with
    | some b, some own =>
      if b.live && !b.evicted && b.launch == own.launch && b.tile != t then some h else none
    | _, _ => none
  else none

end Sys2Proof.Machine
end

