-- ==== Sys2Proof/Machine/Local.lean ====
section
/-! DEFINITION. The local memory engine's instructions (R171-R224): loads and stores, immediate accesses, fences, the buddy allocator, the tag
table, data-cache operations, layout records, range-lock queries. -/

namespace Sys2Proof.Machine

/-- The local engine's instructions of threads and island cores. -/
def localBoth : Profile := { engine := engLocal }
/-- The local engine's instructions of threads only. -/
def localThread : Profile := { core := false, engine := engLocal }

/-! ## Loads and stores (R194-R197, R365, R454) -/

/-- A stop of a thread's load or store: a page that is not present is a handover (R454). -/
def ldstStop (st : Stop) : Stop :=
  match st with
  | .trap tr => if tr.code = 0x16 ∧ tr.info.toNat % 256 = pfNotPresent then .handover tr else .trap tr
  | st => st
/-- The checks of an access that is made at once, and the heads of a read; those of a write leave with it. A head that is lost takes the access
with it (R341; log entry 47). -/
def checkNow (s : State) (q : Req) (acc : AccKind) (p : Word) (n : Nat) : Except Stop (List Place × State) :=
  match check s q acc p n with
  | .error t => .error (.trap t)
  | .ok r =>
    if r.1.any (headHeld r.2 q) then .error .wait
    else if acc = .read then
      match sendHeads r.2 q r.1 with
      | .error u => .error (.kept u none)
      | .ok u => .ok (r.1, u)
    else .ok r
/-- An access of a core checked and read at once (R172, R474). -/
def coreLoad (s : State) (q : Req) (p : Word) (n : Nat) : Except Stop (List Byte × State) :=
  match checkNow s q .read p n with
  | .error e => .error e
  | .ok (xs, s') => .ok (xs.flatMap (coreReadPlace s' q), meetPlaces s' q xs)
/-- An access of a core checked and written at once. -/
def coreStore (s : State) (q : Req) (p : Word) (bs : List Byte) : Except Stop State :=
  match checkNow s q .write p bs.length with
  | .error e => .error e
  | .ok (xs, s') => if writesWait s' q xs then .error .wait else .ok (coreWriteAll s' q xs bs)
/-- An ordinary load of the current agent. -/
def loadBytes (s : State) (p : Word) (n : Nat) : Except Stop (List Byte × State) :=
  let q := curReq s
  if q.core then coreLoad s q p n
  else match memLoad s q false p n with
    | .error e => .error (ldstStop e)
    | .ok r => .ok r
/-- An ordinary store of the current agent. -/
def storeBytes (s : State) (p : Word) (bs : List Byte) : Except Stop State :=
  let q := curReq s
  if q.core then coreStore s q p bs
  else match memStore s q p bs with
    | .error e => .error (ldstStop e)
    | .ok r => .ok r
/-- The block that the current agent's load or store at p migrates to, if any (R365). -/
def autoBlock (s : State) (p : Word) : Option Nat :=
  match s.cur with
  | .thread t c => autoTarget s t c p
  | _ => none
/-- A load or store through p: a migration in place of the access when R365 asks for one, with the refusal that mig would meet. -/
def access (s : State) (p : Word) (body : State → Except Stop State) : Except Stop State :=
  match s.cur, autoBlock s p with
  | .thread t c, some h =>
    let q := threadReq s t c
    if (s.block? h).any (sendRefused s q) then .error (.trap (memTrap 0x17 p (toViewHandle s q.tenant h)))
    else startMigration s t c h s.getPc p
  | _, _ => body s
/-- Number of bytes of a size code (R88). -/
def sizeBytes (sz : Nat) : Nat := 2 ^ sz
/-- A loaded value zero- or sign-extended (R195, R196). -/
def extend (bs : List Byte) (signed : Bool) : Word :=
  if signed then i64 (sextN (fromBytes bs) (8 * bs.length)) else w64 (fromBytes bs)
/-- A load of n bytes at p into gA. -/
def loadInto (a : Reg) (p : Word) (n : Nat) (signed : Bool) (s : State) : Except Stop State :=
  access s p fun s =>
    match loadBytes s p n with
    | .error e => .error e
    | .ok (bs, s') => .ok (alu a (extend bs signed) s')
/-- A store of the low n bytes of a value at p. -/
def storeFrom (v p : Word) (n : Nat) (s : State) : Except Stop State :=
  access s p fun s =>
    match storeBytes s p (toBytes n v.toNat) with
    | .error e => .error e
    | .ok s' => .ok s'.retire
/-- The pointer gB moved by a signed offset, its tag kept (R195, R196). -/
def movedPtr (s : State) (b : Reg) (d : Int) : Word := let p := s.getG b; withAddr p (addrOf p + d)
/-- A load of threads and island cores. -/
def execLoad (a : Reg) (p : State → Word) (n : Nat) (signed : Bool) (s : State) : Host.Outcome State Fault Refusal :=
  runInstr localBoth s fun s => loadInto a (p s) n signed s
/-- A store of threads and island cores. -/
def execStore (a : Reg) (p : State → Word) (n : Nat) (s : State) : Host.Outcome State Fault Refusal :=
  runInstr localBoth s fun s => storeFrom (s.getG a) (p s) n s

/-- ld.b gA, off(gB) (R195). -/
def execLdBK (a b _la : Reg) (off : BitVec 12) (s : State) : Host.Outcome State Fault Refusal :=
  execLoad a (fun s => movedPtr s b off.toInt) 1 false s
/-- st.b gA, off(gB) (R195). -/
def execStBK (a b _la : Reg) (off : BitVec 12) (s : State) : Host.Outcome State Fault Refusal :=
  execStore a (fun s => movedPtr s b off.toInt) 1 s
/-- ld.b gA, off(gB) (R195). -/
def execLdBKL (a b _la : Reg) (off : BitVec 24) (s : State) : Host.Outcome State Fault Refusal :=
  execLoad a (fun s => movedPtr s b off.toInt) 1 false s
/-- st.b gA, off(gB) (R195). -/
def execStBKL (a b _la : Reg) (off : BitVec 24) (s : State) : Host.Outcome State Fault Refusal :=
  execStore a (fun s => movedPtr s b off.toInt) 1 s
/-- ld.h gA, off(gB) (R195). -/
def execLdHK (a b _la : Reg) (off : BitVec 12) (s : State) : Host.Outcome State Fault Refusal :=
  execLoad a (fun s => movedPtr s b off.toInt) 2 false s
/-- st.h gA, off(gB) (R195). -/
def execStHK (a b _la : Reg) (off : BitVec 12) (s : State) : Host.Outcome State Fault Refusal :=
  execStore a (fun s => movedPtr s b off.toInt) 2 s
/-- ld.h gA, off(gB) (R195). -/
def execLdHKL (a b _la : Reg) (off : BitVec 24) (s : State) : Host.Outcome State Fault Refusal :=
  execLoad a (fun s => movedPtr s b off.toInt) 2 false s
/-- st.h gA, off(gB) (R195). -/
def execStHKL (a b _la : Reg) (off : BitVec 24) (s : State) : Host.Outcome State Fault Refusal :=
  execStore a (fun s => movedPtr s b off.toInt) 2 s
/-- ld.w gA, off(gB) (R195). -/
def execLdWK (a b _la : Reg) (off : BitVec 12) (s : State) : Host.Outcome State Fault Refusal :=
  execLoad a (fun s => movedPtr s b off.toInt) 4 false s
/-- st.w gA, off(gB) (R195). -/
def execStWK (a b _la : Reg) (off : BitVec 12) (s : State) : Host.Outcome State Fault Refusal :=
  execStore a (fun s => movedPtr s b off.toInt) 4 s
/-- ld.w gA, off(gB) (R195). -/
def execLdWKL (a b _la : Reg) (off : BitVec 24) (s : State) : Host.Outcome State Fault Refusal :=
  execLoad a (fun s => movedPtr s b off.toInt) 4 false s
/-- st.w gA, off(gB) (R195). -/
def execStWKL (a b _la : Reg) (off : BitVec 24) (s : State) : Host.Outcome State Fault Refusal :=
  execStore a (fun s => movedPtr s b off.toInt) 4 s
/-- ld.d gA, off(gB) (R195). -/
def execLdDK (a b _la : Reg) (off : BitVec 12) (s : State) : Host.Outcome State Fault Refusal :=
  execLoad a (fun s => movedPtr s b off.toInt) 8 false s
/-- st.d gA, off(gB) (R195). -/
def execStDK (a b _la : Reg) (off : BitVec 12) (s : State) : Host.Outcome State Fault Refusal :=
  execStore a (fun s => movedPtr s b off.toInt) 8 s
/-- ld.d gA, off(gB) (R195). -/
def execLdDKL (a b _la : Reg) (off : BitVec 24) (s : State) : Host.Outcome State Fault Refusal :=
  execLoad a (fun s => movedPtr s b off.toInt) 8 false s
/-- st.d gA, off(gB) (R195). -/
def execStDKL (a b _la : Reg) (off : BitVec 24) (s : State) : Host.Outcome State Fault Refusal :=
  execStore a (fun s => movedPtr s b off.toInt) 8 s
/-- The pointer gB + (gC << size) (R196). -/
def indexedPtr (s : State) (b c : Reg) (size : Nat) : Word := movedPtr s b ((s.getG c).toInt * 2 ^ size)
/-- ldx (Table 6.10). -/
def execLdx (size : Fin 4) (a b c _la : Reg) (s : State) : Host.Outcome State Fault Refusal :=
  execLoad a (fun s => indexedPtr s b c size.val) (sizeBytes size.val) false s
/-- stx (Table 6.10). -/
def execStx (size : Fin 4) (a b c _la : Reg) (s : State) : Host.Outcome State Fault Refusal :=
  execStore a (fun s => indexedPtr s b c size.val) (sizeBytes size.val) s
/-- ldx.s, sign-extending (Table 6.10). -/
def execLdxS (size : Fin 4) (a b c _la : Reg) (s : State) : Host.Outcome State Fault Refusal :=
  execLoad a (fun s => indexedPtr s b c size.val) (sizeBytes size.val) true s
/-- A pair load: gA first, then gE (Table 6.10). -/
def loadPair (a e : Reg) (p : Word) (s : State) : Except Stop State :=
  access s p fun s =>
    match loadBytes s p 16 with
    | .error x => .error x
    | .ok (bs, s') => .ok ((s'.setG a (dword bs 0)).setG e (dword bs 1)).retire
/-- ldp.d gA, gE, gB, gC (Table 6.10). -/
def execLdp (a e b c _la : Reg) (s : State) : Host.Outcome State Fault Refusal :=
  runInstr localBoth s fun s => loadPair a e (movedPtr s b (16 * (s.getG c).toInt)) s
/-- A pair store (Table 6.10). -/
def storePair (a e : Reg) (p : Word) (s : State) : Except Stop State :=
  access s p fun s =>
    match storeBytes s p (wordsBytes [s.getG a, s.getG e]) with
    | .error x => .error x
    | .ok s' => .ok s'.retire
/-- stp.d gA, gE, gB, gC (Table 6.10). -/
def execStp (a e b c _la : Reg) (s : State) : Host.Outcome State Fault Refusal :=
  runInstr localBoth s fun s => storePair a e (movedPtr s b (16 * (s.getG c).toInt)) s

/-! ## Immediate accesses and fences (R211-R214, R223) -/

/-- The pointer gB with the address bits below the access size cleared (R213). -/
def alignedPtr (s : State) (b : Reg) (n : Nat) : Word := let p := s.getG b; withAddr p (addrOf p / n * n)
/-- Places read at once by the current agent. -/
def readAllNow (s : State) (q : Req) (xs : List Place) : List Byte :=
  xs.flatMap fun x => if q.core then coreReadPlace s q x else readNow s q x
/-- What an acquire leaves: no stale copy in the tile's data cache (R212). -/
def acquired (s : State) : State :=
  match s.cur with
  | .thread t _ => dropStale s t
  | _ => s
/-- lda (R213). -/
def ldaBody (n : Nat) (a b : Reg) (s : State) : Except Stop State :=
  let q := curReq s
  match checkNow s q .read (alignedPtr s b n) n with
  | .error e => .error e
  | .ok (xs, s') => .ok (alu a (w64 (fromBytes (readAllNow s' q xs))) (acquired (meetPlaces s' q xs)))
/-- lda.s gA, 0(gB), scope: every scope is met, since an immediate access is visible to all agents at once. -/
def execLda (size : Fin 4) (a b _scope _la : Reg) (s : State) : Host.Outcome State Fault Refusal :=
  runInstr localBoth s fun s => ldaBody (sizeBytes size.val) a b s
/-- Places written at once by the current agent; a write of shared memory ends the thread's interval first (R171). -/
def writeAllNow (s : State) (q : Req) (xs : List Place) (bs : List Byte) : Except Stop State :=
  if q.core then (if writesWait s q xs then .error .wait else .ok (coreWriteAll s q xs bs)) else writeImmediate s q xs bs
/-- stl (R213). -/
def stlBody (n : Nat) (a b : Reg) (s : State) : Except Stop State :=
  let q := curReq s
  match checkNow s q .write (alignedPtr s b n) n with
  | .error e => .error e
  | .ok (xs, s') => match writeAllNow s' q xs (toBytes n (s.getG a).toNat) with
    | .error e => .error e
    | .ok s'' => .ok s''.retire
/-- stl.s gA, 0(gB), scope (R213). -/
def execStl (size : Fin 4) (a b _scope _la : Reg) (s : State) : Host.Outcome State Fault Refusal :=
  runInstr localBoth s fun s => stlBody (sizeBytes size.val) a b s
/-- An atomic operation of n bytes (R213): op takes the old value, the operand and the compare value of gA. -/
def amoBody (n : Nat) (op : Nat → Nat → Nat → Nat) (a b c : Reg) (s : State) : Except Stop State :=
  let q := curReq s
  match checkNow s q .atomic (alignedPtr s b n) n with
  | .error e => .error e
  | .ok (xs, s') =>
    match (if !q.core && xs.any Place.shared then settle s' q else .ok s') with
    | .error e => .error e
    | .ok s' =>
      let old := fromBytes (readAllNow s' q xs)
      let s' := meetPlaces s' q xs
      let m := 2 ^ (8 * n)
      match writeAllNow s' q xs (toBytes n (op old ((s.getG c).toNat % m) ((s.getG a).toNat % m))) with
      | .error e => .error (e.keptIn s')
      | .ok s'' => .ok (alu a (w64 old) (acquired s''))
/-- An atomic instruction of threads and island cores. -/
def execAmo (size : Fin 4) (op : Nat → Nat → Nat → Nat) (a b c : Reg) (s : State) : Host.Outcome State Fault Refusal :=
  runInstr localBoth s fun s => amoBody (sizeBytes size.val) op a b c s

/-- amo.add (Table 6.13). -/
def execAmoAdd (size : Fin 4) (a b c _scope _la : Reg) (s : State) : Host.Outcome State Fault Refusal :=
  execAmo size (fun o v _ => o + v) a b c s
/-- amo.and (Table 6.13). -/
def execAmoAnd (size : Fin 4) (a b c _scope _la : Reg) (s : State) : Host.Outcome State Fault Refusal :=
  execAmo size (fun o v _ => o &&& v) a b c s
/-- amo.or (Table 6.13). -/
def execAmoOr (size : Fin 4) (a b c _scope _la : Reg) (s : State) : Host.Outcome State Fault Refusal :=
  execAmo size (fun o v _ => o ||| v) a b c s
/-- amo.xor (Table 6.13). -/
def execAmoXor (size : Fin 4) (a b c _scope _la : Reg) (s : State) : Host.Outcome State Fault Refusal :=
  execAmo size (fun o v _ => o ^^^ v) a b c s
/-- amo.min (Table 6.13). -/
def execAmoMin (size : Fin 4) (a b c _scope _la : Reg) (s : State) : Host.Outcome State Fault Refusal :=
  execAmo size (fun o v _ => if sextN o (8 * sizeBytes size.val) ≤ sextN v (8 * sizeBytes size.val) then o else v) a b c s
/-- amo.max (Table 6.13). -/
def execAmoMax (size : Fin 4) (a b c _scope _la : Reg) (s : State) : Host.Outcome State Fault Refusal :=
  execAmo size (fun o v _ => if sextN v (8 * sizeBytes size.val) ≤ sextN o (8 * sizeBytes size.val) then o else v) a b c s
/-- amo.swap (Table 6.13). -/
def execAmoSwap (size : Fin 4) (a b c _scope _la : Reg) (s : State) : Host.Outcome State Fault Refusal :=
  execAmo size (fun _ v _ => v) a b c s
/-- amo.cas (Table 6.13). -/
def execAmoCas (size : Fin 4) (a b c _scope _la : Reg) (s : State) : Host.Outcome State Fault Refusal :=
  execAmo size (fun o v x => if o = x then v else o) a b c s
/-- fence scope (R214): accesses are performed in program order. -/
def execFence (_scope : Reg) (s : State) : Host.Outcome State Fault Refusal := runInstr localBoth s fun s => .ok s.retire
/-- lfence (R223): every engine read of a record sees the thread's earlier lrwr. -/
def execLfence (s : State) : Host.Outcome State Fault Refusal := runInstr localBoth s fun s => .ok s.retire

/-! ## The buddy allocator (R177-R182) -/

/-- Is no byte of a range allocated. -/
def rangeFree (l : List Alloc) (off n : Nat) : Bool := l.all fun a => decide (a.off + a.size ≤ off) || decide (off + n ≤ a.off)
/-- Is [off, off + 2^k) a free block of the allocator: free, and not half of a larger free block (R177). -/
def freeBlock (l : List Alloc) (k off : Nat) : Bool :=
  rangeFree l off (2 ^ k) && (k == 17 || !rangeFree l (off / 2 ^ (k + 1) * 2 ^ (k + 1)) (2 ^ (k + 1)))
/-- The lowest free block of order k. -/
def lowestFree (l : List Alloc) (k : Nat) : Option Nat := ((List.range (2 ^ (17 - k))).map (· * 2 ^ k)).find? (freeBlock l k)
/-- The offset that a request of order k takes: the lowest free block of the smallest order from k up (R177). -/
def buddyFind (l : List Alloc) (k : Nat) : Option Nat := ((List.range 18).filter fun j => decide (k ≤ j)).findSome? (lowestFree l)
/-- The largest free block, 0 when there is none. -/
def buddyLargest (l : List Alloc) : Nat := ((List.range 18).filter fun j => 8 ≤ j && (lowestFree l j).isSome).foldl (fun m j => max m (2 ^ j)) 0
/-- Quota in use by a block (R178). -/
def quotaUsed (l : List Alloc) (h : Nat) : Nat := l.foldl (fun n a => if a.handle = h then n + a.size else n) 0
/-- The order a request of n bytes is rounded to (R179). -/
def allocOrder (n : Nat) : Nat := max 8 (ceilLog2 n)
/-- An allocation for a block on a tile: its offset, or none for want of quota or space (R177-R179). -/
def allocate (s : State) (t h quota n : Nat) (shared : Bool) (swz : Nat) : Option (Nat × State) :=
  let l := (s.tile t).allocs
  let k := allocOrder n
  if quota < quotaUsed l h + 2 ^ k then none
  else match buddyFind l k with
    | none => none
    | some off =>
      let s := zeroLines s (spadBase t + off) (2 ^ k)
      some (off, s.setTile t { s.tile t with allocs := { off := off, size := 2 ^ k, handle := h, shared := shared, swz := swz } :: l })
/-- The newest allocation of a tile as made in the interval of a task (R179). -/
def noteMade (s : State) (t : Nat) (task : Option Nat) : State :=
  let x := s.tile t
  s.setTile t { x with allocs := match x.allocs with | [] => [] | a :: r => { a with made := task } :: r }
/-- The status of Table 6.6 for a failing request, or the offset and the state; the allocation belongs to the current interval of the task. -/
def spallocResult (s : State) (t h quota : Nat) (task : Option Nat) (size attr : Word) : Word × State :=
  let st (n : Nat) : Word := w64 (2 ^ 63 + n)
  if size = 0 ∨ 131072 < size.toNat then (st 3, s)
  else if 16 ≤ attr.toNat then (st 4, s)
  else if quota < quotaUsed (s.tile t).allocs h + 2 ^ allocOrder size.toNat then (st 2, s)
  else match allocate s t h quota size.toNat (bitOf attr 3) (fld attr 2 0) with
    | none => (st 1, s)
    | some (off, s') => (w64 off, noteMade s' t task)
/-- The task of a thread with a function applied. -/
def mapTask (s : State) (t c : Nat) (f : Task → Task) : State :=
  match (s.ctx t c).task with
  | some k => (match s.task? k with | some x => s.setTask k (f x) | none => s)
  | none => s
/-- spalloc gA, gB, gC (R179). -/
def spallocBody (a b c : Reg) (s : State) : State :=
  match s.cur with
  | .thread t x =>
    let h := (s.ctx t x).handle
    let quota := match s.block? h with | some bl => bl.quota | none => 0
    let r := spallocResult s t h quota (s.ctx t x).task (s.getG b) (s.getG c)
    alu a r.1 r.2
  | _ => s
/-- spalloc (R179). -/
def execSpalloc (a b c : Reg) (s : State) : Host.Outcome State Fault Refusal := runInstr localThread s fun s => .ok (spallocBody a b c s)
/-- spfree gB (R180): the allocation is gone for the block at once, its space when the interval ends. -/
def spfreeBody (b : Reg) (s : State) : Except Stop State :=
  match s.cur with
  | .thread t x =>
    let c := s.ctx t x
    let p := s.getG b
    let tl := s.tile t
    match tl.allocs.find? fun a => a.handle == c.handle && !a.dying && a.off == p.toNat with
    | none => .error (.trap (memTrap 0x11 p))
    | some al =>
      match tl.locks.find? fun l => (l.spad || l.handle == some c.handle) && decide (l.base < al.off + al.size) && decide (al.off < l.base + 16 * l.lines) with
      | some l => .error (.trap (memTrap 0x15 p l.base))
      | none =>
        if c.task.isNone then .ok (s.setTile t { tl with allocs := tl.allocs.erase al }).retire
        else .ok (s.setTile t { tl with allocs := tl.allocs.map fun a => if a = al then { a with dying := true, freer := c.task } else a }).retire
  | _ => .ok s
/-- spfree (R180). -/
def execSpfree (b : Reg) (s : State) : Host.Outcome State Fault Refusal := runInstr localThread s (spfreeBody b)
/-- spq gA (R181). -/
def spqValue (s : State) (t h : Nat) : Nat :=
  let l := (s.tile t).allocs
  let left := (match s.block? h with | some b => b.quota | none => 0) - quotaUsed l h
  let n := min (buddyLargest l) (if left = 0 then 0 else 2 ^ Nat.log2 left)
  if n < 256 then 0 else n
/-- The tile and context of the current thread. -/
def curThread (s : State) : Nat × Nat :=
  match s.cur with
  | .thread t c => (t, c)
  | a => (agentTile a, 0)
/-- The block handle of the current thread. -/
def curHandle (s : State) : Nat := (s.ctx (curThread s).1 (curThread s).2).handle
/-- spq (R181). -/
def execSpq (a : Reg) (s : State) : Host.Outcome State Fault Refusal :=
  runInstr localThread s fun s => .ok (alu a (w64 (spqValue s (curThread s).1 (curHandle s))) s)

/-! ## The tag table (R183, R184) -/

/-- The slot of a block that holds a key. -/
def tagFind (m : Map Nat TagSlot) (h key : Nat) : Option Nat :=
  (List.range 256).find? fun k => mget? m k == some { key := key, handle := h }
/-- tlk gA, gB (Table 6.8). -/
def execTlk (a b : Reg) (s : State) : Host.Outcome State Fault Refusal :=
  runInstr localThread s fun s =>
    .ok (alu a (w64 ((tagFind (s.tile (curThread s).1).tags (curHandle s) (addrOf (s.getG b))).getD 0xFFFF)) s)
/-- Slot k set to a key of block h, every other slot of the block with the key cleared; no effect on a slot of another block (Table 6.8). -/
def tagSet (m : Map Nat TagSlot) (h key k : Nat) : Map Nat TagSlot :=
  match mget? m k with
  | some x => if x.handle = h then mset (m.filter fun p => !(p.2.handle == h && p.2.key == key)) k { key := key, handle := h } else m
  | none => mset (m.filter fun p => !(p.2.handle == h && p.2.key == key)) k { key := key, handle := h }
/-- A tile's tag table replaced. -/
def setTags (s : State) (f : Map Nat TagSlot → Map Nat TagSlot) : State :=
  let t := (curThread s).1
  s.setTile t { s.tile t with tags := f (s.tile t).tags }
/-- tset gB, gC (Table 6.8). -/
def execTset (b c : Reg) (s : State) : Host.Outcome State Fault Refusal :=
  runInstr localThread s fun s =>
    .ok (setTags s fun m => tagSet m (curHandle s) (addrOf (s.getG b)) ((s.getG c).toNat % 256)).retire
/-- tclr gB (Table 6.8). -/
def execTclr (b : Reg) (s : State) : Host.Outcome State Fault Refusal :=
  runInstr localThread s fun s =>
    .ok (setTags s fun m => m.filter fun p => !(p.1 == (s.getG b).toNat % 256 && p.2.handle == curHandle s)).retire

/-! ## Data-cache operations (R192) -/

/-- The data-cache block of a thread's tile at an edge-window address. An island core's is in its island's shared cache, which holds what pf
brought in and never dirty data: its loads and stores are at their homes at once, so dcinv loses nothing and dcwb has nothing to write
(DESIGN CHOICE, log entry 36: R192 refers to a chapter that gives the shared cache nothing but R502's tags). -/
def cacheAt (s : State) (p : Word) : Option (Nat × DBlock) :=
  match s.cur with
  | .thread t c => if inEdgeWindow (addrOf p) then (dblock? s (threadReq s t c) (addrOf p)).map fun b => (t, b) else none
  | _ => none
/-- The block of an island's shared cache that an edge-window address of a core names: its world and physical block. -/
def sharedAt (s : State) (p : Word) : Option (Nat × Bool × Nat) :=
  match s.cur with
  | .core i k =>
    if inEdgeWindow (addrOf p) then
      (match agentTranslate s s.cur .read (addrOf p) with
       | .ok (pa, _, _) => some (i, worldOf s (coreTenant (s.core i k)), pa / 64)
       | .error _ => none)
    else none
  | _ => none
/-- An island's shared cache replaced. -/
def setShared (s : State) (i : Nat) (l : List (Bool × Nat)) : State := s.setIsland i { s.island i with scache := l }
/-- A block taken out of an island's shared cache. -/
def dropShared (s : State) (p : Word) : State :=
  match sharedAt s p with
  | some (i, b) => setShared s i ((s.island i).scache.filter fun e => e != b)
  | none => s
/-- dcinv gB: the block leaves, dirty data lost (R192); on an island core it leaves the shared cache. -/
def execDcinv (b : Reg) (s : State) : Host.Outcome State Fault Refusal :=
  runInstr localBoth s fun s =>
    .ok (match cacheAt s (s.getG b) with
      | some (t, d) => setDcache s t ((s.tile t).dcache.erase d)
      | none => dropShared s (s.getG b)).retire
/-- dcwb gB: a dirty block is written back and stays clean (R192). -/
def execDcwb (b : Reg) (s : State) : Host.Outcome State Fault Refusal :=
  runInstr localBoth s fun s =>
    .ok (match cacheAt s (s.getG b) with
      | some (t, d) =>
        setDcache (writeBackFrom t s d) t ((s.tile t).dcache.map fun x => if x = d then { d with dirty := false, wrote := [] } else x)
      | none => s).retire
/-- pf (R192, R349): a fill when the translation is present and grants read, whose request goes to the edge router; on an island core into the shared
cache. -/
def prefetch (s : State) (p : Word) : State :=
  match s.cur with
  | .thread t c =>
    let q := threadReq s t c
    if !inEdgeWindow (addrOf p) || (dblock? s q (addrOf p)).isSome then s
    else match agentTranslate s s.cur .read (addrOf p) with
      | .ok (pa, tp, _) =>
        if pa < edgeEnd then
          launchPacket s { id := 0, kind := .request, vc := 0, at_ := t, dst := edgeRouterOf pa, srcTile := t, src := senderOf s s.cur, region := q.region s
                           loc := .phys (pa / 64 * 64), len := 64, fill := some (addrOf p / 64 * 64, q.tenant, tp) }
        else s
      | .error _ => s
  | _ =>
    match sharedAt s p with
    | some (i, w, b) =>
      if (s.island i).scache.contains (w, b) then s
      else
        let t := siteTile (.island i)
        launchPacket s { id := 0, kind := .request, vc := 0, at_ := t, dst := edgeRouterOf (64 * b), srcTile := t, src := senderOf s s.cur
                         region := (curReq s).region s, core := true, loc := .phys (64 * b), len := 64, shared := some w }
    | none => s
/-- pf gB (R192). -/
def execPf (b : Reg) (s : State) : Host.Outcome State Fault Refusal := runInstr localBoth s fun s => .ok (prefetch s (s.getG b)).retire

/-! ## Layout records (R220-R224) -/

/-- A record with the RW-T fields of a write that is still to commit; VERSION counts committed writes alone (Table 6.16). -/
def recPending (old img : List Byte) : List Byte :=
  let o := fromBytes old
  toBytes 64 ((fromBytes img) &&& recMask ||| (fieldN o 287 256 * 2 ^ 256 + fieldN o 288 288 * 2 ^ 288))
/-- A record as a task sees it (R222): its own pending writes over the committed record. -/
def recordSeen (s : State) (k : Option Task) (n r : Nat) : List Byte :=
  let own : List RecWrite := match k with | some k => k.recs.filter fun w => w.cluster == n && w.record == r | none => []
  own.reverse.foldl (fun b w => recPending b w.image) (layoutRecord s n r)
/-- A record read by a task for a thread or one of its engines (R222, R223): its read-set entry, or the hold. -/
def recordRead (s : State) (task : Option Nat) (n r : Nat) : Except Hold (List Byte × State) :=
  match task, task.bind s.task? with
  | some kid, some k =>
    let l := Loc.record n r
    if !k.serial && !(k.reads.any fun e => e.line == l) && readFull s k l then .error .serialise
    else .ok (recordSeen s (some k) n r, addRead s kid k l (versionAt s l) false false (0, 0, []))
  | _, _ => .ok (layoutRecord s n r, s)
/-- The cluster and record that a core names (R224, R490), or the refusal of R474. -/
def coreRecord (s : State) (i k : Nat) (v : Word) : Except Stop (Nat × Nat) :=
  let n := fromViewCluster s (coreTenant (s.core i k)) (fld v 19 8)
  if n < 3072 ∧ homeIsland n = i then .ok (n, fld v 7 0)
  else .error (.trap { code := 0x17, engine := engIsland, addr := v })
/-- A record write entered in the task store buffer, four entries of it (R200, R221); a full buffer commits or makes the task serialising. -/
def bufferRecord (s : State) (t c n r : Nat) (img : List Byte) : Except Stop State :=
  match (s.ctx t c).task, (s.ctx t c).task.bind s.task? with
  | some kid, some k =>
    let put (s : State) : State :=
      match s.task? kid with
      | some k => s.setTask kid { k with recs := { cluster := n, record := r, image := img } :: k.recs }
      | none => s
    if 256 < bufferEntries k + 4 then
      (if k.serial = false then .error .serialise
       else if canCommit s kid k then (match afterInterval (endInterval s kid k) with
         | .error e => .error e
         | .ok s => .ok (put s))
       else .error .wait)
    else .ok (put s)
  | _, _ => .ok (recordCommit s n r img)
/-- lrwr gB, gC (R221, R224). -/
def lrwrBody (b c : Reg) (s : State) : Except Stop State :=
  match s.cur with
  | .core i k =>
    (match coreRecord s i k (s.getG b) with
     | .error e => .error e
     | .ok (n, r) => match coreLoad s (coreReq s i k) (s.getG c) 64 with
       | .error e => .error e
       | .ok (img, s') => .ok (recordCommit s' n r img).retire)
  | .thread t x =>
    (match memLoad s (threadReq s t x) false (s.getG c) 64 with
     | .error e => .error e
     | .ok (img, s') => match bufferRecord s' t x (clusterOf t) (fld (s.getG b) 7 0) img with
       | .error e => .error e
       | .ok s'' => .ok s''.retire)
  | .zephyr _ _ => .ok s
/-- lrwr (R221). -/
def execLrwr (b c : Reg) (s : State) : Host.Outcome State Fault Refusal := runInstr localBoth s (lrwrBody b c)
/-- lrrd gB, gC (R222, R224). -/
def lrrdBody (b c : Reg) (s : State) : Except Stop State :=
  match s.cur with
  | .core i k =>
    (match coreRecord s i k (s.getG b) with
     | .error e => .error e
     | .ok (n, r) => match coreStore s (coreReq s i k) (s.getG c) (layoutRecord s n r) with
       | .error e => .error e
       | .ok s' => .ok s'.retire)
  | .thread t x =>
    let q := threadReq s t x
    (match check s q .write (s.getG c) 64 with
     | .error e => .error (.trap e)
     | .ok _ => match recordRead s q.task (clusterOf t) (fld (s.getG b) 7 0) with
       | .error h => .error (holdStop h)
       | .ok (img, s') => match memStore s' q (s.getG c) img with
         | .error e => .error e
         | .ok s'' => .ok s''.retire)
  | .zephyr _ _ => .ok s
/-- lrrd (R222). -/
def execLrrd (b c : Reg) (s : State) : Host.Outcome State Fault Refusal := runInstr localBoth s (lrrdBody b c)

/-! ## Range-lock query (R219) -/

/-- Entries of a table that cover a line, with their indexes: an entry's index is its place among those that are registered, oldest first, so it
falls when an earlier one is released (DESIGN CHOICE, log entry 40: R219 names no slot). -/
def locksOver (l : List RangeLock) (tenant : Nat) (h : Option Nat) (a : Nat) : List (Nat × RangeLock) :=
  (l.mapIdx fun i x => (i, x)).filter fun p =>
    p.2.handle == h && (h.isSome || p.2.tenant == tenant) && decide (p.2.base ≤ a / 16 * 16) && decide (a / 16 * 16 < p.2.base + 16 * p.2.lines)
/-- The word of Table 6.15; 0 for an address in the hole or that names no live block, which Table 6.14 gives no table (DESIGN CHOICE, log
entry 41). -/
def rlqWord (s : State) (t h a : Nat) : Word :=
  let ten := blockTenant s h
  match lockPlace s t h ten a with
  | none => 0
  | some (tt, g, o) =>
    let l := locksOver (s.tile tt).locks ten g o
    match l with
    | [] => 0
    | (i, x) :: _ =>
      w64 (x.engine % 256 * 2 ^ 8 + i % 16 * 2 ^ 4 + boolNat (l.any fun p => p.2.dst) * 2 + boolNat (l.any fun p => !p.2.dst))
/-- rlq gA, gB (R219). -/
def execRlq (a b : Reg) (s : State) : Host.Outcome State Fault Refusal :=
  runInstr localThread s fun s => .ok (alu a (rlqWord s (curThread s).1 (curHandle s) (addrOf (s.getG b))) s)

end Sys2Proof.Machine
end

