-- ==== Sys2Proof/Machine/Windows.lean ====
section
/-! DEFINITION. The lookahead windows (R59-R61), and what happens when an instruction has
retired or an engine completes one (R63-R65, R149, R494). -/

namespace Sys2Proof.Machine

/-! ## Lookahead (R59-R62) -/

/-- Registers an instruction reads and writes by name, and the control registers it updates besides (R60). -/
structure Uses where
  reads : List RegName := []
  writes : List RegName := []
  updates : List RegName := []
/-- A general register. -/
def gr (r : Reg) : RegName := .g r.val
/-- The vector register or stream of a register field (Table 2.3). -/
def vr (r : Reg) : RegName := if 12 ≤ r.val then .s (r.val - 12) else .v r.val
/-- The registers that n values from a field name: a stream, or n consecutive vector registers (R241, R242). -/
def vrange (r : Reg) (n : Nat) : List RegName := if 12 ≤ r.val then [.s (r.val - 12)] else (List.range n).map fun k => .v (r.val + k)
/-- The registers of an instruction. That mwait reads the accumulator it names, and that mabort writes it, is the model's choice: no rule says
(DESIGN CHOICE, log entry 28). An instruction that sets ANCHORED or SERIAL of STATUS as it retires (a vld, an iev, an mld, a shared stl) does not
count as updating control register 0 (DESIGN CHOICE, log entry 98). iseg updates FPSTAT in its bf16 form alone (R260), mst in its fp16 and bf16 forms (R324), mbin in none (R299). -/
def usesOf : Instr → Uses
  | .ret =>
    { reads := [.g 14] }
  | .jr b | .spfree b | .tclr b | .dcinv b | .dcwb b | .pf b | .mig b | .dqpush b | .dqmask b | .ftrack b | .funtrack b | .fclose b
  | .icinv b | .rgset b | .revoke b | .dhalt b | .dstep b | .dresume b | .wsw b =>
    { reads := [gr b] }
  | .callr b =>
    { reads := [gr b], writes := [.g 14] }
  | .addHead a b | .subHead a b | .bins a b _ _ =>
    { reads := [gr a, gr b], writes := [gr a] }
  | .addX a b c | .subX a b c | .andX a b c | .orX a b c | .xorX a b c | .andnX a b c | .shlX a b c | .shrX a b c | .sraX a b c
  | .mulX a b c | .mulhX a b c | .mulhuX a b c | .div a b c _ | .divu a b c _ | .rem a b c _ | .remu a b c _ | .minX a b c | .maxX a b c
  | .minuX a b c | .maxuX a b c | .seqX a b c | .sneX a b c | .sltX a b c | .sltuX a b c | .sleX a b c | .sleuX a b c | .paddX a b c
  | .psubX a b c | .ptagX a b c | .ldx _ a b c _ | .ldxS _ a b c _ | .amoAdd _ a b c _ _ | .amoAnd _ a b c _ _ | .amoOr _ a b c _ _
  | .amoXor _ a b c _ _ | .amoMin _ a b c _ _ | .amoMax _ a b c _ _ | .amoSwap _ a b c _ _ | .spalloc a b c | .clrpost a b c
  | .sealMem a b c | .unsealMem a b c | .evsign a b c =>
    { reads := [gr b, gr c], writes := [gr a] }
  | .addI32 a b _ | .addI64 a b _ | .subI32 a b _ | .subI64 a b _ | .andXI a b _ | .orXI a b _ | .xorXI a b _ | .andnXI a b _
  | .shlXI a b _ | .shrXI a b _ | .sraXI a b _ | .mulXI a b _ | .mulhXI a b _ | .mulhuXI a b _ | .minXI a b _ | .maxXI a b _
  | .minuXI a b _ | .maxuXI a b _ | .ldBK a b _ _ | .ldBKL a b _ _ | .ldHK a b _ _ | .ldHKL a b _ _ | .ldWK a b _ _ | .ldWKL a b _ _
  | .ldDK a b _ _ | .ldDKL a b _ _ | .seqXI a b _ | .sneXI a b _ | .sltXI a b _ | .sltuXI a b _ | .mov a b | .neg a b | .not a b | .clz a b
  | .ctz a b | .popc a b | .bswap a b | .tagof a b | .extBZ a b | .extHZ a b | .extWZ a b | .extBS a b | .extHS a b | .extWS a b
  | .sleXI a b _ | .sleuXI a b _ | .bext a b _ _ | .paddXI a b _ | .psubXI a b _ | .ptagXI a b _ | .lda _ a b _ _ | .tlk a b | .rlq a b
  | .zpost a b _ | .mprobe a b | .glaunch a b | .cwait a b _ | .cancel a b _ | .cread a b _ | .lstat a b | .fstat a b | .falpha a b
  | .clrrep a b | .resq a b =>
    { reads := [gr b], writes := [gr a] }
  | .stBK a b _ _ | .stBKL a b _ _ | .stHK a b _ _ | .stHKL a b _ _ | .stWK a b _ _ | .stWKL a b _ _ | .stDK a b _ _ | .stDKL a b _ _
  | .beqJ a b _ _ | .beqJL a b _ _ | .bneJ a b _ _ | .bneJL a b _ _ | .bltJ a b _ _ | .bltJL a b _ _ | .bgeJ a b _ _ | .bgeJL a b _ _
  | .bltuJ a b _ _ | .bltuJL a b _ _ | .bgeuJ a b _ _ | .bgeuJL a b _ _ | .stl _ a b _ _ =>
    { reads := [gr a, gr b] }
  | .liI16 a _ | .liI32 a _ | .liI64 a _ | .spq a | .bseal a | .zstat a | .mstat a _ | .mlat a | .mbufq a | .mpoll a | .dqlen a | .bgrd a
  | .tsrd a | .mfsr a _ =>
    { writes := [gr a] }
  | .rdc a n =>
    { reads := [.cr n.toNat], writes := [gr a] }
  | .wrc a n =>
    { reads := [gr a], writes := [.cr n.toNat] }
  | .callJ _ _ | .callJL _ _ =>
    { writes := [.g 14] }
  | .bnzJ a _ _ | .bnzJL a _ _ | .bzJ a _ _ | .bzJL a _ _ | .loopGJ a _ _ | .loopGJL a _ _ | .mtsr a _ =>
    { reads := [gr a] }
  | .sel a b c e | .msend a b c e | .msendr a b c e | .mcast a b c e | .fopen a b c e =>
    { reads := [gr b, gr c, gr e], writes := [gr a] }
  | .stx _ a b c _ =>
    { reads := [gr a, gr b, gr c] }
  | .ldp a e b c _ =>
    { reads := [gr b, gr c], writes := [gr a, gr e] }
  | .stp a e b c _ =>
    { reads := [gr a, gr e, gr b, gr c] }
  | .vadd _ a b c _ | .vsub _ a b c _ | .vmul _ a b c _ | .vmin _ a b c _ | .vmax _ a b c _ | .vcmp _ a b c _ _ | .vand _ a b c
  | .vor _ a b c | .vxor _ a b c | .vshl _ a b c | .vshr _ a b c | .vperm _ a b c _ =>
    { reads := [vr b, vr c], writes := [vr a] }
  | .vfma _ a b c e _ | .vsel _ a b c e _ =>
    { reads := [vr b, vr c, vr e], writes := [vr a] }
  | .vrnd _ a b _ | .vredadd _ a b _ | .vredmax _ a b _ | .vredmin _ a b _ | .vcvt _ _ a b _ | .vmov _ a b _ =>
    { reads := [vr b], writes := [vr a] }
  | .vdiv _ a b c _ _ =>
    { reads := [vr b, vr c], writes := [vr a], updates := [.cr 4] }
  | .vsqrt _ a b _ _ =>
    { reads := [vr b], writes := [vr a], updates := [.cr 4] }
  | .vclr a | .sunbind a =>
    { writes := [vr a] }
  | .vbcast _ a b | .vldK a b _ _ | .vldKL a b _ _ | .sbind _ a b =>
    { reads := [gr b], writes := [vr a] }
  | .vins _ a b _ | .sadv a b =>
    { reads := [vr a, gr b], writes := [vr a] }
  | .vext _ a b _ | .sstat a b =>
    { reads := [vr b], writes := [gr a] }
  | .vstK a b _ _ | .vstKL a b _ _ =>
    { reads := [vr a, gr b] }
  | .amoCas _ a b c _ _ =>
    { reads := [gr a, gr b, gr c], writes := [gr a] }
  | .tset b c | .lrwr b c | .lrrd b c | .bwait b c | .mgset b c | .cadd b c _ | .tlbinv b c | .splinter b c | .grant b c | .vfbind b c =>
    { reads := [gr b, gr c] }
  | .itld n b _ =>
    { reads := [gr b], writes := [.name n.val] }
  | .iev _ a b n _ _ =>
    { reads := [vr b, .name n.val], writes := [vr a], updates := [.cr 4] }
  | .iseg fmt a b n _ =>
    { reads := [vr b, .name n.val], writes := [vr a], updates := if fmt.val = 2 then [.cr 4] else [] }
  | .itinv n _ =>
    { writes := [.name n.val] }
  | .itq a n _ =>
    { reads := [.name n.val], writes := [gr a] }
  | .mzero a _ =>
    { writes := [.a a.val] }
  | .mabort a _ =>
    { writes := [.a a.val], updates := [.cr 6] }
  | .mld a b _ =>
    { reads := [gr b], writes := [.a a.val] }
  | .mst mx a b _ _ _ =>
    { reads := [.a a.val, gr b], updates := if mx.val = 0 then [] else [.cr 4] }
  | .mmac a b c e _ | .mmacm a b c e _ =>
    { reads := [.a a.val, gr b, gr c, gr e], writes := [.a a.val], updates := [.cr 4, .cr 5, .cr 6] }
  | .mbin _ a b c e _ =>
    { reads := [.a a.val, gr b, gr c, gr e], writes := [.a a.val], updates := [.cr 6] }
  | .mmacs a b c e _ =>
    { reads := [.a a.val, vr b, vr c, gr e], writes := [.a a.val], updates := [.cr 4, .cr 5, .cr 6] }
  | .mres a _ =>
    { writes := [.a a.val], updates := [.cr 6] }
  | .mwait a _ =>
    { reads := [.a a.val] }
  | .mrdp a _ =>
    { reads := [.cr 6], writes := [gr a] }
  | .mwrp b _ =>
    { reads := [gr b], writes := [.cr 6] }
  | .dqpop a | .dqsteal a =>
    { writes := [.g 0, .g 1, .g 2, gr a] }
  | .vqnt fmt a b c opts =>
    { reads := vrange b (WellFormed.valueRegs true (WellFormed.groupLen opts))
      writes := gr c :: vrange a (WellFormed.codeRegs (fmt.val == 8) (WellFormed.groupLen opts)) }
  | .vdqnt fmt a b c opts _ =>
    { reads := gr c :: vrange b (WellFormed.codeRegs (opts.val % 2 == 0) (WellFormed.groupLen opts))
      writes := vrange a (WellFormed.valueRegs (fmt.val == 0) (WellFormed.groupLen opts)) }
  | _ => {}
/-- LA of a long-latency instruction (R59). -/
def laOf : Instr → Nat
  | .div _ _ _ la | .divu _ _ _ la | .rem _ _ _ la | .remu _ _ _ la | .ldBK _ _ la _ | .ldBKL _ _ la _ | .ldHK _ _ la _ | .ldHKL _ _ la _
  | .ldWK _ _ la _ | .ldWKL _ _ la _ | .ldDK _ _ la _ | .ldDKL _ _ la _ | .stBK _ _ la _ | .stBKL _ _ la _ | .stHK _ _ la _
  | .stHKL _ _ la _ | .stWK _ _ la _ | .stWKL _ _ la _ | .stDK _ _ la _ | .stDKL _ _ la _ | .ldx _ _ _ _ la | .stx _ _ _ _ la
  | .ldp _ _ _ _ la | .stp _ _ _ _ la | .ldxS _ _ _ _ la | .vdiv _ _ _ _ _ la | .vsqrt _ _ _ _ la | .vldK _ _ la _ | .vldKL _ _ la _
  | .vstK _ _ la _ | .vstKL _ _ la _ | .lda _ _ _ _ la | .stl _ _ _ _ la | .amoAdd _ _ _ _ _ la | .amoAnd _ _ _ _ _ la
  | .amoOr _ _ _ _ _ la | .amoXor _ _ _ _ _ la | .amoMin _ _ _ _ _ la | .amoMax _ _ _ _ _ la | .amoSwap _ _ _ _ _ la | .amoCas _ _ _ _ _ la
  | .itld _ _ la | .iev _ _ _ _ _ la | .iseg _ _ _ _ la | .itinv _ la | .itq _ _ la | .zpost _ _ la | .mcfg _ la | .mzero _ la
  | .mld _ _ la | .mst _ _ _ _ _ la | .mmac _ _ _ _ la | .mmacm _ _ _ _ la | .mmacs _ _ _ _ la | .mbin _ _ _ _ _ la | .mres _ la
  | .mwait _ la | .mrdp _ la | .mwrp _ la | .mabort _ la | .mstat _ la => la.val
  | _ => 0
/-- Does reading a register write it too: a stream advances (R60). -/
def RegName.isStream : RegName → Bool
  | .s _ => true
  | _ => false
/-- A vector, stream or accumulator register. -/
def RegName.isWide : RegName → Bool
  | .v _ => true
  | .s _ => true
  | .a _ => true
  | _ => false
/-- The registers an instruction writes, streams that it reads among them (R60). -/
def Uses.written (u : Uses) : List RegName := u.writes ++ u.reads.filter RegName.isStream
/-- Does an instruction violate an open window (R60). -/
def violates (w : Window) (u : Uses) : Bool :=
  u.reads.any w.writes.contains || u.written.any fun x => w.writes.contains x || w.readsVec.contains x
/-- The LOOKAHEAD trap of an instruction, if it violates a window (R61): TRINFO is the PC of the long-latency instruction; where it violates
several open windows, of the one opened last (DESIGN CHOICE, log entry 29: R61 names none). -/
def lookahead? (r : Regs) (u : Uses) : Option Trap :=
  if stepping r then none
  else (r.windows.find? fun w => violates w u).map fun w => { code := 0x04, engine := engScalar, info := w.pc }
/-- The window that instruction i at pc opens when it retires (R59, R60). -/
def opensOf (r : Regs) (pc : Word) (i : Instr) : Option Window :=
  if laOf i = 0 ∨ stepping r = true then none
  else
    let u := usesOf i
    some { pc := pc, left := laOf i, writes := u.written ++ u.updates, readsVec := u.reads.filter RegName.isWide }
/-- The open windows after an instruction that opens w has retired: one instruction fewer each. -/
def windowsAfter (r : Regs) (w : Option Window) : List Window :=
  w.toList ++ (r.windows.map fun w => { w with left := w.left - 1 }).filter fun w => w.left != 0

/-! ## Retirement -/

/-- The end of a single step (R494): the context is switched out and Halted with STEP cleared. -/
def finishStep (s : State) (t c : Nat) : State :=
  let x := s.ctx t c
  let y := { leaveSlot x with regs := { x.regs with status := setBit x.regs.status 7 false }, state := .halted, dirty := x.dirty ∪ [2] }
  let r := switchOut (s.setCtx t c y) t c
  match r.2 with
  | some f => trapImage (r.1.setCtx t c { r.1.ctx t c with marked := true }) t c f
  | none => slotFreed (dropAccs r.1 t c) t
/-- An instruction of a single step has retired: the step ends, at once or when its outstanding operation completes (R65, R494). -/
def endStep (s : State) (t c : Nat) : State :=
  if engineBusy s t c then s.setCtx t c { s.ctx t c with stepDone := true } else finishStep s t c
/-- An operation of a context has completed: a single step that waited for it ends (R65). -/
def noteCompleted (s : State) (t c : Nat) : State := if (s.ctx t c).stepDone && !engineBusy s t c then finishStep s t c else s
/-- The state after the current agent's instruction, which opens w: if it retired, its windows and the end of a single step. -/
def afterRetire (s : State) (w : Option Window) : State :=
  if s.retired = false then s
  else match s.cur with
    | .thread t c =>
      let x := s.ctx t c
      let s := s.setCtx t c { x with regs := { x.regs with windows := windowsAfter x.regs w } }
      if x.state = .issuing ∧ x.slot.isSome = true ∧ stepping x.regs = true then endStep s t c else s
    | .core i' k =>
      let x := s.core i' k
      s.setCore i' k { x with regs := { x.regs with windows := windowsAfter x.regs w } }
    | .zephyr _ _ => s
/-- A function of the current agent run for another agent. -/
def asAgent (a : Agent) (f : State → State) (s : State) : State :=
  let s' := f { s with cur := a }
  { s' with cur := s.cur }
/-- The thread's outstanding instruction is completed by an engine: f writes its results and retires it (R63). -/
def completeFor (t c : Nat) (f : State → State) (s : State) : State :=
  asAgent (.thread t c) (fun s =>
    let x := s.ctx t c
    let s := f { s.setCtx t c { x with awaiting := none, opens := none } with retired := false }
    afterRetire (s.setCtx t c { s.ctx t c with succ := none }) x.opens) s
/-- The thread's outstanding instruction stops: a trap at it, or what another stop does (R61). -/
def stopFor (t c : Nat) (e : Nat) (st : Stop) (s : State) : State := asAgent (.thread t c) (fun s => onStop s (ownEngine e st)) s

end Sys2Proof.Machine
end

