-- ==== Sys2Proof/Machine/EngineIO.lean ====
section
/-! DEFINITION. Reads and writes that engines make for a thread (R194 steps 1 to 3, Table 6.1), with the pointer of the first faulting byte, and
the instruction boundary at which a thread can be taken (R65, R318). -/

namespace Sys2Proof.Machine

/-- The places of n bytes from p, in the order of R194: the tag, the hole, then the windows line by line; a fault names the pointer of the first
byte that fails its check (R263, R312). -/
def resolveAll (s : State) (q : Req) (acc : AccKind) (p : Word) (n : Nat) : Except Trap (List Place × State) :=
  let start : Except Trap (List Place × State) :=
    if ptrOk p = false then .error (memTrap 0x14 p)
    else match (segments (addrOf p) n).find? fun g => inHole g.1 with
      | some g => .error (memTrap 0x10 (withAddr p g.1))
      | none => .ok ([], s)
  (segments (addrOf p) n).foldl (fun r g =>
    match r with
    | .error t => .error t
    | .ok (xs, s) => match resolve s q acc (withAddr p g.1) g.2 with
      | .error t => .error { t with addr := withAddr p g.1 }
      | .ok (ys, s') => .ok (xs ++ ys, s')) start
/-- n bytes from p read by an engine: every check first, then the bytes; stop says how a hold ends. -/
def engineRead (s : State) (q : Req) (p : Word) (n : Nat) (stop : Hold → Stop := holdStop) : Except Stop (List Byte × State) :=
  match resolveAll s q .read p n with
  | .error t => .error (.trap t)
  | .ok (xs, s') => match readPlaces s' q true xs with
    | .error h => .error (stop h)
    | .ok r => .ok r

end Sys2Proof.Machine
end

