-- ==== Sys2Proof/Machine/Jetstream.lean ====
section
/-! DEFINITION. The Jetstream fabric (R335-R371): routes, detours and relays, message heads and their answers, sends, multicast, migration,
queries. -/

namespace Sys2Proof.Machine

/-- The Jetstream instructions of threads and island cores. -/
def jetBoth : Profile := { engine := engJetstream }
/-- The Jetstream instructions of threads only (R356). -/
def jetThread : Profile := { core := false, engine := engJetstream }

/-! ## Handles (R342, R348, R375) -/

/-- The block with a live handle. -/
def liveBlock? (s : State) (h : Nat) : Option Block := (s.block? h).filter fun b => b.live
/-- The graph, phase and job of a launch (R375): the job's counter id. -/
def jobOf (s : State) (l : Nat) : Nat :=
  match s.launch? l with
  | none => 0
  | some x => (mget s.counters {} (3, (mget s.counters {} (2, x.graph)).parent)).parent
/-- Is a handler in a handler table registered for a launch's job (R75, R357). -/
def handlerKnown (s : State) (l : Nat) (handler : Nat) : Bool := (mget s.counters {} (4, jobOf s l)).handlers.contains handler

/-! ## Packets -/

/-- A packet by its name. -/
def packet? (s : State) (n : Nat) : Option Packet := s.packets.find? fun p => p.id == n
/-- A packet replaced. -/
def setPacket (s : State) (p : Packet) : State := { s with packets := s.packets.map fun q => if q.id = p.id then p else q }
/-- A packet gone. -/
def dropPacket (s : State) (p : Packet) : State := { s with packets := s.packets.filter fun q => q.id != p.id }
/-- A step on a packet, if it still exists. -/
def onPacket (n : Nat) (s : State) (f : Packet → State → State) : State := match packet? s n with | some p => f p s | none => s
/-- An answer to a head on VC1, to the sender by handle (R359). -/
def answerHead (s : State) (p : Packet) (kind : PacketKind) : State :=
  let h := p.src % 2 ^ 24
  launchPacket s
    { id := 0, kind := kind, vc := 1, at_ := p.at_, dst := destOf s (siteAt p.at_) h, dhandle := h, src := p.src, srcTile := p.at_, seq := p.seq
      region := p.region, report := p.hops, member := p.dhandle }
/-- A head refused with a NACK. -/
def nack (s : State) (p : Packet) (kind : PacketKind) : State := answerHead (dropPacket s p) p kind
/-- A head dropped with NOPATH (R341): fabric fault, and on VC2 a NACK. -/
def dropNoPath (s : State) (p : Packet) : State :=
  let s := fabricFault s p.at_ 0x44 0 p
  if p.vc = 2 then nack s p .nackNoPath else dropPacket s p
/-- A head refused at a region's boundary (R350): ROUTEREFUSED to the tenant that set the region, and on VC2 a NACK. -/
def dropRefused (s : State) (p : Packet) : State :=
  let s := fabricFault s p.at_ 0x41 (parentOf p.region) p
  if p.vc = 2 then nack s p .nackRefused else dropPacket s p
/-- Is a head checked on its path (R350): on VC0 and VC2, but for edge traffic (R349), and a core's from outside its sending region. -/
def checkedOnPath (s : State) (p : Packet) : Bool :=
  (p.vc == 2 || (p.vc == 0 && p.dhandle != 0)) && !(p.core && !regionHas s p.region (clusterOf p.srcTile))
/-- Does a hop leave the sending region for a destination outside it without a grant (R350). -/
def hopRefused (s : State) (p : Packet) (next : Nat) : Bool :=
  checkedOnPath s p && regionHas s p.region (clusterOf p.at_) && !regionHas s p.region (clusterOf next) &&
    !regionHas s p.region (clusterOf p.dst) && !regionAllows s p.region (clusterOf p.dst) (p.vc == 2)
/-- The tile that a head addressed by handle is passed on to over the cluster network (R343): the stub's target, else the holding tile. -/
def forwardTo (s : State) (at_ h : Nat) (b : Block) : Nat := (mget? (s.router at_).stubs h).getD b.tile
/-- A stub that forwards starts its count again (R442). -/
def useStub (s : State) (at_ h : Nat) : State :=
  let r := s.router at_
  if (mget? r.stubs h).isSome then s.setRouter at_ { r with used := mset r.used h s.cycle } else s
/-- A head passed on, and the sender's handle cache corrected (R343). -/
def forward (s : State) (p : Packet) (t : Nat) : State :=
  let s := useStub s p.at_ p.dhandle
  let s := (setPacket s { p with at_ := t, dst := t, port := 4, hops := p.hops + 1 }).addDue (.hop p.id)
  if p.kind = .response then s
  else match siteAt p.srcTile with
  | .tile u => launchPacket s { id := 0, kind := .update, vc := 1, at_ := p.at_, dst := u, dhandle := p.dhandle, srcTile := p.at_, report := t }
  | .island _ => s
/-- A packet that has arrived at a tile that holds its block: what becomes due. -/
def arrivalStep (p : Packet) : Instr :=
  match p.kind with
  | .head => if p.poison then .poisonTail p.id else if p.mkind = 1 then .migrationArrival p.id else .messageArrival p.id
  | .ack => .ack p.id
  | .nackBusy => .nackBusy p.id
  | .nackStale => .nackStale p.id
  | .nackBadHandler => .nackBadhandler p.id
  | .nackRefused => .nackRefused p.id
  | .nackNoPath => .nackNopath p.id
  | .update => .handleCacheUpdate p.id
  | .request => if p.dhandle = 0 then .edgeMemoryAccess p.id else .clusterWindowAccess p.id
  | .response => .response p.id
/-- Does a packet wait at its destination: its block is in a Drift move (R434, R442), or it answers a message of an Evicted block, whose entry
Clearance carries (R449). -/
def arrivalHeld (s : State) (p : Packet) : Bool :=
  match liveBlock? s p.dhandle with
  | some b => p.at_ == p.dst && (movingTile s b.tile || (b.evicted && p.kind != .head && p.kind != .request))
  | none => false
/-- A packet at its destination router (R343). -/
def deliver (s : State) (p : Packet) : State :=
  let byHandle := p.kind != .update && p.dhandle != 0 && (coreOfHandle p.dhandle).isNone
  if byHandle = false then s.addDue (arrivalStep p)
  else match liveBlock? s p.dhandle with
    | none => if p.kind = .head then nack s p .nackStale else dropPacket s p
    | some b =>
      if arrivalHeld s p then s.addDue (.hop p.id)
      else if b.tile = p.at_ then s.addDue (arrivalStep p) else forward s p (forwardTo s p.at_ p.dhandle b)
/-- The tables of a packet's router cleaned before it routes (R339). -/
def cleanTables (s : State) (p : Packet) : State := cleanAt p s p.at_
/-- Does a head wait at a router for a table word that no neighbour can give: no head is routed on it (R339). -/
def tablesStuck (s : State) (p : Packet) : Bool := p.at_ != p.dst && !((cleanTables s p).router p.at_).bad.isEmpty
/-- Is one of the 2 relay buffers of a head's VC free at its router (R346). -/
def relayFree (s : State) (p : Packet) : Bool :=
  decide ((s.packets.filter fun q => q.id != p.id && q.vc == p.vc && q.inRelay == some p.at_).length < 2)
/-- Has a head ended its legs at a router with RELAY, all of whose relay buffers are taken (R346). -/
def relayWaits (s : State) (p : Packet) : Bool := p.detour && p.legs.isEmpty && p.relay && !relayFree s p
/-- Flits of a packet (R338): a head and its payload, or the data of a request or response in flits of 64 bytes (log entry 110). -/
def flitCount (p : Packet) : Nat := 1 + (p.payload.length + 63) / 64 + (p.bytes.length + 63) / 64
/-- Is there room in the 4 flits of the lane and input port that a head is about to enter (R336). A packet on its way holds one flit of its buffer for
each of its flits, at most 4; one at its destination has been drained (Table 11.1), and one in a relay buffer has left its lane. -/
def laneRoom (s : State) (p : Packet) (c : Course) : Bool :=
  let inLane (q : Packet) : Bool :=
    q.id != p.id && q.at_ == c.at_ && q.at_ != q.dst && q.port == c.port && q.vc == p.vc && q.detour == c.detour && q.inRelay.isNone
  decide (((s.packets.filter inLane).map fun q => min 4 (flitCount q)).sum < 4)
/-- What the router at which a packet is does with it. -/
def turnOf (s : State) (p : Packet) : Turn := turn s { at_ := p.at_, port := p.port, detour := p.detour, legs := p.legs, relay := p.relay } p.dst
/-- Does a head wait for room in the lane of the next router (R336). -/
def laneWaits (s : State) (p : Packet) : Bool :=
  match turnOf s p with
  | .next c => !hopRefused s p c.at_ && !laneRoom s p c
  | _ => false
/-- Does a head wait at its router: for a clean table word, for a relay buffer, or for room in its next lane (R336, R339, R346). -/
def hopWaits (s : State) (p : Packet) : Bool :=
  tablesStuck s p || relayWaits s p || laneWaits (cleanTables s p) p
/-- HOP (R335): a head at a router arrives, waits, is dropped, or goes on to the next. -/
def hopBody (p : Packet) (s : State) : State :=
  let w := hopWaits s p
  let s := cleanTables s p
  if w then s.addDue (.hop p.id)
  else match turnOf s p with
  | .arrive => deliver s p
  | .relay => s.addDue (.relay p.id)
  | .noPath => dropNoPath s p
  | .next c =>
    if hopRefused s p c.at_ then dropRefused s p
    else (setPacket s { p with at_ := c.at_, port := c.port, detour := c.detour, legs := c.legs, relay := c.relay, inRelay := none, hops := p.hops + 1 }).addDue (.hop p.id)
/-- HOP (R335). -/
def execHop (pkt : Nat) (s : State) : Host.Outcome State Fault Refusal := .next (onPacket pkt s hopBody)
/-- RELAY (R346): a buffer takes in the whole packet, which is injected again on the base lane; a message, migration or multicast copy is
marked relayed with its position. -/
def relayBody (p : Packet) (s : State) : State :=
  if relayFree s p then
    let q : Packet := { p with detour := false, legs := [], relay := false, inRelay := some p.at_, port := 4 }
    (setPacket s (if p.kind = .head then { q with relayed := true, relayPos := p.at_ } else q)).addDue (.hop p.id)
  else s.addDue (.hop p.id)
/-- RELAY (R346). -/
def execRelay (pkt : Nat) (s : State) : Host.Outcome State Fault Refusal := .next (onPacket pkt s relayBody)
/-- HANDLE_CACHE_UPDATE (R343). -/
def execHandleCacheUpdate (pkt : Nat) (s : State) : Host.Outcome State Fault Refusal :=
  .next (onPacket pkt s fun p s => cacheHandle (dropPacket s p) p.at_ p.dhandle p.report)

/-! ## Flits (R338, R360) -/

/-- The kinds of a flit (R338). -/
inductive FlitKind where
  | head | body | tail | poisonTail
deriving DecidableEq, Repr
/-- A flit on a link: its virtual channel, its lane, its kind, its 64 bytes, and the SECDED check bits of all of these. -/
structure Flit where
  vc : Nat
  detour : Bool
  kind : FlitKind
  bytes : List Byte
  check : Nat
deriving DecidableEq, Repr
/-- The payload of a message or migration that the receiving tile deciphers (R360). -/
def openPayload (s : State) (p : Packet) : List Byte := flitCrypt (flitKey p.world s.wafer.dstate p.owner) (p.src % 2 ^ 24) p.seq p.payload
/-- The bytes of a head flit (Table 11.2); TASKINFO holds the launch above the timestamp, or for a migration the remaining budget (R388). -/
def headBytes (p : Packet) : List Byte :=
  let leg := match p.legs.head? with | some (k, _, n) => k + 4 * n | none => 0
  let len := p.payload.length
  let info := p.stamp + 2 ^ 32 * (if p.mkind = 1 then p.remain else p.launch)
  let b := [tileX p.dst, tileY p.dst, tileX p.srcTile, tileY p.srcTile, p.mkind + 128 * boolNat p.relayed, leg, len % 256, len / 256]
  (b.map fun n => BitVec.ofNat 8 n) ++ toBytes 4 p.dhandle ++ toBytes 4 p.src ++ toBytes 8 (addrOf p.handler) ++ toBytes 8 info ++
    toBytes 4 (p.seq + 2 ^ 16 * p.relayPos) ++ toBytes 4 p.region ++ List.replicate 24 0
/-- The number of a flit's kind in its sideband. -/
def FlitKind.code : FlitKind → Nat
  | .head => 0
  | .body => 1
  | .tail => 2
  | .poisonTail => 3
/-- The flits of a message or migration as its links carry them (R338, R360): the head, then ciphertext, the last a tail, padded with zeros to its
64 bytes (log entry 48). -/
def flitsOf (p : Packet) : List Flit :=
  let n := (p.payload.length + 63) / 64
  let last : FlitKind := if p.poison then .poisonTail else .tail
  let flit (kind : FlitKind) (bytes : List Byte) : Flit :=
    let b := bytes ++ List.replicate (64 - bytes.length) 0
    { vc := p.vc, detour := p.detour, kind := kind, bytes := b, check := Config.secded p.vc p.detour kind.code b }
  flit (if n = 0 then last else .head) (headBytes p) ::
    (List.range n).map fun k => flit (if k + 1 = n then last else .body) ((p.payload.drop (64 * k)).take 64)

/-! ## Injection (R351, R355) -/

/-- Does an earlier entry of the same thread to a block of this one await its answer (R351, R359). -/
def heldBack (m : Map Nat SendEntry) (e : SendEntry) : Bool :=
  m.any fun q => q.2.src == e.src && decide (q.2.order < e.order) && (q.2.pend ++ q.2.out).any e.pend.contains
/-- The entry that a site may inject: the oldest Ready one, unless an earlier one to the same block awaits an ACK. -/
def injectable? (s : State) (x : Site) : Option (Nat × SendEntry) :=
  let m := sendsOf s x
  let ready := m.filter fun q => q.2.state == .ready
  match (ready.mergeSort fun a b => decide (a.2.order ≤ b.2.order)).head? with
  | some q => if heldBack m q.2 then none else some q
  | none => none
/-- The head of an entry to one destination (Table 11.2). -/
def headOf (s : State) (x : Site) (e : SendEntry) (h : Nat) : Packet :=
  { id := 0, at_ := siteTile x, dst := destOf s x h, dhandle := h, src := e.src, srcTile := siteTile x, seq := e.seq, region := e.region
    core := e.core, mkind := e.kind, handler := e.handler, payload := e.payload, owner := e.owner, world := e.world, stamp := e.stamp, launch := e.launch
    remain := e.remain, windows := e.windows }
/-- INJECTION (R351): the heads of the oldest Ready entry leave. -/
def injectBody (s : State) (x : Site) : State :=
  match injectable? s x with
  | none => s
  | some (k, e) =>
    let s1 := setSends s x (mset (sendsOf s x) k { e with state := .inFlight, out := e.out ++ e.pend, pend := [], sentAt := s.cycle })
    let s2 := e.pend.foldl (fun s h => launchPacket s (headOf s x e h)) s1
    if (injectable? s2 x).isSome then s2.addDueOnce (.injection (siteTile x)) else s2
/-- INJECTION (R351). -/
def execInjection (tile : Nat) (s : State) : Host.Outcome State Fault Refusal := .next (injectBody s (siteAt tile))
/-- BACKOFF_EXPIRY (Table 11.5). -/
def backoffBody (s : State) (x : Site) (k : Nat) : State :=
  match mget? (sendsOf s x) k with
  | some e => if e.state = .backoff then putSend s x k { e with state := .ready } else s
  | none => s
/-- BACKOFF_EXPIRY (R351). -/
def execBackoffExpiry (site : Site) (entry : Nat) (s : State) : Host.Outcome State Fault Refusal := .next (backoffBody s site entry)

/-! ## Answers (Table 11.5, R359) -/

/-- The entry that an answer concerns. -/
def answeredEntry? (s : State) (p : Packet) : Option (Nat × SendEntry) :=
  (sendsOf s (siteAt p.at_)).find? fun q => q.2.src == p.src && q.2.seq == p.seq && q.2.out.contains p.member
/-- A committed task whose last message is Free leaves its launch (R389). -/
def settleSends (s : State) (k : Option Nat) : State :=
  match k with
  | none => s
  | some k => match s.task? k with
    | some x => if x.phase = .committed ∧ openSends s k = false then leaveLaunch s k x else s
    | none => s
/-- An entry with one destination fewer: Free when none is left, and the site looked at again. -/
def answeredBy (s : State) (x : Site) (k : Nat) (e : SendEntry) (member : Nat) : State :=
  let e' := { e with out := e.out.erase member }
  let m := sendsOf s x
  let s := if e'.pend.isEmpty && e'.out.isEmpty then settleSends (setSends s x (mdel m k)) e.task else setSends s x (mset m k e')
  s.addDueOnce (.injection (siteTile x))
/-- The latency word (Table 11.10). -/
def latencyWord (hops cycles : Nat) : Word := w64 (hops % 256 * 2 ^ 32 + cycles % 2 ^ 32)
/-- What a sender records of an answer: of the current task of a thread, or of a core's current tenancy (R356, R366). -/
def recordAnswer (s : State) (x : Site) (e : SendEntry) (lat : Option Word) : State :=
  match x with
  | .tile t =>
    let c := s.ctx t e.ctx
    if e.kind ≠ 1 ∧ c.task = e.task then
      s.setCtx t e.ctx (match lat with | some w => { c with latency := w } | none => { c with dropped := min 255 (c.dropped + 1) })
    else s
  | .island i =>
    let c := s.core i e.ctx
    if e.counted then
      s.setCore i e.ctx (match lat with | some w => { c with latency := w } | none => { c with dropped := min 255 (c.dropped + 1) })
    else s
/-- A step on the entry that an answer concerns. -/
def onAnswer (pkt : Nat) (s : State) (f : Site → Nat → SendEntry → Packet → State → State) : State :=
  onPacket pkt s fun p s =>
    let s := dropPacket s p
    match answeredEntry? s p with
    | some (k, e) => f (siteAt p.at_) k e p s
    | none => s
/-- ACK (R359). -/
def execAck (pkt : Nat) (s : State) : Host.Outcome State Fault Refusal :=
  .next (onAnswer pkt s fun x k e p s => answeredBy (recordAnswer s x e (some (latencyWord p.report (s.cycle - e.sentAt)))) x k e p.member)
/-- NACK BUSY (Table 11.5): backoff for 64·2^a cycles. -/
def execNackBusy (pkt : Nat) (s : State) : Host.Outcome State Fault Refusal :=
  .next (onAnswer pkt s fun x k e p s =>
    let e' := { e with
      state := .backoff, out := e.out.erase p.member, pend := e.pend ++ [p.member], tries := e.tries + 1
      wakeAt := s.cycle + 64 * 2 ^ min e.tries 4 }
    (setSends s x (mset (sendsOf s x) k e')).addDueOnce (.backoffExpiry x k))
/-- A migration returned to its source (R364): the held context stops Trapped at its instruction. -/
def returnMigration (s : State) (x : Site) (e : SendEntry) (code member : Nat) : State :=
  match x with
  | .tile t =>
    let c := s.ctx t e.ctx
    if c.state = .held then
      takeTrap s t e.ctx
        { code := code, engine := if e.handler = c.regs.pc then engLocal else engJetstream, addr := e.back
          info := w64 (toViewHandle s (blockTenant s c.handle) member) }
    else s
  | .island _ => s
/-- A final NACK (Table 11.5, R364): the entry is Free and DROPPED counts, or the migration returns. -/
def finalNack (pkt code : Nat) (s : State) : State :=
  onAnswer pkt s fun x k e p s =>
    let s := if e.kind = 1 then returnMigration s x e code p.member else recordAnswer s x e none
    answeredBy s x k e p.member
/-- NACK STALE (R359, R364). -/
def execNackStale (pkt : Nat) (s : State) : Host.Outcome State Fault Refusal := .next (finalNack pkt 0x12 s)
/-- NACK BADHANDLER (R357). -/
def execNackBadhandler (pkt : Nat) (s : State) : Host.Outcome State Fault Refusal := .next (finalNack pkt 0x17 s)
/-- NACK REFUSED (R350, R364). -/
def execNackRefused (pkt : Nat) (s : State) : Host.Outcome State Fault Refusal := .next (finalNack pkt 0x17 s)
/-- NACK NOPATH (R341, R364). -/
def execNackNopath (pkt : Nat) (s : State) : Host.Outcome State Fault Refusal := .next (finalNack pkt 0x17 s)

/-! ## Receiving (R357, R364) -/

/-- The sender's handle as the receiver sees it in g2: a block handle in the tenant's view, a core handle as it is (R356, R490). -/
def senderSeen (s : State) (tenant src : Nat) : Nat := let h := src % 2 ^ 24; if (coreOfHandle h).isSome then h else toViewHandle s tenant h
/-- Does a message come from another world than its block's (R350). -/
def otherWorld (s : State) (p : Packet) (b : Block) : Bool :=
  match coreOfHandle (p.src % 2 ^ 24), s.block? (p.src % 2 ^ 24) with
  | none, some a => worldOf s a.tenant != worldOf s b.tenant
  | _, _ => false
/-- A message accepted (R357, R358): its allocation with the payload, the inbox entry, the ACK. -/
def acceptMessage (s : State) (p : Packet) (b : Block) (off : Option Nat) : State :=
  let t := b.tile
  let (n, s) := s.fresh
  let named (a : Alloc) : Alloc := if a.handle = p.dhandle ∧ some a.off = off then { a with msg := n } else a
  let s := s.setTile t { s.tile t with allocs := (s.tile t).allocs.map named }
  let s := match off with | some o => putPhys s (spadBase t + o) (openPayload s p) | none => s
  let e : InboxEntry :=
    { handle := p.dhandle, launch := b.launch, payload := off.map fun _ => n
      stamp := if p.launch = b.launch then some (min (p.stamp + 1) 0xFFFFFFFF) else none
      act := { pc := p.handler, g0 := w64 (off.getD 0), g1 := w64 p.payload.length, g2 := w64 (senderSeen s b.tenant p.src) } }
  let x := s.tile t
  let s := noteRaised (s.setTile t { x with inbox := x.inbox ++ [e] }) b.launch
  (answerHead (dropPacket s p) p .ack).addDueOnce (.activationByMessage t)
/-- MESSAGE_ARRIVAL (R357): the world, the handler, room in the inbox and for the payload. -/
def messageBody (p : Packet) (s : State) : State :=
  match liveBlock? s p.dhandle with
  | none => nack s p .nackStale
  | some b =>
    if b.evicted then nack s p .nackBusy
    else if movingTile s b.tile ∨ b.tile ≠ p.at_ then s.addDue (.hop p.id)
    else if otherWorld s p b then dropRefused s p
    else if handlerKnown s b.launch (addrOf p.handler) = false then
      nack (fabricFault s p.at_ 0x42 (regionTenant s (clusterOf b.tile)) p) p .nackBadHandler
    else if 16 ≤ (s.tile b.tile).inbox.length then nack s p .nackBusy
    else if p.payload = [] then acceptMessage s p b none
    else
      let swz := match s.launch? b.launch with | some l => recFld l.desc 379 377 | none => 0
      match allocate s b.tile p.dhandle b.quota (max 256 p.payload.length) false swz with
      | none => nack s p .nackBusy
      | some (off, s) => acceptMessage s p b (some off)
/-- MESSAGE_ARRIVAL (R357). -/
def execMessageArrival (pkt : Nat) (s : State) : Host.Outcome State Fault Refusal := .next (onPacket pkt s messageBody)
/-- A Free context of a tile, the lowest. -/
def freeContext? (s : State) (t : Nat) : Option Nat := (List.range 64).find? fun c => (s.ctx t c).state == .free
/-- Task store buffers in use on a tile (R200); those of an Evicted block have been sealed out with it (R449, Table 14.3). -/
def buffersUsed (s : State) (t : Nat) : Nat :=
  (s.tasks.filter fun p => p.2.tile == t && (p.2.phase == .running || p.2.phase == .ended) && !(s.block? p.2.handle).any Block.evicted).length
/-- Is a task store buffer free (R200). -/
def bufferFree (s : State) (t : Nat) : Bool := decide (buffersUsed s t < 16)
/-- The doubles of a migration's payload. -/
def migrationDoubles (s : State) (p : Packet) : List Word := let b := openPayload s p; (List.range 20).map (dword b)
/-- The registers of a migrated thread (R363, R364). -/
def migratedRegs (l : List Word) : Regs :=
  { g := Vector.ofFn fun i => l.getD i.val 0, pc := l.getD 16 0, status := l.getD 17 0, fpstat := l.getD 18 0, qflags := l.getD 19 0 }
/-- A migration accepted (R364), with no copy left at the tile that is older than what the thread published before it left (R368, R369): the guest context, the task's new home; the source context becomes Dormant, or Free when it held a guest. -/
def acceptMigration (s : State) (p : Packet) (t c k : Nat) (x : Task) : State :=
  let src := s.ctx x.tile x.ctx
  let g : Ctx :=
    { regs := { migratedRegs (migrationDoubles s p) with windows := p.windows }, img := src.img, vimg := src.vimg, mimg := src.mimg, handle := p.dhandle, tid := c, task := some k, guest := true
      remain := p.remain, seq := src.seq, dropped := src.dropped, latency := src.latency }
  let s := s.setCtx x.tile x.ctx { src with state := if src.guest then .free else .dormant, task := none }
  let s := (s.addDueOnce (.activationByHandOff x.tile)).addDueOnce (.activationByMessage x.tile)
  let s := enqueueFresh (dropStale (s.setTask k { x with
    handle := p.dhandle, tile := t, ctx := c, home := some (x.home.getD x.handle), zopen := 0, zcount := 0, zfailed := [] }) t) t c g
  answerHead (dropPacket s p) p .ack
/-- MIGRATION_ARRIVAL (R364). -/
def migrationBody (p : Packet) (s : State) : State :=
  match liveBlock? s p.dhandle with
  | none => nack s p .nackStale
  | some b =>
    if b.evicted ∨ clearing s b.tile = true then nack s p .nackBusy
    else if movingTile s b.tile ∨ b.tile ≠ p.at_ then s.addDue (.hop p.id)
    else
      let held := s.tasks.find? fun q => q.2.phase == .running && (let c := s.ctx q.2.tile q.2.ctx
        c.state == .held && senderOf s (.thread q.2.tile q.2.ctx) == p.src && c.task == some q.1)
      match held, freeContext? s b.tile with
      | some (k, x), some c => if bufferFree s b.tile then acceptMigration s p b.tile c k x else nack s p .nackBusy
      | none, _ => dropPacket s p
      | _, none => nack s p .nackBusy
/-- MIGRATION_ARRIVAL (R364). -/
def execMigrationArrival (pkt : Nat) (s : State) : Host.Outcome State Fault Refusal := .next (onPacket pkt s migrationBody)
/-- POISON_TAIL (R361): nothing of the message stays; MSGTRUNC to the tenant of the destination block's region. -/
def execPoisonTail (pkt : Nat) (s : State) : Host.Outcome State Fault Refusal :=
  .next (onPacket pkt s fun p s => fabricFault (dropPacket s p) p.at_ 0x40 (regionTenant s (clusterOf p.at_)) p)
/-- POWER_GATED (R361): a head whose tile stops while its router is injecting it ends in a poison tail, and its entry is gone. -/
def powerGatedBody (s : State) (t : Nat) : State :=
  let cut (p : Packet) : Bool := p.kind == .head && p.srcTile == t && p.at_ == t && p.hops == 0
  let gone := (s.packets.filter cut).map fun p => (p.src, p.seq)
  let x := s.tile t
  { s.setTile t { x with gated := true, sends := x.sends.filter fun e => !gone.contains (e.2.src, e.2.seq) } with
    packets := s.packets.map fun p => if cut p then { p with poison := true } else p }
/-- POWER_GATED (R361). -/
def execPowerGated (tile : Nat) (s : State) : Host.Outcome State Fault Refusal := .next (powerGatedBody s tile)

/-! ## Memory requests on the fabric (R33, R349) -/

/-- The response to a request, on VC1 to the requesting tile. -/
def respond (s : State) (p : Packet) (bytes : List Byte) : State :=
  launchPacket (dropPacket s p)
    { id := 0, kind := .response, vc := 1, at_ := p.at_, dst := p.srcTile, dhandle := p.src % 2 ^ 24, srcTile := p.at_, bytes := bytes, write := p.write, waiter := p.waiter
      loc := p.loc, fill := p.fill, shared := p.shared }
/-- CLUSTER_WINDOW_ACCESS (R33): served by the tile that holds the block; no live block serves nothing. -/
def clusterAccessBody (p : Packet) (s : State) : State :=
  match liveBlock? s p.dhandle with
  | none => respond s p []
  | some _ => if p.write then respond (putPhys s (physOf s p.loc) p.bytes) p [] else respond s p (readPhys s (physOf s p.loc) p.len)
/-- CLUSTER_WINDOW_ACCESS (R33). -/
def execClusterWindowAccess (pkt : Nat) (s : State) : Host.Outcome State Fault Refusal := .next (onPacket pkt s clusterAccessBody)
/-- A block entered first in an island's shared cache of 2 MiB. -/
def enterShared (s : State) (i : Nat) (b : Bool × Nat) : State := setShared s i ((b :: (s.island i).scache.filter fun e => e != b).take 32768)
/-- The block that a pf asked for, filled when its response arrives (R192), unless an access has filled it since. -/
def fillFrom (s : State) (p : Packet) : State :=
  match p.fill, p.loc with
  | none, .phys pa => (match p.shared with | some w => enterShared s (homeIsland (clusterOf p.at_)) (w, pa / 64) | none => s)
  | some (va, tenant, tp), .phys pa =>
    let q : Req := { agent := .zephyr p.at_ 0, tile := p.at_, tenant := tenant }
    if (dblock? s q va).isSome then s else fillBlock s q va pa tp
  | _, _ => s
/-- RESPONSE (R349): the access that waited on it is complete. -/
def responseBody (p : Packet) (s : State) : State :=
  let s := fillFrom (dropPacket s p) p
  match p.waiter with
  | some (t, c) => s.setCtx t c { s.ctx t c with awaiting := none, succ := none }
  | none => s
/-- RESPONSE (R349). -/
def execResponse (pkt : Nat) (s : State) : Host.Outcome State Fault Refusal := .next (onPacket pkt s responseBody)

/-! ## Sends (R353-R356) -/

/-- A send status (Table 11.7). -/
def sendStatus (n : Nat) : Word := w64 (2 ^ 63 + n)
/-- What step 3 of R353 finds: a status, a trap, or the destination handles in the wafer view. -/
inductive SendTo where
  | status (w : Word)
  | stop (t : Trap)
  | dests (l : List Nat)
/-- STALEHANDLE of a send: TRADDR 0, TRINFO the register operand. -/
def staleOperand (g : Word) : Trap := { code := 0x12, engine := engJetstream, info := g }
/-- REFUSED of a send: TRINFO the destination handle in the sender's view. -/
def refusedTrap (s : State) (q : Req) (addr : Word) (h : Nat) : Trap :=
  { code := 0x17, engine := engJetstream, addr := addr, info := w64 (toViewHandle s q.tenant h) }
/-- Is a wafer handle refused to a requester (R353 step 4). -/
def destRefused (s : State) (q : Req) (h : Nat) : Bool := match liveBlock? s h with | some b => sendRefused s q b | none => false
/-- The destination of msend. -/
def sendHandle (s : State) (q : Req) (g : Word) : SendTo :=
  let h := fromViewHandle s q.tenant (fld g 23 0)
  if fld g 63 24 ≠ 0 ∨ (liveBlock? s h).isNone = true then .stop (staleOperand g) else .dests [h]
/-- The launch whose placements a route word names: a thread's own, a core's MSGLAUNCH (R348). -/
def routeLaunch (s : State) : Agent → Nat
  | .core i k => fld (s.core i k).msglaunch 31 0
  | a => match s.block? (match a with | .thread t c => (s.ctx t c).handle | _ => 0) with | some b => b.launch | none => 0
/-- The destination of msendr (R348, R354): the live block of the launch placed at the tile index of the cluster. -/
def sendRoute (s : State) (q : Req) (g : Word) : SendTo :=
  if fld g 15 0 ≠ 0 then .status (sendStatus 8)
  else
    let n := fromViewCluster s q.tenant (fld g 31 20)
    match s.blocks.find? fun p => p.2.live && p.2.launch == routeLaunch s q.agent && p.1 / 4096 == n && p.2.index == fld g 19 16 with
    | some p => .dests [p.1]
    | none => .stop (staleOperand (w64 (fld g 31 0)))
/-- The multicast groups of the current agent. -/
def groupOf (s : State) (k : Nat) : Option (List Nat) :=
  match s.cur with
  | .core i c => mget? (s.core i c).groups k
  | _ => (s.block? (curHandle s)).bind fun b => mget? b.groups k
/-- The destinations of mcast (R355). -/
def sendGroup (s : State) (g : Word) : SendTo :=
  match (if fld g 63 3 = 0 then groupOf s (fld g 2 0) else none) with
  | none => .status (sendStatus 7)
  | some l => if l.all fun h => (liveBlock? s h).isSome then .dests l else .stop (staleOperand g)
/-- A head address that a send may name (R353 step 2). -/
def headAddress (a : Nat) : Bool := inEdgeWindow a && a % 64 != 0 && a % 2 == 0
/-- The next SEQ of the current agent, and the state after taking it. -/
def takeSeq (s : State) : Nat × State :=
  match s.cur with
  | .thread t c => let x := s.ctx t c; (x.seq, s.setCtx t c { x with seq := (x.seq + 1) % 2 ^ 16 })
  | .core i k => let x := s.core i k; (x.seq, s.setCore i k { x with seq := (x.seq + 1) % 2 ^ 16 })
  | _ => (0, s)
/-- The payload read (R353 step 7, R356). -/
def readPayload (s : State) (q : Req) (p : Word) (n : Nat) : Except Stop (List Byte × State) :=
  if n = 0 then .ok ([], s) else if q.core then coreLoad s q p n else memLoad s q false p n
/-- The reservation of the current thread's send dropped. -/
def dropReserve (s : State) : State :=
  match s.cur with
  | .thread t c => s.setCtx t c { s.ctx t c with sendSlot := none, sendTo := [] }
  | _ => s
/-- The context or core number of the current agent. -/
def agentIndex : Agent → Nat
  | .thread _ c => c
  | .core _ k => k
  | .zephyr _ z => z
/-- An entry reserved for the current thread. -/
def reserve (s : State) (k : Nat) (l : List Nat) : State :=
  match s.cur with
  | .thread t c => s.setCtx t c { s.ctx t c with sendSlot := some k, sendTo := l }
  | _ => s
/-- R353 steps 6 to 8 with a reserved entry; what step 6 has committed stays committed when step 7 faults or waits. -/
def sendFinish (kind : Nat) (a c e : Reg) (k : Nat) (l : List Nat) (s : State) : Except Stop State :=
  let q := curReq s
  match settle s q with
  | .error st => .error st
  | .ok s =>
    match readPayload s q (s.getG c) (s.getG a).toNat with
    | .error (.trap t) => .error (.kept s (some t))
    | .error st => .error (st.keptIn (reserve s k l))
    | .ok (bs, s) =>
      let x := siteOf s.cur
      let (seq, s) := takeSeq s
      let (n, s) := s.fresh
      let t := q.task? s
      let en : SendEntry :=
        { order := n, kind := kind, src := senderOf s s.cur, pend := l, handler := w64 (addrOf (s.getG e)), seq := seq
          payload := sealFlits s q (senderOf s s.cur) seq bs, owner := q.tenant, world := worldOf s q.tenant
          stamp := (t.map Task.stamp).getD 0, launch := (t.map Task.launch).getD 0, task := q.task, ctx := agentIndex s.cur
          region := q.region s, core := q.core }
      .ok (alu a (w64 seq) (putSend (dropReserve s) x k en))
/-- The reservation that the current thread's send holds while it waits. -/
def reserved? (s : State) : Option (Nat × List Nat) :=
  match s.cur with
  | .thread t c => let x := s.ctx t c; x.sendSlot.map fun k => (k, x.sendTo)
  | _ => none
/-- A send that has to wait at step 6 keeps its reservation (R351, R353). -/
def keepReserve (s : State) (k : Nat) (l : List Nat) (r : Except Stop State) : Except Stop State :=
  match r with
  | .error .wait => .ok (reserve s k l)
  | .error .serialise => .ok (onStop (reserve s k l) .serialise)
  | r => r
/-- A send (R353): the destinations from its operand by find. -/
def sendBody (kind : Nat) (find : State → Req → SendTo) (a c e : Reg) (s : State) : Except Stop State :=
  let q := curReq s
  match reserved? s with
  | some (k, l) => keepReserve s k l (sendFinish kind a c e k l s)
  | none =>
    if 1024 < (s.getG a).toNat then .ok (alu a (sendStatus 3) s)
    else if headAddress (addrOf (s.getG e)) = false then .ok (alu a (sendStatus 6) s)
    else match find s q with
      | .status w => .ok (alu a w s)
      | .stop t => .error (.trap t)
      | .dests l =>
        match l.find? (destRefused s q) with
        | some h => .error (.trap (refusedTrap s q 0 h))
        | none => match freeSend? s (siteOf s.cur) with
          | none => .ok (alu a (sendStatus 1) s)
          | some k => keepReserve s k l (sendFinish kind a c e k l s)
/-- msend gA, gB, gC, gE (R353). -/
def execMsend (a b c e : Reg) (s : State) : Host.Outcome State Fault Refusal :=
  runInstr jetBoth s (sendBody 0 (fun s q => sendHandle s q (s.getG b)) a c e)
/-- msendr gA, gB, gC, gE (R354). -/
def execMsendr (a b c e : Reg) (s : State) : Host.Outcome State Fault Refusal :=
  runInstr jetBoth s (sendBody 0 (fun s q => sendRoute s q (s.getG b)) a c e)
/-- mcast gA, gB, gC, gE (R355). -/
def execMcast (a b c e : Reg) (s : State) : Host.Outcome State Fault Refusal :=
  runInstr jetBoth s (sendBody 2 (fun s _ => sendGroup s (s.getG b)) a c e)
/-- MESSAGE (R367). -/
def messageTrap (addr : Word) (reason : Nat) : Trap := { code := 0x1C, engine := engJetstream, addr := addr, info := w64 reason }
/-- A member list read as ordinary loads, or a core's immediate loads (R355, R356): the count, then as many doubles. -/
def readMembers (s : State) (q : Req) (p : Word) : Except Stop (Option (List Word) × State) :=
  let load (s : State) (p : Word) (n : Nat) := if q.core then coreLoad s q p n else memLoad s q false p n
  match load s p 8 with
  | .error e => .error e
  | .ok (b, s) =>
    let n := fromBytes b
    if n = 0 ∨ 16 < n then .ok (none, s)
    else match load s (withAddr p (addrOf p + 8)) (8 * n) with
      | .error e => .error e
      | .ok (m, s) => .ok (some ((List.range n).map (dword m)), s)
/-- A group of the current agent set. -/
def setGroup (s : State) (k : Nat) (l : List Nat) : State :=
  match s.cur with
  | .core i c => let x := s.core i c; s.setCore i c { x with groups := mset x.groups k l }
  | _ => match s.block? (curHandle s) with
    | some b => s.setBlock (curHandle s) { b with groups := mset b.groups k l }
    | none => s
/-- mgset (R355). TRADDR of a REFUSED is the pointer of the member's entry (DESIGN CHOICE, log entry 104). -/
def mgsetBody (b c : Reg) (s : State) : Except Stop State :=
  let q := curReq s
  let p := s.getG c
  if fld (s.getG b) 63 3 ≠ 0 then .error (.trap (messageTrap 0 2))
  else match readMembers s q p with
    | .error e => .error e
    | .ok (none, _) => .error (.trap (messageTrap 0 3))
    | .ok (some m, s) =>
      if (m.any fun w => fld w 63 24 != 0) || decide (m.dedup.length < m.length) then .error (.trap (messageTrap 0 3))
      else
        let hs := m.map fun w => fromViewHandle s q.tenant w.toNat
        let entry (i : Nat) : Word := withAddr p (addrOf p + 8 + 8 * i)
        match hs.findIdx? fun h => (liveBlock? s h).isNone with
        | some i => .error (.trap { code := 0x12, engine := engJetstream, addr := entry i })
        | none => match hs.findIdx? (destRefused s q) with
          | some i => .error (.trap (refusedTrap s q (entry i) (hs.getD i 0)))
          | none => .ok (setGroup s (fld (s.getG b) 2 0) hs).retire
/-- mgset gB, gC (R355). -/
def execMgset (b c : Reg) (s : State) : Host.Outcome State Fault Refusal := runInstr jetBoth s (mgsetBody b c)

/-! ## mig (R363) -/

/-- mig: the steps before the waits. TRINFO of a STALEHANDLE is 0, as Table 5.6 has it (DESIGN CHOICE, log entry 105). -/
def migBody (b : Reg) (s : State) : Except Stop State :=
  match s.cur with
  | .thread t c =>
    let x := s.ctx t c
    let g := s.getG b
    let a := addrOf g
    let q := threadReq s t c
    if mayMigrate s t c = false then .error (.trap { code := 0x21, engine := engJetstream })
    else if inLocal a then .ok s.retire
    else if inHole a then .error (.trap { code := 0x10, engine := engJetstream, addr := g })
    else if inCluster a = false then .error (.trap (messageTrap g 1))
    else
      let h := fromViewHandle s q.tenant (a / 2 ^ 17 % 2 ^ 24)
      match liveBlock? s h with
      | none => .error (.trap { code := 0x12, engine := engJetstream, addr := g })
      | some bl =>
        if sendRefused s q bl then .error (.trap (refusedTrap s q g h))
        else if some bl.launch ≠ (s.block? x.handle).map Block.launch then .error (.trap (messageTrap g 1))
        else if bl.tile = t ∧ bl.evicted = false then .ok s.retire
        else startMigration s t c h (w64 (nextPc s s.cur s.getPc.toNat)) g
  | _ => .ok s
/-- mig gB (R363). -/
def execMig (b : Reg) (s : State) : Host.Outcome State Fault Refusal := runInstr jetThread s (migBody b)

/-! ## Queries (R366) -/

/-- Messages of the current agent not yet Free: of a thread's task, of a core's tenancy. -/
def pendingSends (s : State) : Nat :=
  let l := sendsOf s (siteOf s.cur)
  match s.cur with
  | .thread t c => (l.filter fun e => e.2.src == senderOf s s.cur && e.2.task == (s.ctx t c).task).length
  | _ => (l.filter fun e => e.2.src == senderOf s s.cur && e.2.counted).length
/-- mlat gA (Table 11.10). -/
def execMlat (a : Reg) (s : State) : Host.Outcome State Fault Refusal :=
  runInstr jetBoth s fun s => .ok (alu a (match s.cur with
    | .thread t c => (s.ctx t c).latency
    | .core i k => (s.core i k).latency
    | .zephyr _ _ => 0) s)
/-- Hops from a tile to the block with a handle, which its handle cache then holds: the path to the cached position, or on a miss to the position
that the resolution gives (R342, R343), and one traversal where the block is not there. A path without end (R345 forbids it) has no stated
count: a free value. -/
def probe (s : State) (t h : Nat) (b : Block) : Word × State :=
  let d := (mget? (s.tile t).hcache h).getD b.tile
  let s := cacheHandle s t h b.tile
  match pathHops s 4096 { at_ := t } d with
  | some n => (w64 (n + boolNat (d != b.tile)), s)
  | none => s.drawFree
/-- mprobe (R366). -/
def mprobeBody (a b : Reg) (s : State) : Except Stop State :=
  match s.cur with
  | .thread t c =>
    let q := threadReq s t c
    let h := fromViewHandle s q.tenant (fld (s.getG b) 23 0)
    (match liveBlock? s h with
     | none => .ok (alu a (sendStatus 1) s)
     | some bl =>
       if sendRefused s q bl then .ok (alu a (sendStatus 2) s)
       else if bl.tile = t then .ok (alu a 0 (cacheHandle s t h t))
       else let r := probe s t h bl; .ok (alu a r.1 r.2))
  | _ => .ok s
/-- mprobe gA, gB (R366). -/
def execMprobe (a b : Reg) (s : State) : Host.Outcome State Fault Refusal := runInstr jetThread s (mprobeBody a b)
/-- DROPPED of the current agent. -/
def droppedOf (s : State) : Nat :=
  match s.cur with
  | .thread t c => (s.ctx t c).dropped
  | .core i k => (s.core i k).dropped
  | .zephyr _ _ => 0
/-- mbufq gA (Table 11.10). -/
def execMbufq (a : Reg) (s : State) : Host.Outcome State Fault Refusal :=
  runInstr jetBoth s fun s =>
    .ok (alu a (w64 ((freeSends s (siteOf s.cur)).length * 2 ^ 16 + min 255 (pendingSends s) * 2 ^ 8 + min 255 (droppedOf s))) s)
/-- mdrain (R366): waits until every message of the task is Free. -/
def execMdrain (s : State) : Host.Outcome State Fault Refusal :=
  runInstr jetBoth s fun s => if pendingSends s = 0 then .ok s.retire else .error .wait
/-- mpoll gA (Table 11.10). -/
def execMpoll (a : Reg) (s : State) : Host.Outcome State Fault Refusal :=
  runInstr jetThread s fun s =>
    let h := curHandle s
    let t := (curThread s).1
    let waiting := ((s.tile t).inbox.filter fun e => e.handle == h).length
    let guests := (s.ctxs.filter fun p => p.1.1 == t && p.2.handle == h && p.2.guest && p.2.state != .free).length
    .ok (alu a (w64 (min 255 waiting * 2 ^ 8 + min 255 guests)) s)

end Sys2Proof.Machine
end

