-- ==== Sys2Proof/Machine/Quant.lean ====
section
/-! DEFINITION. Grouped quantised formats, quantisation and the folds of the matrix engine (R111-R115, R120-R128). -/

namespace Sys2Proof.Machine

/-- s of a group descriptor (R112). -/
def descScale (d : Nat) : FpVal := FpFmt.fp16.decode (d / 2 ^ 16 % 2 ^ 16)
/-- z of a group descriptor (R112). -/
def descZero (d : Nat) : Nat := d / 2 ^ 8 % 2 ^ 8
/-- QFLAGS raised by reading a group's descriptor (R114). -/
def descFlags (d : Nat) : Word :=
  flagIf ((descScale d).isNan || (descScale d).isInf) qfPoison ||| flagIf (d % 256 != 0) qfDesc

/-- The exact value s · (q - z) of an element (R111, R114): +0 when q = z, the sign of s · (q - z) for a zero scale. -/
def elemValue (d q : Nat) : FpVal :=
  if descFlags d != 0 then .nan false
  else match descScale d with
    | .num n m e =>
      let k : Int := (q : Int) - descZero d
      if k = 0 then .num false 0 e else .num (n != decide (k < 0)) (m * k.natAbs) e
    | v => v

/-- vdqnt of one element (R128). -/
def dequant (f : FpFmt) (m : RMode) (scale : Int) (clamp : Bool) (d q : Nat) : Nat × Word :=
  finish f m scale clamp (elemValue d q).exact

/-- A real quotient a / (m · 2^e) of an integer, to the nearest integer, ties to even (R127). -/
def rneQuot (a : Int) (m : Nat) (e : Int) : Int :=
  let s := scaled a.natAbs m (-e)
  let r := roundDiv .rne false s.1 s.2
  if a < 0 then -(r : Int) else r

/-- ceil(log2(p/q · 2^e)) for p, q at least 1. -/
def ceilLog2Ratio (p q : Nat) (e : Int) : Int :=
  let k := exponentOf p q e
  let s := scaled p q (e - k)
  if s.1 = s.2 then k else k + 1

/-- The fp16 bits of a scale saturated to 2^-24 .. 65,504, and whether that changed it (R126, R127). -/
def satScale (b : Nat) : Nat × Bool :=
  if b = 0 then (1, true) else if b = FpFmt.fp16.infBits then (FpFmt.fp16.maxBits, true) else (b, false)

/-- vqnt (R124-R127): the FP32 values, the code width b and the mode; the descriptor, the codes and QFLAGS. -/
def quantise (xs : List Nat) (b : Nat) (pow2 : Bool) : Nat × List Nat × Word :=
  let vs := xs.map FpFmt.fp32.decode
  let zeros := xs.map fun _ => 0
  if vs.any fun v => v.isNan || v.isInf then (0x7E00 * 2 ^ 16, zeros, qfPoison)
  else if vs.all FpVal.isZero then (0, zeros, qfZero)
  else
    let lo149 : Int := -149
    let is := vs.map (FpVal.toInt lo149)
    let c := is.headD 0
    if pow2 = false ∧ is.all (· == c) = true then
      let s := satScale (finish .fp16 .rne 0 false (.ratio false c.natAbs 1 lo149)).1
      if 0 < c then (s.1 * 2 ^ 16, xs.map fun _ => 1, flagIf s.2 qfSat)
      else (s.1 * 2 ^ 16 + 2 ^ 8, zeros, flagIf s.2 qfSat)
    else
      let q : Nat := 2 ^ b - 1
      let lo := is.foldl min 0
      let hi := is.foldl max 0
      let d := (hi - lo).toNat
      let e := ceilLog2Ratio d q lo149
      let ec := sat e (-24) 15
      let s0 := if pow2 then (finish .fp16 .rne 0 false (.ratio false 1 1 ec)).1
        else (finish .fp16 .rne 0 false (.ratio false d q lo149)).1
      let s := satScale s0
      match FpFmt.fp16.decode s.1 with
      | .num _ m es =>
        let z0 := rneQuot (-lo) m (es - lo149)
        let z := sat z0 0 q
        let raw := is.map fun x => rneQuot x m (es - lo149) + z
        let codes := raw.map fun r => (sat r 0 q).toNat
        let changed := (pow2 && ec != e) || s.2 || z != z0 || raw.any fun r => sat r 0 q != r
        (s.1 * 2 ^ 16 + z.toNat * 2 ^ 8, codes, flagIf changed qfSat)
      | _ => (0, zeros, 0)

/-- A list of exact finite values summed: the integer sum at the least exponent, and that exponent. -/
def sumAt (lo : Int) : List FpVal → Int
  | [] => 0
  | v :: r => v.toInt lo + sumAt lo r
/-- The least exponent of a list of finite values. -/
def minExp : List FpVal → Int
  | [] => 0
  | [v] => v.lowExp
  | v :: r => min v.lowExp (minExp r)

/-- An exact sum of finite values rounded once to FP32 in RNE; an exact zero is +0 unless every addend is -0 (R121, R122). -/
def sumRound (l : List FpVal) : Nat × Word :=
  let lo := minExp l
  finish .fp32 .rne 0 false (Exact.ofInt (sumAt lo l) lo (l.all fun v => v.isZero && v.sign))

/-- One group folded into the FP32 accumulator (R121): the bits, FPSTAT flags and QFLAGS. -/
def foldGroup (acc : Nat) (isum : Int) (da db : Nat) : Nat × Word × Word :=
  let qf := descFlags da ||| descFlags db
  if qf != 0 then (FpFmt.fp32.nanBits, 0, qf)
  else match FpFmt.fp32.decode acc with
    | .nan s => (FpFmt.fp32.nanBits, flagIf s fpInvalid, 0)
    | .inf _ => (acc, 0, 0)
    | a =>
      let p := (fpMulVal (descScale da) (descScale db)).1
      let t : FpVal := match p with
        | .num n m e => if isum = 0 then .num false 0 e else .num (n != decide (isum < 0)) (m * isum.natAbs) e
        | v => v
      let r := sumRound [a, t]
      (r.1, r.2, 0)

/-- Whether the values hold an infinity of the given sign. -/
def hasInf (neg : Bool) (l : List FpVal) : Bool := l.any fun v => v == .inf neg

/-- One block of exact products folded into the FP32 accumulator (R122), where infinities of both signs set INVALID beside a NaN too; operands are values as read under R104 and R114. -/
def foldBlock (acc : Nat) (pairs : List (FpVal × FpVal)) : Nat × Word :=
  let a := FpFmt.fp32.decode acc
  let prods := pairs.map fun p => fpMulVal p.1 p.2
  let fl := prods.foldl (fun f p => f ||| p.2) (flagIf a.isSnan fpInvalid)
  let terms := a :: prods.map Prod.fst
  let fl := fl ||| flagIf (hasInf true terms && hasInf false terms) fpInvalid
  if terms.any FpVal.isNan then (FpFmt.fp32.nanBits, fl)
  else if hasInf true terms then
    if hasInf false terms then (FpFmt.fp32.nanBits, fl) else (FpFmt.fp32.infBits + FpFmt.fp32.signBit, fl)
  else if hasInf false terms then (FpFmt.fp32.infBits, fl)
  else let r := sumRound terms; (r.1, r.2 ||| fl)

/-- Count of one bits below bit n. -/
def popCount (x : Nat) : Nat → Nat
  | 0 => 0
  | n + 1 => popCount x n + x / 2 ^ n % 2

/-- One chunk of n binary products folded into an INT32 accumulator, wrapping (R115): bxor sums ±1, band sums bits. -/
def foldBin (acc : Nat) (n a b : Nat) (band : Bool) : Nat :=
  let v : Int := if band then popCount (a &&& b) n else (n : Int) - 2 * popCount (a ^^^ b) n
  (((acc : Int) + v) % 2 ^ 32).toNat

end Sys2Proof.Machine
end

