-- ==== Sys2Proof/Machine/Vector.lean ====
section
/-! DEFINITION. The vector engine and the stream registers (R227-R254). -/

namespace Sys2Proof.Machine

/-- The vector engine's instructions: threads only (Table 3.1). -/
def vecProfile : Profile := { core := false, engine := engVector }

/-! ## Lanes (R227, R228) -/

/-- Lane k of width w. -/
def lane (v : Vec) (w k : Nat) : Nat := v.toNat / 2 ^ (w * k) % 2 ^ w
/-- Lanes of width w put together, low lanes first. -/
def packLanes (w : Nat) : List Nat → Nat
  | [] => 0
  | x :: r => x % 2 ^ w + 2 ^ w * packLanes w r
/-- A register from lanes; bits that no lane fills are zero (R228). -/
def ofLanes (w : Nat) (l : List Nat) : Vec := BitVec.ofNat 256 (packLanes w l)
/-- The lane width with which an instruction names lanes: format 10 as bytes (Table 7.1). -/
def nameWidth (fmt : Nat) : Nat := if fmt = 10 then 8 else laneWidth fmt
/-- The lanes of a register. -/
def lanesOf (v : Vec) (w : Nat) : List Nat := (List.range (256 / w)).map (lane v w)
/-- A register of consecutive lanes of width w cut from a long list, 256 / w a register. -/
def regsOfLanes (w : Nat) (l : List Nat) (n : Nat) : List Vec :=
  (List.range n).map fun r => ofLanes w ((l.drop (256 / w * r)).take (256 / w))

/-! ## Vector state (R229) -/

/-- A context with its vector state replaced. -/
def setVec (s : State) (t c : Nat) (v : VecState) : State := s.setCtx t c { s.ctx t c with vec := v }
/-- Vector register k as it reads: zero while its VLIVE bit is 0 (R229). -/
def readV (v : VecState) (k : Nat) : Vec := if fieldN v.vlive k k = 1 then v.v.toList.getD k 0 else 0
/-- A vector register written; its VLIVE bit is set (R229). -/
def writeV (v : VecState) (k : Nat) (x : Vec) : VecState :=
  { v with v := v.v.setIfInBounds k x, vlive := if fieldN v.vlive k k = 1 then v.vlive else v.vlive + 2 ^ k }
/-- Consecutive registers written from k upwards. -/
def writeVs (v : VecState) : Nat → List Vec → VecState
  | _, [] => v
  | k, x :: r => writeVs (writeV v k x) (k + 1) r
/-- Stream k. -/
def streamOf (v : VecState) (k : Nat) : Stream := v.s.toList.getD k {}
/-- The vector state with stream k replaced. -/
def setStream (v : VecState) (k : Nat) (m : Stream) : VecState := { v with s := v.s.setIfInBounds k m }
/-- FPSTAT and QFLAGS of the current agent with flags raised (R108, R129). -/
def raiseFlags (s : State) (fp qf : Word) : State :=
  if fp = 0 ∧ qf = 0 then s else s.setRegs [2] { s.regs with fpstat := s.regs.fpstat ||| fp, qflags := s.regs.qflags ||| qf }

/-! ## Beats (R248, R249) -/

/-- Beat j of a stream fetched by the engine-read paths (Table 6.1): its bits, or the fault of its first faulting element. -/
def fetchBeat (s : State) (t c : Nat) (m : Stream) (j : Nat) : Except Hold ((Vec × Option (Nat × Nat × Word × Word)) × State) :=
  let p := patternOf m.pattern
  let e := beatElems m.fmt
  let n := min e (p.count - e * j)
  let start : Except Hold ((List Nat × Option (Nat × Nat × Word × Word)) × State) := .ok (([], none), s)
  let r := (List.range n).foldl (fun acc i =>
    match acc with
    | .error h => .error h
    | .ok ((l, some f), s) => .ok ((l, some f), s)
    | .ok ((l, none), s) =>
      let q := threadReq s t c
      let g := p.ptr (e * j + i)
      match resolve s q .read g (elemBytes m.fmt) with
      | .error tr => .ok ((l, some (tr.code, engVector, g, tr.info)), s)
      | .ok (xs, s') => match readPlaces s' q true xs with
        | .error h => .error h
        | .ok (b, s'') => .ok ((l ++ [fromBytes b], none), s'')) start
  match r with
  | .error h => .error h
  | .ok ((l, f), s') => .ok ((ofLanes (laneWidth m.fmt) l, f), s')
/-- Beats from j on fetched one after another until one faults. -/
def fetchBeats (s : State) (t c : Nat) (m : Stream) : Nat → Nat → Except Hold (List (Vec × Option (Nat × Nat × Word × Word)) × State)
  | 0, _ => .ok ([], s)
  | n + 1, j =>
    match fetchBeat s t c m j with
    | .error h => .error h
    | .ok (b, s') =>
      if b.2.isSome then .ok ([b], s')
      else match fetchBeats s' t c m n (j + 1) with
        | .error h => .error h
        | .ok (l, s'') => .ok (b :: l, s'')
/-- The next n beats of stream k of a context, and the state with its position moved on (R248): ILLEGALOP when it is unbound (R234), a wait
while a beat has not arrived, the fault of a beat that arrived faulted (R249). Beats beyond the four of the prefetch are fetched as they are
read (log entry 15). -/
def takeBeats (s : State) (t c k n : Nat) : Except Stop (List Vec × State) :=
  let m := streamOf (s.ctx t c).vec k
  if m.bound = false then .error (.trap (illegalOp s))
  else
    let want := min n m.remain
    if m.ahead.length < min want 4 ∨ (m.ahead.length < want ∧ streamClear s t c m = false) then .error .wait
    else
      match fetchBeats s t c m (want - m.ahead.length) (m.pos + m.ahead.length) with
      | .error h => .error (holdStop h)
      | .ok (more, s') =>
        let l := (m.ahead ++ more).take want
        match l.findSome? Prod.snd with
        | some (code, eng, a, info) => .error (.trap { code := code, engine := eng, addr := a, info := info })
        | none =>
          let v := (s'.ctx t c).vec
          let m' := { m with ahead := m.ahead.drop want, pos := m.pos + want, ended := m.ended || decide (m.remain < n) }
          .ok (l.map Prod.fst ++ List.replicate (n - want) 0, (setVec s' t c (setStream v k m')).addDueOnce (.beatArrival t c k))
/-- The beats of every stream that source fields name, one taking each (R248). -/
def takeStreams (s : State) (t c n : Nat) : List Nat → Except Stop (List (Nat × List Vec) × State)
  | [] => .ok ([], s)
  | k :: r =>
    match takeBeats s t c k n with
    | .error e => .error e
    | .ok (b, s') => match takeStreams s' t c n r with
      | .error e => .error e
      | .ok (l, s'') => .ok ((k, b) :: l, s'')
/-- The values that source fields name, n registers or beats each: registers 12 to 15 are the streams (Table 2.3, R248). -/
def operands (s : State) (t c : Nat) (srcs : List Reg) (n : Nat) : Except Stop (List (List Vec) × State) :=
  match takeStreams s t c n ((srcs.filterMap fun r => if 12 ≤ r.val then some (r.val - 12) else none).dedup) with
  | .error e => .error e
  | .ok (beats, s') =>
    let v := (s.ctx t c).vec
    .ok (srcs.map fun r =>
      if 12 ≤ r.val then ((beats.find? fun p => p.1 == r.val - 12).map Prod.snd).getD [] else (List.range n).map fun i => readV v (r.val + i), s')

/-! ## One operation for every vector instruction -/

/-- What a vector instruction writes: consecutive vector registers, flags, a general register. -/
structure VResult where
  at_ : Nat := 0
  regs : List Vec := []
  fp : Word := 0
  qf : Word := 0
  g : Option (Reg × Word) := none
/-- A result written by the current thread. -/
def putResult (s : State) (t c : Nat) (r : VResult) : State :=
  let s := setVec s t c (writeVs (s.ctx t c).vec r.at_ r.regs)
  let s := raiseFlags s r.fp r.qf
  (match r.g with | some (a, v) => s.setG a v | none => s).retire
/-- A vector instruction of a thread: it waits for the extension-image fill (R231) and for its beats, then writes its result. -/
def vecBody (srcs : List Reg) (n : Nat) (f : List (List Vec) → VResult) (s : State) : Except Stop State :=
  match s.cur with
  | .thread t c =>
    if (s.ctx t c).extResident = false then .error .wait
    else match operands s t c srcs n with
      | .error e => .error e
      | .ok (vs, s') => .ok (putResult s' t c (f vs))
  | _ => .ok s
/-- A vector instruction. -/
def execVec (srcs : List Reg) (n : Nat) (f : State → List (List Vec) → VResult) (s : State) : Host.Outcome State Fault Refusal :=
  runInstr vecProfile s (vecBody srcs n (f s))
/-- Operand i, register or beat 0. -/
def opnd (vs : List (List Vec)) (i : Nat) : Vec := (vs.getD i []).headD 0
/-- A lane-by-lane operation: lane values of the operands to a lane and its flags. -/
def mapLanes (a : Reg) (fmt : Nat) (f : Nat → Nat → Nat → Nat × Word) (vs : List (List Vec)) : VResult :=
  let w := laneWidth fmt
  let l := (List.range (256 / w)).map fun k => f (lane (opnd vs 0) w k) (lane (opnd vs 1) w k) (lane (opnd vs 2) w k)
  { at_ := a.val, regs := [ofLanes w (l.map Prod.fst)], fp := l.foldl (fun x y => x ||| y.2) 0 }

/-! ## Element arithmetic (R235, R236) -/

/-- Operand bits after the modifiers of source 1, 2 or 3 (R56). -/
def mod1 (f : FpFmt) (m : FMods) (b : Nat) : Nat := f.modify m.neg1 m.abs1 b
/-- Source 2. -/
def mod2 (f : FpFmt) (m : FMods) (b : Nat) : Nat := f.modify m.neg2 m.abs2 b
/-- Source 3. -/
def mod3 (f : FpFmt) (m : FMods) (b : Nat) : Nat := f.modify m.neg3 m.abs3 b
/-- FINAL of R235 for a floating-point format. -/
def fpFinal (f : FpFmt) (m : FMods) (y : Exact × Word) : Nat × Word :=
  let r := finish f (RMode.ofCode m.rm) (scaleOf m.scale) m.clamp y.1
  (r.1, y.2 ||| r.2)
/-- One lane of an operation with a floating-point and an integer form (R235). -/
def arithLane (fmt : Nat) (m : FMods) (fp : RMode → FpVal → FpVal → FpVal → Exact × Word) (int : Int → Int → Int → Int) (b c e : Nat) :
    Nat × Word :=
  match fpCode fmt with
  | some f =>
    let x := f.read (mod1 f m b)
    let y := f.read (mod2 f m c)
    let z := f.read (mod3 f m e)
    let r := fpFinal f m (fp (RMode.ofCode m.rm) x.1 y.1 z.1)
    (r.1, x.2 ||| y.2 ||| z.2 ||| r.2)
  | none =>
    let w := laneWidth fmt
    (intFinal w m.clamp (int (sextN b w) (sextN c w) (sextN e w)), 0)
/-- The same with two operands. -/
def arith2 (fmt : Nat) (m : FMods) (fp : RMode → FpVal → FpVal → Exact × Word) (int : Int → Int → Int) (b c _e : Nat) : Nat × Word :=
  arithLane fmt m (fun rm x y _ => fp rm x y) (fun x y _ => int x y) b c 0
/-- The bits an operand is read as: a BF16 subnormal as the zero of its sign (R104). -/
def readBits (f : FpFmt) (b : Nat) : Nat × Word :=
  let r := f.read b
  (if r.2 = 0 then b else b / f.signBit * f.signBit, r.2)
/-- min (false) or max (true) of two floating-point bit patterns (R102, R104). -/
def fpPick (f : FpFmt) (max : Bool) (b c : Nat) : Nat × Word :=
  let x := readBits f b
  let y := readBits f c
  let u := f.decode x.1
  let v := f.decode y.1
  if u.isNan || v.isNan then (f.nanBits, x.2 ||| y.2 ||| flagIf (u.isSnan || v.isSnan) fpInvalid)
  else (if (if max then fpTotalLt u v else fpTotalLt v u) then y.1 else x.1, x.2 ||| y.2)
/-- min or max of two integer lanes, signed. -/
def intPick (w : Nat) (max : Bool) (b c : Nat) : Nat :=
  if (if max then sextN b w < sextN c w else sextN c w < sextN b w) then c else b
/-- vmin and vmax of one lane (R235). -/
def pickLane (fmt : Nat) (m : FMods) (max : Bool) (b c _e : Nat) : Nat × Word :=
  match fpCode fmt with
  | some f => fpPick f max (mod1 f m b) (mod2 f m c)
  | none => (intPick (laneWidth fmt) max b c, 0)
/-- A single-source floating-point lane (R236). -/
def unaryLane (fmt : Nat) (m : FMods) (op : FpFmt → FpVal → Nat × Word) (b _c _e : Nat) : Nat × Word :=
  match fpCode fmt with
  | some f => let x := f.read (mod1 f m b); let r := op f x.1; (r.1, x.2 ||| r.2)
  | none => (b, 0)

/-! ## Compare, select, reduce (R237-R239) -/

/-- A vcmp condition on two values that are no NaN (Table 7.4). -/
def cmpHolds (cond : Nat) (lt eq : Bool) : Bool :=
  match cond with
  | 0 => eq
  | 1 => !eq
  | 2 => lt
  | 3 => lt || eq
  | _ => false
/-- vcmp of one lane: all ones or zeros (R237). -/
def cmpLane (fmt cond : Nat) (m : FMods) (b c _e : Nat) : Nat × Word :=
  let ones := 2 ^ laneWidth fmt - 1
  match fpCode fmt with
  | some f =>
    let x := f.read (mod1 f m b)
    let y := f.read (mod2 f m c)
    let nan := x.1.isNan || y.1.isNan
    let holds := if nan then cond == 1 || cond == 4 else cmpHolds cond (fpLt x.1 y.1) (fpEq x.1 y.1)
    let bad := if cond = 2 ∨ cond = 3 then nan else x.1.isSnan || y.1.isSnan
    (if holds then ones else 0, x.2 ||| y.2 ||| flagIf bad fpInvalid)
  | none =>
    let w := laneWidth fmt
    (if cmpHolds cond (decide (sextN b w < sextN c w)) (decide (sextN b w = sextN c w)) then ones else 0, 0)
/-- A moved lane with its sign modifiers (R56, R103). -/
def moveLane (fmt : Nat) (neg abs : Bool) (b : Nat) : Nat := match fpCode fmt with | some f => f.modify neg abs b | none => b
/-- vsel of one lane (R238). -/
def selLane (fmt : Nat) (m : FMods) (b c e : Nat) : Nat × Word :=
  (if e = 0 then moveLane fmt m.neg2 m.abs2 c else moveLane fmt m.neg1 m.abs1 b, 0)
/-- vredadd of floating-point lanes (R239); infinities of both signs set INVALID beside a NaN too. -/
def redAddFp (f : FpFmt) (m : FMods) (l : List Nat) : Nat × Word :=
  let rs := l.map fun b => f.read (mod1 f m b)
  let vs := rs.map Prod.fst
  let mixed := hasInf true vs && hasInf false vs
  let fl := rs.foldl (fun x y => x ||| y.2) (flagIf (vs.any FpVal.isSnan || mixed) fpInvalid)
  let rm := RMode.ofCode m.rm
  if vs.any FpVal.isNan || mixed then (f.nanBits, fl)
  else
    let y : Exact :=
      if hasInf true vs then .inf true else if hasInf false vs then .inf false
      else
        let lo := minExp vs
        Exact.ofInt (sumAt lo vs) lo ((vs.all fun v => v.sign && v.isZero) || rm = .rdn)
    let r := finish f rm (scaleOf m.scale) m.clamp y
    (r.1, fl ||| r.2)
/-- vredadd (R239). -/
def redAdd (fmt : Nat) (m : FMods) (l : List Nat) : Nat × Word :=
  match fpCode fmt with
  | some f => redAddFp f m l
  | none => (intFinal (laneWidth fmt) m.clamp ((l.map fun x => sextN x (laneWidth fmt)).foldl (· + ·) 0), 0)
/-- vredmax and vredmin (R239). -/
def redPick (fmt : Nat) (m : FMods) (max : Bool) : List Nat → Nat × Word
  | [] => (0, 0)
  | x :: r =>
    match fpCode fmt with
    | some f =>
      let one := fpPick f max (mod1 f m x) (mod1 f m x)
      r.foldl (fun acc y => let p := fpPick f max acc.1 (mod1 f m y); (p.1, acc.2 ||| p.2)) one
    | none => (r.foldl (intPick (laneWidth fmt) max) x, 0)
/-- A reduction into lane 0 (R228, R239). -/
def reduce (a : Reg) (fmt : Nat) (f : List Nat → Nat × Word) (vs : List (List Vec)) : VResult :=
  let r := f (lanesOf (opnd vs 0) (laneWidth fmt))
  { at_ := a.val, regs := [ofLanes (laneWidth fmt) [r.1]], fp := r.2 }

/-! ## Conversion and quantisation (R240-R242) -/

/-- vcvt (R240). -/
def cvtRegs (a : Reg) (src dst : Nat) (m : FMods) (vs : List (List Vec)) : VResult :=
  let n := min (256 / laneWidth src) (256 / laneWidth dst)
  let l := (List.range n).map fun k =>
    convert src dst (RMode.ofCode m.rm) (scaleOf m.scale) m.clamp m.neg1 m.abs1 (lane (opnd vs 0) (laneWidth src) k)
  { at_ := a.val, regs := [ofLanes (laneWidth dst) (l.map Prod.fst)], fp := l.foldl (fun x y => x ||| y.2) 0 }
/-- vqnt (R241): XM 8 is UQ8, 9 is UQ4. -/
def qntRegs (a g : Reg) (fmt opts : Nat) (vs : List (List Vec)) : VResult :=
  let len := 32 * 2 ^ (opts / 2 % 4)
  let b := if fmt = 8 then 8 else 4
  let r := quantise ((vs.getD 0 []).flatMap fun v => lanesOf v 32) b (opts % 2 == 1)
  { at_ := a.val, regs := regsOfLanes b r.2.1 (WellFormed.codeRegs (fmt == 8) len), qf := r.2.2, g := some (g, w64 r.1) }
/-- vdqnt (R242): FE[0] is 0 for UQ8, 1 for UQ4; the descriptor is the low word of gC. -/
def dqntRegs (a : Reg) (fmt opts : Nat) (m : FMods) (d : Nat) (vs : List (List Vec)) : VResult :=
  let len := 32 * 2 ^ (opts / 2 % 4)
  let b := if opts % 2 = 0 then 8 else 4
  let codes := ((vs.getD 0 []).flatMap fun v => lanesOf v b).take len
  match fpCode fmt with
  | some f =>
    let l := codes.map (dequant f (RMode.ofCode m.rm) (scaleOf m.scale) m.clamp d)
    { at_ := a.val, regs := regsOfLanes f.width (l.map Prod.fst) (WellFormed.valueRegs (fmt == 0) len)
      fp := l.foldl (fun x y => x ||| y.2) 0, qf := descFlags d }
  | none => {}

/-! ## Bit operations and moves (R243, R244) -/

/-- A whole-register result without flags. -/
def whole (a : Reg) (v : Vec) : VResult := { at_ := a.val, regs := [v] }
/-- vshl (left) and vshr of one lane (R243). -/
def shiftLane (w : Nat) (left : Bool) (b c _e : Nat) : Nat × Word :=
  (if w ≤ c then 0 else if left then b * 2 ^ c % 2 ^ w else b / 2 ^ c, 0)
/-- vperm (R243). -/
def permRegs (a : Reg) (fmt : Nat) (m : FMods) (vs : List (List Vec)) : VResult :=
  let w := nameWidth fmt
  let e := 256 / w
  whole a (ofLanes w ((List.range e).map fun k =>
    let i := lane (opnd vs 1) w k
    if i < e then moveLane fmt m.neg1 m.abs1 (lane (opnd vs 0) w i) else 0))
/-- Word k of a register replaced. -/
def setWordLane (v : Vec) (k x : Nat) : Vec := ofLanes 32 ((lanesOf v 32).set k x)

/-- vadd: b + c lane by lane (R235). -/
def execVadd (fmt : Fin 32) (a b c : Reg) (m : FMods) (s : State) : Host.Outcome State Fault Refusal :=
  execVec [b, c] 1 (fun _ => mapLanes a fmt.val (arith2 fmt.val m (fun rm x y => fpAdd rm x y) (fun x y => x + y))) s
/-- vsub: b - c lane by lane (R235). -/
def execVsub (fmt : Fin 32) (a b c : Reg) (m : FMods) (s : State) : Host.Outcome State Fault Refusal :=
  execVec [b, c] 1 (fun _ => mapLanes a fmt.val (arith2 fmt.val m (fun rm x y => fpAdd rm x y.negate) (fun x y => x - y))) s
/-- vmul: b · c lane by lane (R235). -/
def execVmul (fmt : Fin 32) (a b c : Reg) (m : FMods) (s : State) : Host.Outcome State Fault Refusal :=
  execVec [b, c] 1 (fun _ => mapLanes a fmt.val (arith2 fmt.val m (fun _ x y => fpMul x y) (fun x y => x * y))) s
/-- vfma: b · c + e lane by lane, one rounding (R235). -/
def execVfma (fmt : Fin 32) (a b c e : Reg) (m : FMods) (s : State) : Host.Outcome State Fault Refusal :=
  execVec [b, c, e] 1 (fun _ => mapLanes a fmt.val (arithLane fmt.val m (fun rm x y z => fpFma rm x y z) (fun x y z => x * y + z))) s
/-- vmin (R235). -/
def execVmin (fmt : Fin 32) (a b c : Reg) (m : FMods) (s : State) : Host.Outcome State Fault Refusal :=
  execVec [b, c] 1 (fun _ => mapLanes a fmt.val (pickLane fmt.val m false)) s
/-- vmax (R235). -/
def execVmax (fmt : Fin 32) (a b c : Reg) (m : FMods) (s : State) : Host.Outcome State Fault Refusal :=
  execVec [b, c] 1 (fun _ => mapLanes a fmt.val (pickLane fmt.val m true)) s
/-- vrnd (R236). -/
def execVrnd (fmt : Fin 32) (a b : Reg) (m : FMods) (s : State) : Host.Outcome State Fault Refusal :=
  execVec [b] 1 (fun _ => mapLanes a fmt.val (unaryLane fmt.val m fun f x => fpRnd f (RMode.ofCode m.rm) (scaleOf m.scale) m.clamp x)) s
/-- vdiv: b / c (R236). -/
def execVdiv (fmt : Fin 32) (a b c : Reg) (m : FMods) (_la : Reg) (s : State) : Host.Outcome State Fault Refusal :=
  execVec [b, c] 1 (fun _ => mapLanes a fmt.val (arith2 fmt.val m (fun _ x y => fpDiv x y) (fun x _ => x))) s
/-- vsqrt (R236). -/
def execVsqrt (fmt : Fin 32) (a b : Reg) (m : FMods) (_la : Reg) (s : State) : Host.Outcome State Fault Refusal :=
  execVec [b] 1 (fun _ => mapLanes a fmt.val (unaryLane fmt.val m fun f x => fpFinal f m (fpSqrt x))) s
/-- vcmp (R237). -/
def execVcmp (fmt : Fin 32) (a b c cond : Reg) (m : FMods) (s : State) : Host.Outcome State Fault Refusal :=
  execVec [b, c] 1 (fun _ => mapLanes a fmt.val (cmpLane fmt.val cond.val m)) s
/-- vsel (R238). -/
def execVsel (fmt : Fin 32) (a b c e : Reg) (m : FMods) (s : State) : Host.Outcome State Fault Refusal :=
  execVec [b, c, e] 1 (fun _ => mapLanes a fmt.val (selLane fmt.val m)) s
/-- vredadd (R239). -/
def execVredadd (fmt : Fin 32) (a b : Reg) (m : FMods) (s : State) : Host.Outcome State Fault Refusal :=
  execVec [b] 1 (fun _ => reduce a fmt.val (redAdd fmt.val m)) s
/-- vredmax (R239). -/
def execVredmax (fmt : Fin 32) (a b : Reg) (m : FMods) (s : State) : Host.Outcome State Fault Refusal :=
  execVec [b] 1 (fun _ => reduce a fmt.val (redPick fmt.val m true)) s
/-- vredmin (R239). -/
def execVredmin (fmt : Fin 32) (a b : Reg) (m : FMods) (s : State) : Host.Outcome State Fault Refusal :=
  execVec [b] 1 (fun _ => reduce a fmt.val (redPick fmt.val m false)) s
/-- vcvt (R240). -/
def execVcvt (dst : Fin 32) (src a b : Reg) (m : FMods) (s : State) : Host.Outcome State Fault Refusal :=
  execVec [b] 1 (fun _ => cvtRegs a src.val dst.val m) s
/-- vqnt (R241): L / 8 beats or registers. -/
def execVqnt (fmt : Fin 32) (a b c opts : Reg) (s : State) : Host.Outcome State Fault Refusal :=
  execVec [b] (WellFormed.groupLen opts / 8) (fun _ => qntRegs a c fmt.val opts.val) s
/-- vdqnt (R242). -/
def execVdqnt (fmt : Fin 32) (a b c opts : Reg) (m : FMods) (s : State) : Host.Outcome State Fault Refusal :=
  execVec [b] (WellFormed.codeRegs (opts.val % 2 == 0) (WellFormed.groupLen opts)) (fun s => dqntRegs a fmt.val opts.val m (fld (s.getG c) 31 0)) s
/-- vand of all 256 bits (R243). -/
def execVand (_fmt : Fin 32) (a b c : Reg) (s : State) : Host.Outcome State Fault Refusal :=
  execVec [b, c] 1 (fun _ vs => whole a (opnd vs 0 &&& opnd vs 1)) s
/-- vor of all 256 bits (R243). -/
def execVor (_fmt : Fin 32) (a b c : Reg) (s : State) : Host.Outcome State Fault Refusal :=
  execVec [b, c] 1 (fun _ vs => whole a (opnd vs 0 ||| opnd vs 1)) s
/-- vxor of all 256 bits (R243). -/
def execVxor (_fmt : Fin 32) (a b c : Reg) (s : State) : Host.Outcome State Fault Refusal :=
  execVec [b, c] 1 (fun _ vs => whole a (opnd vs 0 ^^^ opnd vs 1)) s
/-- vshl (R243). -/
def execVshl (fmt : Fin 32) (a b c : Reg) (s : State) : Host.Outcome State Fault Refusal :=
  execVec [b, c] 1 (fun _ => mapLanes a fmt.val (shiftLane (laneWidth fmt.val) true)) s
/-- vshr, logical (R243). -/
def execVshr (fmt : Fin 32) (a b c : Reg) (s : State) : Host.Outcome State Fault Refusal :=
  execVec [b, c] 1 (fun _ => mapLanes a fmt.val (shiftLane (laneWidth fmt.val) false)) s
/-- vperm (R243). -/
def execVperm (fmt : Fin 32) (a b c : Reg) (m : FMods) (s : State) : Host.Outcome State Fault Refusal :=
  execVec [b, c] 1 (fun _ => permRegs a fmt.val m) s
/-- vmov (R244). -/
def execVmov (fmt : Fin 32) (a b : Reg) (m : FMods) (s : State) : Host.Outcome State Fault Refusal :=
  execVec [b] 1 (fun _ => mapLanes a fmt.val (fun x _ _ => (moveLane fmt.val m.neg1 m.abs1 x, 0))) s
/-- vbcast (R244). -/
def execVbcast (fmt : Fin 32) (a b : Reg) (s : State) : Host.Outcome State Fault Refusal :=
  execVec [] 1 (fun s _ => let w := laneWidth fmt.val; whole a (ofLanes w (List.replicate (256 / w) (s.getG b).toNat))) s
/-- vins (R244). -/
def execVins (_fmt : Fin 32) (a b word : Reg) (s : State) : Host.Outcome State Fault Refusal :=
  execVec [a] 1 (fun s vs => whole a (setWordLane (opnd vs 0) word.val (fld (s.getG b) 31 0))) s
/-- vext: zero-extended for XM 0, sign-extended for XM 3 (R244). It has no vA, so it sets no bit of VLIVE (DESIGN CHOICE, log entry 102). -/
def execVext (fmt : Fin 32) (a b word : Reg) (s : State) : Host.Outcome State Fault Refusal :=
  execVec [b] 1 (fun _ vs =>
    let x := lane (opnd vs 0) 32 word.val
    { g := some (a, if fmt.val = 3 then i64 (sextN x 32) else w64 x) }) s

/-- vclr (Table 7.6). -/
def vclrBody (a : Reg) (s : State) : Except Stop State :=
  match s.cur with
  | .thread t c =>
    let x := s.ctx t c
    if x.extResident = false then .error .wait
    else
      let v := x.vec
      let v' := { writeV v a.val 0 with vlive := if fieldN v.vlive a.val a.val = 1 then v.vlive - 2 ^ a.val else v.vlive }
      .ok (setVec s t c v').retire
  | _ => .ok s
/-- vclr vA (R244). -/
def execVclr (a : Reg) (s : State) : Host.Outcome State Fault Refusal := runInstr vecProfile s (vclrBody a)

/-! ## Vector loads and stores (R245, R454) -/

/-- vld: 32 bytes by the ordinary load path; a page that is not present is a handover. -/
def vldBody (a b : Reg) (off : Int) (s : State) : Except Stop State :=
  match s.cur with
  | .thread t c =>
    if (s.ctx t c).extResident = false then .error .wait
    else match loadBytes s (movedPtr s b off) 32 with
      | .error e => .error e
      | .ok (bs, s') => .ok (putResult s' t c (whole a (BitVec.ofNat 256 (fromBytes bs))))
  | _ => .ok s
/-- vst: 32 bytes by the ordinary store path. -/
def vstBody (a b : Reg) (off : Int) (s : State) : Except Stop State :=
  match s.cur with
  | .thread t c =>
    if (s.ctx t c).extResident = false then .error .wait
    else match storeBytes s (movedPtr s b off) (toBytes 32 (readV (s.ctx t c).vec a.val).toNat) with
      | .error e => .error e
      | .ok s' => .ok s'.retire
  | _ => .ok s
/-- vld vA, off(gB) with a K tail (R245). -/
def execVldK (a b _la : Reg) (off : BitVec 12) (s : State) : Host.Outcome State Fault Refusal := runInstr vecProfile s (vldBody a b off.toInt)
/-- vld vA, off(gB) with a KL tail (R245). -/
def execVldKL (a b _la : Reg) (off : BitVec 24) (s : State) : Host.Outcome State Fault Refusal := runInstr vecProfile s (vldBody a b off.toInt)
/-- vst vA, off(gB) with a K tail (R245). -/
def execVstK (a b _la : Reg) (off : BitVec 12) (s : State) : Host.Outcome State Fault Refusal := runInstr vecProfile s (vstBody a b off.toInt)
/-- vst vA, off(gB) with a KL tail (R245). -/
def execVstKL (a b _la : Reg) (off : BitVec 24) (s : State) : Host.Outcome State Fault Refusal := runInstr vecProfile s (vstBody a b off.toInt)

/-! ## Stream registers (R246-R250) -/

/-- The window of Table 1.5 that holds an address; none in the hole. -/
def windowOf (a : Nat) : Option Nat := if inLocal a then some 0 else if inHole a then none else if inCluster a then some 2 else some 1
/-- The format check of R247: FMT of BASE against XM. -/
def streamFmtOk (base : Word) (fmt : Nat) : Bool :=
  let f := ptrFmt base
  if f < 8 then f == 0 || f == [5, 6, 7, 3, 2, 1].getD fmt 0 else (f == 10 || f == 11 || f == 12) && fmt == 5
/-- The checks of R247 step 2 on a pattern record. -/
def patternOk (b : List Byte) (fmt : Nat) : Bool :=
  let p := patternOf b
  ptrOk p.base && p.c0 != 0 && p.c1 != 0 && p.c2 != 0 && leAt b 14 2 == 0 && leAt b 28 4 == 0 && streamFmtOk p.base fmt
/-- The NOWINDOW trap of R247 step 3, when a pattern leaves BASE's window. -/
def patternWindow (p : Pattern) : Option Trap :=
  let lo := (p.low % 2 ^ 54).toNat
  let hi := (p.high % 2 ^ 54).toNat
  let w := windowOf (addrOf p.base)
  let bad (a : Nat) : Bool := w.isNone || windowOf a != w
  if bad lo then some { code := 0x10, engine := engVector, addr := withAddr p.base lo }
  else if bad hi then some { code := 0x10, engine := engVector, addr := withAddr p.base hi }
  else none
/-- Stream k of a context unbound: beats discarded, range released, SBOUND cleared (R250). -/
def unbindStream (s : State) (t c k : Nat) : State :=
  let v := (s.ctx t c).vec
  let m := streamOf v k
  if m.bound then setVec (releaseRanges s m.req) t c (setStream v k {}) else s
/-- sbind (R247): the record, its checks, the unbinding of an older stream, the source range (a wait while its table is full), the binding. -/
def sbindBody (fmt : Nat) (a b : Reg) (s : State) : Except Stop State :=
  match s.cur with
  | .thread t c =>
    let k := a.val - 12
    if (s.ctx t c).extResident = false then .error .wait
    else match memLoad s (threadReq s t c) false (s.getG b) 32 with
      | .error e => .error e
      | .ok (bs, s) =>
        let p := patternOf bs
        if patternOk bs fmt = false then .error (.trap { code := 0x14, engine := engVector, addr := s.getG b })
        else match patternWindow p with
          | some tr => .error (.trap tr)
          | none =>
            let s := unbindStream s t c k
            let (req, s) := s.fresh
            let x := s.ctx t c
            let rg := (streamRange s t x.handle (blockTenant s x.handle) req x.task fmt p)
            if rangesFit s rg = false then .ok s
            else
              let e := beatElems fmt
              let m : Stream := { bound := true, fmt := fmt, pattern := bs, total := (p.count + e - 1) / e, req := req }
              .ok ((setVec (registerRanges s rg) t c (setStream x.vec k m)).addDueOnce (.beatArrival t c k)).retire
  | _ => .ok s
/-- sbind.fmt sA, gB (R247). -/
def execSbind (fmt : Fin 32) (a b : Reg) (s : State) : Host.Outcome State Fault Refusal := runInstr vecProfile s (sbindBody fmt.val a b)
/-- sunbind (R250). -/
def sunbindBody (a : Reg) (s : State) : Except Stop State :=
  match s.cur with
  | .thread t c => if (s.ctx t c).extResident = false then .error .wait else .ok (unbindStream s t c (a.val - 12)).retire
  | _ => .ok s
/-- sunbind sA (R250). -/
def execSunbind (a : Reg) (s : State) : Host.Outcome State Fault Refusal := runInstr vecProfile s (sunbindBody a)
/-- A stream's position moved by n beats: beats passed over raise nothing (R249, R250). -/
def advance (m : Stream) (n : Nat) : Stream :=
  if m.remain < n then { m with pos := m.total, ended := true, ahead := [] } else { m with pos := m.pos + n, ahead := m.ahead.drop n }
/-- sadv (R250). -/
def sadvBody (a b : Reg) (s : State) : Except Stop State :=
  match s.cur with
  | .thread t c =>
    let k := a.val - 12
    let v := (s.ctx t c).vec
    if (s.ctx t c).extResident = false then .error .wait
    else if (streamOf v k).bound = false then .error (.trap (illegalOp s))
    else .ok ((setVec s t c (setStream v k (advance (streamOf v k) (s.getG b).toNat))).addDueOnce (.beatArrival t c k)).retire
  | _ => .ok s
/-- sadv sA, gB (R250). -/
def execSadv (a b : Reg) (s : State) : Host.Outcome State Fault Refusal := runInstr vecProfile s (sadvBody a b)
/-- sstat (R250, Table 7.8). -/
def sstatBody (a b : Reg) (s : State) : Except Stop State :=
  match s.cur with
  | .thread t c =>
    if (s.ctx t c).extResident = false then .error .wait else .ok (alu a (streamWord (streamOf (s.ctx t c).vec (b.val - 12))) s)
  | _ => .ok s
/-- sstat gA, sB (R250). -/
def execSstat (a b : Reg) (s : State) : Host.Outcome State Fault Refusal := runInstr vecProfile s (sstatBody a b)
/-- Has a stream a beat to fetch: up to 4 ahead of its position, none past its last (R249). -/
def beatWanted (s : State) (t c k : Nat) : Bool :=
  let x := s.ctx t c
  let m := streamOf x.vec k
  m.bound && x.extResident && decide (m.ahead.length < 4) && decide (m.pos + m.ahead.length < m.total)
/-- BEAT_ARRIVAL: the next beat of a stream fetched (R249), once no earlier range forbids it (R217); the step stays due while it has to
wait and while there is a beat to fetch. -/
def beatBody (s : State) (t c k : Nat) : State :=
  let m := streamOf (s.ctx t c).vec k
  let s := regainLock s t c m
  if beatWanted s t c k = false then (if (rangeLacked s t c m).isEmpty then s else s.addDueOnce (.beatArrival t c k))
  else if streamClear s t c m = false then s.addDueOnce (.beatArrival t c k)
  else match fetchBeat s t c m (m.pos + m.ahead.length) with
    | .error _ => s.addDueOnce (.beatArrival t c k)
    | .ok (b, s') =>
      let v := (s'.ctx t c).vec
      let s' := setVec s' t c (setStream v k { m with ahead := m.ahead ++ [b] })
      if beatWanted s' t c k then s'.addDueOnce (.beatArrival t c k) else s'
/-- BEAT_ARRIVAL (R249). -/
def execBeatArrival (tile ctx stream : Nat) (s : State) : Host.Outcome State Fault Refusal := .next (beatBody s tile ctx stream)

end Sys2Proof.Machine
end

