-- ==== Sys2Proof/Machine/Zephyr.lean ====
section
/-! DEFINITION. The Zephyr copy engine (R272-R296): posting, sealing and waiting, movement programs, direct copies, copy faults and their answers. -/

namespace Sys2Proof.Machine

/-- The thread-side instructions of the Zephyr (Table 3.1). -/
def zthread : Profile := { core := false, engine := engZephyr }
/-- Movement-program instructions. -/
def zprogram : Profile := { thread := false, zephyr := true, core := false, engine := engZephyr }

/-! ## Descriptors (R276, R277) -/

/-- KIND. -/
def zKind (d : List Byte) : Nat := recFld d 1 0
/-- LIMIT. -/
def zLimit (d : List Byte) : Nat := recFld d 31 16
/-- ENTRY. -/
def zEntry (d : List Byte) : Nat := recFld d 309 256
/-- DST. -/
def zDst (d : List Byte) : Word := w64 (recFld d 127 64)
/-- SRC. -/
def zSrc (d : List Byte) : Word := w64 (recFld d 191 128)
/-- LEN. -/
def zLen (d : List Byte) : Nat := recFld d 215 192
/-- ROWS. -/
def zRows (d : List Byte) : Nat := recFld d 239 224
/-- SSTRIDE. -/
def zSstride (d : List Byte) : Int := sextN (recFld d 287 256) 32
/-- DSTRIDE. -/
def zDstride (d : List Byte) : Int := sextN (recFld d 319 288) 32
/-- A well-formed descriptor (Table 9.4 order 2); PHYS only for a kernel posting. -/
def descOk (d : List Byte) (kernel : Bool) : Bool :=
  let prog := zKind d == 1
  decide (zKind d ≤ 1) && recFld d 4 2 == 0 && recFld d 15 6 == 0 && recFld d 63 32 == 0 && recFld d 511 320 == 0 &&
  (kernel || recFld d 5 5 == 0) &&
  (if prog then decide (recFld d 255 224 ≤ 2 ^ 31) && decide (recFld d 223 192 ≤ 2 ^ 31)
   else recFld d 255 240 == 0 && recFld d 223 216 == 0 && decide (1 ≤ zRows d) && decide (1 ≤ zLen d) && zLimit d == 0)
/-- A declared range: its lowest byte's pointer and its length. -/
abbrev ZRange := Word × Nat
/-- The range that rows from p with a stride cover (R277). -/
def rowsRange (p : Word) (rows len : Nat) (stride : Int) : ZRange :=
  let span : Int := (rows - 1 : Nat) * stride
  (withAddr p (addrOf p + min 0 span), span.natAbs + len)
/-- The declared source range; none when its length is 0. -/
def srcRange (d : List Byte) : Option ZRange :=
  if zKind d = 1 then (if recFld d 255 224 = 0 then none else some (zSrc d, recFld d 255 224))
  else some (rowsRange (zSrc d) (zRows d) (zLen d) (zSstride d))
/-- The declared destination range. -/
def dstRange (d : List Byte) : Option ZRange :=
  if zKind d = 1 then (if recFld d 223 192 = 0 then none else some (zDst d, recFld d 223 192))
  else some (rowsRange (zDst d) (zRows d) (zLen d) (zDstride d))
/-- The pointer to the last byte of a range. -/
def lastByte (r : ZRange) : Word := withAddr r.1 (addrOf r.1 + (r.2 - 1 : Nat))
/-- Steps 1 to 3 of R194 on one byte, without translation (R281 step 3). -/
def boundTrap (s : State) (q : Req) (p : Word) : Option Trap :=
  if ptrOk p = false then some (memTrap 0x14 p)
  else
    let a := addrOf p
    if inHole a then some (memTrap 0x10 p)
    else if inLocal a then (match localPlace s q p a 1 with | .error t => some t | .ok _ => none)
    else if inCluster a then (match clusterPlace s q p a 1 with | .error t => some t | .ok _ => none)
    else none
/-- The first window fault of a list of ranges. -/
def rangesTrap (s : State) (q : Req) (l : List ZRange) : Option Trap :=
  l.findSome? fun r => (boundTrap s q r.1).or (boundTrap s q (lastByte r))
/-- The end of the window of Table 1.5 that an address lies in; none in the hole. -/
def windowEnd? (a : Nat) : Option Nat :=
  if inLocal a then some 0x20000 else if inHole a then none else if inCluster a then some (2 ^ 54) else some 0x3FFE0000000000
/-- Does a range of Table 1.5 not lie within one window (R277). -/
def spansWindows (r : ZRange) : Bool :=
  match windowEnd? (addrOf r.1) with
  | some e => decide (e < addrOf r.1 + r.2)
  | none => true
/-- Does a physical range lie within one entry of Table 1.6 (R277). -/
def physRangeOk (r : ZRange) : Bool :=
  let a := addrOf r.1 % 2 ^ 52
  (physEntry a).isSome && physEntry a == physEntry (a + (r.2 - 1))
/-- The declared ranges of a descriptor. -/
def declared (d : List Byte) : List ZRange := (srcRange d).toList ++ (dstRange d).toList
/-- May a write to a range reach shared memory (R281 step 5). -/
def reachesShared (s : State) (q : Req) (r : ZRange) : Bool :=
  let a := addrOf r.1
  if inLocal a then (match s.block? q.handle with
    | some b => (s.tile b.tile).allocs.any fun l => l.handle == q.handle && !l.dying && l.shared && decide (l.off < a + r.2) && decide (a < l.off + l.size)
    | none => false)
  else true
/-- The range-lock entries of a request. -/
def zephyrRanges (s : State) (t h tenant req : Nat) (task : Option Nat) (d : List Byte) : List RangeSpec :=
  let one (dst : Bool) (r : Option ZRange) : List RangeSpec :=
    match r with
    | some r => (rangeSpecs s t h tenant engZephyr req task dst (addrOf r.1) r.2)
    | none => []
  one false (srcRange d) ++ one true (dstRange d)
/-- The range-lock entries of a physical request (R277). -/
def zephyrPhysRanges (_s : State) (t req : Nat) (d : List Byte) : List RangeSpec :=
  let one (dst : Bool) (r : ZRange) : List RangeSpec := physSpecs t req dst (addrOf r.1 % 2 ^ 52) r.2
  (srcRange d).toList.flatMap (one false) ++ (dstRange d).toList.flatMap (one true)

/-! ## Posting, sealing, waiting (R279-R285) -/

/-- BADDESC, BADRANGE, BATCHFULL, ZQFULL (Table 9.4). -/
def zBadDesc : Word := 0x8000000000000003
/-- A range spans two windows. -/
def zBadRange : Word := 0x8000000000000005
/-- OPENCNT is 255. -/
def zBatchFull : Word := 0x8000000000000002
/-- No free queue entry. -/
def zQueueFull : Word := 0x8000000000000001
/-- Queued requests of a tile looked at again. -/
def kickRequests (s : State) (t : Nat) : State :=
  (s.tile t).zreqs.foldl (fun s r => if r.state = .queued then s.addDueOnce (.requestActivation t r.uid) else s) s
/-- A request entered in a tile's queue. -/
def enqueueRequest (s : State) (t : Nat) (r : ZReq) : State :=
  let x := s.tile t
  (s.setTile t { x with zreqs := x.zreqs ++ [r] }).addDueOnce (.requestActivation t r.uid)
/-- The descriptor at p read as an ordinary load: 64 bytes, and 64 more for a program (R281 step 1). -/
def readDesc (s : State) (q : Req) (p : Word) : Except Stop (List Byte × State) :=
  match memLoad s q false p 64 with
  | .error e => .error e
  | .ok (d, s) =>
    if zKind d = 1 then
      (match memLoad s q false (withAddr p (addrOf p + 64)) 64 with
       | .error e => .error e
       | .ok (d', s) => .ok (d ++ d', s))
    else .ok (d, s)
/-- The queue entry of a zpost reserved, with its descriptor, or given up. -/
def setPosting (s : State) (t c : Nat) (d : List Byte) : State := s.setCtx t c { s.ctx t c with posting := d }
/-- zpost from its step 5 on, the entry reserved: the task serialising where the copy may write shared memory, the ranges registered, the request
Queued (R281). -/
def zpostRest (a : Reg) (t c kid : Nat) (d : List Byte) (s : State) : Except Stop State :=
  let q := threadReq s t c
  match (if (dstRange d).toList.any (reachesShared s q) then settle s q else .ok s) with
  | .error e => .error (e.keptIn s)
  | .ok s =>
    let (uid, s') := s.fresh
    let rg := zephyrRanges s' t q.handle q.tenant uid q.task d
    if rangesFit s' rg = false then .error (.kept s none)
    else match s'.task? kid with
      | none => .ok s'
      | some k =>
        let id := k.zopen * 2 ^ 8 + k.zcount
        let r : ZReq :=
          { uid := uid, handle := q.handle, task := some kid, tenant := q.tenant, world := worldOf s' q.tenant, id := id
            desc := d, isProgram := zKind d == 1 }
        let s := setPosting (s'.setTask kid { k with zcount := k.zcount + 1 }) t c []
        .ok (alu a (w64 id) (enqueueRequest (registerRanges s rg) t r))
/-- zpost (R281); one that waits at its step 5 or 6 goes on from there. -/
def zpostBody (a b : Reg) (s : State) : Except Stop State :=
  match s.cur with
  | .thread t c =>
    let q := threadReq s t c
    let p := s.getG b
    (match q.task, q.task? s with
     | some kid, some k =>
       if (s.ctx t c).posting ≠ [] then zpostRest a t c kid (s.ctx t c).posting s
       else match readDesc s q p with
         | .error e => .error e
         | .ok (d, s) =>
           if p.toNat % 64 ≠ 0 ∨ descOk d false = false then .ok (alu a zBadDesc s)
           else match rangesTrap s q (declared d) with
             | some tr => .error (.trap tr)
             | none =>
               if (declared d).any spansWindows then .ok (alu a zBadRange s)
               else if k.zcount = 255 then .ok (alu a zBatchFull s)
               else if 32 ≤ queueUsed s t then .ok (alu a zQueueFull s)
               else zpostRest a t c kid d (setPosting s t c d)
     | _, _ => .ok s)
  | _ => .ok s
/-- zpost gA, gB (R281). -/
def execZpost (a b _la : Reg) (s : State) : Host.Outcome State Fault Refusal := runInstr zthread s (zpostBody a b)
/-- BADBATCH (R285). -/
def badBatch (k : Task) : Trap := { code := 0x19, engine := engZephyr, info := w64 k.zopen }
/-- The task of the current thread. -/
def curTask? (s : State) : Option (Nat × Task) :=
  match s.cur with
  | .thread t c => (s.ctx t c).task.bind fun k => (s.task? k).map fun x => (k, x)
  | _ => none
/-- bseal (R282). -/
def bsealBody (a : Reg) (s : State) : Except Stop State :=
  match curTask? s with
  | some (kid, k) =>
    if k.zopen = 0xFFFFFFFF then .error (.trap (badBatch k))
    else .ok (alu a (w64 k.zopen) (s.setTask kid { k with zopen := k.zopen + 1, zcount := 0 }))
  | none => .ok s
/-- bseal gA (R282). -/
def execBseal (a : Reg) (s : State) : Host.Outcome State Fault Refusal := runInstr zthread s (bsealBody a)
/-- Has a task a request of a batch up to m that is not Done (R283). -/
def batchOpen (s : State) (kid m : Nat) : Bool := s.tiles.any fun p => p.2.zreqs.any fun r => r.task == some kid && decide (r.id / 2 ^ 8 ≤ m)
/-- bwait (R283): a reported failure is removed before the trap. Of several the one that became Done first is reported first (DESIGN CHOICE, log
entry 93: the rule names none). -/
def bwaitBody (b c : Reg) (s : State) : Except Stop State :=
  match curTask? s with
  | some (kid, k) =>
    let bn := fld (s.getG b) 31 0
    let n := fld (s.getG c) 31 0
    if k.zopen ≤ bn then .error (.trap (badBatch k))
    else if bn < n then .ok s.retire
    else if batchOpen s kid (bn - n) then .error .wait
    else match k.zfailed.find? fun f => decide (f.1 / 2 ^ 8 ≤ bn - n) with
      | some f =>
        .ok (raise (s.setTask kid { k with zfailed := k.zfailed.erase f })
          { code := 0x1A, engine := engZephyr, info := w64 (f.1 + f.2 % 2 ^ 8 * 2 ^ 40) })
      | none => .ok s.retire
  | none => .ok s
/-- bwait gB, gC (R283). -/
def execBwait (b c : Reg) (s : State) : Host.Outcome State Fault Refusal := runInstr zthread s (bwaitBody b c)
/-- The word of Table 9.5. -/
def zstatWord (s : State) (t kid : Nat) (k : Task) : Word :=
  let waits := s.tiles.any fun p => p.2.zreqs.any fun r => r.task == some kid && r.state == .faulted
  w64 (boolNat waits * 2 ^ 63 + k.zcount * 2 ^ 48 + (32 - queueUsed s t) * 2 ^ 40 + min k.zfailed.length 255 * 2 ^ 32 + k.zopen)
/-- zstat (R284). -/
def zstatBody (a : Reg) (s : State) : Except Stop State :=
  match s.cur, curTask? s with
  | .thread t _, some (kid, k) => .ok (alu a (zstatWord s t kid k) s)
  | _, _ => .ok s
/-- zstat gA (R284). -/
def execZstat (a : Reg) (s : State) : Host.Outcome State Fault Refusal := runInstr zthread s (zstatBody a)

/-! ## The copies (R278, R287-R289) -/

/-- A physical request's places (R35, R118): the tag, then no window and no translation. -/
def resolvePhys (s : State) (q : Req) (p : Word) (n : Nat) : Except Trap (List Place × State) :=
  let start : Except Trap (List Place × State) := if ptrOk p then .ok ([], s) else .error { code := 0x14, engine := engZephyr, addr := p }
  (segments (addrOf p) n).foldl (fun r g =>
    match r with
    | .error t => .error t
    | .ok (xs, s) =>
      let pa := g.1 % 2 ^ 52
      if physListed s pa then .ok (xs ++ [physPlace q g.1 pa g.2 false], s) else .error { code := 0x13, engine := engZephyr, addr := withAddr p g.1 }) start
/-- R288 checks 1 and 2 on n bytes. -/
def zephyrPlaces (s : State) (q : Req) (acc : AccKind) (p : Word) (n : Nat) : Except Trap (List Place × State) :=
  if q.phys then resolvePhys s q p n else resolveAll s q acc p n
/-- Is an address in a declared range. -/
def inRange (r : Option ZRange) (a : Nat) : Bool :=
  match r with
  | some r => decide ((a + 2 ^ 54 - addrOf r.1) % 2 ^ 54 < r.2)
  | none => false
/-- R288 check 3 for a program: the first byte outside the declared ranges; a read may use both, a write only the destination. -/
def undeclared (r : ZReq) (write : Bool) (p : Word) (n : Nat) : Option Trap :=
  if r.isProgram = false then none
  else
    let ok (a : Nat) : Bool := inRange (dstRange r.desc) a || (!write && inRange (srcRange r.desc) a)
    ((List.range n).find? fun k => !ok ((addrOf p + k) % 2 ^ 54)).map fun k =>
      { code := 0x31, engine := engZephyr, addr := withAddr p (addrOf p + k) }
/-- Every check of R288 on n bytes. -/
def zephyrCheck (s : State) (q : Req) (r : ZReq) (write : Bool) (p : Word) (n : Nat) : Except Trap (List Place × State) :=
  match zephyrPlaces s q (if write then .write else .read) p n with
  | .error t => .error t
  | .ok x => match undeclared r write p n with
    | some t => .error t
    | none => .ok x
/-- An immediate write of an engine whose task is already serialising where it reaches shared memory (R289). -/
def engineWrite (s : State) (q : Req) (xs : List Place) (bs : List Byte) : Except Stop State :=
  if writesWait s q xs then .error .wait else .ok (noteWrite (writeNowAll s q xs bs) q xs)
/-- Bytes at p read by a request. -/
def zephyrRead (s : State) (q : Req) (r : ZReq) (p : Word) (n : Nat) : Except Stop (List Byte × State) :=
  match zephyrCheck s q r false p n with
  | .error t => .error (.trap t)
  | .ok (xs, s) => match readPlaces s q true xs with
    | .error h => .error (holdStop h)
    | .ok x => .ok x
/-- Bytes written at p by a request. -/
def zephyrWrite (s : State) (q : Req) (r : ZReq) (p : Word) (bs : List Byte) : Except Stop State :=
  match zephyrCheck s q r true p bs.length with
  | .error t => .error (.trap t)
  | .ok (xs, s) => engineWrite s q xs bs
/-- A copy: row k from row pointer src to dst. -/
structure Copy where
  src : Word
  dst : Word
  sstride : Int
  dstride : Int
  rows : Nat
  len : Nat
/-- The source pointer of row k (R278). -/
def Copy.srcRow (c : Copy) (k : Nat) : Word := withAddr c.src (addrOf c.src + k * c.sstride)
/-- The destination pointer of row k. -/
def Copy.dstRow (c : Copy) (k : Nat) : Word := withAddr c.dst (addrOf c.dst + k * c.dstride)
/-- Every row checked from row k on, source before destination: the fault and its row. -/
def checkRows (s : State) (q : Req) (r : ZReq) (c : Copy) : Nat → Nat → Option (Nat × Trap)
  | 0, _ => none
  | n + 1, k =>
    match zephyrCheck s q r false (c.srcRow k) c.len with
    | .error t => some (k, t)
    | .ok _ => match zephyrCheck s q r true (c.dstRow k) c.len with
      | .error t => some (k, t)
      | .ok _ => checkRows s q r c n (k + 1)
/-- One row checked, read in full and written (R278). -/
def copyRow (s : State) (q : Req) (r : ZReq) (c : Copy) (k : Nat) : Except Stop State :=
  match zephyrCheck s q r true (c.dstRow k) c.len with
  | .error t =>
    (match zephyrCheck s q r false (c.srcRow k) c.len with
     | .error t' => .error (.trap t')
     | .ok _ => .error (.trap t))
  | .ok _ => match zephyrRead s q r (c.srcRow k) c.len with
    | .error e => .error e
    | .ok (bs, s) => zephyrWrite s q r (c.dstRow k) bs
/-- Rows from k on copied in order: the state, the row reached, and the stop that ended it early. -/
def copyRows (s : State) (q : Req) (r : ZReq) (c : Copy) : Nat → Nat → State × Nat × Option Stop
  | 0, k => (s, k, none)
  | n + 1, k =>
    match copyRow s q r c k with
    | .error e => (s, k, some e)
    | .ok s' => copyRows s' q r c n (k + 1)
/-- The copy a direct descriptor describes. -/
def directCopy (d : List Byte) : Copy :=
  { src := zSrc d, dst := zDst d, sstride := zSstride d, dstride := zDstride d, rows := zRows d, len := zLen d }
/-- A request by its name on a tile. -/
def zreq? (s : State) (t uid : Nat) : Option ZReq := (s.tile t).zreqs.find? fun r => r.uid == uid
/-- A free request context of a tile (R272). -/
def freeZc (s : State) (t : Nat) : Option Nat := (List.range 4).find? fun k => (s.zreqOf? t k).isNone
/-- An Active direct request's rows copied as far as they go (R278): a fault stops it at its row, a wait leaves the step due. -/
def runDirect (s : State) (t : Nat) (r : ZReq) (again : Instr) : State :=
  let q := zephyrReq s t (r.zc.getD 0) r
  let c := directCopy r.desc
  let x := copyRows s q r c (c.rows - r.row) r.row
  let r' := if r.row < x.2.1 then passed { r with row := x.2.1 } else { r with row := x.2.1 }
  match x.2.2 with
  | none => (x.1.setZreq t { r' with state := .draining }).addDueOnce (.requestDone t r.uid)
  | some (.trap tr) => takeCopyFault x.1 t r' { tr with engine := engZephyr, pc := some (w64 x.2.1) }
  | some _ => (x.1.setZreq t r').addDueOnce again
/-- A request made Active (R275): on its first time a program takes its registers and its ENTRY, which must be a valid target (R288). -/
def makeActive (s : State) (t zc : Nat) (r : ZReq) (again : Instr) : State :=
  let r := { r with state := .active, zc := some zc, since := s.cycle, succ := none }
  if r.isProgram = false then runDirect (s.setZreq t r) t r again
  else if r.started then s.setZreq t r
  else
    let e := w64 (zEntry r.desc)
    let r1 := { r with z := Vector.ofFn fun i => dword r.desc (8 + i.val), zrows := 1, sstride := 0, dstride := 0, pc := e }
    let s1 := s.setZreq t r1
    match checkTarget s1 (.zephyr t zc) e (zEntry r.desc) with
    | .error (.trap tr) => takeCopyFault s1 t r1 { tr with engine := engZephyr, info := if tr.code = 0x16 then tr.info else 0 }
    | .error _ => s1
    | .ok _ => s1.setZreq t { r1 with started := true }
/-- May a Queued request become Active (Table 9.1). -/
def mayActivate (s : State) (t : Nat) (r : ZReq) : Bool :=
  r.state == .queued && (freeZc s t).isSome && rangesClear s r.uid &&
  ((s.tile t).zreqs.takeWhile fun x => x.uid != r.uid).all fun x => x.state != .queued || !rangesClear s x.uid
/-- REQUEST_ACTIVATION: a Queued request becomes Active, or an Active direct request goes on. -/
def requestBody (s : State) (t uid : Nat) : State :=
  let again : Instr := .requestActivation t uid
  match zreq? s t uid with
  | none => s
  | some r =>
    if r.state = .queued then
      (if mayActivate s t r then (match freeZc s t with | some zc => makeActive s t zc r again | none => s) else s.addDueOnce again)
    else if r.state = .active ∧ r.isProgram = false then runDirect s t r again
    else s
/-- REQUEST_ACTIVATION (R272, R275). -/
def execRequestActivation (tile entry : Nat) (s : State) : Host.Outcome State Fault Refusal := .next (requestBody s tile entry)
/-- A request Done with a status (R273, R283, R290): its ranges are released, its entry freed, a failure recorded for its task; of a kernel's
request the posting core is told. -/
def finishRequest (s : State) (t : Nat) (r : ZReq) (status : Nat) : State :=
  let x := s.tile t
  let s := releaseRanges (s.setTile t { x with zreqs := x.zreqs.filter fun q => q.uid != r.uid }) r.uid
  let s := match r.poster with
    | some (i, k) => s.setCore i k { s.core i k with kdone := (s.core i k).kdone ++ [(r.id, status)] }
    | none => s
  let s := if status = 0 then s else
    (match r.task with
     | some k => (match s.task? k with | some y => s.setTask k { y with zfailed := y.zfailed ++ [(r.id, status)] } | none => s)
     | none => s)
  kickRequests s t
/-- REQUEST_DONE: a Draining request is Done. -/
def requestDoneBody (s : State) (t uid : Nat) : State :=
  match zreq? s t uid with
  | some r => if r.state = .draining then finishRequest s t r r.status else s
  | none => s
/-- REQUEST_DONE (R273). -/
def execRequestDone (tile entry : Nat) (s : State) : Host.Outcome State Fault Refusal := .next (requestDoneBody s tile entry)
/-- Has a program request exceeded its LIMIT (R288). -/
def overLimit (s : State) (r : ZReq) : Bool :=
  r.state == .active && r.isProgram && zLimit r.desc != 0 && decide (zLimit r.desc * 1024 < r.activeFor + (s.cycle - r.since))
/-- ZLIMIT: a copy fault at the next instruction (R288). -/
def zlimitBody (s : State) (t uid : Nat) : State :=
  match zreq? s t uid with
  | some r => if overLimit s r then takeCopyFault s t r { code := 0x33, engine := engZephyr } else s
  | none => s
/-- ZLIMIT (R288). -/
def execZlimit (tile entry : Nat) (s : State) : Host.Outcome State Fault Refusal := .next (zlimitBody s tile entry)

/-! ## Movement-program instructions (R286-R288) -/

/-- A movement-program instruction of the request of the current Zephyr context. -/
def zephyrBody (f : Nat → ZReq → State → Except Stop State) (s : State) : Except Stop State :=
  match s.cur with
  | .zephyr t zc => (match s.zreqOf? t zc with | some r => f t r s | none => .ok s)
  | _ => .ok s
/-- Register zK of a request. -/
def zreg (r : ZReq) (k : Reg) : Word := r.z.toList.getD k.val 0
/-- ADD(p, v) (R287). -/
def zadd (p : Word) (v : Int) : Word := withAddr p (addrOf p + v)
/-- A request's register written, then the fall-through. -/
def zput (t : Nat) (r : ZReq) (k : Reg) (v : Word) (s : State) : State := (s.setZreq t { r with z := r.z.setIfInBounds k.val v }).retire
/-- A register operation. -/
def execZreg (a : Reg) (f : ZReq → Word) (s : State) : Host.Outcome State Fault Refusal :=
  runInstr zprogram s (zephyrBody fun t r s => .ok (zput t r a (f r) s))
/-- zli zA, imm. -/
def execZli (a : Reg) (imm : BitVec 32) (s : State) : Host.Outcome State Fault Refusal := execZreg a (fun _ => imm.signExtend 64) s
/-- zmov zA, zB. -/
def execZmov (a b : Reg) (s : State) : Host.Outcome State Fault Refusal := execZreg a (fun r => zreg r b) s
/-- zadd zA, zB, zC. -/
def execZaddXD (a b c : Reg) (s : State) : Host.Outcome State Fault Refusal := execZreg a (fun r => zadd (zreg r b) (zreg r c).toInt) s
/-- zadd zA, zB, imm. -/
def execZaddXI (a b : Reg) (imm : BitVec 32) (s : State) : Host.Outcome State Fault Refusal := execZreg a (fun r => zadd (zreg r b) imm.toInt) s
/-- zsub zA, zB, zC. -/
def execZsubXD (a b c : Reg) (s : State) : Host.Outcome State Fault Refusal := execZreg a (fun r => zadd (zreg r b) (-(zreg r c).toInt)) s
/-- zsub zA, zB, imm. -/
def execZsubXI (a b : Reg) (imm : BitVec 32) (s : State) : Host.Outcome State Fault Refusal := execZreg a (fun r => zadd (zreg r b) (-imm.toInt)) s
/-- The requester of a request. -/
def zreqReq (s : State) (t : Nat) (r : ZReq) : Req := zephyrReq s t (r.zc.getD 0) r
/-- zld (R287, R288). -/
def execZld (a b c : Reg) (s : State) : Host.Outcome State Fault Refusal :=
  runInstr zprogram s (zephyrBody fun t r s =>
    match zephyrRead s (zreqReq s t r) r (zadd (zreg r b) (zreg r c).toInt) 8 with
    | .error e => .error e
    | .ok (bs, s) => .ok (zput t (passed r) a (w64 (fromBytes bs)) s))
/-- zst (R287, R288). -/
def execZst (a b c : Reg) (s : State) : Host.Outcome State Fault Refusal :=
  runInstr zprogram s (zephyrBody fun t r s =>
    match zephyrWrite s (zreqReq s t r) r (zadd (zreg r b) (zreg r c).toInt) (toBytes 8 (zreg r a).toNat) with
    | .error e => .error e
    | .ok s => .ok (s.setZreq t (passed r)).retire)
/-- ZARG (R288). -/
def zArg : Trap := { code := 0x34, engine := engZephyr }
/-- zcopy: every row is checked before the first is copied (R287, R288); a row that has to wait is where it goes on. -/
def zcopyBody (a b c : Reg) (t : Nat) (r : ZReq) (s : State) : Except Stop State :=
  let n := (zreg r c).toNat
  if 16777215 < n then .error (.trap zArg)
  else if n = 0 then .ok s.retire
  else
    let q := zreqReq s t r
    let cp : Copy := { src := zreg r b, dst := zreg r a, sstride := r.sstride, dstride := r.dstride, rows := r.zrows, len := n }
    match checkRows s q r cp (cp.rows - r.row) r.row with
    | some (_, tr) => .error (.trap tr)
    | none =>
      let x := copyRows s q r cp (cp.rows - r.row) r.row
      match x.2.2 with
      | none => .ok (x.1.setZreq t (passed { r with row := 0 })).retire
      | some _ => .ok (x.1.setZreq t { r with row := x.2.1 })
/-- zcopy zA, zB, zC (R287, R288). -/
def execZcopy (a b c : Reg) (s : State) : Host.Outcome State Fault Refusal := runInstr zprogram s (zephyrBody (zcopyBody a b c))
/-- zstride zB, zC (R287, R288). -/
def execZstride (b c : Reg) (s : State) : Host.Outcome State Fault Refusal :=
  runInstr zprogram s (zephyrBody fun t r s =>
    if fld (zreg r b) 15 0 = 0 then .error (.trap zArg)
    else .ok (s.setZreq t { r with
      zrows := fld (zreg r b) 15 0, sstride := sextN (fld (zreg r c) 31 0) 32, dstride := sextN (fld (zreg r c) 63 32) 32 }).retire)
/-- zdone zB (R287): the request is Draining with its status. -/
def execZdone (b : Reg) (s : State) : Host.Outcome State Fault Refusal :=
  runInstr zprogram s (zephyrBody fun t r s =>
    .ok { (s.setZreq t { r with state := .draining, status := fld (zreg r b) 7 0 }).addDueOnce (.requestDone t r.uid) with retired := true })
/-- zhalt (R287): a copy fault at itself; the successor that Continue takes is that of its code line now (R47). -/
def execZhalt (s : State) : Host.Outcome State Fault Refusal :=
  runInstr zprogram s (zephyrBody fun t r s =>
    .error (.kept (s.setZreq t { r with succ := some (w64 (nextPc s s.cur r.pc.toNat)) }) (some { code := 0x32, engine := engZephyr })))
/-- A jump of a movement program when a condition holds. -/
def execZjump (cond : ZReq → Bool) (loff : Int) (slot : Nat) (s : State) : Host.Outcome State Fault Refusal :=
  runInstr zprogram s (zephyrBody fun _ r s => if cond r then takeTransfer (jTarget s.getPc loff slot) false false s else .ok s.retire)
/-- zjmp target with a J tail. -/
def execZjmpJ (loff : BitVec 11) (slot : BitVec 5) (s : State) : Host.Outcome State Fault Refusal := execZjump (fun _ => true) loff.toInt slot.toNat s
/-- zjmp target with a JL tail. -/
def execZjmpJL (loff : BitVec 27) (slot : BitVec 5) (s : State) : Host.Outcome State Fault Refusal := execZjump (fun _ => true) loff.toInt slot.toNat s
/-- zbnz zA, target with a J tail. -/
def execZbnzJ (a : Reg) (loff : BitVec 11) (slot : BitVec 5) (s : State) : Host.Outcome State Fault Refusal :=
  execZjump (fun r => zreg r a != 0) loff.toInt slot.toNat s
/-- zbnz zA, target with a JL tail. -/
def execZbnzJL (a : Reg) (loff : BitVec 27) (slot : BitVec 5) (s : State) : Host.Outcome State Fault Refusal :=
  execZjump (fun r => zreg r a != 0) loff.toInt slot.toNat s

/-! ## Resume packets for copy requests (R292, R293) -/

/-- The Faulted request that a packet answers: the target names the block and the thread as Table 9.7 gives them (R292). -/
def answered? (s : State) (tenant target req fseq : Nat) : Option (Nat × ZReq) :=
  s.tiles.findSome? fun p =>
    (p.2.zreqs.find? fun r =>
      r.state == .faulted && r.handle == target % 2 ^ 24 && r.id == req && r.fseq == fseq && presides tenant r.tenant &&
        (match r.task.bind s.task? with | some k => (s.ctx k.tile k.ctx).tid == target / 2 ^ 24 % 64 | none => true)).map fun r => (p.1, r)
/-- A Faulted request made Active again once a context is free; until then the packet stays due. -/
def answer (s : State) (t : Nat) (r : ZReq) (packet : Instr) : State :=
  match freeZc s t with
  | some zc => makeActive s t zc r (if r.isProgram then packet else .requestActivation t r.uid)
  | none => s.addDueOnce packet
/-- RETRY: the faulting instruction or row again (Table 9.9). -/
def execRetry (tenant handle req fseq : Nat) (s : State) : Host.Outcome State Fault Refusal :=
  .next (match answered? s tenant handle req fseq with
    | some (t, r) => answer s t r (.retry tenant handle req fseq)
    | none => s)
/-- A request with its PC moved past a zhalt (Table 9.9). -/
def pastHalt (r : ZReq) : ZReq :=
  match r.succ with
  | some n => if r.faultCode = 0x32 then { r with pc := n } else r
  | none => r
/-- CONTINUE: after ZHALT the instruction after it, otherwise a Retry (Table 9.9). -/
def execContinue (tenant handle req fseq : Nat) (s : State) : Host.Outcome State Fault Refusal :=
  .next (match answered? s tenant handle req fseq with
    | some (t, r) => answer s t (pastHalt r) (.continue_ tenant handle req fseq)
    | none => s)
/-- FAIL: Done and failed, with status 0xFF for 0 (Table 9.9). -/
def execFail (tenant handle req fseq status : Nat) (s : State) : Host.Outcome State Fault Refusal :=
  .next (match answered? s tenant handle req fseq with
    | some (t, r) => finishRequest s t r (if status % 256 = 0 then 0xFF else status % 256)
    | none => s)

/-! ## Kernel postings (R290) -/

/-- Do the ranges of a kernel's descriptor meet R277. -/
def kernelRangesOk (phys : Bool) (d : List Byte) : Bool := (declared d).all fun r => if phys then physRangeOk r else !spansWindows r
/-- KPOST: a request for no task from a descriptor at a physical address. One that is malformed or finds the queue full, or names an absent tile
(R4), is dropped (log entry 16); its name in the model is its request id. -/
def kpostBody (s : State) (i k t addr : Nat) : State :=
  let d := readPhys s addr 64
  let d := if zKind d = 1 then d ++ readPhys s (addr + 64) 64 else d
  let s := meetAt s addr d.length
  let phys := recFld d 5 5 == 1
  if tilePresent s t = false ∨ addr % 64 ≠ 0 ∨ descOk d true = false ∨ kernelRangesOk phys d = false ∨ 32 ≤ queueUsed s t then s
  else
    let (uid, s) := s.fresh
    let rg := if phys then zephyrPhysRanges s t uid d else zephyrRanges s t 0 0 uid none d
    if rangesFit s rg = false then s.addDue (.kpost i k t addr)
    else enqueueRequest (registerRanges s rg) t
      { uid := uid, id := uid, world := true, desc := d, isProgram := zKind d == 1, phys := phys, poster := some (i, k) }
/-- KPOST (R290). -/
def execKpost (island core tile addr : Nat) (s : State) : Host.Outcome State Fault Refusal := .next (kpostBody s island core tile addr)

end Sys2Proof.Machine
end

