-- ==== Sys2Proof/Machine/Matrix.lean ====
section
/-! DEFINITION. The matrix engine (R297-R334), and the instruction boundary at which a thread is taken (R65, R318). -/

namespace Sys2Proof.Machine

/-- The matrix engine's instructions: threads only (Table 3.1). -/
def matProfile : Profile := { core := false, engine := engMatrix }
/-- The MATRIX trap (R330, Table 10.9). -/
def matTrap (acc reason : Nat) (p : Word := 0) : Trap := { code := 0x1B, engine := engMatrix, addr := p, info := w64 (acc * 2 ^ 8 + reason) }

/-! ## Modes and panels (R297-R300) -/

/-- UQ8 or UQ4. -/
def isGroupFmt (f : Nat) : Bool := f == 10 || f == 11
/-- FP16 or BF16. -/
def isHalfFmt (f : Nat) : Bool := f == 6 || f == 7
/-- Modes of Table 10.1: 0 Grouped, 1 Float, 2 Mixed, 3 Binary. -/
def modeOf (wide : Bool) (xm af ag bf bg : Nat) : Option Nat :=
  if xm = 7 then (if !wide && af == 12 && bf == 12 then some 3 else none)
  else if wide then
    (if isHalfFmt af && isHalfFmt bf then some 1 else if isGroupFmt af && isHalfFmt bf then some 2 else none)
  else if isGroupFmt af && isGroupFmt bf && ag == bg then some 0 else none
/-- Does A's format form a mode with some B for the tile and the instruction (R330). -/
def aFormsMode (wide : Bool) (xm af : Nat) : Bool :=
  if xm = 7 then !wide && af == 12 else isGroupFmt af || (wide && isHalfFmt af)
/-- STEPK (Table 10.1). -/
def stepOf (mode glog : Nat) : Nat := if mode = 1 then 32 else if mode = 3 then 64 else 2 ^ glog
/-- K indices of a unit (Table 10.2). -/
def unitLen (fmt glog : Nat) : Nat := if isGroupFmt fmt then 2 ^ glog else if fmt = 12 then 64 else 32
/-- Bytes of a unit of one row (Tables 4.7 and 10.2). -/
def unitBytes (fmt glog : Nat) : Nat :=
  if fmt = 10 then 4 + 2 ^ glog else if fmt = 11 then 4 + 2 ^ glog / 2 else if fmt = 12 then 8 else 64
/-- PART: the bytes of one step for an operand of r rows. -/
def partBytes (fmt glog stepk r : Nat) : Nat := r * unitBytes fmt glog * (stepk / unitLen fmt glog)
/-- Code k of a group record of row i in a part of one group. -/
def groupCode (fmt : Nat) (rec : List Byte) (k : Nat) : Nat :=
  if fmt = 10 then leAt rec (4 + k) 1 else leAt rec (4 + k / 2) 1 / 2 ^ (4 * (k % 2)) % 16
/-- The unit u of row i of a part with r rows. -/
def unitOf (part : List Byte) (ub r u i : Nat) : List Byte := (part.drop ((u * r + i) * ub)).take ub
/-- RESULTMODE: FP32 for mmac, mmacm and mmacs, INT32 for mbin (R302). -/
def resultMode (xm : Nat) : Nat := if xm = 7 then 2 else 1

/-! ## Folds (R120-R123, R298, R299) -/

/-- The value of element k of row i of a float or grouped operand, with FPSTAT and QFLAGS of its read (R104, R298). -/
def elemOf (fmt glog r : Nat) (part : List Byte) (i k : Nat) : FpVal × Word × Word :=
  let ub := unitBytes fmt glog
  let rec_ := unitOf part ub r (k / unitLen fmt glog) i
  if isGroupFmt fmt then
    let d := leAt rec_ 0 4
    (elemValue d (groupCode fmt rec_ (k % unitLen fmt glog)), 0, descFlags d)
  else
    let f : FpFmt := if fmt = 6 then .fp16 else .bf16
    let v := f.read (leAt rec_ (2 * (k % 32)) 2)
    (v.1, v.2, 0)
/-- isum of a group (R120). -/
def groupSum (fa fb glog : Nat) (ra rb : List Byte) : Int :=
  let za := descZero (leAt ra 0 4)
  let zb := descZero (leAt rb 0 4)
  (List.range (2 ^ glog)).foldl (fun acc k => acc + ((groupCode fa ra k : Int) - za) * ((groupCode fb rb k : Int) - zb)) 0
/-- One element folded over one step: its new bits, FPSTAT flags and QFLAGS. -/
def foldElem (o : MatOp) (mode : Nat) (pa pb : List Byte) (i j acc : Nat) : Nat × Word × Word :=
  match mode with
  | 0 =>
    let ra := unitOf pa (unitBytes o.aFmt o.glog) o.m 0 i
    let rb := unitOf pb (unitBytes o.bFmt o.glog) o.n 0 j
    foldGroup acc (groupSum o.aFmt o.bFmt o.glog ra rb) (leAt ra 0 4) (leAt rb 0 4)
  | 3 => (foldBin acc 64 (leAt pa (8 * i) 8) (leAt pb (8 * j) 8) (o.mx == 1), 0, 0)
  | _ =>
    (List.range (o.stepk / 32)).foldl (fun a blk =>
      let es := (List.range 32).map fun k =>
        (elemOf o.aFmt o.glog o.m pa i (32 * blk + k), elemOf o.bFmt o.glog o.n pb j (32 * blk + k))
      let r := foldBlock a.1 (es.map fun e => (e.1.1, e.2.1))
      (r.1, es.foldl (fun f e => f ||| e.1.2.1 ||| e.2.2.1) (a.2.1 ||| r.2), es.foldl (fun f e => f ||| e.1.2.2 ||| e.2.2.2) a.2.2)) (acc, 0, 0)
/-- The mode of an operation. -/
def MatOp.mode (o : MatOp) : Nat := if o.xm = 7 then 3 else if isGroupFmt o.aFmt then (if isGroupFmt o.bFmt then 0 else 2) else 1
/-- One step folded into the M × N corner. -/
def foldCells (o : MatOp) (pa pb : List Byte) (cells : Map Nat Nat) : Map Nat Nat × Word × Word :=
  let l := (List.range 1024).map fun idx =>
    let old := mget cells 0 idx
    if idx / 32 < o.m ∧ idx % 32 < o.n then (idx, foldElem o o.mode pa pb (idx / 32) (idx % 32) old) else (idx, (old, 0, 0))
  (l.filterMap fun p => if p.2.1 = 0 then none else some (p.1, p.2.1),
   l.foldl (fun f p => f ||| p.2.2.1) 0, l.foldl (fun f p => f ||| p.2.2.2) 0)

/-! ## Accumulators (R302-R306) -/

/-- Accumulator a of a context. -/
def accOf (x : Ctx) (a : Nat) : Acc := x.mat.a.toList.getD a {}
/-- A context's accumulator replaced. -/
def setAcc (s : State) (t c a : Nat) (v : Acc) : State :=
  let x := s.ctx t c
  s.setCtx t c { x with mat := { x.mat with a := x.mat.a.setIfInBounds a v } }
/-- Does a queued operation name accumulator a of a context. -/
def accNamed (s : State) (t c a : Nat) : Bool := (s.tile t).matq.any fun m => m.ctx == c && m.acc == a
/-- Is accumulator a of a context held in a physical accumulator. -/
def accHeld (s : State) (t c a : Nat) : Bool := (s.tile t).physAcc.any fun e => e.1 == c && e.2.1 == a
/-- A physical accumulator freed of its least recently used owner that no queued operation names (R305); an owner whose image cannot be
translated stops with IMAGEFAULT and keeps it. -/
def evictAcc (s : State) (t : Nat) : List (Nat × Nat × Bool) → Option State
  | [] => none
  | (c, a, d) :: r =>
    if accNamed s t c a then evictAcc s t r
    else
      let wb := if d then writeAcc s t c a else (s, none)
      match wb.2 with
      | none =>
        let x := wb.1.tile t
        some (wb.1.setTile t { x with physAcc := x.physAcc.filter fun e => !(e.1 == c && e.2.1 == a) })
      | some f =>
        evictAcc (if stoppable (s.ctx t c) then trapImage wb.1 t c f else wb.1) t r
/-- The physical accumulator of accumulator a as the most recently used, dirty or as it was. -/
def touchAcc (s : State) (t c a : Nat) (dirty : Bool) : State :=
  let x := s.tile t
  let old := x.physAcc.any fun e => e.1 == c && e.2.1 == a && e.2.2
  s.setTile t { x with physAcc := (c, a, dirty || old) :: x.physAcc.filter fun e => !(e.1 == c && e.2.1 == a) }
/-- PHYSICAL_ACCUMULATOR_CLAIM (R305): a Live accumulator that is not held is filled from the working image, one that is not Live is zero. -/
def claimAcc (s : State) (t c a : Nat) : Except Stop State :=
  if accHeld s t c a then .ok (touchAcc s t c a false)
  else match (if (s.tile t).physAcc.length < 8 then some s else evictAcc s t (s.tile t).physAcc.reverse) with
    | none => .error .wait
    | some s =>
      let x := s.ctx t c
      let v := accOf x a
      if v.live = false then .ok (touchAcc (setAcc s t c a { v with cells := [] }) t c a false)
      else match readImage s t c x.mimg 64 (4096 * a) 4096 with
        | .error tr => .error (.trap tr)
        | .ok (b, s) => .ok (touchAcc (setAcc s t c a { v with cells := cellsOf b }) t c a false)

/-! ## The queue (R311) -/

/-- A tile's queue replaced. -/
def setMatq (s : State) (t : Nat) (l : List MatOp) : State := s.setTile t { s.tile t with matq := l }
/-- An operation replaced. -/
def setOp (s : State) (t : Nat) (o : MatOp) : State := setMatq s t ((s.tile t).matq.map fun p => if p.req = o.req then o else p)
/-- The head of a queue that is not empty is started when it can be (R311). -/
def kickQueue (s : State) (t : Nat) : State := if (s.tile t).matq.isEmpty then s else s.addDueOnce (.matrixOperationStart t)
/-- An operation removed and its ranges released (R218); the queue goes on. -/
def dropOp (s : State) (t : Nat) (o : MatOp) : State :=
  kickQueue (releaseRanges (setMatq s t ((s.tile t).matq.filter fun p => p.req != o.req)) o.req) t
/-- Is a queued operation an accumulate operation (R312). -/
def MatOp.isAcc (o : MatOp) : Bool := decide (4 ≤ o.xm) && decide (o.xm ≤ 7)
/-- Has a thread an accumulate operation outstanding: it has one at most (R311); or a mres, which may write MPROG (R325). -/
def accBusy (s : State) (t c : Nat) : Bool := (s.tile t).matq.any fun o => o.ctx == c && (o.isAcc || o.xm == 8)
/-- An operation entered in the queue. -/
def pushOp (s : State) (t : Nat) (o : MatOp) : State := (setMatq s t ((s.tile t).matq ++ [o])).addDueOnce (.matrixOperationStart t)
/-- Is the queue of 8 full. -/
def queueFull (s : State) (t : Nat) : Bool := decide (8 ≤ (s.tile t).matq.length)
/-- MPROG of a stop at k (R317, Table 10.6). -/
def mprogWord (xm acc k : Nat) : Word := w64 (2 ^ 63 + xm * 2 ^ 36 + acc * 2 ^ 32 + k)
/-- MPROG of a context written; the image line is in the register cache (R143). -/
def putMprog (s : State) (t c : Nat) (v : Word) : State :=
  let s := ensureLine s t c 3
  s.setRegsOf (.thread t c) [3] { s.regsOf (.thread t c) with mprog := v }
/-- Flags of folds entered in FPSTAT and QFLAGS (R110), in an image line that is in the register cache (R143). -/
def enterFlags (s : State) (t : Nat) (o : MatOp) : State :=
  if o.fp = 0 ∧ o.qf = 0 then s else asAgent (.thread t o.ctx) (fun s => raiseFlags s o.fp o.qf) (ensureLine s t o.ctx 2)
/-- The switch-out of a thread that has stopped while an operation of it ran is completed: what the operation wrote goes to the images, and is no
longer held (R143, R145, R306). -/
def finishOut (s : State) (t c : Nat) : State :=
  let st := (s.ctx t c).state
  if (st = .trapped ∨ st = .halted) ∧ engineBusy s t c = false then (switchOut s t c).1 else s
/-- A stop at a fold boundary (R317): MPROG, the flags of the folds made (R110), the ranges; the operation leaves the queue, and parts fetched
ahead are dropped. -/
def stopOp (s : State) (t : Nat) (o : MatOp) : State :=
  enterFlags (dropOp (putMprog s t o.ctx (mprogWord o.xm o.acc o.kdone)) t o) t o
/-- A stream moved past the beats of a panel (R315). -/
def passPanel (s : State) (t c k n : Nat) : State :=
  let v := (s.ctx t c).vec
  (setVec s t c (setStream v k (advance (streamOf v k) n))).addDueOnce (.beatArrival t c k)
/-- Beats of a panel of an operand (R315). -/
def panelBeats (o : MatOp) (fmt r : Nat) : Nat := (partBytes fmt o.glog o.stepk r * (o.k / o.stepk) + 31) / 32
/-- The streams of a retired mmacs advanced (R248, R315); two fields that name one stream received the same beats. -/
def passStreams (s : State) (t : Nat) (o : MatOp) : State :=
  if o.xm ≠ 6 then s
  else
    let a := o.aPtr.toNat
    let b := o.bPtr.toNat
    let na := panelBeats o o.aFmt o.m
    let nb := panelBeats o o.bFmt o.n
    if a = b then passPanel s t o.ctx a (max na nb) else passPanel (passPanel s t o.ctx a na) t o.ctx b nb
/-- Does the thread of an operation wait for it. -/
def opAwaited (s : State) (t : Nat) (o : MatOp) : Bool := (s.ctx t o.ctx).awaiting == some o.req
/-- The accumulate instruction of an operation retires at its last fault point, the checks on its last parts passed, with the flags of the folds
made (R110, R312). -/
def retireOp (s : State) (t : Nat) (o : MatOp) : State :=
  let s := setOp (passStreams s t o) t { o with retired := true, fp := 0, qf := 0 }
  completeFor t o.ctx (fun s => (raiseFlags s o.fp o.qf).retire) s
/-- A finished operation completed (R309, R312, R326): ranges released, MPROG 0 after an accumulate operation, its last flags entered; a
single step that waited for it ends. -/
def completeOp (s : State) (t : Nat) (o : MatOp) : State :=
  let s := enterFlags (dropOp s t o) t o
  let s := if o.isAcc then putMprog s t o.ctx 0 else s
  finishOut (noteCompleted s t o.ctx) t o.ctx

/-! ## The instructions that enter the queue -/

/-- MODE that mld sets by FMT (R323). -/
def mldMode (f : Nat) : Option Nat := if f = 0 then some 0 else if f = 5 then some 1 else if f = 3 then some 2 else none
/-- The operation an instruction of the current thread enters in the queue, with its captured MCFG (R308). -/
def newOp (s : State) (t c xm acc req : Nat) : MatOp :=
  let x := s.ctx t c
  let g := x.mat.mcfg
  let n := fieldN g 9 5 + 1
  let l := fieldN g 26 16
  { ctx := c, task := x.task, req := req, xm := xm, acc := acc, m := fieldN g 4 0 + 1, n := n, lds := if l = 0 then n else l }
/-- Are the vector and matrix extension states of a context in place (R231, R306). -/
def extReady (x : Ctx) : Bool := x.extResident && x.matResident
/-- A matrix instruction of a thread. -/
def matBody (f : Nat → Nat → State → Except Stop State) (s : State) : Except Stop State :=
  match s.cur with
  | .thread t c => if extReady (s.ctx t c) then f t c s else .error .wait
  | _ => .ok s
/-- A matrix instruction. -/
def execMat (f : Nat → Nat → State → Except Stop State) (s : State) : Host.Outcome State Fault Refusal := runInstr matProfile s (matBody f)
/-- mcfg (R321). -/
def execMcfg (imm : BitVec 32) (_la : Reg) (s : State) : Host.Outcome State Fault Refusal :=
  execMat (fun t c s => let x := s.ctx t c; .ok (s.setCtx t c { x with mat := { x.mat with mcfg := imm.toNat } }).retire) s
/-- mzero (R322): it retires and takes its place in the queue. -/
def execMzero (a _la : Reg) (s : State) : Host.Outcome State Fault Refusal :=
  execMat (fun t c s =>
    if queueFull s t then .error .wait
    else let (req, s) := s.fresh; .ok (pushOp s t { newOp s t c 1 a.val req with retired := true }).retire) s
/-- mres (R325); its write of MPROG is in program order, and made again when it takes effect, where a mabort has stopped an accumulate operation
before it since (R327). -/
def execMres (a _la : Reg) (s : State) : Host.Outcome State Fault Refusal :=
  execMat (fun t c s =>
    if queueFull s t then .error .wait
    else
      let (req, s) := s.fresh
      let p := (s.ctx t c).regs.mprog
      let s := if bitOf p 63 ∧ fld p 33 32 = a.val then putMprog s t c 0 else s
      .ok (pushOp s t { newOp s t c 8 a.val req with retired := true }).retire) s
/-- Live and MODE of an accumulator as an instruction that issues now will find them: after the operations of its thread that are queued on it
(R311, R312, R322 to R325). -/
def accAfter (s : State) (t c a : Nat) : Acc :=
  ((s.tile t).matq.filter fun o => o.ctx == c && o.acc == a).foldl (fun v o =>
    if o.xm = 1 then { v with live := true, mode := 0 }
    else if o.xm = 2 then { v with live := true, mode := (mldMode (ptrFmt o.aPtr)).getD 0 }
    else if o.xm = 8 then { v with live := false, mode := 0 }
    else if o.isAcc then { v with live := true, mode := if v.mode = 0 then resultMode o.xm else v.mode }
    else v) (accOf (s.ctx t c) a)
/-- Row i of a matrix in memory with elements of w bytes (R323, R324). -/
def rowPtr (o : MatOp) (w i : Nat) : Word := withAddr o.aPtr (addrOf o.aPtr + w * (o.lds * i))
/-- Bytes from the first to the last element. -/
def spanBytes (o : MatOp) (w : Nat) : Nat := w * (o.lds * (o.m - 1) + o.n)
/-- An operation entered in the queue with its ranges; a wait while the queue or a table is full. -/
def submit (s : State) (t : Nat) (o : MatOp) (rs : List RangeSpec) : Except Stop State :=
  if queueFull s t ∨ rangesFit s rs = false then .error .wait else .ok (pushOp (registerRanges s rs) t o)
/-- The thread of an operation waits until its instruction passes its last fault point. -/
def awaitOp (s : State) (t c req : Nat) : State := s.setCtx t c { s.ctx t c with awaiting := some req }
/-- The places of every row of an operation, or the first fault. -/
def rowPlaces (s : State) (q : Req) (acc : AccKind) (o : MatOp) (w : Nat) : Except Trap (List (List Place) × State) :=
  let start : Except Trap (List (List Place) × State) := .ok ([], s)
  (List.range o.m).foldl (fun r i =>
    match r with
    | .error t => .error t
    | .ok (l, s) => match resolveAll s q acc (rowPtr o w i) (w * o.n) with
      | .error t => .error t
      | .ok (xs, s') => .ok (l ++ [xs], s')) start
/-- mld (R323): it retires when every byte has been checked, and its operation takes its place in the queue. -/
def mldBody (a b : Reg) (t c : Nat) (s : State) : Except Stop State :=
  let p := s.getG b
  if ptrOk p = false then .error (.trap (memTrap 0x14 p))
  else if (mldMode (ptrFmt p)).isNone then .error (.trap (matTrap a.val 5 p))
  else
    let (req, s) := s.fresh
    let o := { newOp s t c 2 a.val req with aPtr := p, retired := true }
    let x := s.ctx t c
    match rowPlaces s (threadReq s t c) .read o 4 with
    | .error tr => .error (.trap tr)
    | .ok (rows, s) =>
      let rs := (rangeSpecs s t x.handle (blockTenant s x.handle) engMatrix req x.task false (addrOf p) (spanBytes o 4))
      match submit s t { o with rows := rows } rs with
      | .error e => .error e
      | .ok s => .ok s.retire
/-- mld aA, gB (R323). -/
def execMld (a b _la : Reg) (s : State) : Host.Outcome State Fault Refusal := execMat (mldBody a b) s
/-- Element width of mst (R324). -/
def mstWidth (mx : Nat) : Nat := if mx = 0 then 4 else 2
/-- Does gB's FMT suit the value mst writes (R324). -/
def mstFmtOk (f mx mode : Nat) : Bool :=
  f == 0 || f == (if mx = 0 then (if mode = 2 then 3 else 5) else if mx = 1 then 6 else 7)
/-- mst (R324): a shared destination makes the task serialising (R207). It retires when every byte has been checked, and its operation takes its
place in the queue. -/
def mstBody (fmt : Fin 4) (a b : Reg) (rm : Fin 4) (clamp : Bool) (t c : Nat) (s : State) : Except Stop State :=
  let p := s.getG b
  let mode := (accAfter s t c a.val).mode
  if ptrOk p = false then .error (.trap (memTrap 0x14 p))
  else if (fmt.val ≠ 0 ∧ mode = 2) ∨ mstFmtOk (ptrFmt p) fmt.val mode = false then .error (.trap (matTrap a.val 5 p))
  else
    let (req, s) := s.fresh
    let o := { newOp s t c 3 a.val req with aPtr := p, mx := fmt.val, rm := rm, clamp := clamp, retired := true }
    let q := threadReq s t c
    match rowPlaces s q .write o (mstWidth o.mx) with
    | .error tr => .error (.trap tr)
    | .ok (rows, s) => match (if rows.flatten.any Place.shared then settle s q else .ok s) with
      | .error e => .error e
      | .ok s =>
        let rs := (rangeSpecs s t q.handle q.tenant engMatrix req q.task true (addrOf p) (spanBytes o (mstWidth o.mx)))
        match submit s t { o with rows := rows } rs with
        | .error e => .error (e.keptIn s)
        | .ok s => .ok s.retire
/-- mst.fmt aA, gB (R324). -/
def execMst (fmt : Fin 4) (a b : Reg) (rm : Fin 4) (clamp : Bool) (_la : Reg) (s : State) : Host.Outcome State Fault Refusal :=
  execMat (mstBody fmt a b rm clamp) s

/-! ## Accumulate instructions (R312-R320) -/

/-- An operand: its pointer as a trap names it, FMT, GLOG. -/
structure Panel where
  ptr : Word
  fmt : Nat
  glog : Nat
/-- A pointer operand; BADTAG under R118. -/
def ptrPanel (p : Word) : Except Stop Panel :=
  if ptrOk p = false then .error (.trap (memTrap 0x14 p)) else .ok { ptr := p, fmt := ptrFmt p, glog := ptrGlog p }
/-- A stream operand (R315): a record stream has its BASE's format, a stream bound with XM 1 or 2 is FP16 or BF16. -/
def streamPanel (s : State) (t c k : Nat) : Except Stop Panel :=
  let m := streamOf (s.ctx t c).vec k
  if m.bound = false then .error (.trap (illegalOp s))
  else
    let base := (patternOf m.pattern).base
    let f := ptrFmt base
    if f = 10 ∨ f = 11 ∨ f = 12 then .ok { ptr := base, fmt := f, glog := ptrGlog base }
    else .ok { ptr := base, fmt := if m.fmt = 1 then 6 else if m.fmt = 2 then 7 else 0, glog := 0 }
/-- The operands of an accumulate instruction, A first. -/
def panelsOf (s : State) (t c xm : Nat) (b r : Reg) : Except Stop (Panel × Panel) :=
  let one (k : Reg) : Except Stop Panel := if xm = 6 then streamPanel s t c (k.val - 12) else ptrPanel (s.getG k)
  match one b with
  | .error e => .error e
  | .ok pa => match one r with
    | .error e => .error e
    | .ok pb => .ok (pa, pb)
/-- mmacm's source is a cluster-window address of a block of the issuing cluster (R314). -/
def mmacmOk (s : State) (t tenant : Nat) (p : Word) : Bool :=
  inCluster (addrOf p) && fromViewHandle s tenant (addrOf p / 2 ^ 17 % 2 ^ 24) / 4096 == clusterOf t
/-- The checks of R312 at issue in their order, after the operands: the mode, or the trap. -/
def accChecks (s : State) (t c xm acc : Nat) (pa pb : Panel) (k : Nat) : Except Trap Nat :=
  let x := s.ctx t c
  let wide := isWCluster (clusterOf t)
  let p := x.regs.mprog
  match modeOf wide xm pa.fmt pa.glog pb.fmt pb.glog with
  | none => .error (matTrap acc 1 (if aFormsMode wide xm pa.fmt then pb.ptr else pa.ptr))
  | some mode =>
    let st := stepOf mode pa.glog
    let v := accAfter s t c acc
    if bitOf p 63 ∧ (fld p 33 32 ≠ acc ∨ fld p 39 36 ≠ xm) then .error (matTrap acc 6)
    else if 65535 < k ∨ k % st ≠ 0 ∨ (bitOf p 63 = true ∧ k ≤ fld p 15 0) then .error (matTrap acc 2)
    else if v.live ∧ v.mode ≠ 0 ∧ v.mode ≠ resultMode xm then .error (matTrap acc 3)
    else if xm = 5 ∧ mmacmOk s t (blockTenant s x.handle) pb.ptr = false then .error (matTrap acc 4 pb.ptr)
    else .ok mode
/-- Accumulator a Live with its MODE set by an accumulate operation (R302). -/
def makeLive (s : State) (t c a xm : Nat) : State :=
  let v := accOf (s.ctx t c) a
  setAcc s t c a { v with live := true, mode := if v.mode = 0 then resultMode xm else v.mode }
/-- mmac, mmacm, mmacs and mbin at issue (R312). With K = 0 a Live accumulator keeps its elements wherever they are; one that was not Live is
claimed as zero. Otherwise the thread waits until the operation passes its last fault point. -/
def accBody (xm : Nat) (a b r e : Reg) (mx : Nat) (t c : Nat) (s : State) : Except Stop State :=
  if accBusy s t c then .error .wait
  else match panelsOf s t c xm b r with
    | .error e => .error e
    | .ok (pa, pb) =>
      let k := (s.getG e).toNat
      match accChecks s t c xm a.val pa pb k with
      | .error tr => .error (.trap tr)
      | .ok mode =>
        if k = 0 then
          (if accNamed s t c a.val then .error .wait
           else if (accOf (s.ctx t c) a.val).live then .ok (putMprog (makeLive s t c a.val xm) t c 0).retire
           else match claimAcc s t c a.val with
           | .error (.trap tr) => .ok (trapImage s t c tr)
           | .error st => .error st
           | .ok s => .ok (putMprog (touchAcc (makeLive s t c a.val xm) t c a.val true) t c 0).retire)
        else
          let (req, s) := s.fresh
          let x := s.ctx t c
          let p := x.regs.mprog
          let k0 := if bitOf p 63 then fld p 15 0 else 0
          let o := { newOp s t c xm a.val req with
            aPtr := if xm = 6 then w64 (b.val - 12) else pa.ptr, bPtr := if xm = 6 then w64 (r.val - 12) else pb.ptr
            aFmt := pa.fmt, bFmt := pb.fmt, glog := pa.glog, k := k, kdone := k0, kfetch := k0
            stepk := stepOf mode pa.glog, mx := mx }
          let range (p : Word) (fmt rows : Nat) : List RangeSpec :=
            rangeSpecs s t x.handle (blockTenant s x.handle) engMatrix req x.task false (addrOf p)
              (partBytes fmt o.glog o.stepk rows * (k / o.stepk))
          match submit s t o (if xm = 6 then [] else range pa.ptr o.aFmt o.m ++ range pb.ptr o.bFmt o.n) with
          | .error e => .error e
          | .ok s => .ok (awaitOp s t c req)
/-- mmac aA, gB, gC, gE (R313). -/
def execMmac (a b c e _la : Reg) (s : State) : Host.Outcome State Fault Refusal := execMat (accBody 4 a b c e 0) s
/-- mmacm aA, gB, gC, gE (R314). -/
def execMmacm (a b c e _la : Reg) (s : State) : Host.Outcome State Fault Refusal := execMat (accBody 5 a b c e 0) s
/-- mmacs aA, sB, sC, gE (R315). -/
def execMmacs (a b c e _la : Reg) (s : State) : Host.Outcome State Fault Refusal := execMat (accBody 6 a b c e 0) s
/-- mbin aA, gB, gC, gE, op (R316). -/
def execMbin (op : Fin 4) (a b c e _la : Reg) (s : State) : Host.Outcome State Fault Refusal := execMat (accBody 7 a b c e op.val) s
/-- mwait (R326). -/
def execMwait (a _la : Reg) (s : State) : Host.Outcome State Fault Refusal :=
  execMat (fun t c s => if accNamed s t c a.val then .error .wait else .ok s.retire) s
/-- mrdp gA (R328); it waits for the MPROG of an accumulate operation that is outstanding (R311). -/
def execMrdp (a _la : Reg) (s : State) : Host.Outcome State Fault Refusal :=
  execMat (fun t c s => if accBusy s t c then .error .wait else .ok (alu a s.regs.mprog s)) s
/-- mwrp gB (R328): reserved bits become 0; it waits as mrdp does. -/
def execMwrp (b _la : Reg) (s : State) : Host.Outcome State Fault Refusal :=
  execMat (fun t c s => if accBusy s t c then .error .wait else .ok (putMprog s t c (mprogMask (s.getG b))).retire) s
/-- What mabort removes: the thread's mld, mst and mzero on an accumulator that have not begun (R327). -/
def abortable (c a : Nat) (o : MatOp) : Bool := o.ctx == c && o.acc == a && decide (o.xm ≤ 3) && !o.begun
/-- mabort aA (R327): the thread's accumulate operation on aA stops at its next fold boundary, its remaining folds abandoned; one with no fold left
completes. Its queued mld, mst and mzero on aA are removed. -/
def mabortBody (a t c : Nat) (s : State) : State :=
  let s := ((s.tile t).matq.filter fun o => o.ctx == c && o.acc == a && o.isAcc && decide (o.kdone < o.k)).foldl (fun s o => stopOp s t o) s
  ((s.tile t).matq.filter (abortable c a)).foldl (fun s o => dropOp s t o) s
/-- mabort aA (R327). -/
def execMabort (a _la : Reg) (s : State) : Host.Outcome State Fault Refusal := execMat (fun t c s => .ok (mabortBody a.val t c s).retire) s
/-- The word of Table 10.8. -/
def mstatWord (s : State) (t c : Nat) : Word :=
  let x := s.ctx t c
  let st := mstate x.mat
  let bits (p : Nat → Bool) : Nat := ((List.range 4).map fun k => boolNat (p k) * 2 ^ k).foldl (· + ·) 0
  w64 (x.mat.mcfg * 2 ^ 32 + fieldN st 23 16 * 2 ^ 16 + (s.tile t).matq.length * 2 ^ 12 + bits (accNamed s t c) * 2 ^ 8 +
    bits (accHeld s t c) * 2 ^ 4 + fieldN st 3 0)
/-- mstat gA (R329). -/
def execMstat (a _la : Reg) (s : State) : Host.Outcome State Fault Refusal := execMat (fun t c s => .ok (alu a (mstatWord s t c) s)) s

/-! ## The engine's steps -/

/-- Bytes off to off + n of the panel that a stream holds from its position (R315): prefetched beats first, then beats fetched now. -/
def panelBytes (s : State) (t c k off n : Nat) : Except Stop (List Byte × State) :=
  let j0 := off / 32
  let cnt := (off + n + 31) / 32 - j0
  let start : Except Stop (List Byte × State) := .ok ([], s)
  let r := (List.range cnt).foldl (fun r i =>
    match r with
    | .error e => .error e
    | .ok (l, s) =>
      let m := streamOf (s.ctx t c).vec k
      let j := j0 + i
      let beat : Except Stop ((Vec × Option (Nat × Nat × Word × Word)) × State) :=
        match m.ahead[j]? with
        | some b => .ok (b, s)
        | none =>
          if m.total ≤ m.pos + j then .ok ((0, none), s)
          else if streamClear s t c m = false then .error .wait
          else match fetchBeat s t c m (m.pos + j) with
            | .error h => .error (holdStop h)
            | .ok x => .ok x
      match beat with
      | .error e => .error e
      | .ok ((v, none), s) => .ok (l ++ toBytes 32 v.toNat, s)
      | .ok ((_, some (code, eng, a, info)), _) => .error (.trap { code := code, engine := eng, addr := a, info := info })) start
  match r with
  | .error e => .error e
  | .ok (l, s) => .ok ((l.drop (off % 32)).take n, s)
/-- The part of the next step to fetch of an operand. A KDONE that a thread wrote itself and that is no multiple of STEPK begins in the part that
holds it (DESIGN CHOICE, log entry 97: the spec is silent). -/
def fetchPart (s : State) (t : Nat) (o : MatOp) (p : Word) (fmt rows : Nat) : Except Stop (List Byte × State) :=
  let n := partBytes fmt o.glog o.stepk rows
  let off := o.kfetch / o.stepk * n
  if o.xm = 6 then panelBytes s t o.ctx p.toNat off n
  else engineRead s (threadReq s t o.ctx) (withAddr p (addrOf p + off)) n
/-- The parts of the next step to fetch, A before B (R312). -/
def fetchParts (s : State) (t : Nat) (o : MatOp) : Except Stop ((List Byte × List Byte) × State) :=
  match fetchPart s t o o.aPtr o.aFmt o.m with
  | .error e => .error e
  | .ok (pa, s) => match fetchPart s t o o.bPtr o.bFmt o.n with
    | .error e => .error e
    | .ok (pb, s) => .ok ((pa, pb), s)
/-- The oldest fetched parts folded: the operation and the state (R120 to R123). After its instruction has retired the flags enter at once. -/
def foldFirst (s : State) (t : Nat) (o : MatOp) : MatOp × State :=
  match o.parts with
  | [] => (o, s)
  | p :: rest =>
    let v := accOf (s.ctx t o.ctx) o.acc
    let r := foldCells o p.1 p.2 v.cells
    let s := touchAcc (setAcc s t o.ctx o.acc { v with cells := r.1 }) t o.ctx o.acc true
    let o' := { o with kdone := o.kdone + o.stepk, parts := rest, fp := o.fp ||| r.2.1, qf := o.qf ||| r.2.2 }
    if o.retired then
      let o'' := { o' with fp := 0, qf := 0 }
      (o'', setOp (enterFlags s t o') t o'')
    else (o', setOp s t o')
/-- All fetched parts folded; at most two (R312). -/
def foldAll (s : State) (t : Nat) (o : MatOp) : MatOp × State := let r := foldFirst s t o; foldFirst r.2 t r.1
/-- After a fold: the operation is finished, or goes on. -/
def afterFold (s : State) (t : Nat) (o : MatOp) : State :=
  if o.k ≤ o.kdone then (setOp s t { o with finished := true }).addDueOnce (.matrixOperationComplete t) else s.addDueOnce (.fold t)
/-- A fetch of an accumulate operation that could not be made: a fault stops it at the start of the step that it was for, every step before that
folded (R312, R317); a wait lets folds go on. -/
def stopFetch (s : State) (t : Nat) (o : MatOp) (st : Stop) : State :=
  match st with
  | .trap tr => let r := foldAll s t o; stopFor t o.ctx engMatrix (.trap tr) (stopOp r.2 t r.1)
  | _ => if o.parts.isEmpty then s.addDueOnce (.fold t) else let r := foldFirst s t o; afterFold r.2 t r.1
/-- FOLD: while fewer than two steps are fetched and not folded the parts of the next arrive, otherwise the oldest are folded. The instruction
retires with the last parts, after which at most two folds remain (R312). One that its thread no longer waits for stops. -/
def foldBody (s : State) (t : Nat) : State :=
  match (s.tile t).matq with
  | [] => s
  | o :: _ =>
    if o.begun = false ∨ o.finished = true ∨ o.isAcc = false then s
    else if o.retired = false ∧ opAwaited s t o = false then finishOut (stopOp s t o) t o.ctx
    else if o.kfetch < o.k ∧ o.parts.length < 2 then
      (match fetchParts s t o with
       | .error e => stopFetch s t o e
       | .ok (p, s) =>
         let o' := { o with kfetch := o.kfetch + o.stepk, parts := o.parts ++ [p] }
         let s := setOp s t o'
         (if o.k ≤ o'.kfetch then retireOp s t o' else s).addDueOnce (.fold t))
    else let r := foldFirst s t o; afterFold r.2 t r.1
/-- FOLD (R312). -/
def execFold (tile : Nat) (s : State) : Host.Outcome State Fault Refusal := .next (foldBody s tile)
/-- The thread of an operation whose claim cannot be filled stops with IMAGEFAULT (R142, R304). An instruction that has not retired issues again
after it; the operation of one that has stays at the head and is started again when its thread is (DESIGN CHOICE, log entry 46). -/
def failHead (s : State) (t : Nat) (o : MatOp) (tr : Trap) : State :=
  let s := if o.retired then (setOp s t { o with stuck := true }).addDueOnce (.matrixOperationStart t) else dropOp s t o
  if stoppable (s.ctx t o.ctx) then trapImage s t o.ctx tr else s
/-- The work of the head operation done: MATRIX_OPERATION_COMPLETE is due. -/
def finishHead (s : State) (t : Nat) (o : MatOp) : State :=
  (setOp s t { o with begun := true, finished := true }).addDueOnce (.matrixOperationComplete t)
/-- mld: the rows read, every other element +0 (R323). -/
def runMld (s : State) (t : Nat) (o : MatOp) : Except Stop State :=
  let q := threadReq s t o.ctx
  let start : Except Stop (List (List Byte) × State) := .ok ([], s)
  let r := o.rows.foldl (fun r xs =>
    match r with
    | .error e => .error e
    | .ok (l, s) => match readPlaces s q true xs with
      | .error h => .error (holdStop h)
      | .ok (b, s') => .ok (l ++ [b], s')) start
  match r with
  | .error e => .error e
  | .ok (l, s) =>
    let cells := ((l.mapIdx fun i b => (List.range o.n).map fun j => (32 * i + j, leAt b (4 * j) 4)).flatten).filter fun p => p.2 != 0
    .ok (touchAcc (setAcc s t o.ctx o.acc { live := true, mode := (mldMode (ptrFmt o.aPtr)).getD 0, cells := cells }) t o.ctx o.acc true)
/-- The value mst writes for an element, and its flags (R324). Under mst.fp32 a NaN accumulator keeps its bits without CLAMP and is the canonical
NaN with it, with no flag (DESIGN CHOICE, log entry 43: the spec says only that CLAMP leaves NaNs canonical). -/
def mstElem (o : MatOp) (mode x : Nat) : Nat × Word :=
  if o.mx = 0 then
    if mode = 2 then (x, 0)
    else (match FpFmt.fp32.decode x with
      | .nan _ => (if o.clamp then FpFmt.fp32.nanBits else x, 0)
      | _ => (clampBits .fp32 o.clamp x, 0))
  else
    let f : FpFmt := if o.mx = 1 then .fp16 else .bf16
    let v := FpFmt.fp32.decode x
    let r := finish f (RMode.ofCode o.rm) 0 o.clamp v.exact
    (r.1, r.2 ||| flagIf v.isSnan fpInvalid)
/-- mst: the rows written, with the flags of their rounding, which enter when it completes (R110, R324). -/
def runMst (s : State) (t : Nat) (o : MatOp) : Except Stop (State × Word) :=
  let q := threadReq s t o.ctx
  let w := mstWidth o.mx
  if o.rows.any (writesWait s q) then .error .wait
  else
    let v := accOf (s.ctx t o.ctx) o.acc
    let el (i j : Nat) : Nat × Word := mstElem o v.mode (if v.live then mget v.cells 0 (32 * i + j) else 0)
    let out := (List.range o.m).map fun i => (List.range o.n).map fun j => el i j
    let s := (o.rows.zip out).foldl (fun s p => noteWrite (writeNowAll s q p.1 (p.2.flatMap fun e => toBytes w e.1)) q p.1) s
    .ok (s, out.flatten.foldl (fun f e => f ||| e.2) 0)
/-- MATRIX_OPERATION_START: the head operation, unless its thread has stopped waiting for it, begins once no earlier range forbids it (R217) and its accumulator is claimed (R305). -/
def startBody (s : State) (t : Nat) : State :=
  let again : Instr := .matrixOperationStart t
  match (s.tile t).matq with
  | [] => s
  | o :: _ =>
    if o.begun then s
    else if o.retired = false ∧ opAwaited s t o = false then dropOp s t o
    else if rangesClear s o.req = false then s.addDueOnce again
    else if o.xm = 8 then
      let x := s.tile t
      let s := s.setTile t { x with physAcc := x.physAcc.filter fun e => !(e.1 == o.ctx && e.2.1 == o.acc) }
      let p := (s.ctx t o.ctx).regs.mprog
      let s := if bitOf p 63 ∧ fld p 33 32 = o.acc then putMprog s t o.ctx 0 else s
      finishHead (setAcc s t o.ctx o.acc {}) t o
    else match claimAcc s t o.ctx o.acc with
      | .error (.trap tr) => failHead s t o tr
      | .error _ => s.addDueOnce again
      | .ok s1 =>
        if o.xm = 1 then finishHead (touchAcc (setAcc s1 t o.ctx o.acc { live := true }) t o.ctx o.acc true) t o
        else if o.xm = 2 then
          (match runMld s1 t o with
           | .error _ => s1.addDueOnce again
           | .ok s2 => finishHead s2 t o)
        else if o.xm = 3 then
          (match runMst s1 t o with
           | .error _ => s1.addDueOnce again
           | .ok (s2, fp) => finishHead s2 t { o with fp := fp })
        else (setOp (makeLive s1 t o.ctx o.acc o.xm) t { o with begun := true }).addDueOnce (.fold t)
/-- MATRIX_OPERATION_START (R305, R311). -/
def execMatrixOperationStart (tile : Nat) (s : State) : Host.Outcome State Fault Refusal := .next (startBody s tile)
/-- MATRIX_OPERATION_COMPLETE: the finished head leaves the queue (R312). -/
def matrixDone (s : State) (t : Nat) : State :=
  match (s.tile t).matq with
  | [] => s
  | o :: _ =>
    if o.finished then completeOp s t o else s
/-- MATRIX_OPERATION_COMPLETE (R309, R312). -/
def execMatrixOperationComplete (tile : Nat) (s : State) : Host.Outcome State Fault Refusal := .next (matrixDone s tile)

/-! ## The instruction boundary (R65, R318) -/

/-- One operation of a thread that is taken (R318): one past its last fault point completes first; an accumulate operation that has begun stops
at its fold boundary, one that has not begun is removed. -/
def boundOp (s : State) (t : Nat) (o : MatOp) : State :=
  if o.retired then s
  else
    let s := if o.begun then stopOp s t o else dropOp s t o
    s.setCtx t o.ctx { s.ctx t o.ctx with awaiting := none, opens := none, succ := none }
/-- Is a fill of a context's image lines or extension state outstanding: it completes first (Tables 5.19, 7.10). -/
def fillPending (s : State) (t c : Nat) : Bool :=
  s.due.any fun i => match i with
    | .registerCacheFill a b _ => a == t && b == c
    | .extensionImageFill a b => a == t && b == c
    | _ => false
/-- A thread brought to an instruction boundary (R65): none while an engine still has to end an instruction of it, or a fill is outstanding. -/
def boundary (s : State) (t c : Nat) : Option State :=
  let s := ((s.tile t).matq.filter fun o => o.ctx == c).foldl (fun s o => boundOp s t o) s
  if (s.ctx t c).awaiting.isNone && !engineBusy s t c && !fillPending s t c then some s else none

end Sys2Proof.Machine
end

