-- ==== Sys2Proof/Machine/Task.lean ====
section
/-! DEFINITION. The task engine (R372-R406): completion counters, launches and their placement, cancellation, deques, activation, the end of
a task, budgets. -/

namespace Sys2Proof.Machine

/-- The task instructions of threads and island cores. -/
def taskBoth : Profile := { engine := engTask }
/-- The task instructions of threads only. -/
def taskThread : Profile := { core := false, engine := engTask }
/-- ISLAND of an island core with a reason (R497, Table 15.13). -/
def islandTrap (reason : Nat) : Trap := { code := 0x22, engine := engIsland, info := w64 reason }

/-! ## Units and counters (R378-R384) -/

/-- Level codes of Table 3.2. -/
def lvBlock : Nat := 0
/-- Launch. -/
def lvLaunch : Nat := 1
/-- Graph. -/
def lvGraph : Nat := 2
/-- Phase. -/
def lvPhase : Nat := 3
/-- Job. -/
def lvJob : Nat := 4
/-- The PRED of a launch (Table 12.1). -/
def predOf (l : Launch) : Nat := recFld l.desc 415 384
/-- Has a launch ended. -/
def Launch.ended (l : Launch) : Bool := l.state == .complete || l.state == .cancelled
/-- Is a counter of a higher level listed and still Running; one that is not listed counts as open (log entry 18). -/
def unitOpen (s : State) (level id : Nat) : Bool := match mget? s.counters (level, id) with | some c => c.state == .running | none => true
/-- STATE of Table 12.5. -/
def launchStateCode : LaunchState → Nat
  | .pooled => 1 | .running => 2 | .complete => 3 | .cancelled => 4 | .held => 5
/-- STATE of a graph, phase or job. -/
def unitStateCode : UnitState → Nat
  | .running => 2 | .complete => 3 | .cancelled => 4
/-- Is a launch's counter still known: it runs, or the counter of its graph does (R378). -/
def launchKnown (s : State) (x : Launch) : Bool := !x.ended || unitOpen s lvGraph x.graph
/-- The running launch of a block that was cancelled alone (R378). -/
def deadIn? (s : State) (h : Nat) : Option (Nat × Launch) := s.launches.find? fun p => !p.2.ended && p.2.dead.contains h
/-- STATE of a unit, none when its id is unknown; handles in the wafer view (R378). -/
def unitState? (s : State) (level id : Nat) : Option Nat :=
  if level = lvBlock then (match liveBlock? s id with | some _ => some 2 | none => (deadIn? s id).map fun _ => 4)
  else if level = lvLaunch then ((s.launch? id).filter (launchKnown s)).map fun x => launchStateCode x.state
  else ((mget? s.counters (level, id)).filter fun c => c.state == .running || level == lvJob || unitOpen s (level + 1) c.parent).map
    fun c => unitStateCode c.state
/-- The job that a unit belongs to. -/
def unitJob (s : State) (level id : Nat) : Nat :=
  let p (lv k : Nat) : Nat := (mget s.counters {} (lv, k)).parent
  if level = lvBlock then (match s.block? id with | some b => jobOf s b.launch | none => ((deadIn? s id).map fun p => jobOf s p.1).getD 0)
  else if level = lvLaunch then jobOf s id
  else if level = lvGraph then p lvPhase (p lvGraph id) else if level = lvPhase then p lvPhase id else id
/-- The tenant of a unit. -/
def unitTenant (s : State) (level id : Nat) : Nat :=
  if level = lvBlock then (match s.block? id with | some b => b.tenant | none => ((deadIn? s id).map fun p => p.2.tenant).getD 0)
  else if level = lvLaunch then (match s.launch? id with | some x => x.tenant | none => 0)
  else (mget s.counters {} (level, id)).tenant
/-- The launch that the current thread works for. -/
def curLaunch (s : State) : Nat := match s.block? (curHandle s) with | some b => b.launch | none => 0
/-- May the current agent name a unit (R384). -/
def unitReach (s : State) (level id : Nat) : Bool :=
  match s.cur with
  | .core i k => presides (coreTenant (s.core i k)) (unitTenant s level id)
  | _ => unitJob s level id == jobOf s (curLaunch s)
/-- Does a unit count the issuing task itself (R380). -/
def unitSelf (s : State) (level id : Nat) : Bool :=
  match s.cur with
  | .core _ _ => false
  | _ =>
    let l := curLaunch s
    let g := ((s.launch? l).map Launch.graph).getD 0
    let p := (mget s.counters {} (lvGraph, g)).parent
    if level = lvBlock then id == curHandle s else if level = lvLaunch then id == l else if level = lvGraph then id == g
    else if level = lvPhase then id == p else id == (mget s.counters {} (lvPhase, p)).parent
/-- The units of the level below that a graph, phase or job holds and that have not ended. -/
def openParts (s : State) (level id : Nat) : Nat :=
  if level = lvGraph then (s.launches.filter fun p => p.2.graph == id && !p.2.ended).length
  else (s.counters.filter fun p => p.1.1 + 1 == level && p.2.parent == id && p.2.state == .running).length
/-- Count of a unit (R378). -/
def unitCount (s : State) (level id : Nat) : Int :=
  if level = lvBlock then blockTasks s id
  else if level = lvLaunch then launchCount s id
  else openParts s level id + (mget s.counters {} (level, id)).refs
/-- A higher counter looked at again: it completes when its count has returned to 0 (R378). -/
def noteUnit (s : State) (level id : Nat) : State :=
  match mget? s.counters (level, id) with
  | some c => if c.raised && c.state == .running && unitCount s level id == 0 then s.addDueOnce (.counterComplete level id) else s
  | none => s
/-- A higher counter's count raised above 0. -/
def raiseUnit (s : State) (level id : Nat) : State :=
  match mget? s.counters (level, id) with
  | some c => { s with counters := mset s.counters (level, id) { c with raised := true } }
  | none => s
/-- A graph opened with one reference, when LGRAPH first names it (R386). -/
def openGraph (s : State) (tenant id : Nat) : State :=
  if id = 0 ∨ (mget? s.counters (lvGraph, id)).isSome = true then s
  else { s with counters := mset s.counters (lvGraph, id) { tenant := tenant, refs := 1, raised := true } }
/-- The state of a higher counter replaced, and the next level looked at. -/
def endUnit (s : State) (level id : Nat) (st : UnitState) : State :=
  match mget? s.counters (level, id) with
  | some c => let s := { s with counters := mset s.counters (level, id) { c with state := st } }; noteUnit s (level + 1) c.parent
  | none => s
/-- Waiters on a block that ends take its result (R380). -/
def wakeWaiters (s : State) (h r : Nat) : State :=
  let w (x : Option (Nat × Nat)) : Option (Nat × Nat) := if x = some (lvBlock, h) then some (5, r) else x
  let frozen (z : Frozen) : Frozen := { z with ctxs := z.ctxs.map fun p => (p.1, { p.2 with waitsOn := w p.2.waitsOn }) }
  { s with
    ctxs := s.ctxs.map fun p => (p.1, { p.2 with waitsOn := w p.2.waitsOn })
    cores := s.cores.map fun p => (p.1, { p.2 with waitsOn := w p.2.waitsOn })
    blocks := s.blocks.map fun p => (p.1, { p.2 with frozen := p.2.frozen.map frozen }) }
/-- A block ends (R378, R383): its contexts are Free, its allocations, tags, tables, entries and requests gone, its handle dead; r is what
waiters on it read. -/
def endBlock (s : State) (h r : Nat) : State :=
  let s := dropEntries s fun e => e.handle == h
  let ctxs := s.ctxs.map fun p =>
    if p.2.handle = h ∧ p.2.state ≠ .free then (p.1, { leaveSlot p.2 with state := .free, task := none, marked := false, vec := {}, mat := {} }) else p
  let clear (t : Tile) : Tile := { t with
    allocs := t.allocs.filter fun a => a.handle != h
    tags := t.tags.filter fun g => g.2.handle != h
    ibufs := t.ibufs.filter fun b => b.handle != h
    zreqs := t.zreqs.filter fun q => q.handle != h
    inbox := t.inbox.filter fun e => e.handle != h
    locks := t.locks.filter fun l => l.handle != some h }
  wakeWaiters { s with ctxs := ctxs, tiles := s.tiles.map (fun p => (p.1, clear p.2)), blocks := mdel s.blocks h } h r
/-- Successors of a launch looked at again (R401). -/
def noteSuccessors (s : State) (l : Nat) : State :=
  s.launches.foldl (fun s p => if p.2.state = .held ∧ predOf p.2 = l then s.addDueOnce (.launchPooled p.1) else s) s
/-- A launch ends: its blocks with it (R378). -/
def endLaunch (s : State) (l : Nat) (st : LaunchState) : State :=
  match s.launch? l with
  | none => s
  | some x =>
    let s := x.blocks.foldl (fun s h => if (s.block? h).isSome then endBlock s h (if st = .complete then 0 else 1) else s) s
    noteUnit (noteSuccessors (s.setLaunch l { x with state := st }) l) lvGraph x.graph
/-- COUNTER_COMPLETE (R378): a count that has returned to 0 completes its unit. -/
def counterBody (s : State) (level id : Nat) : State :=
  if level = lvLaunch then
    match s.launch? id with
    | some x => if x.raised && !x.ended && launchCount s id == 0 then endLaunch s id .complete else s
    | none => s
  else match mget? s.counters (level, id) with
    | some c => if c.raised && c.state == .running && unitCount s level id == 0 then endUnit s level id .complete else s
    | none => s
/-- COUNTER_COMPLETE (R378). -/
def execCounterComplete (level id : Nat) (s : State) : Host.Outcome State Fault Refusal := .next (counterBody s level id)

/-! ## Cancellation (R383) -/

/-- The tasks of a launch or of one of its blocks discarded for good. -/
def discardAll (s : State) (p : Task → Bool) : State := discardTasks s ((s.tasks.filter fun q => p q.2).map fun q => (q.1, Fate.gone))
/-- A launch cancelled. -/
def cancelOne (s : State) (l : Nat) : State :=
  let s := discardAll s fun x => x.launch == l
  let s := dropEntries s fun e => e.launch == l
  endLaunch s l .cancelled
/-- Launches cancelled with every launch that names one as PRED, each once. -/
def cancelLaunches : Nat → List Nat → State → State
  | 0, _, s => s
  | _ + 1, [], s => s
  | f + 1, l :: r, s =>
    match s.launch? l with
    | none => cancelLaunches f r s
    | some x =>
      if x.ended then cancelLaunches f r s
      else
        let s := cancelOne s l
        cancelLaunches f (r ++ (s.launches.filter fun p => predOf p.2 == l && !p.2.ended).map Prod.fst) s
/-- The launches in a unit that have not ended. -/
def unitLaunches (s : State) (level id : Nat) : List Nat :=
  let inUnit (p : Nat × Launch) : Bool :=
    let g := p.2.graph
    let ph := (mget s.counters {} (lvGraph, g)).parent
    if level = lvLaunch then p.1 == id else if level = lvGraph then g == id
    else if level = lvPhase then ph == id else (mget s.counters {} (lvPhase, ph)).parent == id
  (s.launches.filter fun p => inUnit p && !p.2.ended).map Prod.fst
/-- The graph and phase counters inside a unit, the unit itself last. -/
def unitCounters (s : State) (level id : Nat) : List (Nat × Nat) :=
  let inside (p : (Nat × Nat) × Counter) : Bool :=
    p.2.state == .running && (p.1 == (level, id) ||
      (decide (p.1.1 < level) && (if level = lvPhase then p.2.parent == id
        else if p.1.1 = lvPhase then p.2.parent == id else (mget s.counters {} (lvPhase, p.2.parent)).parent == id)))
  (s.counters.filter inside).map Prod.fst
/-- One block cancelled: its tasks, then the block, whose counter stays Cancelled until its launch ends (R378). -/
def cancelBlock (s : State) (h : Nat) : State :=
  match s.block? h with
  | none => s
  | some b =>
    let s := endBlock (discardAll s fun x => x.handle == h) h 1
    match s.launch? b.launch with
    | some x => noteCount (s.setLaunch b.launch { x with blocks := x.blocks.filter fun k => k != h, dead := h :: x.dead }) b.launch
    | none => s
/-- A unit cancelled (R383). -/
def cancelUnit (s : State) (level id : Nat) : State :=
  if level = lvBlock then cancelBlock s id
  else
    let s := cancelLaunches ((s.launches.length + 1) * (s.launches.length + 1)) (unitLaunches s level id) s
    if level = lvLaunch then s else (unitCounters s level id).foldl (fun s p => endUnit s p.1 p.2 .cancelled) s
/-- Statuses of R380. -/
def badId : Word := 0x8000000000000001
/-- The unit counts the issuing task. -/
def selfUnit : Word := 0x8000000000000002
/-- The unit is foreign. -/
def foreignUnit : Word := 0x8000000000000003
/-- The id that a level names in a register: a handle of the view at block level (R380, R490). -/
def unitId (s : State) (level : Nat) (g : Word) : Nat :=
  if level = lvBlock then fromViewHandle s (curReq s).tenant (fld g 23 0) else fld g 31 0
/-- Must the current task wait for its taint to resolve (R421). -/
def taintHolds (s : State) : Bool := match (curReq s).task with | some k => isTainted s k | none => false
/-- Does the current thread still run its task. -/
def stillRuns (s : State) (k : Option Nat) : Bool :=
  match s.cur with
  | .thread t c => k.isNone || ((s.ctx t c).task == k && (s.ctx t c).state == .issuing)
  | _ => true
/-- cancel (R383): a task that cancels itself never retires. -/
def cancelBody (a b : Reg) (level : Nat) (s : State) : Except Stop State :=
  let id := unitId s level (s.getG b)
  if taintHolds s then .error .wait
  else match unitState? s level id with
  | none => .ok (alu a badId s)
  | some st =>
    if unitReach s level id = false then .ok (alu a foreignUnit s)
    else if st = 3 ∨ st = 4 then .ok (alu a 1 s)
    else
      let k := (curReq s).task
      let s := cancelUnit s level id
      .ok (if stillRuns s k then alu a 0 s else s)
/-- cancel gA, gB, level (R383). -/
def execCancel (a b level : Reg) (s : State) : Host.Outcome State Fault Refusal := runInstr taskBoth s (cancelBody a b level.val)

/-! ## cwait, cread, cadd, lstat (R380-R382, R403) -/

/-- What the current agent's cwait waits on. -/
def waitsOn? (s : State) : Option (Nat × Nat) :=
  match s.cur with
  | .thread t c => (s.ctx t c).waitsOn
  | .core i k => (s.core i k).waitsOn
  | .zephyr _ _ => none
/-- That, replaced; a core stops issuing past the instruction. -/
def setWaits (s : State) (w : Option (Nat × Nat)) : State :=
  match s.cur with
  | .thread t c => s.setCtx t c { s.ctx t c with waitsOn := w }
  | .core i k => s.setCore i k { s.core i k with waitsOn := w }
  | .zephyr _ _ => s
/-- The result of a unit that has ended, none while it runs. -/
def endedResult (s : State) (level id : Nat) : Option Nat :=
  let ofCode (n : Nat) : Option Nat := if n = 3 then some 0 else if n = 4 then some 1 else none
  if level = 5 then some id
  else if level = lvBlock then (deadIn? s id).map fun _ => 1
  else if level = lvLaunch then (s.launch? id).bind fun x => ofCode (launchStateCode x.state)
  else (mget? s.counters (level, id)).bind fun c => ofCode (unitStateCode c.state)
/-- What synchronises with a unit's commits (R379). -/
def synchronised (s : State) : State := match s.cur with | .thread t _ => dropStale s t | _ => s
/-- cwait begun: the result, or the wait (R380). -/
def cwaitOn (a : Reg) (level id : Nat) (s : State) : State :=
  match endedResult s level id with
  | some r => alu a (w64 r) (synchronised (setWaits s none))
  | none => setWaits s (some (level, id))
/-- cwait (R380). -/
def cwaitBody (a b : Reg) (level : Nat) (s : State) : Except Stop State :=
  match waitsOn? s with
  | some (lv, id) => .ok (cwaitOn a lv id s)
  | none =>
    let id := unitId s level (s.getG b)
    match unitState? s level id with
    | none => .ok (alu a badId s)
    | some _ =>
      if unitSelf s level id then .ok (alu a selfUnit s)
      else if unitReach s level id = false then .ok (alu a foreignUnit s)
      else .ok (cwaitOn a level id s)
/-- cwait gA, gB, level (R380). -/
def execCwait (a b level : Reg) (s : State) : Host.Outcome State Fault Refusal := runInstr taskBoth s (cwaitBody a b level.val)
/-- STATE of a unit that the current agent may name, 0 otherwise. -/
def seenState (s : State) (level id : Nat) : Nat := match unitState? s level id with | some n => if unitReach s level id then n else 0 | none => 0
/-- cread gA, gB, level (Table 12.5). -/
def execCread (a b level : Reg) (s : State) : Host.Outcome State Fault Refusal :=
  runInstr taskBoth s fun s =>
    let id := unitId s level.val (s.getG b)
    let st := seenState s level.val id
    .ok (alu a (w64 (st * 2 ^ 61 + (if st = 0 then 0 else (unitCount s level.val id).toNat % 2 ^ 32))) s)
/-- TASK (R404). -/
def taskTrap (reason : Nat) (addr : Word := 0) : Trap := { code := 0x1D, engine := engTask, addr := addr, info := w64 reason }
/-- A reference added to or removed from a unit. -/
def addRefs (s : State) (level id : Nat) (v : Int) : State :=
  let up := decide (0 < unitCount s level id + v)
  if level = lvLaunch then
    match s.launch? id with
    | some x => noteCount (s.setLaunch id { x with refs := x.refs + v, raised := x.raised || up }) id
    | none => s
  else match mget? s.counters (level, id) with
    | some c => noteUnit { s with counters := mset s.counters (level, id) { c with refs := c.refs + v, raised := c.raised || up } } level id
    | none => s
/-- cadd (R382). -/
def caddBody (b c : Reg) (level : Nat) (s : State) : Except Stop State :=
  let id := fld (s.getG b) 31 0
  let v := (s.getG c).toInt
  let st := seenState s level id
  if taintHolds s then .error .wait
  else if level = lvBlock ∨ v < -65536 ∨ 65535 < v ∨ st = 0 ∨ st = 3 ∨ st = 4 ∨ unitCount s level id + v < 0 then .error (.trap (taskTrap 2))
  else .ok (addRefs s level id v).retire
/-- cadd gB, gC, level (R382). -/
def execCadd (b c level : Reg) (s : State) : Host.Outcome State Fault Refusal := runInstr taskThread s (caddBody b c level.val)
/-- lstat gA, gB (Table 12.11). -/
def execLstat (a b : Reg) (s : State) : Host.Outcome State Fault Refusal :=
  runInstr taskBoth s fun s =>
    let id := fld (s.getG b) 31 0
    let st := seenState s lvLaunch id
    match s.launch? id with
    | some x =>
      if st = 0 then .ok (alu a 0 s)
      else .ok (alu a (w64 (st * 2 ^ 61 + boolNat x.early * 2 ^ 60 + x.marked % 2 ^ 16 * 2 ^ 32 + x.placed % 2 ^ 16 * 2 ^ 16 + min x.passed 65535)) s)
    | none => .ok (alu a 0 s)

/-! ## Launch descriptors (R372, R373, R387) -/

/-- SCRATCH. -/
def dScratch (d : List Byte) : Nat := recFld d 351 320
/-- THREADS. -/
def dThreads (d : List Byte) : Nat := recFld d 359 352
/-- NTASK. -/
def dNtask (d : List Byte) : Nat := recFld d 367 360
/-- KIND. -/
def dKind (d : List Byte) : Nat := recFld d 375 368
/-- EARLY. -/
def dEarly (d : List Byte) : Bool := recFld d 376 376 == 1
/-- TMASK, 0 meaning all 16. -/
def dTmask (d : List Byte) : Nat := let m := recFld d 447 432; if m = 0 then 0xFFFF else m
/-- The rectangle of the tile set as CX0, CY0, CX1, CY1 (R487 order). -/
def dRect (d : List Byte) : Nat := recFld d 455 448 + recFld d 463 456 * 2 ^ 8 + recFld d 471 464 * 2 ^ 16 + recFld d 479 472 * 2 ^ 24
/-- HANDLER. -/
def dHandler (d : List Byte) : Nat := recFld d 53 0
/-- MAILBOX. -/
def dMailbox (d : List Byte) : Nat := recFld d 117 64
/-- OUTMB, 0 meaning MAILBOX. -/
def dOutmb (d : List Byte) : Nat := let m := recFld d 181 128; if m = 0 then dMailbox d else m
/-- DEADLINE. -/
def dDeadline (d : List Byte) : Nat := recFld d 255 192
/-- The present tiles of a kind in a wafer rectangle under a mask (R373). -/
def tileSet (s : State) (rect tmask : Nat) (wide : Bool) : List Nat :=
  let ys := (List.range (fieldN rect 31 24 + 1)).filter fun y => decide (fieldN rect 15 8 ≤ y)
  let xs := (List.range (fieldN rect 23 16 + 1)).filter fun x => decide (fieldN rect 7 0 ≤ x)
  let cs := ys.flatMap fun y => xs.map fun x => 64 * y + x
  (cs.filter fun n => isWCluster n == wide).flatMap fun n =>
    ((List.range 16).filter fun k => fieldN tmask k k == 1).filterMap fun k => let t := clusterTile n k; if tilePresent s t then some t else none
/-- The kinds that a launch takes under its record r: K is W, and whether it gains an outlier part; none for BADKIND (R387). -/
def launchKind (s : State) (r : List Byte) (rect : Nat) (d : List Byte) : Option (Bool × Bool) :=
  let has (wide : Bool) : Bool := !(tileSet s rect (dTmask d) wide).isEmpty
  if dKind d = 0 then (if has false then some (false, false) else none)
  else if dKind d = 1 then (if has true then some (true, false) else none)
  else
    let groups := List.range (recFld r 171 168)
    let fmt (k : Nat) : Nat := recFld r (192 + 6 * k + 5) (192 + 6 * k)
    let out (k : Nat) : Bool := recFld r (176 + k) (176 + k) == 1
    let isN (k : Nat) : Bool := fmt k == 10 || fmt k == 11 || fmt k == 12
    let isW (k : Nat) : Bool := fmt k == 6 || fmt k == 7
    let plain := groups.filter fun k => !out k
    if (groups.any fun k => !isN k && !isW k) || (groups.any fun k => out k && isN k) || (plain.any isN && plain.any isW) then none
    else if plain.any isN then
      (if groups.any out then (if has false && has true then some (false, true) else none) else if has false then some (false, false) else none)
    else if has true then some (true, false) else none

/-! ## glaunch (R374, R375) -/

/-- Where a launch comes from: its tenant, its cluster (for an island core the rectangle's first), its island, its graph, the handle that
its blocks see as the launcher's. -/
structure Launcher where
  tenant : Nat
  cluster : Nat
  island : Nat
  graph : Nat
  handle : Nat
/-- The launcher that the current agent is. -/
def launcherOf (s : State) (rect : Nat) : Launcher :=
  match s.cur with
  | .core i k => { tenant := coreTenant (s.core i k), cluster := 64 * fieldN rect 15 8 + fieldN rect 7 0, island := i, graph := fld (s.core i k).lgraph 31 0, handle := 0 }
  | a =>
    let n := clusterOf (agentTile a)
    { tenant := agentTenant s a, cluster := n, island := homeIsland n, graph := ((s.launch? (curLaunch s)).map Launch.graph).getD 0, handle := curHandle s }
/-- Launches that an island retains (R378). -/
def retained (s : State) (i : Nat) : Nat := (s.launches.filter fun p => p.2.island == i && launchKnown s p.2).length
/-- A BADDESC descriptor (Table 12.2 order 1); p is its pointer. -/
def badDesc (p : Word) (d : List Byte) : Bool :=
  p.toNat % 64 != 0 || recFld d 511 480 != 0 || recFld d 431 424 != 0 || recFld d 383 380 != 0 || recFld d 191 182 != 0 || recFld d 127 118 != 0 ||
  recFld d 63 54 != 0 || decide (64 < dNtask d) || decide (2 < dKind d) || (dEarly d && recFld d 415 384 == 0) || !headAddress (dHandler d) ||
  dMailbox d % 64 != 0 || recFld d 181 128 % 64 != 0
/-- Does a wafer rectangle lie in the region of a tenant, and for tenant 0, whose region is the wafer, in one partition or in none (R28, R29). -/
def inOneRegion (s : State) (t rect : Nat) : Bool :=
  (match regionRect s t with | some r => rectInside rect r | none => false) &&
    (t != 0 || s.tenants.all fun p => p.1 == 0 || sliceOf p.1 != 0 ||
      (match p.2.rect with | some r => rectInside rect r || !rectMeet rect r | none => true))
/-- Checks 1 to 4 of Table 12.2: the failing status. -/
def descChecks (s : State) (w : Launcher) (p : Word) (rect : Nat) (d : List Byte) : Option Nat :=
  if badDesc p d then some 4
  else if 131072 < dScratch d then some 1
  else if dThreads d = 0 ∨ 64 < dThreads d then some 2
  else if recFld d 471 464 < recFld d 455 448 ∨ recFld d 479 472 < recFld d 463 456 ∨ inOneRegion s w.tenant rect = false then some 5
  else none
/-- Checks 1 to 5 of Table 12.2: the failing status, or the kinds under record r. -/
def unitChecks (s : State) (w : Launcher) (p : Word) (rect : Nat) (d r : List Byte) : Except Nat (Bool × Bool) :=
  match descChecks s w p rect d with
  | some n => .error n
  | none => match launchKind s r rect d with
    | some k => .ok k
    | none => .error 3
/-- Checks 6 to 8 of Table 12.2. -/
def islandChecks (s : State) (w : Launcher) (d : List Byte) : Option Nat :=
  let job := unitJob s lvGraph w.graph
  let pred := recFld d 415 384
  if (mget s.counters {} (lvJob, job)).handlers.contains (dHandler d) = false then some 6
  else if pred ≠ 0 ∧ (match s.launch? pred with | some x => x.island == w.island && launchKnown s x && jobOf s pred == job | none => false) = false then
    some 7
  else if Config.counterTableSize + 1 ≤ retained s w.island then some 8
  else none
/-- A launch accepted: its id and the state with it Pooled or Held (R375, R376). -/
def acceptLaunch (s : State) (w : Launcher) (rect : Nat) (d mb om : List Byte) (k : Bool × Bool) : Nat × State :=
  let isl := s.island w.island
  let id := w.island * 2 ^ 24 + (isl.nextSerial % (2 ^ 24 - 1) + 1)
  let s := s.setIsland w.island { isl with nextSerial := isl.nextSerial + 1 }
  let (n, s) := s.fresh
  let held := recFld d 415 384 != 0
  let x : Launch :=
    { tenant := w.tenant, island := w.island, pool := some (homeIsland w.cluster), desc := d, state := if held then .held else .pooled, graph := w.graph, rect := rect, wide := k.1, split := k.2
      mbImage := mb, outImage := om, launcher := w.handle, frontier := recFld d 319 288, order := n }
  let s := raiseUnit (s.setLaunch id x) lvGraph w.graph
  let s := s.addDueOnce (if held then .launchPooled id else .placement id)
  (id, if dDeadline d = 0 then s else s.addDueOnce (.deadline id))
/-- A read of a launch descriptor or a mailbox image (R374 step 1, R403). -/
def launchRead (s : State) (q : Req) (p : Word) : Except Stop (List Byte × State) := if q.core then coreLoad s q p 64 else memLoad s q false p 64
/-- A mailbox image, all zero when its address is 0. -/
def mailboxRead (s : State) (q : Req) (a : Nat) : Except Stop (List Byte × State) :=
  if a = 0 then .ok (List.replicate 64 0, s) else launchRead s q (w64 a)
/-- The layout record of a KIND 2 launch, an engine read of the launcher's cluster (R171, R222, R387), when no earlier check fails. -/
def recordOf (s : State) (q : Req) (p : Word) (d : List Byte) : Except Stop (List Byte × State) :=
  let rect := fromViewRect s q.tenant (dRect d)
  let w := launcherOf s rect
  if dKind d ≠ 2 ∨ (descChecks s w p rect d).isSome = true then .ok (List.replicate 64 0, s)
  else match recordRead s q.task w.cluster (recFld d 423 416) with
    | .error h => .error (holdStop h)
    | .ok r => .ok r
/-- Step 1 of R374: the descriptor, both mailbox images and the record, 256 bytes. -/
def launchReads (s : State) (q : Req) (p : Word) : Except Stop (List Byte × State) :=
  match launchRead s q p with
  | .error e => .error e
  | .ok (d, s) => match recordOf s q p d with
    | .error e => .error e
    | .ok (r, s) => match mailboxRead s q (dMailbox d) with
      | .error e => .error e
      | .ok (m, s) =>
        match (match launchKind s r (fromViewRect s q.tenant (dRect d)) d with
          | some (_, true) => mailboxRead s q (dOutmb d)
          | _ => .ok (m, s)) with
        | .error e => .error e
        | .ok (o, s) => .ok (d ++ m ++ o ++ r, s)
/-- What the current thread's glaunch has read. -/
def captured (s : State) : List Byte := match s.cur with | .thread t c => (s.ctx t c).captured | _ => []
/-- That, replaced. -/
def capture (s : State) (b : List Byte) : State := match s.cur with | .thread t c => s.setCtx t c { s.ctx t c with captured := b } | _ => s
/-- Steps 3 to 5 of R374, the kinds found. -/
def launchCommit (a : Reg) (l : List Byte) (k : Bool × Bool) (s : State) : Except Stop State :=
  let q := curReq s
  let d := l.take 64
  let rect := fromViewRect s q.tenant (dRect d)
  let w := launcherOf s rect
  let held := l ++ toBytes 1 (boolNat k.1) ++ toBytes 1 (boolNat k.2)
  match settle s q with
  | .error .wait => .ok (capture s held)
  | .error .serialise => .ok (onStop (capture s held) .serialise)
  | .error e => .error e
  | .ok s =>
    let s := capture s []
    match islandChecks s w d with
    | some n => .ok (alu a (sendStatus n) s)
    | none => let r := acceptLaunch s w rect d ((l.drop 64).take 64) ((l.drop 128).take 64) k; .ok (alu a (w64 r.1) r.2)
/-- Steps 2 to 5 of R374. -/
def launchRest (a b : Reg) (l : List Byte) (s : State) : Except Stop State :=
  let d := l.take 64
  let rect := fromViewRect s (curReq s).tenant (dRect d)
  match unitChecks s (launcherOf s rect) (s.getG b) rect d (l.drop 192) with
  | .error n => .ok (alu a (sendStatus n) s)
  | .ok k => launchCommit a l k s
/-- glaunch (R374); an island core needs the LAUNCH right (R472). One that waits at step 3 goes on from there. -/
def glaunchBody (a b : Reg) (s : State) : Except Stop State :=
  let q := curReq s
  let right := match s.cur with | .core i _ => hasRight s i q.tenant 6 | _ => true
  let l := captured s
  if right = false then .error (.trap (islandTrap 3))
  else if l ≠ [] then launchCommit a (l.take 256) (leAt l 256 1 == 1, leAt l 257 1 == 1) s
  else match launchReads s q (s.getG b) with
    | .error e => .error e
    | .ok (l, s) => launchRest a b l s
/-- glaunch gA, gB (R374). -/
def execGlaunch (a b : Reg) (s : State) : Host.Outcome State Fault Refusal := runInstr taskBoth s (glaunchBody a b)

/-! ## The ready pool and placement (R373, R376, R385, R401) -/

/-- May a Held launch enter the pool (R401). -/
def mayPool (s : State) (x : Launch) : Bool :=
  x.state == .held &&
  (match s.launch? (predOf x) with
   | some p => p.state == .complete || (dEarly x.desc && p.placed != 0 && p.marked == p.placed)
   | none => false)
/-- Is a Held launch's PRED Cancelled, so that it is cancelled too (R383). -/
def predGone (s : State) (x : Launch) : Bool := x.state == .held && (s.launch? (predOf x)).any fun p => p.state == .cancelled
/-- LAUNCH_POOLED (R401), or its cancellation (R383). -/
def poolBody (s : State) (id : Nat) : State :=
  match s.launch? id with
  | some x =>
    if predGone s x then cancelUnit s lvLaunch id
    else if mayPool s x then (s.setLaunch id { x with state := .pooled }).addDueOnce (.placement id) else s
  | none => s
/-- LAUNCH_POOLED (R401). -/
def execLaunchPooled (id : Nat) (s : State) : Host.Outcome State Fault Refusal := .next (poolBody s id)
/-- The tiles of a launch, with the outlier part's (R373, R387). -/
def launchTiles (s : State) (x : Launch) : List (Nat × Bool) :=
  (tileSet s x.rect (dTmask x.desc) x.wide).map (fun t => (t, false)) ++
    (if x.split then (tileSet s x.rect (dTmask x.desc) true).map fun t => (t, true) else [])
/-- Free contexts of a tile, lowest first. -/
def freeContexts (s : State) (t : Nat) : List Nat := (List.range 64).filter fun c => (s.ctx t c).state == .free
/-- Is a region under Clearance (R446). -/
def underClearance (s : State) (rect : Nat) : Bool := s.clearances.any fun p => !p.2.done && rectMeet p.2.rect rect
/-- The handles of a cluster that name a block, or one cancelled alone whose counter is readable still (R32, R378). -/
def takenHandles (s : State) (n : Nat) : List Nat :=
  ((s.blocks.map Prod.fst) ++ s.launches.flatMap fun p => if p.2.ended then [] else p.2.dead).filter fun h => h / 4096 == n
/-- The handles that a cluster can give (R32): 4,096, but handle 0 names no unit (R375). -/
def handleRoom (n : Nat) : Nat := if n = 0 then 4095 else 4096
/-- Have the clusters of a launch handles for all its blocks (R32). -/
def handlesFree (s : State) (l : List Nat) : Bool :=
  l.all fun n => decide ((l.filter fun m => m == n).length + (takenHandles s n).length ≤ handleRoom n)
/-- Can a Pooled launch be placed now (R29, R32, R376, R446). -/
def placeable (s : State) (x : Launch) : Bool :=
  x.state == .pooled && !((launchTiles s x).any fun p => clearing s p.1) && inOneRegion s x.tenant x.rect &&
    handlesFree s ((launchTiles s x).map fun p => clusterOf p.1) &&
    (launchTiles s x).all fun p => decide (dThreads x.desc ≤ (freeContexts s p.1).length)
/-- The pool's order (R385): DEADLINE, 0 last, then acceptance. -/
def poolBefore (a b : Launch) : Bool :=
  let k (x : Launch) : Nat := if dDeadline x.desc = 0 then 2 ^ 64 else dDeadline x.desc
  decide (k a < k b) || (k a == k b && decide (a.order ≤ b.order))
/-- The island whose pool a launch enters: that of its region. The island of the first cluster of a core's rectangle is taken to police the node's
region (R385; DESIGN CHOICE, log entry 107). -/
def Launch.poolAt (x : Launch) : Nat := x.pool.getD x.island
/-- The Pooled launches of an island in their order. -/
def poolOf (s : State) (i : Nat) : List (Nat × Launch) :=
  (s.launches.filter fun p => p.2.poolAt == i && p.2.state == .pooled).mergeSort fun a b => poolBefore a.2 b.2
/-- Those of a pool up to and with the first that has been passed over 16 times (R385). -/
def poolFront : List (Nat × Launch) → List (Nat × Launch)
  | [] => []
  | p :: r => if 16 ≤ p.2.passed then [p] else p :: poolFront r
/-- The launch that an island places at this opportunity (R385). -/
def nextPlaced (s : State) (i : Nat) : Option Nat := ((poolFront (poolOf s i)).find? fun p => placeable s p.2).map Prod.fst
/-- The serial of a new handle in a cluster: the lowest from 1 up that names nothing, then 0 (log entry 19). -/
def newSerial (s : State) (n : Nat) : Nat :=
  let taken := takenHandles s n
  ((List.range 4096).find? fun k => k != 0 && !taken.contains (4096 * n + k)).getD 0
/-- The contexts of a placed block (R141, R230, R304, R373): Dormant, with the images that the kernel assigned. -/
def placeContexts (s : State) (t h n : Nat) : State :=
  (((freeContexts s t).take n).mapIdx fun i c => (i, c)).foldl (fun s p =>
    (dropLines s t p.2).setCtx t p.2
      { state := .dormant, handle := h, tid := p.1, img := edgeAligned (Config.imageAddr h p.1) 256
        vimg := edgeAligned (Config.vectorImageAddr h p.1) 2048, mimg := edgeAligned (Config.matrixImageAddr h p.1) 64 }) s
/-- An initial entry placed on top of a tile's deque; one that meets a full deque goes to the home island's overflow list itself (R406). -/
def placeEntry (s : State) (t : Nat) (e : DequeEntry) : State :=
  if (s.tile t).deque.length < 64 then pushEntry s t e
  else
    let i := homeIsland (clusterOf t)
    (s.setIsland i { s.island i with overflow := (s.island i).overflow ++ [e] }).addDueOnce (.overflowReturn i)
/-- The initial entries of a block (R373, R388). -/
def placeEntries (s : State) (id : Nat) (x : Launch) (t h : Nat) : State :=
  (List.range (dNtask x.desc)).foldl (fun s k =>
    let (n, s) := s.fresh
    placeEntry s t
      { id := n, handle := h, launch := id, stamp := recFld x.desc 319 288, pc := w64 (dHandler x.desc), arg := w64 k, pusher := x.launcher }) s
/-- A block placed on a tile (R373). -/
def placeBlock (s : State) (id : Nat) (x : Launch) (t : Nat) (outlier : Bool) : Nat × State :=
  let n := clusterOf t
  let h := 4096 * n + newSerial s n
  let img := if outlier then x.outImage else x.mbImage
  let b : Block :=
    { tile := t, launch := id, tenant := x.tenant, index := tileIndex t, gens := ((s.cluster n).placement, (s.cluster n).placement + 1), quota := dScratch x.desc, area := Config.evictionArea h, threads := dThreads x.desc
      mailbox := Vector.ofFn fun k => dword img k.val, mswz := recFld x.desc 379 377, stealMask := 0xFFFF, supervisor := Config.supervisorCore h }
  let s := s.setCluster n { s.cluster n with placement := (s.cluster n).placement + 2 }
  let s := placeEntries (placeContexts (s.setBlock h b) t h (dThreads x.desc)) id x t h
  (h, (dropStale s t |>.addDueOnce (.activationByHandOff t)).addDueOnce (.automaticSteal h))
/-- PLACEMENT (R376): every block of the launch at once; launches passed over are counted (R385). -/
def placementBody (s : State) (id : Nat) : State :=
  match s.launch? id with
  | none => s
  | some x =>
    if nextPlaced s x.poolAt ≠ some id then (if x.state = .pooled then s.addDueOnce (.placement id) else s)
    else
      let passed := ((poolOf s x.poolAt).takeWhile fun p => p.1 != id).map Prod.fst
      let s := passed.foldl (fun s k => match s.launch? k with | some y => s.setLaunch k { y with passed := min 65535 (y.passed + 1) } | none => s) s
      let early := match s.launch? (predOf x) with | some p => !p.ended | none => false
      let r := (launchTiles s x).foldl (fun (acc : List Nat × State) p => let q := placeBlock acc.2 id x p.1 p.2; (acc.1 ++ [q.1], q.2)) ([], s)
      let x := { x with
        state := .running, blocks := r.1, placed := r.1.length, early := early
        raised := x.raised || (dNtask x.desc != 0 && !r.1.isEmpty) }
      r.2.setLaunch id x
/-- PLACEMENT (R376). -/
def execPlacement (id : Nat) (s : State) : Host.Outcome State Fault Refusal := .next (placementBody s id)
/-- Has a launch's DEADLINE passed: the wafer value is the tenant's less its bias (R385, R490). -/
def deadlinePassed (s : State) (x : Launch) : Bool :=
  dDeadline x.desc != 0 && !x.ended && decide ((dDeadline x.desc + (2 ^ 64 - tbiasOf s x.island x.tenant)) % 2 ^ 64 < s.cycle)
/-- DEADLINE (R385): one event, whose data is the launch id (log entry 20). -/
def deadlineBody (s : State) (id : Nat) : State :=
  match s.launch? id with
  | some x =>
    if x.ended ∨ x.deadlineHit = true then s
    else if deadlinePassed s x then
      sendRecord (s.setLaunch id { x with deadlineHit := true }) x.island (eventRecord x.tenant 1 (toBytes 32 id))
    else s.addDueOnce (.deadline id)
  | none => s
/-- DEADLINE (R385). -/
def execDeadline (id : Nat) (s : State) : Host.Outcome State Fault Refusal := .next (deadlineBody s id)

/-! ## Activation (R148, R390, R393, R399) -/

/-- A task entered in its context, from which on it may find no value older than its run (R208, R368): fresh counters, the vector and matrix state cleared (R232, R307); a marked context is Halted before the
first instruction (R493). -/
def enterContext (s : State) (t c k : Nat) (x : Ctx) (budget : Nat) : State :=
  let s := dropStale s t
  let x := { x with task := some k, remain := budget, dropped := 0, latency := 0, deferred := none }
  let s := enqueueFresh s t c x
  if x.marked then
    let r := switchOut (s.setCtx t c { s.ctx t c with state := .halted }) t c
    (match r.2 with | some f => trapImage r.1 t c f | none => r.1)
  else s
/-- A new task in a Dormant context. -/
def activate (s : State) (t c : Nat) (x : Task) : State :=
  let (k, s) := s.fresh
  let x := { x with tile := t, ctx := c, handle := (s.ctx t c).handle }
  let e := lineFault? s t c
  let s := ensureTrapLines s t c
  let y := s.ctx t c
  let y := withExt { y with regs := activationRegs y.regs x.act } {} {}
  orImageFault e (enterContext (noteRaised (s.setTask k x) x.launch) t c k y (taskBudget s x)) t c
/-- A restart entry activated into the context it names (R399). -/
def reactivate (s : State) (k : Nat) (x : Task) : State :=
  let x := { x with phase := .running }
  let e := lineFault? s x.tile x.ctx
  let s := ensureTrapLines s x.tile x.ctx
  let y := atRestart (s.ctx x.tile x.ctx) x
  orImageFault e (regainLocks (enterContext (s.setTask k x) x.tile x.ctx k y (taskBudget s x)) x.tile x.ctx) x.tile x.ctx
/-- The Dormant contexts of a block on a tile, lowest first. -/
def dormantOf (s : State) (t h : Nat) : Option Nat :=
  (List.range 64).find? fun c => let x := s.ctx t c; x.state == .dormant && x.handle == h
/-- May an entry's task start with its taint (R421): the pusher's depth is below 4. -/
def taintAllows (s : State) (e : DequeEntry) : Bool := !e.tainted || (match e.byTask with | some p => decide (taintDepth s 9 p < 4) | none => true)
/-- The context that an entry activates into now: of a restart entry the one it names (R390, R399). -/
def entryContext (s : State) (t : Nat) (e : DequeEntry) : Option Nat :=
  match e.restart with
  | some k => (match s.task? k with
    | some x =>
      let c := s.ctx x.tile x.ctx
      if x.tile == t && (c.state == .dormant || (c.guest && c.state == .free)) then some x.ctx else none
    | none => none)
  | none => if taintAllows s e then dormantOf s t e.handle else none
/-- Does a tile activate nothing: Clearance is emptying its region, or it is in a Drift move (R440, R446). -/
def tileClosed (s : State) (t : Nat) : Bool := clearing s t || movingTile s t
/-- The hand-off that a tile may make: the topmost entry that a Dormant context may take (R390). -/
def handOff? (s : State) (t : Nat) : Option (DequeEntry × Nat) :=
  if bufferFree s t = false ∨ tileClosed s t = true then none
  else (s.tile t).deque.findSome? fun e => (entryContext s t e).map fun c => (e, c)
/-- The handle that a task started from an entry finds in g2 (Table 12.7), in its tenant's view. -/
def pusherSeen (s : State) (h pusher : Nat) : Word := if pusher = 0 then 0 else w64 (toViewHandle s (blockTenant s h) pusher)
/-- The task that an entry starts, with its taint from the pusher (R388, R421). -/
def taskOf (s : State) (e : DequeEntry) (pc : Word) : Task :=
  let from_ := if e.tainted then (e.byTask.toList.filter fun p => (s.task? p).isSome) else []
  { launch := e.launch, stamp := e.stamp, act := { pc := pc, g0 := e.arg, g2 := pusherSeen s e.handle e.pusher }, entry := some e.id, readFrom := from_ }
/-- An entry removed wherever it waits. -/
def takeEntry (s : State) (e : DequeEntry) : State := dropEntries s fun q => q.id == e.id
/-- ACTIVATION_BY_HAND_OFF (R390). -/
def handOffBody (s : State) (t : Nat) : State :=
  match handOff? s t with
  | none => s
  | some (e, c) =>
    let s := takeEntry s e
    let s := match e.restart with
      | some k => (match s.task? k with | some x => reactivate s k x | none => s)
      | none => activate s t c (taskOf s e e.pc)
    s.addDueOnce (.activationByHandOff t)
/-- ACTIVATION_BY_HAND_OFF (R390). -/
def execActivationByHandOff (tile : Nat) (s : State) : Host.Outcome State Fault Refusal := .next (handOffBody s tile)
/-- The inbox entry that a tile may activate (R148, R358): the first whose block has a Dormant context. -/
def inboxNext? (s : State) (t : Nat) : Option (InboxEntry × Nat) :=
  if bufferFree s t = false ∨ tileClosed s t = true then none
  else (s.tile t).inbox.findSome? fun e => (dormantOf s t e.handle).map fun c => (e, c)
/-- ACTIVATION_BY_MESSAGE (R358): a message from outside the launch takes the commit frontier as its timestamp (R388). -/
def messageActivation (s : State) (t : Nat) : State :=
  match inboxNext? s t with
  | none => s
  | some (e, c) =>
    let x := s.tile t
    let s := s.setTile t { x with inbox := x.inbox.erase e }
    let stamp := e.stamp.getD (((s.launch? e.launch).map Launch.frontier).getD 0)
    (activate s t c { launch := e.launch, stamp := stamp, act := e.act, payload := e.payload }).addDueOnce
      (.activationByMessage t)
/-- ACTIVATION_BY_MESSAGE (R358). -/
def execActivationByMessage (tile : Nat) (s : State) : Host.Outcome State Fault Refusal := .next (messageActivation s tile)

/-! ## Deques (R391-R394) -/

/-- Entries of a block that dqpop may take: no restart entries (R393). -/
def takeable (h : Nat) (e : DequeEntry) : Bool := e.handle == h && e.restart.isNone
/-- dqpush (R392). -/
def dqpushBody (b : Reg) (s : State) : Except Stop State :=
  match s.cur with
  | .thread t c =>
    let q := threadReq s t c
    let p := s.getG b
    if p.toNat % 16 ≠ 0 then .error (.trap (taskTrap 1 p))
    else match memLoad s q false p 16 with
      | .error e => .error e
      | .ok (m, s) =>
        let l := curLaunch s
        if handlerKnown s l (leAt m 0 8) = false then .error (.trap (taskTrap 1 p))
        else match q.task, q.task? s with
          | some k, some x =>
            let (n, s) := s.fresh
            let e : DequeEntry :=
              { id := n, handle := q.handle, launch := x.launch, stamp := min (x.stamp + 1) 0xFFFFFFFF, pc := dword m 0, arg := dword m 1
                pusher := q.handle, byTask := some k, tainted := isTainted s k }
            let s := pushEntry (s.setTask k { x with pushes := n :: x.pushes }) t e
            .ok ((noteRaised s x.launch).addDueOnce (.activationByHandOff t)).retire
          | _, _ => .ok s
  | _ => .ok s
/-- dqpush gB (R392). -/
def execDqpush (b : Reg) (s : State) : Host.Outcome State Fault Refusal := runInstr taskThread s (dqpushBody b)
/-- The task of a context ends (R396): it commits when it is oldest; a tainted one is parked (R419). Its streams are unbound. An abort or squash recorded while
its thread was Halted takes effect now that a single step has ended it (R423, R494). -/
def endTask (s : State) (t c k : Nat) (x : Task) : State :=
  let y := s.ctx t c
  let s := y.vec.s.toList.foldl (fun s m => if m.bound then releaseRanges s m.req else s) s
  let s := (s.setTask k { x with phase := .ended, parked := isTainted s k, wantsSerial := false }).addDueOnce (.commit k)
  match y.deferred with
  | some squash => discardTasks (s.setCtx t c { s.ctx t c with deferred := none }) [(k, if squash then .requeue else .restart)]
  | none => s
/-- Does an instruction that ends the task have to wait for a matrix operation (R393, R396). -/
def matrixBusy (s : State) (t c : Nat) : Bool := (s.tile t).matq.any fun m => m.ctx == c
/-- Can the current task's successor have a store buffer: one is free, or the current task's is as soon as it commits (R393 step 5). -/
def nextBuffer (s : State) (t k : Nat) (x : Task) : Bool := bufferFree s t || canCommit s k x
/-- A new task begun in the same context (R393 step 5). -/
def succeed (s : State) (t c : Nat) (x : Task) : State :=
  let (k, s) := (dropStale s t).fresh
  let x := { x with tile := t, ctx := c, handle := (s.ctx t c).handle }
  let y := s.ctx t c
  let s := dropAccs s t c
  let r := activationRegs y.regs x.act
  let r := { r with windows := y.regs.windows, status := setBit r.status 7 (stepping y.regs) }
  (noteRaised (s.setTask k x) x.launch).setCtx t c { withExt y {} {} with
    regs := r, task := some k, remain := taskBudget s x, dropped := 0, latency := 0, dirty := [0, 1, 2, 3] }
/-- dqpop and dqsteal with the entry that they find (R393); in a region under Clearance entries stay queued (R446). -/
def takeNext (a : Reg) (none_ : Word) (find : State → Nat → Option DequeEntry) (s : State) : Except Stop State :=
  match s.cur with
  | .thread t c =>
    let y := s.ctx t c
    if a.val < 3 ∨ intrap y.regs = true then .error (.trap (taskTrap 3))
    else if matrixBusy s t c then .error .wait
    else match (if clearing s t then none else find s t) with
      | none => .ok (alu a none_ s)
      | some e =>
        if taintAllows s e = false then .error .wait
        else match y.task, y.task.bind s.task? with
          | some k, some x =>
            if nextBuffer s t k x = false then .error .wait
            else
              let pc := w64 (nextPc s s.cur s.getPc.toNat)
              let e := { e with handle := y.handle }
              let s := endTask (takeEntry s e) t c k x
              let s := match s.task? k with | some x => if x.phase = .ended ∧ canCommit s k x = true then commitEnded s k x else s | none => s
              .ok { succeed s t c (taskOf s e pc) with retired := true }
          | _, _ => .ok s
  | _ => .ok s
/-- dqpop gA (Table 12.8). -/
def execDqpop (a : Reg) (s : State) : Host.Outcome State Fault Refusal :=
  runInstr taskThread s (takeNext a badId fun s t => (s.tile t).deque.find? (takeable (curHandle s)))
/-- The entry that a block steals (Table 12.8). -/
def stealFrom (s : State) (h : Nat) : Option DequeEntry :=
  match s.block? h with
  | none => none
  | some b =>
    let order := (List.range 15).map fun k => (tileIndex b.tile + 1 + k) % 16
    (order.filter fun k => fieldN b.stealMask k k == 1).findSome? fun k =>
      let t := clusterTile (clusterOf b.tile) k
      (s.tile t).deque.reverse.find? fun e => e.restart.isNone && e.launch == b.launch && e.handle != h
/-- dqsteal gA (Table 12.8). -/
def execDqsteal (a : Reg) (s : State) : Host.Outcome State Fault Refusal :=
  runInstr taskThread s (takeNext a selfUnit fun s _ => stealFrom s (curHandle s))
/-- dqmask gB (R394). -/
def execDqmask (b : Reg) (s : State) : Host.Outcome State Fault Refusal :=
  runInstr taskThread s fun s =>
    match s.block? (curHandle s) with
    | some x => .ok (s.setBlock (curHandle s) { x with stealMask := fld (s.getG b) 15 0 }).retire
    | none => .ok s.retire
/-- dqlen gA (R394). -/
def execDqlen (a : Reg) (s : State) : Host.Outcome State Fault Refusal :=
  runInstr taskThread s fun s => .ok (alu a (w64 ((s.tile (curThread s).1).deque.filter fun e => e.handle == curHandle s).length) s)
/-- Would a block steal now (R394): a Dormant context, a free store buffer, no entry of its own, 64 cycles since the last attempt. -/
def steals? (s : State) (h : Nat) : Option (Block × Nat × DequeEntry) :=
  match liveBlock? s h with
  | none => none
  | some b =>
    if b.evicted || tileClosed s b.tile || !bufferFree s b.tile || decide (s.cycle < b.stealAt) || (s.tile b.tile).deque.any (fun e => e.handle == h) then none
    else match dormantOf s b.tile h, stealFrom s h with
      | some c, some e => if taintAllows s e then some (b, c, e) else none
      | _, _ => none
/-- AUTOMATIC_STEAL (R394): it stays due for the block's life. -/
def stealBody (s : State) (h : Nat) : State :=
  let s1 := if (s.block? h).isSome then s.addDueOnce (.automaticSteal h) else s
  match steals? s h with
  | none => s1
  | some (b, c, e) =>
    activate (takeEntry (s1.setBlock h { b with stealAt := s.cycle + 64 }) e) b.tile c (taskOf s { e with handle := h } e.pc)
/-- AUTOMATIC_STEAL (R394). -/
def execAutomaticSteal (handle : Nat) (s : State) : Host.Outcome State Fault Refusal := .next (stealBody s handle)
/-- The tile that an overflow entry returns to: the fewest entries first; of a restart entry that of its block (R391, R399). -/
def returnTile (s : State) (e : DequeEntry) : Option (Nat × Nat) :=
  let l := s.blocks.filter fun p =>
    (match e.restart with | some _ => p.1 == e.handle | none => p.2.launch == e.launch && p.2.live && !p.2.evicted) && !clearing s p.2.tile &&
      decide ((s.tile p.2.tile).deque.length < 64)
  ((l.mergeSort fun a b => decide ((s.tile a.2.tile).deque.length ≤ (s.tile b.2.tile).deque.length)).head?).map fun p => (p.2.tile, p.1)
/-- The first overflow entry of an island that may return. -/
def returnNext? (s : State) (i : Nat) : Option (DequeEntry × Nat × Nat) := (s.island i).overflow.findSome? fun e => (returnTile s e).map fun p => (e, p)
/-- OVERFLOW_RETURN (R391): to the bottom of a deque. -/
def overflowBody (s : State) (i : Nat) : State :=
  match returnNext? s i with
  | none => s
  | some (e, t, h) =>
    let isl := s.island i
    let s := s.setIsland i { isl with overflow := isl.overflow.erase e }
    let x := s.tile t
    let s := (s.setTile t { x with deque := x.deque ++ [{ e with handle := h }] }).addDueOnce (.activationByHandOff t)
    if (s.island i).overflow.isEmpty then s else s.addDueOnce (.overflowReturn i)
/-- OVERFLOW_RETURN (R391). -/
def execOverflowReturn (island : Nat) (s : State) : Host.Outcome State Fault Refusal := .next (overflowBody s island)

/-! ## yield, waitpred, earlyok, budgets (R396-R402) -/

/-- yield (R396): the context is Dormant, or Free for a guest; under dstep it stays marked (R494). An anchored context first writes its vector
state out (R231). -/
def yieldBody (s : State) : Except Stop State :=
  match s.cur with
  | .thread t c =>
    if matrixBusy s t c then .error .wait
    else match vectorLeave s t c with
    | (_, some f) => .error (.trap f)
    | (s, none) =>
      let y := s.ctx t c
      let s := match y.task, y.task.bind s.task? with
        | some k, some x => endTask s t c k x
        | _, _ => s
      let y := s.ctx t c
      let y' := { withExt (leaveSlot y) {} {} with
        state := if y.guest then .free else .dormant, task := none, marked := y.marked || stepping y.regs }
      let s := s.setCtx t c y'
      let s := (if y.guest then dropLines s t c else dropAccs s t c).addDueOnce (.issueSlotTaken t)
      .ok { (s.addDueOnce (.activationByHandOff t)).addDueOnce (.activationByMessage t) with retired := true }
  | _ => .ok s
/-- yield (R396). -/
def execYield (s : State) : Host.Outcome State Fault Refusal := runInstr taskThread s yieldBody
/-- waitpred (R402): in a launch with PRED it waits until PRED is Complete. -/
def execWaitpred (s : State) : Host.Outcome State Fault Refusal :=
  runInstr taskThread s fun s =>
    match (s.launch? (curLaunch s)).map predOf with
    | some (p + 1) => (match s.launch? (p + 1) with
      | some x => if x.state = .complete then .ok (synchronised s).retire else .error .wait
      | none => .ok (synchronised s).retire)
    | _ => .ok s.retire
/-- Has a launch a successor: one that names it as PRED and has not ended (R401). -/
def hasSuccessor (s : State) (l : Nat) : Bool := s.launches.any fun p => predOf p.2 == l && !p.2.ended
/-- earlyok (R401): without effect in a launch that has no successor. -/
def execEarlyok (s : State) : Host.Outcome State Fault Refusal :=
  runInstr taskThread s fun s =>
    if taintHolds s then .error .wait
    else match s.block? (curHandle s) with
      | some b =>
        if b.early || !hasSuccessor s b.launch then .ok s.retire
        else
          let s := s.setBlock (curHandle s) { b with early := true }
          let s := match s.launch? b.launch with | some x => s.setLaunch b.launch { x with marked := x.marked + 1 } | none => s
          .ok (noteSuccessors s b.launch).retire
      | none => .ok s.retire
/-- bgrd gA (R400). -/
def execBgrd (a : Reg) (s : State) : Host.Outcome State Fault Refusal :=
  runInstr taskThread s fun s => .ok (alu a (w64 (s.ctx (curThread s).1 (curThread s).2).remain) s)
/-- tsrd gA (R400). -/
def execTsrd (a : Reg) (s : State) : Host.Outcome State Fault Refusal :=
  runInstr taskThread s fun s => .ok (alu a (w64 (((curTask? s).map fun p => p.2.stamp).getD 0)) s)
/-- Is BUDGET to be taken from a context: its budget is used up in its slot, and no glaunch defers it (R374, R397, R398). -/
def budgetDue (s : State) (t c : Nat) : Bool :=
  let x := s.ctx t c
  x.state == .issuing && x.slot.isSome && x.task.isSome && x.remain == 0 && x.captured.isEmpty
/-- BUDGET (R398): at the next boundary, with TRINFO the launch's BUDGET. -/
def budgetBody (s : State) (t c : Nat) : State :=
  if budgetDue s t c = false then s
  else match boundary s t c with
    | none => s.addDueOnce (.budget t c)
    | some s =>
      let b := match (s.ctx t c).task.bind s.task? with | some x => taskBudget s x | none => 0
      takeTrap s t c { code := 0x20, engine := engTask, info := w64 b }
/-- BUDGET (R398). -/
def execBudget (tile ctx : Nat) (s : State) : Host.Outcome State Fault Refusal := .next (budgetBody s tile ctx)

end Sys2Proof.Machine
end

