-- ==== Sys2Proof/Machine/Forecast.lean ====
section
/-! DEFINITION. The Forecast engine and the Ceilometer (R407-R431): tracking, forecasts and real copies, taint, checks and their resolution. -/

namespace Sys2Proof.Machine

/-- The forecast instructions of threads (R417). -/
def fcThread : Profile := { core := false, engine := engForecast }
/-- fstat and falpha (Table 3.1). -/
def fcBoth : Profile := { engine := engForecast }

/-! ## Shapes (R409) -/

/-- ROWS, COLS, NCG, CGLOG, RSTRIDE, GSTRIDE and CGFMT of a record image. -/
def shapeOf (r : List Byte) : List Nat :=
  [recFld r 79 64, recFld r 95 80, recFld r 171 168, recFld r 162 160, recFld r 127 96, recFld r 159 128, recFld r 239 192]
/-- ROWS. -/
def sRows (r : List Byte) : Nat := recFld r 79 64
/-- COLS. -/
def sCols (r : List Byte) : Nat := recFld r 95 80
/-- NCG. -/
def sNcg (r : List Byte) : Nat := recFld r 171 168
/-- Columns of a column group, 2^CGLOG. -/
def sGroup (r : List Byte) : Nat := 2 ^ recFld r 162 160
/-- CGFMT of group k. -/
def sFmt (r : List Byte) (k : Nat) : Nat := recFld r (192 + 6 * k + 5) (192 + 6 * k)
/-- Width of an element of group k in bytes. -/
def sWidth (r : List Byte) (k : Nat) : Nat := if sFmt r k = 5 then 4 else 2
/-- OFS(i, j). -/
def sOffset (r : List Byte) (i j : Nat) : Nat :=
  let k := j / sGroup r
  i * recFld r 127 96 + k * recFld r 159 128 + j % sGroup r * sWidth r k
/-- EXT. -/
def sExtent (r : List Byte) : Nat :=
  (sRows r - 1) * recFld r 127 96 + ((List.range (sNcg r)).map fun k => k * recFld r 159 128 + sGroup r * sWidth r k).foldl max 0
/-- Is a shape forecastable. -/
def forecastable (r : List Byte) : Bool :=
  ((List.range (sNcg r)).all fun k => sFmt r k == 5 || sFmt r k == 6 || sFmt r k == 7) && decide (1 ≤ sRows r) && decide (1 ≤ sCols r) &&
    decide (sCols r ≤ sNcg r * sGroup r) && decide (sExtent r ≤ 65536)
/-- Offset, width and floating-point format of every element, row by row. -/
def elements (r : List Byte) : List (Nat × Nat × FpFmt) :=
  (List.range (sRows r)).flatMap fun i => (List.range (sCols r)).map fun j =>
    let k := j / sGroup r
    (sOffset r i j, sWidth r k, if sFmt r k = 5 then .fp32 else if sFmt r k = 6 then .fp16 else .bf16)
/-- BASE of a record. -/
def recBase (r : List Byte) : Word := w64 (recFld r 63 0)
/-- The bits of every element of a version read by an engine. -/
def readElements (s : State) (q : Req) (r : List Byte) (stop : Hold → Stop := holdStop) : Except Stop (List Nat × State) :=
  (elements r).foldl (fun acc e =>
    match acc with
    | .error x => .error x
    | .ok (l, s) => match engineRead s q (withAddr (recBase r) (addrOf (recBase r) + e.1)) e.2.1 stop with
      | .error x => .error x
      | .ok (b, s) => .ok (l ++ [fromBytes b], s)) (.ok ([], s))

/-! ## The forecast (R411, R412) -/

/-- a + α·(a - b) for α = alpha / 2, exactly (R411). -/
def extrapolate (alpha : Nat) (a b : FpVal) : Exact :=
  match a, b with
  | .nan _, _ => .nan
  | _, .nan _ => .nan
  | .inf x, .inf y => if x = y then .nan else .inf x
  | .inf x, .num .. => .inf x
  | .num .., .inf y => .inf !y
  | .num n1 m1 e1, .num n2 m2 e2 =>
    let lo := min e1 e2
    let x := FpVal.toInt lo (.num n1 m1 e1)
    Exact.ofInt (2 * x + alpha * (x - FpVal.toInt lo (.num n2 m2 e2))) (lo - 1) false
/-- One element of the forecast. -/
def forecastElement (f : FpFmt) (alpha : Nat) (a : Nat) (b : Option Nat) : Nat :=
  let x := (f.read a).1
  let y := match b with | some b => if alpha = 0 then x.exact else extrapolate alpha x (f.read b).1 | none => x.exact
  (finish f .rne 0 false y).1
/-- The forecast's elements from those of P1 and, where it counts, P2. -/
def forecastElements (r : List Byte) (alpha : Nat) (p1 : List Nat) (p2 : Option (List Nat)) : List Nat :=
  (elements r).mapIdx fun i e => forecastElement e.2.2 alpha (p1.getD i 0) (p2.map fun l => l.getD i 0)
/-- ALPHA and RUN after a check (R412). -/
def afterCheck (f : Forecast) (pass : Bool) : Forecast :=
  let top := 2 ^ 24 - 1
  if pass then
    let f := { f with hits := min top (f.hits + 1) }
    if f.run + 1 = 4 then { f with alpha := min (f.alpha + 1) 2, run := 0 } else { f with run := f.run + 1 }
  else { f with misses := min top (f.misses + 1), alpha := f.alpha - 1, run := 0 }

/-! ## Tolerances (R413, R414) -/

/-- A finite FP32 value with sign 0. -/
def goodTol (b : Nat) : Bool := decide (b < 0x7F800000)
/-- A valid tolerance record. -/
def tolOk (t : List Byte) : Bool :=
  recFld t 511 168 == 0 && decide (recFld t 167 160 ≤ 1) && goodTol (recFld t 95 64) && goodTol (recFld t 127 96) && goodTol (recFld t 159 128)
/-- The real number that a finite value is. -/
def ratOf : FpVal → ℚ
  | .num n m e =>
    let v : ℚ := if 0 ≤ e then (m * 2 ^ e.toNat : Nat) else (m : ℚ) / (2 ^ (-e).toNat : Nat)
    if n then -v else v
  | _ => 0
/-- A finite value. -/
def finite : FpVal → Bool
  | .num .. => true
  | _ => false
/-- The FP32 value of a tolerance. -/
def tolRat (b : Nat) : ℚ := ratOf (FpFmt.fp32.decode b)
/-- One element under METRIC 0. -/
def elementPasses (tabs trel : ℚ) (v f : FpVal) : Bool :=
  match v, f with
  | .nan _, .nan _ => true
  | .inf x, .inf y => x == y
  | .num .., .num .. => decide (|ratOf v - ratOf f| ≤ tabs + trel * |ratOf v|)
  | _, _ => false
/-- The comparison of a committed version with its forecast (R414). -/
def compareVersions (t : List Byte) (r : List Byte) (v f : List Nat) : Bool :=
  let fm := (elements r).map fun e => e.2.2
  let vals (l : List Nat) : List FpVal := fm.mapIdx fun i x => (x.read (l.getD i 0)).1
  let ps := (vals v).zip (vals f)
  if recFld t 167 160 = 0 then ps.all fun p => elementPasses (tolRat (recFld t 95 64)) (tolRat (recFld t 127 96)) p.1 p.2
  else
    let sq (g : FpVal × FpVal → ℚ) : ℚ := (ps.map fun p => g p * g p).sum
    ps.all (fun p => finite p.1 && finite p.2) &&
      decide (sq (fun p => ratOf p.1 - ratOf p.2) ≤ tolRat (recFld t 159 128) * tolRat (recFld t 159 128) * sq fun p => ratOf p.1)

/-! ## Instances (R415-R423) -/

/-- The Forecast state of a record. -/
def forecastOf (s : State) (n r : Nat) : Forecast := mget (s.cluster n).forecasts {} r
/-- That, replaced. -/
def setForecast (s : State) (n r : Nat) (f : Forecast) : State :=
  let c := s.cluster n
  s.setCluster n { c with forecasts := mset c.forecasts r f }
/-- Tasks that hold an instance. -/
def holders (s : State) (i : Nat) : List Nat := (s.tasks.filter fun p => p.2.taint.contains i).map Prod.fst
/-- An instance removed from every source list; ended tasks are looked at again (R422). -/
def resolveInstance (s : State) (i : Nat) : State :=
  let s : State := { s with
    tasks := s.tasks.map fun (p : Nat × Task) => (p.1, { p.2 with taint := p.2.taint.filter fun x => x != i })
    insts := mdel s.insts i }
  s.tasks.foldl (fun s p => if p.2.phase = .ended then s.addDueOnce (.commit p.1) else s) s
/-- An instance fails: its holders are squashed (R422, R423). -/
def failInstance (s : State) (i : Nat) : State := resolveInstance (discardTasks s ((holders s i).map fun k => (k, Fate.requeue))) i
/-- The requester of the Ceilometer of a cluster: no task, the region's tenant (R172, R422). -/
def ceilometerReq (s : State) (n : Nat) : Req := { agent := .thread (clusterTile n 0) 0, tile := clusterTile n 0, tenant := regionTenant s n }
/-- The result of a check: the committed version has the forecast's shape, can be read and compares (R414). -/
def checkPasses (s : State) (n : Nat) (rec_ : List Byte) (x : FInstance) : Bool :=
  shapeOf rec_ == shapeOf x.shape && forecastable rec_ &&
    (match readElements s (ceilometerReq s n) rec_ with
     | .ok (v, _) => compareVersions x.tolerance rec_ v ((elements rec_).map fun e => leAt x.forecast e.1 e.2.1)
     | .error _ => false)
/-- The instance of a record that is to be checked next, and the record as the commit of its version left it (R422). -/
def toCheck? (s : State) (n r : Nat) : Option (Nat × FInstance × List Byte) :=
  s.insts.findSome? fun p => if p.2.cluster = n ∧ p.2.record = r then p.2.committed.map fun v => (p.1, p.2, v) else none
/-- CEILOMETER_CHECK (R422): the next instance that awaits one; another goes on. -/
def checkBody (s : State) (n r : Nat) : State :=
  match toCheck? s n r with
  | some (i, x, v) =>
    let pass := checkPasses s n v x
    let s := setForecast s n r (afterCheck (forecastOf s n r) pass)
    let s := if pass then resolveInstance s i else failInstance s i
    if (toCheck? s n r).isSome then s.addDueOnce (.ceilometerCheck n r) else s
  | none => s
/-- CEILOMETER_CHECK (R422). -/
def execCeilometerCheck (cluster record : Nat) (s : State) : Host.Outcome State Fault Refusal := .next (checkBody s cluster record)

/-! ## ftrack, funtrack, fclose, fstat, falpha (R407, R429-R431) -/

/-- The issuing cluster and the record that a thread names. -/
def ownRecord (s : State) (b : Reg) : Nat × Nat := (clusterOf (curThread s).1, fld (s.getG b) 7 0)
/-- TRACKED of a record. -/
def tracked (s : State) (n r : Nat) : Bool := recFld (layoutRecord s n r) 288 288 == 1
/-- TRACKED set or cleared, with a new Forecast state. -/
def setTracked (s : State) (n r : Nat) (on : Bool) (f : Forecast) : State :=
  let c := s.cluster n
  s.setCluster n { c with
    records := mset c.records r (recSet (layoutRecord s n r) 288 288 (boolNat on)), forecasts := mset c.forecasts r f }
/-- ftrack gB (R407). -/
def ftrackBody (b : Reg) (s : State) : State :=
  let p := ownRecord s b
  if tracked s p.1 p.2 then s
  else
    let rec_ := recSet (layoutRecord s p.1 p.2) 288 288 1
    setTracked s p.1 p.2 true (if sRows rec_ = 0 then {} else { p1 := some rec_, h := 1 })
/-- ftrack gB (R429). -/
def execFtrack (b : Reg) (s : State) : Host.Outcome State Fault Refusal := runInstr fcThread s fun s => .ok (ftrackBody b s).retire
/-- funtrack gB (R407): every instance of the record fails, which squashes its holders, the issuing task among them. -/
def funtrackBody (b : Reg) (s : State) : State :=
  let p := ownRecord s b
  let k := (curReq s).task
  if tracked s p.1 p.2 = false then s.retire
  else
    let l := (s.insts.filter fun x => x.2.cluster == p.1 && x.2.record == p.2).map Prod.fst
    let s := l.foldl failInstance (setTracked s p.1 p.2 false {})
    if stillRuns s k then s.retire else s
/-- funtrack gB (R429). -/
def execFuntrack (b : Reg) (s : State) : Host.Outcome State Fault Refusal := runInstr fcThread s fun s => .ok (funtrackBody b s)
/-- fclose gB (R430). -/
def execFclose (b : Reg) (s : State) : Host.Outcome State Fault Refusal :=
  runInstr fcThread s fun s =>
    let p := ownRecord s b
    let held := match curTask? s with
      | some (_, x) => x.taint.any fun i => match mget? s.insts i with | some y => y.cluster == p.1 && y.record == p.2 | none => false
      | none => false
    if held then .error .wait else .ok s.retire
/-- The word of Table 13.6. -/
def fstatWord (s : State) (n r : Nat) : Word :=
  let f := forecastOf s n r
  let w := match f.inst with | some i => min 127 (holders s i).length | none => 0
  w64 (f.hits * 2 ^ 40 + f.misses * 2 ^ 16 + boolNat f.inst.isSome * 2 ^ 15 + w * 2 ^ 8 + f.h * 2 ^ 6 + f.alpha * 2 ^ 4 + f.run * 2 ^ 2 + boolNat (tracked s n r))
/-- The FP32 value of α. -/
def alphaWord (a : Nat) : Word := if a = 0 then 0 else if a = 1 then 0x3F000000 else 0x3F800000
/-- The record that a query names: of the issuing cluster, or of a core's island square (R431). -/
def queryRecord (s : State) (b : Reg) : Except Stop (Nat × Nat) :=
  match s.cur with
  | .core i k => coreRecord s i k (s.getG b)
  | _ => .ok (ownRecord s b)
/-- A query of a record. -/
def execRecordQuery (a b : Reg) (f : State → Nat → Nat → Word) (s : State) : Host.Outcome State Fault Refusal :=
  runInstr fcBoth s fun s => match queryRecord s b with
    | .error e => .error e
    | .ok p => .ok (alu a (f s p.1 p.2) s)
/-- fstat gA, gB (R431). -/
def execFstat (a b : Reg) (s : State) : Host.Outcome State Fault Refusal := execRecordQuery a b fstatWord s
/-- falpha gA, gB (R431). -/
def execFalpha (a b : Reg) (s : State) : Host.Outcome State Fault Refusal := execRecordQuery a b (fun s n r => alphaWord (forecastOf s n r).alpha) s

/-! ## fopen (R415, R416) -/

/-- What fopen delivers: the image of a real version, or a forecast. -/
inductive Source where
  | real (r : List Byte)
  | forecast
/-- Step 3 of R415: the source, or a status number. -/
def fopenSource (f : Forecast) (rec_ : List Byte) (n v : Nat) : Except Nat Source :=
  let d := (n + 2 ^ 32 - v) % 2 ^ 32
  if d = 0 then .ok (.real rec_)
  else if d = 2 ^ 32 - 1 ∧ f.h = 2 then (match f.p2 with | some p => .ok (.real p) | none => .error 2)
  else if d = 1 then .ok .forecast
  else if 2 ^ 31 ≤ d then .error 2 else .error 3
/-- The private allocation that holds the destination (R415 step 5). -/
def destOk (s : State) (t h dest ext : Nat) : Bool :=
  decide (dest + ext ≤ 0x20000) && (match allocAt s t h dest ext with | some a => !a.shared | none => false)
/-- Elements written to the destination, gaps left alone (R416). -/
def deliverElements (s : State) (t dest : Nat) (r : List Byte) (l : List Nat) : State :=
  ((elements r).zip l).foldl (fun s p => putPhys s (spadBase t + dest + p.1.1) (toBytes p.1.2.1 p.2)) s
/-- NOFORECAST (R415 step 6). -/
def noForecast (s : State) (n : Nat) (f : Forecast) (k : Nat) (x : Task) : Bool :=
  let held := match f.inst with | some i => x.taint.contains i | none => false
  let entries := (s.tasks.filter fun p => clusterOf p.2.tile == n && isTainted s p.1).length
  x.serial || (f.inst.isNone && decide (16 ≤ (s.insts.filter fun p => p.2.cluster == n).length)) || (!isTainted s k && decide (64 ≤ entries)) ||
    (decide (4 ≤ sourceCount s x) && !held)
/-- The bytes of a forecast over its extent. -/
def layOut (r : List Byte) (l : List Nat) : List Byte :=
  ((elements r).zip l).foldl (fun b p => b.take p.1.1 ++ toBytes p.1.2.1 p.2 ++ b.drop (p.1.1 + p.1.2.1)) (List.replicate (sExtent r) 0)
/-- The instance of a record's next version: the open one, or a new one from P1 and P2 (R416); none when they cannot be read. -/
def openInstance (s : State) (q : Req) (n r : Nat) (f : Forecast) (p1 tol : List Byte) : Option (Nat × FInstance × State) :=
  match f.inst, f.inst.bind (mget? s.insts) with
  | some i, some x => some (i, x, s)
  | _, _ =>
    let q := { q with task := none }
    match readElements s q p1 with
    | .error _ => none
    | .ok (a, s) =>
      let p2 := if f.alpha = 0 ∨ f.h = 1 then none else f.p2.filter fun p => shapeOf p == shapeOf p1
      let b : Option (Option (List Nat) × State) := match p2 with
        | none => some (none, s)
        | some p => (match readElements s q p with | .ok (b, s) => some (some b, s) | .error _ => none)
      match b with
      | none => none
      | some (b, s) =>
        let (i, s) := s.fresh
        let x : FInstance :=
          { cluster := n, record := r, version := (recVersion (layoutRecord s n r) + 1) % 2 ^ 32, shape := p1
            forecast := layOut p1 (forecastElements p1 f.alpha a b), tolerance := tol }
        some (i, x, setForecast { s with insts := mset s.insts i x } n r { f with inst := some i })
/-- The ranges of an fopen under a request number: its destination, and the extent that a real copy reads (R415 step 7). -/
def fopenRanges (s : State) (t c dest ext : Nat) (src : Option (List Byte)) (req : Nat) : List RangeSpec :=
  let x := s.ctx t c
  let ten := blockTenant s x.handle
  rangeSpecs s t x.handle ten engForecast req x.task true dest ext ++
    (match src with | some r => rangeSpecs s t x.handle ten engForecast req x.task false (addrOf (recBase r)) (sExtent r) | none => [])
/-- Could an fopen act at once: its ranges have room, and none registered before conflicts (R415 step 7). -/
def fopenClear (s : State) (t c dest ext : Nat) (src : Option (List Byte)) : Bool :=
  let l := fopenRanges s t c dest ext src s.nextId
  rangesFit s l && rangesClear (registerRanges s l) s.nextId
/-- The ranges that an fopen of the thread that waits at its step 7 has registered. -/
def fopenHeld (s : State) (t c : Nat) : List RangeSpec :=
  s.tiles.flatMap fun p => (p.2.locks.filter (fopenLock (s.ctx t c).task)).map fun l => (p.1, l)
/-- Are those the ranges that it needs. -/
def fopenSame (s : State) (t c dest ext : Nat) (src : Option (List Byte)) : Bool :=
  match fopenHeld s t c with
  | [] => false
  | p :: l => (fopenRanges s t c dest ext src p.2.req).all (p :: l).contains
/-- An fopen at its step 7: it goes on when its ranges are clear, and holds them registered while they are not. One that waits goes through its
steps 1 to 6 again when it is tried again (DESIGN CHOICE, log entry 106). -/
def fopenTurn (s : State) (t c dest ext : Nat) (src : Option (List Byte)) : Except Stop State :=
  if fopenSame s t c dest ext src then
    (if ((fopenHeld s t c).map fun p => p.2.req).all (rangesClear s) then .ok (dropFopen s t c) else .error .wait)
  else
    let s := dropFopen s t c
    if fopenClear s t c dest ext src then .ok s
    else
      let (req, s') := s.fresh
      let l := fopenRanges s' t c dest ext src req
      .error (.kept (if rangesFit s' l then registerRanges s' l else s) none)
/-- A forecast delivered: the instance becomes a source of the task (R416, R418). -/
def fopenForecast (a : Reg) (s : State) (q : Req) (t n r dest : Nat) (f : Forecast) (p1 tol : List Byte) (kid : Nat) : State :=
  match openInstance s q n r f p1 tol with
  | none => alu a (sendStatus 1) s
  | some (i, x, s) =>
    let s := deliverElements s t dest p1 ((elements p1).map fun e => leAt x.forecast e.1 e.2.1)
    let s := match s.task? kid with | some k => s.setTask kid { k with taint := if k.taint.contains i then k.taint else k.taint ++ [i] } | none => s
    alu a 1 s
/-- How a read of an instruction that has not retired ends: the task becomes serialising where a registration does not fit (R207). -/
def unretiredStop : Hold → Stop
  | .full => .serialise
  | h => holdStop h
/-- Steps 3 to 9 of R415. -/
def fopenRest (a : Reg) (tol rec_ : List Byte) (n : Nat) (r : Nat) (s : State) : Except Stop State :=
  match s.cur with
  | .thread t c =>
    let q := threadReq s t c
    let cl := clusterOf t
    let f := forecastOf s cl r
    let v := recVersion rec_
    if recFld rec_ 288 288 = 0 ∧ n ≠ v then .ok (alu a (sendStatus 5) s)
    else match fopenSource f rec_ n v with
      | .error e => .ok (alu a (sendStatus e) s)
      | .ok src =>
        match (match src with | .real p => some p | .forecast => if f.h = 0 then none else f.p1) with
        | none => .ok (alu a (sendStatus 6) s)
        | some p =>
          let dest := recFld tol 53 0
          if forecastable p = false then .ok (alu a (sendStatus 6) s)
          else if destOk s t q.handle dest (sExtent p) = false then .ok (alu a (sendStatus 7) s)
          else match src, q.task, q.task? s with
            | .forecast, some kid, some k =>
              if noForecast s cl f kid k then .ok (alu a (sendStatus 1) s)
              else match fopenTurn s t c dest (sExtent p) none with
                | .error e => .error e
                | .ok s => .ok (fopenForecast a s q t cl r dest f p tol kid)
            | .real p, _, _ =>
              (match fopenTurn s t c dest (sExtent p) (some p) with
              | .error e => .error e
              | .ok s => match readElements s q p unretiredStop with
                | .error e => .error e
                | .ok (l, s) => .ok (alu a 0 (deliverElements s t dest p l)))
            | _, _, _ => .ok s
  | _ => .ok s
/-- fopen (R415). -/
def fopenBody (a b c e : Reg) (s : State) : Except Stop State :=
  let q := curReq s
  let p := s.getG e
  if p.toNat % 64 ≠ 0 then .ok (alu a (sendStatus 4) s)
  else match memLoad s q false p 64 with
    | .error x => .error x
    | .ok (tol, s) =>
      if tolOk tol = false then .ok (alu a (sendStatus 4) s)
      else
        let r := ownRecord s b
        match recordRead s q.task r.1 r.2 with
        | .error h => .error (holdStop h)
        | .ok (rec_, s) => fopenRest a tol rec_ (fld (s.getG c) 31 0) r.2 s
/-- fopen gA, gB, gC, gE (R415). -/
def execFopen (a b c e : Reg) (s : State) : Host.Outcome State Fault Refusal := runInstr fcThread s (fopenBody a b c e)

end Sys2Proof.Machine
end

