-- ==== Sys2Proof/Machine/Seal.lean ====
section
/-! DEFINITION. Keys derived from the device root key, and sealed objects (R503, R506-R508). -/

namespace Sys2Proof.Machine

/-! ## Keys (R503, Table 16.1) -/

/-- Kenc of a tenant, as the number that SM4 takes. -/
def sealEnc (w : Bool) (dstate t : Nat) : Nat := beNat (kdf (worldKey w dstate) 16 (label "senc" ++ toBytes 4 t))
/-- Kmac of a tenant. -/
def sealMac (w : Bool) (dstate t : Nat) : List Byte := kdf (worldKey w dstate) 32 (label "smac" ++ toBytes 4 t)

/-! ## Sealed objects (Table 16.2) -/

/-- Chunks of L plaintext bytes. -/
def chunkCount (l : Nat) : Nat := (l + 65535) / 65536
/-- Bytes of a sealed object of L plaintext bytes (R506). -/
def sealedLength (l : Nat) : Nat := 96 + l + 32 * chunkCount l
/-- The first 64 bytes of an object. -/
def sealHeader (t : Nat) (w : Bool) (dstate l : Nat) (nonce : List Byte) : List Byte :=
  toBytes 4 0x00015EA1 ++ toBytes 4 (t + boolNat w * 2 ^ 31) ++ toBytes 4 dstate ++ toBytes 4 (chunkCount l) ++ toBytes 8 l ++ toBytes 8 0 ++ nonce
/-- The counter block of unit j of chunk i (R507). -/
def counterBlock (nonce : List Byte) (i j : Nat) : Nat := ((fromBytes (nonce.take 10) * 2 ^ 32 + i % 2 ^ 32) * 2 ^ 12 + j) * 2 ^ 4
/-- A chunk enciphered or deciphered: SM4 in counter mode. -/
def cryptChunk (key : Nat) (nonce : List Byte) (i : Nat) (b : List Byte) : List Byte :=
  let ks := (List.range ((b.length + 15) / 16)).flatMap fun j => beBytes 16 (sm4 key (counterBlock nonce i j))
  (b.zip ks).map fun p => p.1 ^^^ p.2
/-- The index word of chunk i of n. -/
def indexWord (i n : Nat) : Nat := i + (if i + 1 = n then 2 ^ 31 else 0)
/-- The MAC of chunk i after the MAC before it. -/
def chunkMac (mac prev c : List Byte) (i n : Nat) : List Byte := hmacSm3 mac (prev ++ toBytes 4 (indexWord i n) ++ c)
/-- Chunks i onwards of a plaintext, each with its MAC; the fuel is their number. -/
def sealChunks (enc : Nat) (mac nonce : List Byte) (n : Nat) : Nat → Nat → List Byte → List Byte → List Byte
  | 0, _, _, _ => []
  | f + 1, i, prev, b =>
    let c := cryptChunk enc nonce i (b.take 65536)
    let m := chunkMac mac prev c i n
    c ++ m ++ sealChunks enc mac nonce n f (i + 1) m (b.drop 65536)
/-- The sealed object of a plaintext (R506, R507). -/
def sealObject (t : Nat) (w : Bool) (dstate : Nat) (nonce b : List Byte) : List Byte :=
  let h := sealHeader t w dstate b.length nonce
  let mac := sealMac w dstate t
  let m := hmacSm3 mac h
  h ++ m ++ sealChunks (sealEnc w dstate t) mac nonce (chunkCount b.length) (chunkCount b.length) 0 m b
/-- Does a header of 96 bytes pass the checks of R508 for a tenant and the current debug state. -/
def sealHeaderOk (t : Nat) (w : Bool) (dstate : Nat) (h : List Byte) : Bool :=
  leAt h 0 4 == 0x00015EA1 && leAt h 4 4 == t + boolNat w * 2 ^ 31 && leAt h 8 4 == dstate && hmacSm3 (sealMac w dstate t) (h.take 64) == h.drop 64
/-- Chunks of an object from chunk i on after the MAC before it, each checked before it is deciphered (R508): the plaintext of those before the first
that fails, and its number; the fuel is the number of chunks left. -/
def openChunks (enc : Nat) (mac nonce : List Byte) (l n : Nat) : Nat → Nat → List Byte → List Byte → List Byte × Option Nat
  | 0, _, _, _ => ([], none)
  | f + 1, i, prev, b =>
    let len := min 65536 (l - 65536 * i)
    let c := b.take len
    let m := chunkMac mac prev c i n
    if m ≠ (b.drop len).take 32 then ([], some i)
    else
      let r := openChunks enc mac nonce l n f (i + 1) m (b.drop (len + 32))
      (cryptChunk enc nonce i c ++ r.1, r.2)
/-- A sealed object of a tenant read under R508: none when its header fails; otherwise as openChunks. -/
def openObject (t : Nat) (w : Bool) (dstate : Nat) (b : List Byte) : Option (List Byte × Option Nat) :=
  let h := b.take 96
  let l := leAt h 16 8
  if sealHeaderOk t w dstate h = false then none
  else some (openChunks (sealEnc w dstate t) (sealMac w dstate t) ((h.drop 32).take 32) l (chunkCount l) (chunkCount l) 0 (h.drop 64) (b.drop 96))
/-- 32 random bytes (log entry 4). -/
def randomBytes (s : State) : List Byte × State :=
  let (a, s) := s.drawFree
  let (b, s) := s.drawFree
  let (c, s) := s.drawFree
  let (d, s) := s.drawFree
  (wordsBytes [a, b, c, d], s)

end Sys2Proof.Machine
end

