-- ==== Sys2Proof/Machine/Residency.lean ====
section
/-! DEFINITION. The residency engine (R434-R465): temperatures and Drift moves, Clearance with eviction and restore, time slices. -/

namespace Sys2Proof.Machine

/-- calm and drreq. -/
def resThread : Profile := { core := false, engine := engResidency }
/-- clrpost and clrrep. -/
def resCore : Profile := { thread := false, engine := engResidency }
/-- resq. -/
def resBoth : Profile := { engine := engResidency }
/-- Cycles of a microsecond (R435). -/
def microsecond : Nat := 3000

/-! ## Temperatures and requests (R435-R439) -/

/-- The present tiles of a cluster, lowest index first. -/
def clusterTiles (s : State) (n : Nat) : List Nat := ((List.range 16).map (clusterTile n)).filter (tilePresent s)
/-- The tile of a list that comes first in an order of temperatures, the lower index winning a tie. -/
def extremeTile (s : State) (before : Nat → Nat → Bool) (l : List Nat) : Option Nat :=
  l.foldl (fun acc t => match acc with
    | none => some t
    | some u => if before (s.tile t).temp (s.tile u).temp then some t else some u) none
/-- The coolest tile of a list. -/
def coolest (s : State) (l : List Nat) : Option Nat := extremeTile s (fun a b => decide (a < b)) l
/-- The hottest tile of a list. -/
def hottest (s : State) (l : List Nat) : Option Nat := extremeTile s (fun a b => decide (b < a)) l
/-- A request dropped (R438). -/
def dropRequest (s : State) (n : Nat) : State := let c := s.cluster n; s.setCluster n { c with drstat := bump16 c.drstat 16 }
/-- A move of S and T requested: armed, or dropped (R437-R439). -/
def requestMove (s : State) (n a b : Nat) : State :=
  let c := s.cluster n
  if c.drift ≠ .idle ∨ clearing s a = true then dropRequest s n
  else ((s.setCluster n { c with drift := .calming, driftS := a, driftT := b, driftSince := s.cycle }).addDueOnce (.calmingEnd n)).addDueOnce
    (.moveAbandoned n)
/-- The exchange of a tile with the coolest other tile requested. -/
def requestFrom (s : State) (t : Nat) : State :=
  let n := clusterOf t
  match coolest s ((clusterTiles s n).filter fun u => u != t) with
  | some u => requestMove s n t u
  | none => s
/-- DTEMP in units of 0.25 °C. -/
def driftTemp (c : Cluster) : Nat := 4 * fld c.drctl 47 40
/-- Steps that release the result of a collective. -/
def releasesResult : Instr → Bool
  | .collectiveResult _ => true
  | _ => false
/-- A thermal trip (R539): Doze is asked for and one MEMERR event with data 0 sent to tenant 0, whether a Doze of level 0 is on its way or entered or
not; a write of STATE = 0 that came before the trip has had its effect. No result of a collective in flight is
released, which leaves it to TIMEOUT (Table 17.6). -/
def thermalTrip (s : State) (t : Nat) : State :=
  if s.wafer.thermal then s
  else
    let s := if s.due.contains .run then leaveDoze (s.dropDue .run) else s
    let s := sendRecord s (homeIsland (clusterOf t)) (eventRecord 0 4 (toBytes 32 0))
    let s : State := { s with due := s.due.filter fun i => !releasesResult i, wafer := { s.wafer with thermal := true } }
    if s.wafer.power = .doze then s else s.addDueOnce .doze
/-- SENSOR_READING (R435): the reading, in units of 0.25 °C, compared with the thresholds (R438, R539). -/
def sensorBody (s : State) (t temp : Nat) : State :=
  if tilePresent s t = false then s
  else
    let n := clusterOf t
    let c := s.cluster n
    let x := s.tile t
    let hot := decide (driftTemp c ≤ temp)
    let cool := decide (temp + 20 < driftTemp c)
    let ask := bitOf c.drctl 1 && hot && !x.thermal
    let s := s.setTile t { x with temp := temp % 4096, thermal := if ask then true else if cool then false else x.thermal }
    let s := if ask then requestFrom s t else s
    let s := s.addDueOnce (.rotation n)
    if 460 ≤ temp then thermalTrip s t else s
/-- SENSOR_READING (R435). -/
def execSensorReading (tile temp : Nat) (s : State) : Host.Outcome State Fault Refusal := .next (sensorBody s tile temp)
/-- Is a rotation due now (R438). -/
def rotationReady (s : State) (n : Nat) : Bool :=
  let c := s.cluster n
  fld c.drctl 63 48 != 0 && decide (c.rotatedAt + fld c.drctl 63 48 * microsecond ≤ s.cycle)
/-- ROTATION (R438): the hottest tile with the coolest. -/
def rotationBody (s : State) (n : Nat) : State :=
  if rotationReady s n = false then s.addDueOnce (.rotation n)
  else
    let s := (s.setCluster n { s.cluster n with rotatedAt := s.cycle }).addDueOnce (.rotation n)
    let c := s.cluster n
    if bitOf c.drctl 0 = false then s
    else match hottest s (clusterTiles s n), coolest s (clusterTiles s n) with
      | some h, some k => if h ≠ k ∧ (s.tile k).temp + 4 * fld c.drctl 39 32 ≤ (s.tile h).temp then requestMove s n h k else s
      | _, _ => s
/-- ROTATION (R438). -/
def execRotation (cluster : Nat) (s : State) : Host.Outcome State Fault Refusal := .next (rotationBody s cluster)
/-- drreq (R461). -/
def execDrreq (s : State) : Host.Outcome State Fault Refusal :=
  runInstr resThread s fun s =>
    let t := (curThread s).1
    .ok (if bitOf (s.cluster (clusterOf t)).drctl 0 then requestFrom s t else s).retire
/-- Is a tile one of the two of a move in its Calming phase. -/
def calmingTile (s : State) (t : Nat) : Bool := let c := s.cluster (clusterOf t); c.drift == .calming && (c.driftS == t || c.driftT == t)
/-- calm (R460): retires, and waits for a move in Calming. Every older instruction of the thread that could still fault has kept it from
issuing. -/
def execCalm (s : State) : Host.Outcome State Fault Refusal :=
  runInstr resThread s fun s =>
    let (t, c) := curThread s
    let s := s.retire
    .ok (if calmingTile s t then s.setCtx t c { s.ctx t c with calm := true } else s)

/-! ## The phases of a move (R439-R442, Table 14.2) -/

/-- The contexts of a cluster's moving tiles that are not Free. -/
def moveContexts (s : State) (n : Nat) : List (Nat × Nat) :=
  let c := s.cluster n
  (s.ctxs.filter fun p => (p.1.1 == c.driftS || p.1.1 == c.driftT) && p.2.state != .free).map Prod.fst
/-- The blocks on a tile. -/
def tileBlocks (s : State) (t : Nat) : List (Nat × Block) := s.blocks.filter fun p => p.2.tile == t && p.2.live && !p.2.evicted
/-- Can Calming end (R439, R442). -/
def calmReady (s : State) (n : Nat) : Bool :=
  let c := s.cluster n
  c.drift == .calming && ((moveContexts s n).all fun p => let x := s.ctx p.1 p.2; x.slot.isNone || x.calm) &&
    [c.driftS, c.driftT].all fun t => (s.router t).stubs.isEmpty && decide ((tileBlocks s t).length ≤ 64)
/-- Lines and extension state that a context in a slot has yet to fill made due (R144, R150, R231). -/
def fillsDue (s : State) (t c : Nat) : State :=
  let s := [2, 3, 0, 1].foldl (fun s k => if resident s t c k then s else s.addDueOnce (.registerCacheFill t c k)) s
  let x := s.ctx t c
  if (anchored x && !x.extResident) || !x.matResident then s.addDueOnce (.extensionImageFill t c) else beatsDue s t c
/-- Contexts of the moving tiles continue after their calm. -/
def endCalm (s : State) (n : Nat) : State :=
  (moveContexts s n).foldl (fun s p =>
    let s := s.setCtx p.1 p.2 { s.ctx p.1 p.2 with calm := false }
    if (s.ctx p.1 p.2).slot.isSome then fillsDue s p.1 p.2 else s) s
/-- What a tile may do again after a move. -/
def wakeTile (s : State) (t : Nat) : State :=
  ((((s.addDueOnce (.activationByHandOff t)).addDueOnce (.activationByMessage t)).addDueOnce (.issueSlotTaken t)).addDueOnce (.injection t)).addDueOnce
    (.matrixOperationStart t)
/-- Has a decided task ended, or left its context otherwise. -/
def stillRunning (s : State) (k : Nat) : Bool := match s.task? k with | some x => x.phase == .running | none => false
/-- The discards of a task that Clearance has decided and that a move of its tile has put off (R42, R446): its choice is to be carried out. -/
def decidedDiscards (s : State) (ts : List Nat) : List (Nat × Fate) :=
  let due (d : Decision) : Bool :=
    (d.choice == .discard || d.choice == .runLate) &&
      (s.task? d.task).any fun x => (x.phase == .running || x.phase == .ended) && ts.contains x.tile
  s.clearances.flatMap fun p => if p.2.done then [] else (p.2.decisions.filter due).map fun d => (d.task, Fate.requeue)
/-- A move over: what Clearance decided meanwhile is carried out at the tiles where the blocks now are (Table 1.8). -/
def afterMove (s : State) (n : Nat) : State :=
  let c := s.cluster n
  discardTasks s (decidedDiscards s [c.driftS, c.driftT])
/-- A move abandoned (R439). -/
def abandonMove (s : State) (n : Nat) : State :=
  let c := s.cluster n
  let s := endCalm s n
  let s := afterMove (s.setCluster n { s.cluster n with drift := .idle, drstat := bump16 c.drstat 32 }) n
  [c.driftS, c.driftT].foldl (fun s t => wakeTile (s.setRouter t { s.router t with stubs := [], used := [] }) t) s
/-- The stubs of the handles that leave tile a for tile b (R442). -/
def setStubs (s : State) (a b : Nat) : State :=
  let l := (tileBlocks s a).map Prod.fst
  s.setRouter a { s.router a with stubs := l.map fun h => (h, b), used := l.map fun h => (h, s.cycle) }
/-- Every context of the moving tiles written back (R145, R231, R306): a context that cannot be is Trapped with IMAGEFAULT; says whether all
went well. -/
def writeBackAll (s : State) (l : List (Nat × Nat)) : State × Bool :=
  l.foldl (fun acc p =>
    let s := (boundary acc.1 p.1 p.2).getD acc.1
    let st := (s.ctx p.1 p.2).state
    let r := switchOut s p.1 p.2
    match r.2 with
    | some f => (if st == .trapped then r.1 else trapImage r.1 p.1 p.2 f, false)
    | none => (r.1, acc.2)) (s, true)
/-- The dirty tile-private data-cache blocks of a tile written back (R193). -/
def flushPrivate (s : State) (t : Nat) : State := flushBlocks s t fun b => b.tp && b.dirty
/-- CALMING_END (R439, R440): the stubs are set and the tiles' state is written back. -/
def calmingEndBody (s : State) (n : Nat) : State :=
  if calmReady s n = false then (if (s.cluster n).drift = .calming then s.addDueOnce (.calmingEnd n) else s)
  else
    let c := s.cluster n
    let s := setStubs (setStubs s c.driftS c.driftT) c.driftT c.driftS
    let s := s.setCluster n { s.cluster n with drift := .draining, driftSince := s.cycle }
    let r := writeBackAll s (moveContexts s n)
    if r.2 then (flushPrivate (flushPrivate r.1 c.driftS) c.driftT).addDueOnce (.drainingEnd n) else abandonMove r.1 n
/-- CALMING_END (R439). -/
def execCalmingEnd (cluster : Nat) (s : State) : Host.Outcome State Fault Refusal := .next (calmingEndBody s cluster)
/-- Has DWAIT passed in Calming (R439). -/
def waitPassed (s : State) (n : Nat) : Bool :=
  let c := s.cluster n
  c.drift == .calming && decide (c.driftSince + fld c.drctl 31 16 * microsecond ≤ s.cycle)
/-- MOVE_ABANDONED (R439). -/
def execMoveAbandoned (cluster : Nat) (s : State) : Host.Outcome State Fault Refusal :=
  .next (if waitPassed s cluster then abandonMove s cluster
    else if (s.cluster cluster).drift = .calming then s.addDueOnce (.moveAbandoned cluster) else s)
/-- Does nothing remain to write back (Table 14.2): no matrix operation of the two tiles runs, and no context that could be written back is dirty. -/
def drained (s : State) (n : Nat) : Bool :=
  let c := s.cluster n
  c.drift == .draining && [c.driftS, c.driftT].all fun t => (s.tile t).matq.isEmpty
/-- DRAINING_END (R440): what became dirty since is written back too. -/
def drainingEndBody (s : State) (n : Nat) : State :=
  if drained s n = false then (if (s.cluster n).drift = .draining then s.addDueOnce (.drainingEnd n) else s)
  else
    let c := s.cluster n
    let r := writeBackAll s (moveContexts s n)
    if r.2 then
      let s := flushPrivate (flushPrivate r.1 c.driftS) c.driftT
      (s.setCluster n { s.cluster n with drift := .copying, driftSince := s.cycle }).addDueOnce (.copyingEnd n)
    else abandonMove r.1 n
/-- DRAINING_END (R440). -/
def execDrainingEnd (cluster : Nat) (s : State) : Host.Outcome State Fault Refusal := .next (drainingEndBody s cluster)

/-- The tile that takes the place of t in the exchange of a and b. -/
def swapTile (a b t : Nat) : Nat := if t = a then b else if t = b then a else t
/-- An agent after the exchange. -/
def swapAgent (a b : Nat) : Agent → Agent
  | .thread t c => .thread (swapTile a b t) c
  | .zephyr t zc => .zephyr (swapTile a b t) zc
  | .core i k => .core i k
/-- A due step after the exchange: the steps of the tiles' state go with it. -/
def swapStep (a b : Nat) (i : Instr) : Instr :=
  let f := swapTile a b
  match i with
  | .codeLineFetch ag => .codeLineFetch (swapAgent a b ag)
  | .issueSlotTaken t => .issueSlotTaken (f t)
  | .registerCacheFill t c k => .registerCacheFill (f t) c k
  | .extensionImageFill t c => .extensionImageFill (f t) c
  | .pauseExpiry t c => .pauseExpiry (f t) c
  | .budget t c => .budget (f t) c
  | .activationByMessage t => .activationByMessage (f t)
  | .activationByHandOff t => .activationByHandOff (f t)
  | .beatArrival t c k => .beatArrival (f t) c k
  | .tableLoadComplete t h n => .tableLoadComplete (f t) h n
  | .refetch t h n => .refetch (f t) h n
  | .requestActivation t e => .requestActivation (f t) e
  | .requestDone t e => .requestDone (f t) e
  | .zlimit t e => .zlimit (f t) e
  | .matrixOperationStart t => .matrixOperationStart (f t)
  | .fold t => .fold (f t)
  | .matrixOperationComplete t => .matrixOperationComplete (f t)
  | .injection t => .injection (f t)
  | .backoffExpiry (.tile t) e => .backoffExpiry (.tile (f t)) e
  | .sliceEnd t => .sliceEnd (f t)
  | i => i
/-- A tile's state as it arrives at the other position (R440, R441): the caches, the handle cache and the sensor stay behind, tables are
Stale. -/
def arrivedTile (from_ at_ : Tile) : Tile :=
  { from_ with
    icache := [], dcache := [], hcache := [], rclru := [], physAcc := [], temp := at_.temp, thermal := at_.thermal, gated := at_.gated
    lastSlot := at_.lastSlot, passed := [], lastZc := at_.lastZc
    sliceCur := at_.sliceCur, sliceCount := at_.sliceCount, sliceSeen := at_.sliceSeen, sliceFrom := at_.sliceFrom
    ibufs := from_.ibufs.filter fun b => b.loading }
/-- The bytes and side bits of two scratchpads exchanged as stored (R441). -/
def swapSpads (s : State) (a b : Nat) : State :=
  let size := 0x20000
  let isIn (t k : Nat) : Bool := decide (spadBase t ≤ k) && decide (k < spadBase t + size)
  let to_ (k : Nat) : Nat := if isIn a k then k - spadBase a + spadBase b else k - spadBase b + spadBase a
  let both (k : Nat) : Bool := isIn a k || isIn b k
  let moved := s.mem.filter fun c => both c.1
  let rest := s.mem.filter fun c => !both c.1
  { s with
    mem := moved.foldl (fun m c => memWrite m (to_ c.1) c.2) rest
    lines := s.lines.map fun p => if both (16 * p.1) then (to_ (16 * p.1) / 16, p.2) else p }
/-- Everything Table 14.3 lists exchanged between two tiles. -/
def exchange (s : State) (a b : Nat) : State :=
  let f := swapTile a b
  let ta := s.tile a
  let tb := s.tile b
  let s := swapSpads s a b
  let s : State := { s with
    ctxs := s.ctxs.map fun (p : (Nat × Nat) × Ctx) => ((f p.1.1, p.1.2), p.2)
    tasks := s.tasks.map fun (p : Nat × Task) => (p.1, { p.2 with tile := f p.2.tile })
    blocks := s.blocks.map fun (p : Nat × Block) =>
      if (p.2.tile = a ∨ p.2.tile = b) ∧ p.2.evicted = false then
        (p.1, { p.2 with tile := f p.2.tile, moves := min 65535 (p.2.moves + 1) }) else p
    packets := s.packets.map fun (p : Packet) => { p with waiter := p.waiter.map fun (w : Nat × Nat) => (f w.1, w.2) }
    due := s.due.map (swapStep a b)
    cur := swapAgent a b s.cur }
  (s.setTile a (arrivedTile tb ta)).setTile b (arrivedTile ta tb)
/-- COPYING_END (R440): both tiles' states have arrived; nothing of them issues or is reached before Switching ends. -/
def copyingEndBody (s : State) (n : Nat) : State :=
  let c := s.cluster n
  if c.drift ≠ .copying then s
  else
    let s := exchange s c.driftS c.driftT
    (s.setCluster n { s.cluster n with drift := .switching, driftSince := s.cycle }).addDueOnce (.switchingEnd n)
/-- COPYING_END (R440). -/
def execCopyingEnd (cluster : Nat) (s : State) : Host.Outcome State Fault Refusal := .next (copyingEndBody s cluster)
/-- Have the 8 cycles of Switching passed. -/
def switched (s : State) (n : Nat) : Bool := let c := s.cluster n; c.drift == .switching && decide (c.driftSince + 8 ≤ s.cycle)
/-- The stubs of a router start their count and their release becomes due (R442). -/
def startStubs (s : State) (t : Nat) : State :=
  let r := s.router t
  r.stubs.foldl (fun s p => s.addDueOnce (.stubRelease t p.1)) (s.setRouter t { r with used := r.stubs.map fun p => (p.1, s.cycle) })
/-- SWITCHING_END (R440): the map is Settled, the contexts refill and continue after their calm. -/
def switchingEndBody (s : State) (n : Nat) : State :=
  if switched s n = false then (if (s.cluster n).drift = .switching then s.addDueOnce (.switchingEnd n) else s)
  else
    let c := s.cluster n
    let s := afterMove (s.setCluster n { c with drift := .idle, drstat := bump16 c.drstat 48 }) n
    let s := startStubs (startStubs (endCalm s n) c.driftS) c.driftT
    wakeTile (wakeTile s c.driftS) c.driftT
/-- SWITCHING_END (R440). -/
def execSwitchingEnd (cluster : Nat) (s : State) : Host.Outcome State Fault Refusal := .next (switchingEndBody s cluster)
/-- May a stub be released: 4,096 cycles without holding or forwarding (R442). -/
def stubIdle (s : State) (t h : Nat) : Bool :=
  !movingTile s t && decide (mget (s.router t).used 0 h + 4096 ≤ s.cycle) && !s.packets.any fun p => p.at_ == t && p.dhandle == h
/-- STUB_RELEASE (R442). -/
def stubReleaseBody (s : State) (t h : Nat) : State :=
  let r := s.router t
  if (mget? r.stubs h).isNone then s
  else if stubIdle s t h then s.setRouter t { r with stubs := mdel r.stubs h, used := mdel r.used h } else s.addDueOnce (.stubRelease t h)
/-- STUB_RELEASE (R442). -/
def execStubRelease (tile handle : Nat) (s : State) : Host.Outcome State Fault Refusal := .next (stubReleaseBody s tile handle)

/-! ## Clearance: decisions (R445-R448) -/

/-- The clusters of a rectangle. -/
def rectClusters (r : Nat) : List Nat :=
  let ys := (List.range (fieldN r 31 24 + 1)).filter fun y => decide (fieldN r 15 8 ≤ y)
  let xs := (List.range (fieldN r 23 16 + 1)).filter fun x => decide (fieldN r 7 0 ≤ x)
  ys.flatMap fun y => xs.map fun x => 64 * y + x
/-- The larger of two tiles' allocated scratchpad bytes. -/
def allocatedBytes (s : State) (t : Nat) : Nat := (s.tile t).allocs.foldl (fun n a => n + a.size) 0
/-- Cycles that what a tile of a move in Draining has yet to write back takes (Table 14.4). -/
def drainRemaining (s : State) (t : Nat) : Nat :=
  16 * (((s.tile t).rclru.filter fun p => (s.ctx t p.1).dirty.contains p.2).length) + 64 * ((s.tile t).physAcc.filter fun p => p.2.2).length
/-- Cycles that the remaining phases of a move in progress take (Table 14.4). -/
def moveRemaining (s : State) (n : Nat) : Nat :=
  let c := s.cluster n
  let copy := 256 + max (allocatedBytes s c.driftS) (allocatedBytes s c.driftT) / 64
  match c.drift with
  | .draining => drainRemaining s c.driftS + drainRemaining s c.driftT + copy + 8
  | .copying => copy + 8
  | .switching => 8
  | _ => 0
/-- The least deadline of a region (Table 14.6 order 3). -/
def leastDeadline (s : State) (r : Nat) : Nat :=
  let l := rectClusters r
  (l.map fun n => fld (s.cluster n).clrcfg 63 32).foldl max 0 + (l.map (moveRemaining s)).foldl max 0
/-- The blocks of a region, by handle. -/
def regionBlocks (s : State) (r : Nat) : List (Nat × Nat) :=
  ((s.blocks.filter fun p => p.2.live && !p.2.evicted && rectHas r (clusterOf p.2.tile)).map fun p => (p.1, p.2.launch)).mergeSort
    fun a b => decide (a.1 ≤ b.1)
/-- D of a task (R447): its context is c when it still has one. -/
def dirtyState (x : Task) (c : Option Ctx) : Nat :=
  let ofCtx (y : Ctx) : Nat :=
    64 * y.dirty.length + 32 * ((List.range 12).filter fun k => fieldN y.vec.vlive k k == 1).length +
      128 * (y.vec.s.toList.filter fun m => m.bound).length + 4096 * (y.mat.a.toList.filter fun a => a.live).length
  16 * bufferEntries x + 16 * x.wrote.length + (c.map ofCtx).getD 0
/-- The decision for a running task (R447). -/
def decide_ (s : State) (left : Nat) (k : Nat) (x : Task) : Choice :=
  let y := s.ctx x.tile x.ctx
  let cfg := (s.cluster (clusterOf x.tile)).clrcfg
  let margin := fld cfg 31 16
  let rate := max 1 (fld cfg 15 8)
  let d := dirtyState x (some y)
  let b := taskBudget s x
  if isTainted s k then .discard
  else if y.remain + margin ≤ left then .run
  else if (d + rate - 1) / rate + margin ≤ left ∧ b ≤ (b - y.remain) * 4 then .checkpoint
  else .discard
/-- Is a context that of a running task for Clearance (R447). -/
def runningState (st : CtxState) : Bool := st == .issuing || st == .setAside || st == .trapped || st == .halted
/-- The decisions at a posting: running tasks, those that have ended and not committed (R447, R448), and every task whose taint has not
resolved, which is discarded (R425). -/
def decisionsOf (s : State) (r left : Nat) : List Decision :=
  s.tasks.filterMap fun p =>
    let x := p.2
    let y := s.ctx x.tile x.ctx
    if rectHas r (clusterOf x.tile) = false then none
    else if (x.phase = .running ∨ x.phase = .ended) ∧ isTainted s p.1 = true then
      let c := if x.phase = .running ∧ y.task = some p.1 then some y else none
      some { task := p.1, handle := x.handle, stamp := x.stamp, thread := y.tid, choice := .discard, dirty := dirtyState x c
             remain := (c.map Ctx.remain).getD 0 }
    else if x.phase = .running ∧ y.task = some p.1 ∧ runningState y.state = true then
      some { task := p.1, handle := x.handle, stamp := x.stamp, thread := y.tid, choice := decide_ s left p.1 x, dirty := dirtyState x (some y), remain := y.remain }
    else if x.phase = .ended then
      some { task := p.1, handle := x.handle, stamp := x.stamp, thread := y.tid, choice := .ended, dirty := dirtyState x none, remain := 0 }
    else none
/-- A Drift request that waits for calm dropped by a posting (Table 1.8). -/
def dropCalming (s : State) (n : Nat) : State :=
  let c := s.cluster n
  if c.drift = .calming then
    let s := endCalm s n
    dropRequest (s.setCluster n { s.cluster n with drift := .idle }) n
  else s
/-- Clearances of an island accepted after one. -/
def laterPostings (s : State) (i : Nat) (x : Clearance) : Nat := (s.clearances.filter fun p => p.2.core.1 == i && decide (x.order < p.2.order)).length
/-- An id for a posting, below 2^32 and not 0. -/
def clearanceId (n : Nat) : Nat := n % (2 ^ 32 - 1) + 1
/-- Is a task's tile in a Drift move, which completes before Clearance acts (Table 1.8). -/
def taskMoves (s : State) (k : Nat) : Bool := (s.task? k).any fun x => movingTile s x.tile
/-- A posting accepted: decisions are made, discards take place, the rest becomes due (R446-R448). -/
def acceptClearance (s : State) (q : Req) (i k rect left : Nat) (d : List Byte) : Nat × State :=
  let (n, s) := s.fresh
  let id := clearanceId n
  let clr := (rectClusters rect).foldl (fun m c => max m (fld (s.cluster c).clrcfg 63 32)) 0
  let s := (rectClusters rect).foldl dropCalming s
  let ds := decisionsOf s rect left
  let x : Clearance :=
    { tenant := q.tenant, core := (i, k), phys := q.phys, rect := rect, deadline := s.cycle + left, backstop := s.cycle + left - clr
      report := recFld d 245 192, tag := recFld d 127 64, blocks := regionBlocks s rect, decisions := ds, order := n }
  let s : State := { s with clearances := mset s.clearances id x }
  let s := discardTasks s ((ds.filter fun e => e.choice == .discard && !taskMoves s e.task).map fun e => (e.task, Fate.requeue))
  let s := x.blocks.foldl (fun s b => s.addDueOnce (.eviction b.1)) s
  (id, (s.addDueOnce (.backstop id)).addDueOnce (.cleared id))
/-- A BADDESC region descriptor (Table 14.6 order 1). -/
def badRegion (d : List Byte) : Bool :=
  recFld d 511 256 != 0 || recFld d 159 128 != 0 || recFld d 63 32 != 0 || decide (recFld d 23 16 < recFld d 7 0) ||
    decide (recFld d 31 24 < recFld d 15 8)
/-- Orders 2 to 5 of Table 14.6: the failing status number. -/
def postChecks (s : State) (t rect left : Nat) (d : List Byte) : Option Nat :=
  let inside := match regionRect s t with | some r => rectInside rect r | none => false
  if inside = false then some 5
  else if left < leastDeadline s rect then some 1
  else if underClearance s rect then some 2
  else if recFld d 191 160 < (regionBlocks s rect).length then some 3
  else none
/-- clrpost (R445). -/
def clrpostBody (a b c : Reg) (s : State) : Except Stop State :=
  match s.cur with
  | .core i k =>
    let q := coreReq s i k
    let p := s.getG b
    let left := (s.getG c).toNat
    if hasRight s i q.tenant 4 = false then .error (.trap (islandTrap 3))
    else if p.toNat % 64 ≠ 0 ∨ 2 ^ 32 ≤ left then .ok (alu a (sendStatus 4) s)
    else match coreLoad s q p 64 with
      | .error e => .error e
      | .ok (d, s) =>
        let rect := fromViewRect s q.tenant (recFld d 31 0)
        if badRegion d then .ok (alu a (sendStatus 4) s)
        else match postChecks s q.tenant rect left d with
          | some n => .ok (alu a (sendStatus n) s)
          | none => let r := acceptClearance s q i k rect left d; .ok (alu a (w64 r.1) r.2)
  | _ => .ok s
/-- clrpost gA, gB, gC (R445). -/
def execClrpost (a b c : Reg) (s : State) : Host.Outcome State Fault Refusal := runInstr resCore s (clrpostBody a b c)
/-- The word of Table 14.8. -/
def clrrepWord (x : Clearance) : Word :=
  let late := (x.decisions.filter fun d => d.choice == .runLate).length
  w64 ((if x.done then 3 else 2) * 2 ^ 60 + x.written.length % 2 ^ 16 * 2 ^ 16 + min 65535 late)
/-- clrrep gA, gB (R451). -/
def execClrrep (a b : Reg) (s : State) : Host.Outcome State Fault Refusal :=
  runInstr resCore s fun s =>
    match s.cur with
    | .core i k =>
      let r := (mget? s.clearances (fld (s.getG b) 31 0)).filter fun x => presides (coreTenant (s.core i k)) x.tenant && decide (laterPostings s x.core.1 x < 64)
      .ok (alu a (match r with | some x => clrrepWord x | none => badId) s)
    | _ => .ok s
/-- Is the backstop of a posting reached (R448). -/
def backstopReached (s : State) (id : Nat) : Bool := match mget? s.clearances id with | some x => decide (x.backstop ≤ s.cycle) | none => false
/-- BACKSTOP (R448): RUN tasks that have not ended are discarded and reported RUNLATE. -/
def backstopBody (s : State) (id : Nat) : State :=
  match mget? s.clearances id with
  | none => s
  | some x =>
    if x.done then s
    else if s.cycle < x.backstop then s.addDueOnce (.backstop id)
    else
      let late (d : Decision) : Bool := d.choice == .run && stillRunning s d.task
      let ds := x.decisions.map fun d => if late d then { d with choice := .runLate } else d
      let s' : State := { s with clearances := mset s.clearances id { x with decisions := ds } }
      discardTasks s' ((x.decisions.filter fun d => late d && !taskMoves s d.task).map fun d => (d.task, Fate.requeue))
/-- BACKSTOP (R448). -/
def execBackstop (clr : Nat) (s : State) : Host.Outcome State Fault Refusal := .next (backstopBody s clr)

/-! ## Eviction (R449, R450) -/

/-- The posting that covers a tile. -/
def postingOf (s : State) (t : Nat) : Option (Nat × Clearance) := s.clearances.find? fun p => !p.2.done && rectHas p.2.rect (clusterOf t)
/-- What Clearance has decided for a task. -/
def choiceOf (s : State) (k : Nat) : Option Choice := s.clearances.findSome? fun p => if p.2.done then none else (p.2.decisions.find? fun d => d.task == k).map Decision.choice
/-- May a thread of a tile issue or take a slot under Clearance: only a task that runs to its end (R446-R448). -/
def clearanceAllows (s : State) (t : Nat) (k : Option Nat) : Bool := !clearing s t || (k.bind (choiceOf s)) == some .run
/-- The contexts of a block on its tile that are not Free. -/
def blockContexts (s : State) (t h : Nat) : List (Nat × Ctx) :=
  (s.ctxs.filter fun p => p.1.1 == t && p.2.handle == h && p.2.state != .free).map fun p => (p.1.2, p.2)
/-- Can a block be Evicted now: its running tasks are settled (R449). -/
def evictable (s : State) (h : Nat) : Bool :=
  match s.block? h with
  | none => false
  | some b =>
    b.live && !b.evicted && clearing s b.tile && (s.cluster (clusterOf b.tile)).drift == .idle &&
    (match s.launch? b.launch with | some l => !l.ended | none => false) &&
    (blockContexts s b.tile h).all fun p =>
      p.2.state != .held && !(p.2.task.isSome && (p.2.task.bind (choiceOf s)) == some .run && runningState p.2.state)
/-- System bytes written through the translation of image traffic (R477, R479), 64 bytes at a time; units that cannot be translated are lost. -/
def writeSystem (s : State) (n t va : Nat) (bs : List Byte) : State :=
  (List.range ((bs.length + 63) / 64)).foldl (fun s k =>
    match tileTranslate s n t .image .write ((va + 64 * k) % 2 ^ 54) with
    | .error _ => s
    | .ok (pa, _, s') => putPhys s' pa ((bs.drop (64 * k)).take 64)) s
/-- System bytes read in the same way; none when a unit cannot be translated. -/
def readSystem (s : State) (n t va len : Nat) : Option (List Byte × State) :=
  (List.range ((len + 63) / 64)).foldl (fun (acc : Option (List Byte × State)) k =>
    match acc with
    | none => none
    | some (l, s) => match tileTranslate s n t .image .read ((va + 64 * k) % 2 ^ 54) with
      | .error _ => none
      | .ok (pa, _, s') => some (l ++ readPhys s' pa (min 64 (len - 64 * k)), meetAt s' pa (min 64 (len - 64 * k)))) (some ([], s))
/-- The scratchpad lines of a block's allocations that a tile lists, with their side bits and stored bytes. -/
def spadLines (s : State) (t h : Nat) : List (Nat × LineMeta × List Byte) :=
  let mine (o : Nat) : Bool := (s.tile t).allocs.any fun a => a.handle == h && decide (a.off ≤ o) && decide (o < a.off + a.size)
  s.lines.filterMap fun p =>
    let pa := 16 * p.1
    if spadBase t ≤ pa ∧ pa < spadBase t + 0x20000 ∧ mine (pa - spadBase t) = true then
      some ((pa - spadBase t) / 16, p.2, (List.range 16).map fun k => memRead s.mem (pa + k))
    else none
/-- Does a lock, request, entry or message of a tile belong to a block. -/
def lockOf (s : State) (h : Nat) (l : RangeLock) : Bool := l.handle == some h || (match l.task.bind s.task? with | some x => x.handle == h | none => false)
/-- The thread of a Halted, Trapped, Queued or Set-aside context as it is sealed out. -/
def sealedCtx (x : Ctx) : Ctx := { leaveSlot x with state := if x.state = .issuing then .queued else x.state, waitsOn := x.waitsOn }
/-- What a block's eviction takes off its tile (Table 14.3). -/
def freeze (s : State) (t h : Nat) : Frozen :=
  let x := s.tile t
  { ctxs := (blockContexts s t h).map fun p => (p.1, sealedCtx p.2)
    allocs := x.allocs.filter fun a => a.handle == h
    lines := spadLines s t h
    tags := x.tags.filter fun g => g.2.handle == h
    locks := x.locks.filter (lockOf s h)
    zreqs := (x.zreqs.filter fun r => r.handle == h).map fun r =>
      { r with activeFor := if r.state = .active then r.activeFor + (s.cycle - r.since) else r.activeFor }
    accs := x.physAcc.filter fun p => p.2.2 && ((blockContexts s t h).any fun q => q.1 == p.1)
    sends := x.sends.filter fun e => e.2.src % 2 ^ 24 == h
    inbox := x.inbox.filter fun e => e.handle == h
    deque := (allEntries s).filter fun e => e.handle == h }
/-- A tile without what a block's eviction takes. -/
def thin (s : State) (t h : Nat) : State :=
  let x := s.tile t
  let s := x.allocs.foldl (fun s a => if a.handle = h then zeroLines s (spadBase t + a.off) a.size else s) s
  let s := dropEntries s fun e => e.handle == h
  let cs := (blockContexts s t h).map Prod.fst
  let x := s.tile t
  let s := s.setTile t { x with
    allocs := x.allocs.filter fun a => a.handle != h, tags := x.tags.filter fun g => g.2.handle != h
    locks := x.locks.filter fun l => !lockOf s h l, zreqs := x.zreqs.filter fun r => r.handle != h, ibufs := x.ibufs.filter fun b => b.handle != h
    sends := x.sends.filter fun e => e.2.src % 2 ^ 24 != h, inbox := x.inbox.filter fun e => e.handle != h
    rclru := x.rclru.filter fun p => !cs.contains p.1, physAcc := x.physAcc.filter fun p => !cs.contains p.1 }
  cs.foldl (fun s c => s.setCtx t c {}) s
/-- The sealed object of a block's state in its eviction area (R506), and the block Evicted. -/
def sealBlock (s : State) (h : Nat) (b : Block) : State :=
  let (n, s) := (randomBytes s)
  let obj := sealObject b.tenant (worldOf s b.tenant) s.wafer.dstate n (Config.blockState h s.freeCtr)
  let z := freeze s b.tile h
  let s := writeSystem (thin s b.tile h) (clusterOf b.tile) b.tenant b.area obj
  s.setBlock h { b with evicted := true, frozen := some z, sealed_ := obj }
/-- CHOICE of Table 14.7. -/
def Choice.code : Choice → Nat
  | .run => 1 | .checkpoint => 2 | .discard => 3 | .runLate => 4 | .ended => 5
/-- A report record (Table 14.7), the handle in the poster's view. -/
def reportRecord (s : State) (x : Clearance) (h outcome queued : Nat) : List Byte :=
  let ds := (x.decisions.filter fun d => d.handle == h).take 64
  let body := ds.flatMap fun d =>
    toBytes 4 d.stamp ++ toBytes 1 d.thread ++ toBytes 1 d.choice.code ++ toBytes 2 0 ++ toBytes 4 (min d.dirty (2 ^ 32 - 1)) ++ toBytes 4 d.remain
  let head := toBytes 4 (toViewHandle s x.tenant h) ++ toBytes 1 outcome ++ toBytes 1 ds.length ++ toBytes 2 (min 65535 queued) ++ toBytes 8 x.tag
  head ++ body ++ List.replicate (1024 - body.length) 0
/-- Bytes of a report written as the posting core would write them (R445, R450), 16 at a time; those that cannot be are lost. -/
def writeReport (s : State) (x : Clearance) (va : Nat) (bs : List Byte) : State :=
  (segments va bs.length).foldl (fun (acc : State × List Byte) g =>
    let s := acc.1
    let b := acc.2.take g.2
    let s := if x.phys then (if physListed s (g.1 % 2 ^ 52) && decide (g.1 % 2 ^ 52 < 0xF000000000000) then putPhys s (g.1 % 2 ^ 52) b else s)
      else match translate s x.core.1 x.tenant .core .write g.1 with
        | .ok tr => if tr.out < 0xF000000000000 then spreadInvalidations (putPhys s tr.out b) (2 ^ 16) tr.out 0 0 else s
        | .error _ => s
    (s, acc.2.drop g.2)) (s, bs) |>.1
/-- The record of a block written at its place in the order of handles (R450). -/
def reportBlock (s : State) (id : Nat) (x : Clearance) (h outcome queued : Nat) : State :=
  let pos := (x.blocks.takeWhile fun p => p.1 != h).length
  let s := writeReport s x ((x.report + 1040 * pos) % 2 ^ 54) (reportRecord s x h outcome queued)
  { s with clearances := mset s.clearances id { x with written := h :: x.written } }
/-- Checkpointed threads of a block brought to a boundary and out of their slots (R448); none while one cannot be. -/
def settleBlock (s : State) (t : Nat) : List (Nat × Ctx) → Option State
  | [] => some s
  | (c, x) :: r =>
    if x.state = .issuing then
      match boundary s t c with
      | none => none
      | some s =>
        let w := switchOut s t c
        let y := w.1.ctx t c
        let s := match w.2 with
          | some f => trapImage w.1 t c f
          | none => slotFreed (w.1.setCtx t c { leaveSlot y with state := .queued, waitsOn := y.waitsOn }) t
        settleBlock s t r
    else
      let w := switchOut s t c
      settleBlock (match w.2 with | some f => if stoppable (w.1.ctx t c) then trapImage w.1 t c f else w.1 | none => w.1) t r
/-- EVICTION (R449). -/
def evictionBody (s : State) (h : Nat) : State :=
  match s.block? h with
  | none => s
  | some b =>
    if evictable s h = false then (if clearing s b.tile && !b.evicted then s.addDueOnce (.eviction h) else s)
    else match settleBlock s b.tile (blockContexts s b.tile h), postingOf s b.tile with
      | some s, some (id, x) =>
        let s := flushBlocks s b.tile fun d => d.tp && d.tenant == b.tenant
        let q := (((allEntries s).filter fun e => e.handle == h).length) + ((s.tile b.tile).inbox.filter fun e => e.handle == h).length
        reportBlock (sealBlock s h ((s.block? h).getD b)) id x h 2 q
      | some s, none => s
      | none, _ => s.addDueOnce (.eviction h)
/-- EVICTION (R449). -/
def execEviction (handle : Nat) (s : State) : Host.Outcome State Fault Refusal := .next (evictionBody s handle)
/-- Is the region of a posting vacant (R449). -/
def vacant (s : State) (x : Clearance) : Bool :=
  x.blocks.all (fun p => match s.block? p.1 with | some b => b.evicted | none => true) &&
  !(s.ctxs.any fun p => rectHas x.rect (clusterOf p.1.1) && p.2.state != .free) &&
  !(s.tiles.any fun p => rectHas x.rect (clusterOf p.1) && !p.2.allocs.isEmpty) &&
  !(s.routers.any fun p => rectHas x.rect (clusterOf p.1) && !p.2.stubs.isEmpty)
/-- CLEARED (R449, R450): the records of blocks that ended, then the event, whose data is the Clearance id (log entry 20). -/
def clearedBody (s : State) (id : Nat) : State :=
  match mget? s.clearances id with
  | none => s
  | some x =>
    if x.done then s
    else if vacant s x = false then s.addDueOnce (.cleared id)
    else
      let s := x.blocks.foldl (fun s p =>
        match mget? s.clearances id with
        | some y =>
          if y.written.contains p.1 then s
          else reportBlock s id y p.1 (match s.launch? p.2 with | some l => if l.state = .complete ∧ l.dead.contains p.1 = false then 1 else 3 | none => 1) 0
        | none => s) s
      let s : State := { s with clearances := s.clearances.map fun p => if p.1 = id then (p.1, { p.2 with done := true }) else p }
      sendRecord s x.core.1 (eventRecord x.tenant 2 (toBytes 32 id))
/-- CLEARED (R449). -/
def execCleared (clr : Nat) (s : State) : Host.Outcome State Fault Refusal := .next (clearedBody s clr)

/-! ## Restore (R453) -/

/-- Store buffers that the tasks of an Evicted block held (R200, Table 14.3). -/
def buffersSealed (s : State) (h : Nat) : Nat := (s.tasks.filter fun p => p.2.handle == h && (p.2.phase == .running || p.2.phase == .ended)).length
/-- Can a tile take an Evicted block: Free contexts for its threads and space at every allocation's offset (R453); and room in its tables for
what the block brings to them, for which the block waits as for the others (R27, R183, R200, R215; DESIGN CHOICE, log entry 38). -/
def canTake (s : State) (h : Nat) (b : Block) (z : Frozen) (t : Nat) : Bool :=
  let x := s.tile t
  decide (max b.threads z.ctxs.length ≤ (freeContexts s t).length) && (z.allocs.all fun a => rangeFree x.allocs a.off a.size) &&
    decide (x.locks.length + z.locks.length ≤ 16) && decide (x.tags.length + z.tags.length ≤ 256) &&
    decide (x.zreqs.length + z.zreqs.length ≤ 32) && decide (x.sends.length + z.sends.length ≤ 8) &&
    decide (x.inbox.length + z.inbox.length ≤ 16) && decide (buffersUsed s t + buffersSealed s h ≤ 16) &&
    decide (((x.zreqs ++ z.zreqs).filter fun r => r.zc.isSome).length ≤ 4)
/-- The lowest tile of its cluster that can. -/
def restoreTile (s : State) (h : Nat) (b : Block) : Option Nat := b.frozen.bind fun z => (clusterTiles s (h / 4096)).find? (canTake s h b z)
/-- Can a restore go ahead, or end, now. -/
def restoreReady (s : State) (h : Nat) : Bool :=
  match s.block? h with
  | none => true
  | some b => !b.evicted || ((restoreTile s h b).isSome && !clearing s (clusterTile (h / 4096) 0))
/-- BUSY of a cluster cleared, unless another restore of it is in progress. -/
def restoreEnds (s : State) (n : Nat) : State :=
  let c := s.cluster n
  let busy := s.due.any fun i => match i with | .restore m _ => m == n | .blockRestored h => h / 4096 == n | _ => false
  s.setCluster n { c with restore := setBit c.restore 63 busy }
/-- RESTORE (R453): the restore of an Evicted block begins. -/
def execRestore (cluster handle : Nat) (s : State) : Host.Outcome State Fault Refusal :=
  .next (match s.block? handle with
    | some b => if b.evicted then s.addDueOnce (.blockRestored handle) else restoreEnds s cluster
    | none => restoreEnds s cluster)
/-- The context that a frozen one takes on its new tile. -/
def newIndex (m : List (Nat × Nat)) (c : Nat) : Nat := ((m.find? fun p => p.1 == c).map Prod.snd).getD c
/-- Numbers for the entries of a table that are not in use, in order. -/
def freeNumbers (used : List Nat) (n : Nat) : List Nat := ((List.range (used.length + n)).filter fun k => !used.contains k).take n
/-- Requests with the request contexts that they hold on a tile with those of the list free (R272, Table 14.3). -/
def withContexts (cycle : Nat) : List Nat → List ZReq → List ZReq
  | zc :: free, r :: rs => if r.zc.isSome then { r with zc := some zc, since := cycle } :: withContexts cycle free rs else r :: withContexts cycle (zc :: free) rs
  | _, rs => rs
/-- What an eviction took put back on a tile (R453). A tag takes the lowest free slot of the tile's table, so it may have another number
(DESIGN CHOICE, log entry 101). -/
def thaw (s : State) (h : Nat) (b : Block) (z : Frozen) (t : Nat) : State :=
  let m := (z.ctxs.map Prod.fst).zip (freeContexts s t)
  let f := newIndex m
  let x := s.tile t
  let sends := (freeNumbers (x.sends.map Prod.fst) z.sends.length).zip (z.sends.map fun e => { e.2 with ctx := f e.2.ctx })
  let tags := (freeNumbers (x.tags.map Prod.fst) z.tags.length).zip (z.tags.map Prod.snd)
  let zreqs := withContexts s.cycle ((List.range 4).filter fun k => (s.zreqOf? t k).isNone) z.zreqs
  let s := s.setTile t { x with
    allocs := x.allocs ++ z.allocs, tags := x.tags ++ tags, locks := x.locks ++ z.locks, zreqs := x.zreqs ++ zreqs, sends := x.sends ++ sends
    inbox := x.inbox ++ z.inbox
    rclru := x.rclru ++ z.ctxs.flatMap fun p => p.2.dirty.map fun k => (f p.1, k)
    physAcc := x.physAcc ++ z.accs.map fun p => (f p.1, p.2) }
  let s := z.ctxs.foldl (fun s p => s.setCtx t (f p.1) p.2) s
  let s : State := { s with
    mem := z.lines.foldl (fun m (l : Nat × LineMeta × List Byte) => memWrites m (spadBase t + 16 * l.1) l.2.2) s.mem
    lines := z.lines.foldl (fun m (l : Nat × LineMeta × List Byte) => mset m ((spadBase t + 16 * l.1) / 16) l.2.1) s.lines
    tasks := s.tasks.map fun (p : Nat × Task) =>
      if p.2.handle = h then (p.1, { p.2 with tile := t, ctx := if z.ctxs.any (fun q => q.1 == p.2.ctx) then f p.2.ctx else p.2.ctx }) else p }
  let s := s.setBlock h { b with evicted := false, frozen := none, sealed_ := [], tile := t }
  let s := z.deque.reverse.foldl (fun s e => pushEntry s t e) s
  let s := z.zreqs.foldl (fun s r => s.addDueOnce (if r.state = .draining then .requestDone t r.uid else .requestActivation t r.uid)) s
  let s := sends.foldl (fun s e => if e.2.state = .backoff then s.addDueOnce (.backoffExpiry (.tile t) e.1) else s) s
  wakeTile (dropStale s t) t
/-- Does an object restore the state of an evicted block: its header and every chunk pass the checks of R508, and it is the block's. -/
def objectRestores (s : State) (b : Block) (obj : List Byte) : Bool :=
  match openObject b.tenant (worldOf s b.tenant) s.wafer.dstate obj with
  | some (_, none) => obj == b.sealed_
  | _ => false
/-- BLOCK_RESTORED (R453): the object is checked chunk by chunk (R508) and the state returns; a failed one leaves the block Evicted. Nothing that has
been deciphered lies anywhere until the last chunk has passed, so what R508 has overwritten with zero never shows (log entry 21). -/
def blockRestoredBody (s : State) (h : Nat) : State :=
  match s.block? h with
  | none => restoreEnds s (h / 4096)
  | some b =>
    if b.evicted = false then restoreEnds s (h / 4096)
    else match restoreTile s h b, b.frozen with
      | some t, some z =>
        if clearing s t then s.addDueOnce (.blockRestored h)
        else match readSystem s (clusterOf t) b.tenant b.area b.sealed_.length with
          | some (obj, s) => restoreEnds (if objectRestores s b obj then thaw s h b z t else s) (h / 4096)
          | none => restoreEnds s (h / 4096)
      | _, _ => s.addDueOnce (.blockRestored h)
/-- BLOCK_RESTORED (R453). -/
def execBlockRestored (handle : Nat) (s : State) : Host.Outcome State Fault Refusal := .next (blockRestoredBody s handle)

/-! ## resq (R462) -/

/-- A tile as the residency map gives it: during Switching the old one still. -/
def mapTile (s : State) (t : Nat) : Nat := let c := s.cluster (clusterOf t); if c.drift = .switching then swapTile c.driftS c.driftT t else t
/-- The word of Table 14.10. -/
def resqWord (s : State) (b : Block) : Word :=
  let c := s.cluster (clusterOf b.tile)
  let armed := c.drift == .calming && (c.driftS == b.tile || c.driftT == b.tile)
  let st := if b.evicted then 3 else if movingTile s b.tile then 2 else if armed then 1 else 0
  let t := mapTile s b.tile
  w64 ((if b.evicted then 0 else (s.tile t).temp % 4096 * 2 ^ 36 + tileIndex t) + min 65535 b.moves * 2 ^ 16 + st * 2 ^ 10)
/-- resq gA, gB (R462). -/
def execResq (a b : Reg) (s : State) : Host.Outcome State Fault Refusal :=
  runInstr resBoth s fun s =>
    let q := curReq s
    let h := fromViewHandle s q.tenant (fld (s.getG b) 23 0)
    match liveBlock? s h with
    | none => .ok (alu a badId s)
    | some x =>
      let own := match s.cur with
        | .core i _ => homeIsland (h / 4096) == i
        | ag => h / 4096 == clusterOf (agentTile ag)
      .ok (alu a (if own then resqWord s x else selfUnit) s)

/-! ## Time slices (R455-R458) -/

/-- The valid slice entries of a cluster. -/
def sliceEntries (s : State) (n : Nat) : List Nat := (List.range 8).filter fun k => bitOf ((s.cluster n).sltab.toList.getD k 0) 63
/-- Are the tiles of a cluster shared in time (R455). -/
def sliced (s : State) (n : Nat) : Bool := decide (1 < (sliceEntries s n).length)
/-- The entry that a tile's slice runs: the recorded one while it is valid, else the next valid one. -/
def sliceEntry (s : State) (t : Nat) : Nat :=
  let l := sliceEntries s (clusterOf t)
  let k := (s.tile t).sliceCur
  (l.find? fun j => decide (k ≤ j)).getD (l.headD 0)
/-- The tenant of a tile's slice. -/
def sliceTenant (s : State) (t : Nat) : Nat := fld ((s.cluster (clusterOf t)).sltab.toList.getD (sliceEntry s t) 0) 55 32
/-- FLOOR (R457). -/
def sliceFloor (s : State) (n : Nat) : Nat := fld (s.cluster n).slstat 31 0
/-- LENGTH of a tile's entry. -/
def sliceLength (s : State) (t : Nat) : Nat := fld ((s.cluster (clusterOf t)).sltab.toList.getD (sliceEntry s t) 0) 31 0
/-- May a tenant's contexts use slots of a tile now (R455). -/
def sliceAllows (s : State) (t ten : Nat) : Bool := !sliced s (clusterOf t) || ten == sliceTenant s t
/-- Contexts of a tenant on a tile. -/
def tenantContexts (s : State) (t ten : Nat) : List (Nat × Ctx) :=
  (s.ctxs.filter fun p => p.1.1 == t && p.2.state != .free && blockTenant s p.2.handle == ten).map fun p => (p.1.2, p.2)
/-- Is the current slice of a tile over (R456). -/
def sliceOver (s : State) (t : Nat) : Bool :=
  let x := s.tile t
  sliced s (clusterOf t) &&
    (decide (max (sliceLength s t) (sliceFloor s (clusterOf t)) ≤ x.sliceCount) || decide (x.sliceSeen + 1024 ≤ s.cycle) ||
      (tenantContexts s t (sliceTenant s t)).isEmpty)
/-- The Issuing contexts of the outgoing tenant brought to a boundary; none while one cannot be (R458). -/
def sliceBoundary (s : State) (t : Nat) (l : List (Nat × Ctx)) : Option State :=
  l.foldl (fun acc p => acc.bind fun s => if p.2.state = .issuing then boundary s t p.1 else some s) (some s)
/-- Is a task kept at a slice end (R458). -/
def sliceKept (s : State) (k : Nat) (x : Task) : Bool := x.serial || (!isTainted s k && oldest s k x)
/-- A kept task's context Set aside after its interval commits, its vector state written out (R145, R231, R458); a cwait goes on waiting. -/
def setAside (s : State) (t c k : Nat) : State :=
  let i := match s.task? k with
    | some x => if x.serial && x.stores.isEmpty && x.recs.isEmpty then (s, none) else endInterval s k x
    | none => (s, none)
  let x := i.1.ctx t c
  let r := vectorLeave (i.1.setCtx t c { leaveSlot x with state := .setAside, why := .sliceEnd, waitsOn := x.waitsOn }) t c
  match i.2.or r.2 with
  | some f => trapImage r.1 t c f
  | none => slotFreed r.1 t
/-- The outgoing contexts treated as R458 gives. -/
def endSliceOf (s : State) (t : Nat) (l : List (Nat × Ctx)) : State :=
  let issuing := l.filter fun p => p.2.state == .issuing
  let parts := issuing.filterMap fun p => p.2.task.bind fun k => (s.task? k).map fun x => (p.1, k, sliceKept s k x)
  let s := (parts.filter fun p => p.2.2).foldl (fun s p => setAside s t p.1 p.2.1) s
  discardTasks s ((parts.filter fun p => !p.2.2).map fun p => (p.2.1, Fate.requeue))
/-- Can every kept task commit now (R458, R289). -/
def keptCanCommit (s : State) (l : List (Nat × Ctx)) : Bool :=
  l.all fun p => p.2.state != .issuing || (match p.2.task with
    | some k => (match s.task? k with | some x => !sliceKept s k x || (x.serial && x.stores.isEmpty && x.recs.isEmpty) || canCommit s k x | none => true)
    | none => true)
/-- The next slice of a tile: the following valid entry, each Set aside context of its tenant Queued (R455, R458). -/
def nextSlice (s : State) (t : Nat) : State :=
  let n := clusterOf t
  let l := sliceEntries s n
  let k := sliceEntry s t
  let nxt := (l.find? fun j => decide (k < j)).getD (l.headD 0)
  let s := s.setTile t { s.tile t with sliceCur := nxt, sliceCount := 0, sliceSeen := s.cycle, sliceFrom := some s.cycle }
  let s := s.setCluster n { s.cluster n with slstat := setFld (s.cluster n).slstat 63 61 nxt }
  let back := (tenantContexts s t (sliceTenant s t)).filter fun p => p.2.state == .setAside
  slotFreed (back.foldl (fun s p => let w := (s.ctx t p.1).waitsOn
    let s := enqueue s t p.1 (s.ctx t p.1)
    s.setCtx t p.1 { s.ctx t p.1 with waitsOn := w }) s) t
/-- SLICE_END (R456, R458): it stays due while the cluster is shared in time. -/
def sliceEndBody (s : State) (t : Nat) : State :=
  let again (s : State) : State := if sliced s (clusterOf t) then s.addDueOnce (.sliceEnd t) else s
  if sliceOver s t = false ∨ movingTile s t = true then again s
  else
    let l := tenantContexts s t (sliceTenant s t)
    match sliceBoundary s t l with
    | none => again s
    | some s => if keptCanCommit s l then again (nextSlice (endSliceOf s t (tenantContexts s t (sliceTenant s t))) t) else again s
/-- SLICE_END (R456). -/
def execSliceEnd (tile : Nat) (s : State) : Host.Outcome State Fault Refusal := .next (sliceEndBody s tile)
/-- FLOOR raised by a measured save and restore (R457): from the slice end to the first issue of the incoming tenant. -/
def measureSlice (s : State) (t : Nat) : State :=
  match (s.tile t).sliceFrom with
  | none => s
  | some c =>
    let n := clusterOf t
    let m := max (sliceFloor s n) (roundUp (s.cycle - c) 256)
    (s.setTile t { s.tile t with sliceFrom := none }).setCluster n { s.cluster n with slstat := setFld (s.cluster n).slstat 31 0 (min m (2 ^ 32 - 1)) }
/-- SLICECLAMP as a context takes a slot (R457). -/
def clampSlice (s : State) (t c : Nat) : State :=
  let x := s.ctx t c
  if sliced s (clusterOf t) ∧ blockTenant s x.handle = sliceTenant s t ∧ sliceLength s t < sliceFloor s (clusterOf t) then
    s.setCtx t c { x with regs := { x.regs with status := setBit x.regs.status 15 true }, dirty := x.dirty ∪ [2] }
  else s

end Sys2Proof.Machine
end

