-- ==== Sys2Proof/Machine/Island.lean ====
section
/-! DEFINITION. The island engine (R466-R499): supervisor registers, eret, table instructions, fault queues and QEVENT, resume commands, regions
and grants, virtual functions, debug. -/

namespace Sys2Proof.Machine

/-! ## Privileged instructions (R80, R472, R496) -/

/-- The minors that wait beyond their issue and need a right (R496). -/
def waitsIssued (xm : Nat) : Bool := xm == 10 || xm == 11 || xm == 12
/-- Whether a core's instruction waits under the rights that it issued with (R472). -/
def setGranted (s : State) (i k : Nat) (b : Bool) : State :=
  if (s.core i k).granted = b then s else s.setCore i k { s.core i k with granted := b }
/-- A minor of major 0x39: on island cores only, from its minimum level on, then with its right, which it needs when it issues: one that waits
beyond that completes under the rights it had (R472). -/
def runPriv (engine xm min : Nat) (right : Option Nat) (s : State) (body : Nat → Nat → State → Except Stop State) :
    Host.Outcome State Fault Refusal :=
  runInstr { thread := false, engine := engine } s fun s =>
    match s.cur with
    | .core i k =>
      let c := s.core i k
      if min < coreLevel c then .error (.trap { code := 0x05, engine := engine, info := w64 xm })
      else if (match right with | some r => !hasRight s i (coreTenant c) r && !(waitsIssued xm && c.granted) | none => false) then .error (.trap (islandTrap 3))
      else if waitsIssued xm = false then body i k s
      else match body i k s with
        | .ok s' => .ok (setGranted s' i k (!s'.retired))
        | .error .wait => .error (.kept (setGranted s i k true) none)
        | .error (.kept s' none) => .error (.kept (setGranted s' i k true) none)
        | .error e => .error e
    | _ => .ok s

/-! ## Supervisor registers (Table 15.1) -/

/-- Is a number one of Table 15.1. -/
def supervisorNumber (n : Nat) : Bool := decide (n ≤ 6) || (decide (0x10 ≤ n) && decide (n ≤ 0x14)) || (decide (0x20 ≤ n) && decide (n ≤ 0x22))
/-- AGSELF (Table 15.1). -/
def agentSelf (s : State) (i t : Nat) : Word := w64 (0xF000100000000 + 0x10000 * i + 64 * (recordIndex? s i t).getD 0)
/-- A supervisor register as mfsr reads it; RSMCMD is write-only and reads as zero. -/
def supervisorRead (s : State) (i k n : Nat) : Word :=
  let c := s.core i k
  match n with
  | 0x000 => c.cstatus
  | 0x001 => c.epc
  | 0x002 => c.ecause
  | 0x003 => c.eaddr
  | 0x004 => c.einfo
  | 0x005 => c.sscr0
  | 0x006 => c.sscr1
  | 0x010 => cycleFor s i (coreTenant c)
  | 0x011 => w64 (i * 2 ^ 8 + k)
  | 0x012 => c.msglaunch
  | 0x013 => c.lgraph
  | 0x014 => agentSelf s i (coreTenant c)
  | 0x020 => c.rsmtgt
  | 0x021 => c.rsmreq
  | _ => 0
/-- CSTATUS bits that a level writes: PTENANT, PIE, IE, PLEVEL; XLATE at level 0. -/
def cstatusMask (lv : Nat) : Word := if lv = 0 then 0x00FFFFFF0000007C else 0x00FFFFFF0000003C
/-- A core with a supervisor register written: only the fields that its level may write change (R468). -/
def supervisorWrite (c : Core) (n : Nat) (v : Word) : Core :=
  let lv := coreLevel c
  match n with
  | 0x000 => { c with cstatus := masked c.cstatus v (cstatusMask lv) }
  | 0x001 => { c with epc := w64 (addrOf v) }
  | 0x005 => { c with sscr0 := v }
  | 0x006 => { c with sscr1 := v }
  | 0x012 => { c with msglaunch := v &&& 0xFFFFFFFF }
  | 0x013 => { c with lgraph := if lv = 0 then v &&& 0xFFFFFFFF else c.lgraph }
  | 0x020 => { c with rsmtgt := v &&& 0x3FFFFFFF }
  | 0x021 => { c with rsmreq := v &&& 0xFFFFFFFFFF }
  | _ => c
/-- mfsr gA, n (R468). -/
def execMfsr (a : Reg) (n : BitVec 12) (s : State) : Host.Outcome State Fault Refusal :=
  runPriv engIsland 0 2 none s fun i k s =>
    if supervisorNumber n.toNat = false then .error (.trap { illegalOp s with engine := engIsland }) else .ok (alu a (supervisorRead s i k n.toNat) s)
/-- mtsr gA, n (R468); a write of RSMCMD sends a resume packet (R485). -/
def execMtsr (a : Reg) (n : BitVec 12) (s : State) : Host.Outcome State Fault Refusal :=
  runPriv engIsland 1 2 none s fun i k s =>
    if supervisorNumber n.toNat = false then .error (.trap { illegalOp s with engine := engIsland })
    else
      let v := s.getG a
      let s := s.setCore i k (supervisorWrite (s.core i k) n.toNat v)
      let s := if n = 0x013 then openGraph s (coreTenant (s.core i k)) (fld (s.core i k).lgraph 31 0) else s
      .ok (if n = 0x022 then s.addDue (.rsmcmd i k (fld v 24 0)) else s).retire

/-! ## eret (R470, R502, R542) -/

/-- A core as tenant t's, for the checks that are made under t's translation. -/
def coreAs (s : State) (i k t : Nat) : State :=
  let c := s.core i k
  s.setCore i k { c with cstatus := setFld (setFld c.cstatus 31 8 t) 1 0 (levelOf t) }
/-- LEVEL, TENANT, IE and WORLD taken from what the exception saved. -/
def leaveStatus (s : State) (cs : Word) : Word :=
  let t := fld cs 55 32
  setBit (setBit (setFld (setFld cs 1 0 (fld cs 3 2)) 31 8 t) 4 (bitOf cs 5)) 7 (worldOf s t)
/-- The core in its new tenant: a change of world empties its instruction cache (R502). -/
def leaveException (s : State) (i k : Nat) : State :=
  let c := s.core i k
  let cs := leaveStatus s c.cstatus
  newTenancy (s.setCore i k { c with
      cstatus := cs, icache := if worldOf s (fld cs 31 8) = worldOf s (coreTenant c) then c.icache else [] }) i k (coreTenant c)
/-- eret (R470). -/
def eretBody (i k : Nat) (s : State) : Except Stop State :=
  let c := s.core i k
  let pl := fld c.cstatus 3 2
  let pt := fld c.cstatus 55 32
  if pl < coreLevel c ∨ presides (coreTenant c) pt = false ∨ levelOf pt ≠ pl then .error (.trap (islandTrap 11))
  else if c.epc = 0 then
    let s := leaveException s i k
    .ok { s.setCore i k { s.core i k with idle := true } with retired := true }
  else match checkTarget (coreAs s i k pt) (.core i k) s.getPc c.epc.toNat with
    | .ok _ => .ok ((leaveException s i k).jump c.epc.toNat false)
    | .error (.trap tr) =>
      if tr.code = 0x03 then .error (.trap tr)
      else .ok (enterException s i k (exceptionReceiver pt tr.code tr.info.toNat) (causeWord false engIsland tr.code) tr.addr tr.info s.getPc)
    | .error e => .error e
/-- eret (R470). -/
def execEret (s : State) : Host.Outcome State Fault Refusal := runPriv engIsland 2 2 none s eretBody

/-! ## Table instructions (R210, R481, R482) -/

/-- Is a commit outstanding that uses a translation superseded since (R210). -/
def superseded (s : State) : Bool :=
  s.tasks.any fun p => p.2.xlats.any fun x =>
    match translate s (homeIsland (clusterOf p.2.tile)) x.1 .tile .write (16 * x.2.1) with
    | .ok tr => tr.out != 16 * x.2.2
    | .error _ => true
/-- ptfence (R482). -/
def execPtfence (s : State) : Host.Outcome State Fault Refusal :=
  runPriv engIsland 3 2 none s fun i k s =>
    if s.invals.any (fun p => p.2.1 == (i, k)) || superseded s then .error .wait else .ok s.retire
/-- An invalidation of a core set on its way. -/
def sendInval (s : State) (i k : Nat) (v : Inval) : State :=
  let (n, s) := s.fresh
  { s with invals := mset s.invals n ((i, k), v) }.addDue (.tlbInvalidation n)
/-- tlbinv (R481). -/
def tlbinvBody (b c : Reg) (i k : Nat) (s : State) : Except Stop State :=
  let g := s.getG c
  let mode := fld g 1 0
  let t := fld g 35 12
  let x := s.core i k
  if fld g 11 2 ≠ 0 ∨ fld g 63 36 ≠ 0 ∨ mode = 3 then .error (.trap (islandTrap 1))
  else if mode = 2 then
    if coreLevel x ≠ 0 then .error (.trap { code := 0x05, engine := engIsland, info := 4 })
    else .ok (sendInval s i k (.frame (fld (s.getG b) 51 12 * 4096))).retire
  else if presides (coreTenant x) t = false then .error (.trap (islandTrap 2))
  else .ok (sendInval s i k (if mode = 0 then .page t (addrOf (s.getG b)) else .work t)).retire
/-- tlbinv gB, gC (R481). -/
def execTlbinv (b c : Reg) (s : State) : Host.Outcome State Fault Refusal := runPriv engIsland 4 2 (some 0) s (tlbinvBody b c)
/-- icinv gB (R482). -/
def execIcinv (b : Reg) (s : State) : Host.Outcome State Fault Refusal :=
  runPriv engIsland 5 2 (some 0) s fun i k s =>
    let p := s.getG b
    match agentTranslate s (.core i k) .read (addrOf p) with
    | .error f => .error (.trap (xTrap f .read p))
    | .ok (pa, _, s) => .ok (sendInval s i k (.code (pa / 4096 * 4096))).retire
/-- Does a cluster TLB entry leave under an invalidation. -/
def Inval.hitsTlb (v : Inval) (e : TlbEntry) : Bool :=
  match v with
  | .page t va => e.tenant == t && decide (e.page ≤ va) && decide (va < e.page + e.size)
  | .work t => presides t e.tenant
  | .frame pa => decide (e.out < pa + 4096) && decide (pa < e.out + e.size)
  | .code _ => false
/-- Does a last-level TLB entry. -/
def Inval.hitsLast (v : Inval) (e : Nat × Nat × Nat) : Bool :=
  match v with
  | .page t _ => e.1 == partOf t
  | .work t => t == 0 || e.1 == partOf t
  | .frame pa => let a := fieldN e.2.2 51 12 * 4096; decide (a ≤ pa) && decide (pa < a + 2 ^ 30)
  | .code _ => false
/-- Does a data-cache block: its hits are not translated (R34), so that it leaves with the translation it was filled under (Table 15.14). -/
def Inval.hitsBlock (v : Inval) (b : DBlock) : Bool :=
  match v with
  | .page t va => b.tenant == t && b.vblock * 64 / 2 ^ 21 == va / 2 ^ 21
  | .work t => presides t b.tenant
  | .frame pa => b.pblock * 64 / 4096 == pa / 4096
  | .code _ => false
/-- Does a code line, by its physical line. -/
def Inval.hitsCode (v : Inval) (e : Nat × Nat × Nat × CodeLine) : Bool :=
  match v with
  | .code pa => e.2.2.1 * 64 / 4096 == pa / 4096
  | _ => false
/-- An invalidation carried out everywhere. -/
def applyInval (s : State) (v : Inval) : State :=
  let s := (s.tiles.map Prod.fst).foldl (fun s t => flushBlocks s t v.hitsBlock) s
  { s with
    clusters := s.clusters.map fun (p : Nat × Cluster) => (p.1, { p.2 with tlb := p.2.tlb.filter fun e => !v.hitsTlb e })
    islands := s.islands.map fun (p : Nat × Island) => (p.1, { p.2 with lltlb := p.2.lltlb.filter fun e => !v.hitsLast e })
    tiles := s.tiles.map fun (p : Nat × Tile) => (p.1, { p.2 with icache := p.2.icache.filter fun e => !v.hitsCode e })
    cores := s.cores.map fun (p : (Nat × Nat) × Core) => (p.1, { p.2 with icache := p.2.icache.filter fun e => !v.hitsCode e }) }
/-- TLB_INVALIDATION (R481, R482): one invalidation completes in every cluster and island. -/
def execTlbInvalidation (inv : Nat) (s : State) : Host.Outcome State Fault Refusal :=
  .next (match mget? s.invals inv with
    | some (_, v) => let s := applyInval s v; { s with invals := mdel s.invals inv }
    | none => s)
/-- The access of Table 15.8 that a code names. -/
def accessOf (n : Nat) : AccKind := if n = 1 then .write else if n = 2 then .exec else .read
/-- PAGE_WALK (R477, R480): a walk for a cluster installs its result; one that faults installs nothing. -/
def execPageWalk (cluster tenant va access : Nat) (s : State) : Host.Outcome State Fault Refusal :=
  .next (match tileTranslate s cluster tenant .tile (accessOf access) (va % 2 ^ 54) with
    | .ok (_, _, s') => s'
    | .error _ => s)

/-- The stages whose tables a tenant owns (R482). -/
def ownsStage (t stage : Nat) : Bool :=
  if t = 0 then stage == 1 || stage == 3 else if sliceOf t = 0 then stage == 1 || stage == 2 else stage == 1
/-- A large leaf's entry i one level below: the same bits with ADDR moved on. -/
def splinterEntry (e sub i : Nat) : Nat := e - fieldN e 51 12 * 2 ^ 12 + (fieldN e 51 12 * 2 ^ 12 + i * sub) % 2 ^ 52 / 2 ^ 12 * 2 ^ 12
/-- The place of a page that splinter is to build, by the walk of a store in the core's own space, before any ownership check (R482). -/
def splinterPlace (s : State) (i k va : Nat) : Except XFault Nat :=
  let out : Except XFault Nat :=
    if physicalCore (s.core i k) then .ok (va % 2 ^ 52) else (walk s i (coreTenant (s.core i k)) .core .write va).map Trans.out
  match out with
  | .error f => .error f
  | .ok pa => if physListed s pa then .ok pa else .error (.hole pa)
/-- splinter (R482), one atomic operation: the read of the leaf is checked as the store to it is, so that a table page gives it (DESIGN CHOICE, log
entry 108). -/
def splinterBody (b c : Reg) (i k : Nat) (s : State) : Except Stop State :=
  let g := s.getG c
  let p := w64 (addrOf (s.getG b))
  let q := coreReq s i k
  let stage := fld g 1 0
  let lv := fld g 3 2
  let new := fld g 53 12 * 4096
  if fld g 11 4 ≠ 0 ∨ fld g 63 54 ≠ 0 ∨ stage = 0 then .error (.trap (islandTrap 1))
  else if ownsStage q.tenant stage = false then .error (.trap (islandTrap 2))
  else match checkNow s q .write p 8 with
    | .error e => .error e
    | .ok (xs, s) =>
      let e := fromBytes (xs.flatMap (coreReadPlace s q))
      let s := meetPlaces s q xs
      if fieldN e 0 0 = 0 ∨ fieldN e 1 1 = 0 ∨ lv = 0 ∨ lv = 3 then .error (.trap (islandTrap 4))
      else match splinterPlace s i k new with
        | .error f => .error (.trap (xTrap f .write (w64 new)))
        | .ok pa =>
          if tablePageOk s pa (stageOwner q.tenant stage) (worldOf s q.tenant) = false then .error (.trap (islandTrap 5))
          else
            let table := (List.range 512).flatMap fun j => toBytes 8 (splinterEntry e (2 ^ (3 + 9 * lv)) j)
            match coreStore s q (w64 new) table with
            | .error e => .error e
            | .ok s => match coreStore s q p (toBytes 8 (fieldN new 51 12 * 4096 + 1)) with
              | .error e => .error e
              | .ok s => .ok s.retire
/-- splinter gB, gC (R482). -/
def execSplinter (b c : Reg) (s : State) : Host.Outcome State Fault Refusal := runPriv engIsland 6 2 (some 0) s (splinterBody b c)

/-! ## Fault queues and QEVENT (R484, R485) -/

/-- A handle field at byte k of a record's body in the view of the receiver; core handles keep their value (R356, R490). -/
def seenHandle (s : State) (t : Nat) (b : List Byte) (k : Nat) : List Byte :=
  let n := leAt b k 4
  let h := n % 2 ^ 24
  let v := if h = 0 ∨ 0xFFF000 ≤ h then h else toViewHandle s t h
  b.take k ++ toBytes 4 (n - h + v) ++ b.drop (k + 4)
/-- POS of a fabric fault in the view of the receiver (Table 11.8, R490). -/
def seenPos (s : State) (t : Nat) (b : List Byte) : List Byte :=
  let o := viewOffset s t
  b.take 2 ++ toBytes 1 ((leAt b 2 1 + 256 - o % 64 * 4) % 256) ++ toBytes 1 ((leAt b 3 1 + 256 - o / 64 * 4) % 256) ++ b.drop 4
/-- The 40 bytes of a record's body as tenant t reads them (Table 15.11). -/
def seenBody (s : State) (t kind : Nat) (b : List Byte) : List Byte :=
  let b := (b ++ List.replicate 40 0).take 40
  if kind % 16 = 1 then seenHandle s t b 32
  else if kind % 16 = 2 then seenHandle s t b 8
  else if kind % 16 = 3 then seenPos s t (seenHandle s t (seenHandle s t b 4) 8)
  else b
/-- The 64 bytes of a record delivered to tenant t at an island (Table 15.11). -/
def queueBytes (s : State) (i t : Nat) (r : FaultRecord) : List Byte :=
  toBytes 1 r.kind ++ toBytes 1 (levelOf t) ++ toBytes 1 i ++ [0] ++ toBytes 4 (r.work % 2 ^ 24) ++ seenBody s t r.kind r.body ++
    toBytes 8 (cycleFor s i t).toNat ++ List.replicate 8 0
/-- FQTAIL and FQHEAD. -/
def queueTail (b : List Byte) : Nat := recFld b 351 336
/-- FQHEAD. -/
def queueHead (b : List Byte) : Nat := recFld b 335 320
/-- Is a tenant's queue empty. -/
def queueEmpty (s : State) (i t : Nat) : Bool := let b := agentRecord s i t; queueTail b == queueHead b
/-- Has a tenant at an island a queue with room (R484). -/
def queueRoom (s : State) (i t : Nat) : Bool :=
  let b := agentRecord s i t
  let l := recFld b 355 352
  recordValid s i t && decide (4 ≤ l) && decide (l ≤ 12) && decide ((queueTail b + 2 ^ 16 - queueHead b) % 2 ^ 16 < 2 ^ l)
/-- The place of the next record, by the translation of queue writes (R477, R479): in two pieces where it crosses a page. -/
def queuePlace (s : State) (i t : Nat) : Option (List (Nat × Nat)) :=
  let b := agentRecord s i t
  let va := (recFld b 309 256 + 64 * (queueTail b % 2 ^ recFld b 355 352)) % 2 ^ 54
  let n := min 64 (4096 - va % 4096)
  match translate s i t .image .write va, translate s i t .image .write ((va + n) % 2 ^ 54) with
  | .ok a, .ok b => some (if n = 64 then [(a.out, 64)] else [(a.out, n), (b.out, 64 - n)])
  | .ok a, .error _ => if n = 64 then some [(a.out, 64)] else none
  | .error _, _ => none
/-- Bytes written in pieces at physical places. -/
def putPieces (s : State) : List (Nat × Nat) → List Byte → State
  | [], _ => s
  | (pa, n) :: r, bs => putPieces (putPhys s pa (bs.take n)) r (bs.drop n)
/-- Does a core qualify for a QEVENT of tenant t (R485). -/
def qualifies (s : State) (i t k : Nat) : Bool := let c := s.core i k; bitOf c.cstatus 4 && !c.stopped && presides t (coreTenant c)
/-- The core that takes it: the preferred one if it qualifies, else the lowest. -/
def qeventCore (s : State) (i t : Nat) (prefer : Option Nat) : Option Nat :=
  match prefer.filter (qualifies s i t) with
  | some k => some k
  | none => (List.range 8).find? (qualifies s i t)
/-- Supervisor core of the block that a record prefers. -/
def preferredCore (s : State) (r : FaultRecord) : Option Nat := (r.prefer.bind s.block?).map fun b => b.supervisor % 8
/-- What follows an append: QEVENT pending, or one SCHED event while no core qualifies (R485). -/
def afterAppend (s : State) (i t : Nat) (r : FaultRecord) (wasEmpty : Bool) : State :=
  let isl := s.island i
  let sched := if wasEmpty then isl.sched.erase t else isl.sched
  let none_ := (qeventCore s i t (preferredCore s r)).isNone
  let s := (s.setIsland i { isl with
      pending := mset isl.pending t (preferredCore s r), sched := if none_ && !sched.contains t then t :: sched else sched }).addDueOnce (.qevent i t)
  if none_ && !sched.contains t then sendRecord s i (eventRecord 0 6 (toBytes 32 t)) else s
/-- A record written at the tail of tenant t's queue. -/
def appendAt (s : State) (i t : Nat) (l : List (Nat × Nat)) (r : FaultRecord) : State :=
  let e := queueEmpty s i t
  let k := (recordIndex? s i t).getD 0
  let s := putPieces s l (queueBytes s i t r)
  let isl := s.island i
  let b := mget isl.records (List.replicate 64 0) k
  afterAppend (s.setIsland i { isl with records := mset isl.records k (recSet b 351 336 (queueTail b + 1)) }) i t r e
/-- Bits 6 and 7 of KIND set. -/
def withKindBit (r : FaultRecord) (k : Nat) : FaultRecord := { r with kind := if fieldN r.kind k k = 1 then r.kind else r.kind + 2 ^ k }
/-- A record that tenant 0's queue has no room for is held by the island. -/
def holdRecord (s : State) (i : Nat) (r : FaultRecord) : State :=
  let isl := s.island i
  (s.setIsland i { isl with held := isl.held ++ [{ r with tenant := 0 }] }).addDueOnce (.heldRecordDelivery i)
/-- Delivery of a record to tenant t or its parents (R484); three levels at most. -/
def deliverRecord (s : State) (i : Nat) : Nat → Nat → FaultRecord → State
  | 0, _, r => holdRecord s i r
  | f + 1, t, r =>
    let up (r : FaultRecord) : State := if t = 0 then holdRecord s i r else deliverRecord s i f (parentOf t) (withKindBit r 7)
    if queueRoom s i t then
      match queuePlace s i t with
      | some pa => appendAt s i t pa r
      | none => up (withKindBit r 6)
    else up r
/-- FAULT_QUEUE_APPEND (R484): the oldest record on its way; the island takes none while it holds one. -/
def faultQueueBody (s : State) (i : Nat) : State :=
  let isl := s.island i
  match isl.inFlight with
  | [] => s
  | r :: rest => if isl.held.isEmpty then deliverRecord (s.setIsland i { isl with inFlight := rest }) i 3 r.tenant r else s.addDue (.faultQueueAppend i)
/-- FAULT_QUEUE_APPEND (R484). -/
def execFaultQueueAppend (island : Nat) (s : State) : Host.Outcome State Fault Refusal := .next (faultQueueBody s island)
/-- Can a held record be delivered now. -/
def heldReady (s : State) (i : Nat) : Bool := queueRoom s i 0 && (queuePlace s i 0).isSome
/-- HELD_RECORD_DELIVERY (R484). -/
def heldBody (s : State) (i : Nat) : State :=
  let isl := s.island i
  match isl.held with
  | [] => s
  | r :: rest =>
    if heldReady s i then
      let s := deliverRecord (s.setIsland i { isl with held := rest }) i 1 0 r
      if rest.isEmpty then s else s.addDueOnce (.heldRecordDelivery i)
    else s.addDueOnce (.heldRecordDelivery i)
/-- HELD_RECORD_DELIVERY (R484). -/
def execHeldRecordDelivery (island : Nat) (s : State) : Host.Outcome State Fault Refusal := .next (heldBody s island)
/-- Has a core sent a resume packet that has not left it. -/
def sendsResume (s : State) (i k : Nat) : Bool := s.due.any fun d => match d with | .rsmcmd j c _ => j == i && c == k | _ => false
/-- The core that a pending QEVENT enters now: one that is between instructions. -/
def qeventReady (s : State) (i t : Nat) : Option Nat :=
  (qeventCore s i t ((mget? (s.island i).pending t).getD none)).filter fun k => !(s.core i k).waiting && !sendsResume s i k
/-- QEVENT (R485, R469): it stays pending until the queue is empty. -/
def qeventBody (s : State) (i t : Nat) : State :=
  if queueEmpty s i t then
    let isl := s.island i
    s.setIsland i { isl with pending := mdel isl.pending t, sched := isl.sched.erase t }
  else
    let s1 := s.addDueOnce (.qevent i t)
    match qeventReady s i t with
    | some k => enterException s1 i k t (causeWord false engIsland 0x23) 0 (w64 (queueTail (agentRecord s i t))) (s.core i k).regs.pc
    | none => s1
/-- QEVENT (R485). -/
def execQevent (island tenant : Nat) (s : State) : Host.Outcome State Fault Refusal := .next (qeventBody s island tenant)

/-! ## Resume commands (R485) -/

/-- The packet that a command sends, none for an action its target does not know. -/
def resumePacket (t h tid req cmd : Nat) : Option Instr :=
  let fseq := fieldN cmd 15 8
  let g := h + tid * 2 ^ 24
  match cmd / 2 ^ 24 % 2, cmd % 8 with
  | 0, 0 => some (.resume t h tid)
  | 0, 1 => some (.redirect t h tid)
  | 0, 2 => some (.discard t h tid)
  | 0, 3 => some (.halt t h tid)
  | 0, 7 => some (.present t h tid)
  | 1, 4 => some (.retry t g req fseq)
  | 1, 5 => some (.continue_ t g req fseq)
  | 1, 6 => some (.fail t g req fseq (fieldN cmd 23 16))
  | _, _ => none
/-- RSMCMD (R485): the packet of RSMTGT and RSMREQ leaves with the core's tenant. -/
def execRsmcmd (island core cmd : Nat) (s : State) : Host.Outcome State Fault Refusal :=
  let c := s.core island core
  let t := coreTenant c
  .next (match resumePacket t (fromViewHandle s t (fld c.rsmtgt 23 0)) (fld c.rsmtgt 29 24) (fld c.rsmreq 39 0) cmd with
    | some p => s.addDue p
    | none => s)

/-! ## Regions, grants, virtual functions (R487-R489, R501) -/

/-- A tile emptied for a tenant of the other world (R145, R305, R501): every line and accumulator is written back and invalidated first, and
one that cannot be written back stays (R142). -/
def emptyTile (s : State) (t : Nat) : State :=
  let s := flushBlocks s t fun _ => true
  let s := (s.tile t).rclru.foldl (fun s e => (writeBackLine s t e.1 e.2).1) s
  let s := (s.tile t).physAcc.foldl (fun s e => if e.2.2 then (writeAcc s t e.1 e.2.1).1 else s) s
  let x := s.tile t
  let s := s.setTile t { x with
    icache := [], rclru := x.rclru.filter fun e => (s.ctx t e.1).dirty.contains e.2, physAcc := x.physAcc.filter fun e => e.2.2, ibufs := [], hcache := [], tags := [], allocs := [] }
  zeroLines s (spadBase t) 0x20000
/-- Do the requests and operations of a tile let it change world (R501 step 1). -/
def tileQuiet (s : State) (t : Nat) : Bool := (s.tile t).zreqs.isEmpty && (s.tile t).matq.isEmpty
/-- The present tiles of clusters whose world differs between two states. -/
def worldChanges (s s' : State) (cs : List Nat) : List Nat :=
  (cs.filter fun n => worldOf s (regionTenant s n) != worldOf s' (regionTenant s' n)).flatMap (clusterTiles s)
/-- A change of regions or worlds carried out over clusters, once the tiles that change world are quiet. -/
def changeWorlds (s s' : State) (cs : List Nat) : Except Stop State :=
  let l := worldChanges s s' cs
  if l.all (tileQuiet s) then .ok (l.foldl emptyTile s') else .error .wait
/-- Is a rectangle of clusters well formed and inside a tenant's region. -/
def rectAllowed (s : State) (t r : Nat) : Bool :=
  decide (fieldN r 7 0 ≤ fieldN r 23 16) && decide (fieldN r 15 8 ≤ fieldN r 31 24) &&
    (match regionRect s t with | some q => rectInside r q | none => false)
/-- Reason 7 of rgset (R487, Table 15.15). -/
def regionBusy (s : State) (t : Nat) (rs : List Nat) : Bool :=
  (s.blocks.any fun p => p.2.live && !p.2.evicted && (p.2.tenant == t || rs.any fun r => rectHas r (clusterOf p.2.tile))) ||
  (s.vfs.any fun p => p.2 == t) ||
  (s.clearances.any fun p => !p.2.done && !vacant s p.2 && rs.any fun r => rectMeet p.2.rect r)
/-- A partition's region replaced: a slice that does not lie within it any more has none, since the slices of a partition lie within it (R486,
R487; DESIGN CHOICE, log entry 109). -/
def withRegion (s : State) (t : Nat) (r : Option Nat) : State :=
  let out (p : Nat × Tenant) : Bool := sliceOf p.1 != 0 && partTenant p.1 == t && p.2.rect.any fun q => !(r.any (rectInside q))
  let s : State := { s with tenants := s.tenants.map fun p => if out p then (p.1, { p.2 with rect := none }) else p }
  s.setTenant t { s.tenant t with rect := r }
/-- rgset (R487). -/
def rgsetBody (b : Reg) (i k : Nat) (s : State) : Except Stop State :=
  let g := s.getG b
  let me := coreTenant (s.core i k)
  let t := fld g 55 32
  let gone := decide (fld g 23 16 < fld g 7 0)
  let r := fromViewRect s me (fld g 31 0)
  let old := (s.tenant t).rect
  let rs := old.toList ++ (if gone then [] else [r])
  if fld g 63 56 ≠ 0 then .error (.trap (islandTrap 1))
  else if t = me ∨ parentOf t ≠ me ∨ partOf t = 0 then .error (.trap (islandTrap 2))
  else if gone = false ∧ (rectAllowed s me r = false ∨
      s.tenants.any (fun p => p.1 != t && p.1 != me && parentOf p.1 == me && (match p.2.rect with | some q => rectMeet r q | none => false)) = true) then
    .error (.trap (islandTrap 6))
  else if regionBusy s t rs then .error (.trap (islandTrap 7))
  else
    let s' := withRegion s t (if gone then none else some r)
    match changeWorlds s s' (rs.flatMap rectClusters).dedup with
    | .error e => .error e
    | .ok s => .ok s.retire
/-- rgset gB (R487). -/
def execRgset (b : Reg) (s : State) : Host.Outcome State Fault Refusal := runPriv engIsland 7 1 (some 1) s (rgsetBody b)
/-- grant (R488). -/
def grantBody (b c : Reg) (i k : Nat) (s : State) : Except Stop State :=
  let g := s.getG b
  let v := s.getG c
  let me := coreTenant (s.core i k)
  let t := fld g 23 0
  let r := fromViewRect s me (fld v 31 0)
  if fld g 63 27 ≠ 0 ∨ fld v 63 34 ≠ 0 then .error (.trap (islandTrap 1))
  else if presides me t = false then .error (.trap (islandTrap 2))
  else if rectAllowed s me r = false then .error (.trap (islandTrap 6))
  else
    let x := s.tenant t
    .ok (s.setTenant t { x with grants := mset x.grants (fld g 26 24) { rect := r, vc0 := bitOf v 32, vc2 := bitOf v 33 } }).retire
/-- grant gB, gC (R488). -/
def execGrant (b c : Reg) (s : State) : Host.Outcome State Fault Refusal := runPriv engIsland 8 1 (some 1) s (grantBody b c)
/-- revoke gB (R488). -/
def execRevoke (b : Reg) (s : State) : Host.Outcome State Fault Refusal :=
  runPriv engIsland 9 1 (some 1) s fun i k s =>
    let g := s.getG b
    let t := fld g 23 0
    if fld g 63 27 ≠ 0 then .error (.trap (islandTrap 1))
    else if presides (coreTenant (s.core i k)) t = false then .error (.trap (islandTrap 2))
    else let x := s.tenant t; .ok (s.setTenant t { x with grants := mdel x.grants (fld g 26 24) }).retire
/-- The tenant that a function is bound to: 0 for a physical function and for an unbound one (R489, R531). -/
def boundTenant (s : State) (f : Nat) : Nat := mget s.vfs 0 f
/-- Has a function a host request in flight. -/
def hostBusy (s : State) (f : Nat) : Bool :=
  s.due.any fun d => match d with
    | .cxlMemRead g _ _ => g == f
    | .cxlMemWrite g _ _ => g == f
    | .dbell g _ => g == f
    | _ => false
/-- vfbind gB, gC (R489). -/
def execVfbind (b c : Reg) (s : State) : Host.Outcome State Fault Refusal :=
  runPriv engIsland 10 1 (some 2) s fun i k s =>
    let f := fld (s.getG b) 6 0
    let t := fld (s.getG c) 23 0
    let me := coreTenant (s.core i k)
    if fld (s.getG b) 63 7 ≠ 0 ∨ fld (s.getG c) 63 24 ≠ 0 then .error (.trap (islandTrap 1))
    else if presides me (boundTenant s f) = false ∨ presides me t = false then .error (.trap (islandTrap 8))
    else if hostBusy s f then .error .wait
    else .ok { s with vfs := if t = 0 then mdel s.vfs f else mset s.vfs f t }.retire

/-! ## Debug (R492-R495) -/

/-- The context of a thread of a live block that is on a tile (R492). -/
def threadAt? (s : State) (h tid : Nat) : Option (Nat × Nat) :=
  match liveBlock? s h with
  | none => none
  | some b =>
    if b.evicted then none
    else (s.ctxs.find? fun p => p.1.1 == b.tile && p.2.handle == h && p.2.tid == tid && p.2.state != .free).map Prod.fst
/-- May threads of a world be debugged in the current debug state (Table 16.5). -/
def debugAllowed (s : State) (secure : Bool) : Bool := if secure then s.wafer.dstate == 2 else s.wafer.dstate == 1 || s.wafer.dstate == 2
/-- The checks of R492: the context named by gB. -/
def debugTarget (s : State) (i k : Nat) (b : Reg) : Except Stop (Nat × Nat) :=
  let g := s.getG b
  let me := coreTenant (s.core i k)
  let h := fromViewHandle s me (fld g 23 0)
  if fld g 63 30 ≠ 0 then .error (.trap (islandTrap 1))
  else match threadAt? s h (fld g 29 24) with
    | none => .error (.trap (islandTrap 12))
    | some p =>
      if presides me (blockTenant s h) = false then .error (.trap (islandTrap 2))
      else if debugAllowed s (worldOf s (blockTenant s h)) = false then .error (.trap (islandTrap 10))
      else .ok p
/-- A context switched out and Halted (R493); one whose image cannot be written is Trapped and marked (R142). -/
def haltContext (s : State) (t c : Nat) : State :=
  let x := s.ctx t c
  let r := switchOut (s.setCtx t c { leaveSlot x with state := .halted, why := .none, marked := false }) t c
  match r.2 with
  | some f => trapImage (r.1.setCtx t c { r.1.ctx t c with marked := true }) t c f
  | none => slotFreed (dropAccs r.1 t c) t
/-- A context that waits after its calm switched out under a dhalt: it stays calm, and becomes Halted when its wait has ended (Table 14.12). -/
def calmHalt (s : State) (t c : Nat) : State :=
  let x := s.ctx t c
  if x.state ≠ .issuing then s
  else
    let r := switchOut (s.setCtx t c { leaveSlot x with state := .queued, calm := true }) t c
    match r.2 with
    | some f => trapImage (r.1.setCtx t c { r.1.ctx t c with marked := true }) t c f
    | none => slotFreed r.1 t
/-- dhalt (R493). -/
def dhaltBody (b : Reg) (i k : Nat) (s : State) : Except Stop State :=
  match debugTarget s i k b with
  | .error e => .error e
  | .ok (t, c) =>
    let x := s.ctx t c
    if movingTile s t then .error .wait
    else if x.calm then .error (.kept (calmHalt s t c) none)
    else match x.state with
      | .halted => .ok s.retire
      | .dormant => .ok (s.setCtx t c { x with marked := true }).retire
      | .trapped => .ok (s.setCtx t c { x with marked := true })
      | .issuing =>
        (match boundary s t c with
         | some s => .ok (haltContext s t c)
         | none => .error .wait)
      | .queued => .ok (haltContext s t c)
      | .setAside => .ok (haltContext s t c)
      | _ => .error .wait
/-- dhalt gB (R493): it issues again until the context is Halted. -/
def execDhalt (b : Reg) (s : State) : Host.Outcome State Fault Refusal := runPriv engIsland 11 2 (some 3) s (dhaltBody b)
/-- The step that a core's dstep set off has ended: the context is no longer on its way to an instruction or in one. -/
def stepEnded (s : State) (i k : Nat) (b : Reg) : Bool :=
  let g := s.getG b
  match threadAt? s (fromViewHandle s (coreTenant (s.core i k)) (fld g 23 0)) (fld g 29 24) with
  | none => true
  | some (t, c) => let st := (s.ctx t c).state; st == .halted || st == .dormant || st == .trapped
/-- dstep begun: line 2 of the image is taken up, STEP set, the context Queued (R494). Table 5.10 takes a stepped context from Halted to
Issuing; that it stands Queued until a slot is free is the model's choice (DESIGN CHOICE, log entry 100). -/
def beginStep (s : State) (i k t c : Nat) : State :=
  match fillLine s t c 2 with
  | .error f => (trapImage (s.setCtx t c { s.ctx t c with marked := true }) t c f).retire
  | .ok s =>
    let x := s.ctx t c
    let s := enqueue s t c { x with regs := { x.regs with status := setBit x.regs.status 7 true }, dirty := x.dirty ∪ [2] }
    s.setCore i k { s.core i k with waiting := true }
/-- dstep (R494): it waits until the step has ended. -/
def dstepBody (b : Reg) (i k : Nat) (s : State) : Except Stop State :=
  let c := s.core i k
  if c.waiting then
    if stepEnded s i k b then .ok (s.setCore i k { c with waiting := false }).retire else .error .wait
  else match debugTarget s i k b with
    | .error e => .error e
    | .ok (t, x) =>
      if (s.ctx t x).state ≠ .halted then .error (.trap (islandTrap 9))
      else if movingTile s t then .error .wait
      else .ok (beginStep s i k t x)
/-- dstep gB (R494). -/
def execDstep (b : Reg) (s : State) : Host.Outcome State Fault Refusal := runPriv engIsland 12 2 (some 3) s (dstepBody b)
/-- Image lines of a context taken up in order, or the fault of the first that cannot be. -/
def fillLines (s : State) (t c : Nat) (l : List Nat) : Except Trap State :=
  l.foldl (fun acc k => match acc with | .ok s => fillLine s t c k | e => e) (.ok s)
/-- A Halted context Queued; an abort or squash that was deferred takes effect (R495). -/
def resumeHalted (s : State) (t c : Nat) : State :=
  let x := s.ctx t c
  match x.deferred, x.task with
  | some squash, some k =>
    (match fillLines s t c [2, 3] with
     | .error f => trapImage s t c f
     | .ok s => discardTasks (enqueue s t c { s.ctx t c with deferred := none, marked := false }) [(k, if squash then .requeue else .restart)])
  | _, _ => enqueue s t c { x with deferred := none, marked := false }
/-- dresume gB (R495). -/
def execDresume (b : Reg) (s : State) : Host.Outcome State Fault Refusal :=
  runPriv engIsland 13 2 (some 3) s fun i k s =>
    match debugTarget s i k b with
    | .error e => .error e
    | .ok (t, c) =>
        let x := s.ctx t c
        .ok (if x.state = .halted then resumeHalted s t c else s.setCtx t c { x with marked := false }).retire

end Sys2Proof.Machine
end

