-- ==== Sys2Proof/Machine/Contexts.lean ====
section
/-! DEFINITION. What happens to contexts beside their instructions (R139-R150, R230, R231, R305, R306, R397, R398, R454): code-line fetch, issue
slots, image fills, pauses, resume packets. -/

namespace Sys2Proof.Machine

/-! ## Fetch and fills -/

/-- Has an agent an instruction to fetch: a thread in its slot, a core that executes, an Active movement program. -/
def fetches (s : State) : Agent → Bool
  | .thread t c => let x := s.ctx t c; x.state == .issuing && x.slot.isSome && x.awaiting.isNone
  | .core i k => let c := s.core i k; !c.idle && !c.stopped
  | .zephyr t zc => match s.zreqOf? t zc with | some r => r.state == .active && r.isProgram | none => false
/-- A code fetch of a movement program that passes its faulted page ends the re-fault count (R293). -/
def passCode (s : State) (a : Agent) (pc : Nat) : State :=
  match a with
  | .zephyr t zc => (match s.zreqOf? t zc with
    | some r => if onFaultPage r pc ((r.faultPage.map Prod.snd).getD 4096) then s.setZreq t (passed r) else s
    | none => s)
  | _ => s
/-- CODE_LINE_FETCH (R47-R49): the line at the agent's PC arrives, or the fetch traps at it; one whose head is lost leaves its agent waiting (R341,
R349; log entry 47). -/
def codeFetchBody (s : State) (a : Agent) : State :=
  let pc := (s.regsOf a).pc
  if (fetches s a && inEdgeWindow pc.toNat) = false then s
  else match readCodeLine s a pc.toNat with
    | .ok (l, some pl, s') =>
      let e := edgeHead s' (siteTile (siteOf a)) (senderOf s' a) (pl * 64)
      if e.2 then passCode (installLine e.1 a pc.toNat pl l) a pc.toNat else hang e.1 a
    | .ok (_, none, _) => s
    | .error f => asAgent a (fun s => raise s { xTrap f .exec pc with engine := engScalar }) s
/-- CODE_LINE_FETCH (R49). -/
def execCodeLineFetch (ag : Agent) (s : State) : Host.Outcome State Fault Refusal := .next (codeFetchBody s ag)
/-- The lowest of a tile's eight issue slots that is free. -/
def freeSlot? (s : State) (t : Nat) : Option Nat := (List.range 8).find? fun k => !s.ctxs.any fun p => p.1.1 == t && p.2.slot == some k
/-- May a Queued context take a slot: its tenant's slice, no Clearance of its region that keeps it out, no Drift move (R440,
R446, R455); not while it waits after a calm, nor a slice that a move in Calming keeps waiting (Table 14.12). -/
def mayTakeSlot (s : State) (t : Nat) (x : Ctx) : Bool :=
  x.state == .queued && sliceAllows s t (blockTenant s x.handle) && clearanceAllows s t x.task && !movingTile s t && !x.calm && !calmHeld s t
/-- The context that takes the next slot: the longest queued (Table 5.10). -/
def nextQueued? (s : State) (t : Nat) : Option Nat :=
  (((s.ctxs.filter fun p => p.1.1 == t && mayTakeSlot s t p.2).mergeSort fun a b =>
    decide (a.2.queuedAt < b.2.queuedAt ∨ (a.2.queuedAt = b.2.queuedAt ∧ a.2.tid ≤ b.2.tid))).head?).map fun p => p.1.2
/-- Can a slot be taken now. -/
def slotReady (s : State) (t : Nat) : Bool := (freeSlot? s t).isSome && (nextQueued? s t).isSome
/-- ISSUE_SLOT_TAKEN (Table 5.10): the context is Issuing, and what its image must supply becomes due. -/
def slotTakenBody (s : State) (t : Nat) : State :=
  match freeSlot? s t, nextQueued? s t with
  | some k, some c =>
    let s := s.setCtx t c { s.ctx t c with state := .issuing, slot := some k }
    let s := fillsDue (if resident s t c 2 then clampSlice s t c else s) t c
    if (nextQueued? s t).isSome then s.addDueOnce (.issueSlotTaken t) else s
  | _, _ => s
/-- ISSUE_SLOT_TAKEN (R147). -/
def execIssueSlotTaken (tile : Nat) (s : State) : Host.Outcome State Fault Refusal := .next (slotTakenBody s tile)
/-- REGISTER_CACHE_FILL (R144): a line of a context in a slot arrives; one that cannot be translated stops the thread (R142). With line 2
STATUS is there, and SLICECLAMP set if its slice is clamped (R457). -/
def cacheFillBody (s : State) (t c k : Nat) : State :=
  if (s.ctx t c).slot.isNone then s
  else match fillLine s t c k with
    | .ok s => if k = 2 then clampSlice s t c else s
    | .error f => trapImage s t c f
/-- REGISTER_CACHE_FILL (R144). -/
def execRegisterCacheFill (tile ctx line : Nat) (s : State) : Host.Outcome State Fault Refusal := .next (cacheFillBody s tile ctx line)
/-- The bits of MCFG that are not reserved (Table 10.5). -/
def mcfgMask : Nat := 0x07FF03FF
/-- Live bits and modes of MSTATE over the accumulators (Table 10.3), and MCFG; reserved bits read as zero whatever the image holds (R14). -/
def withMstate (m : MatState) (st cfg : Nat) : MatState :=
  { a := Vector.ofFn fun k => { m.a[k] with live := fieldN st k.val k.val == 1, mode := fieldN st (17 + 2 * k.val) (16 + 2 * k.val) }, mcfg := cfg &&& mcfgMask }
/-- The vector state of an extension fill (R231), from the working half or, after a restart, from the checkpoint half. -/
def fillVector (s : State) (t c : Nat) : Except Trap State :=
  let x := s.ctx t c
  if anchored x = false ∨ x.extResident = true then .ok s
  else match readImage s t c x.vimg 4 (if x.fromCkpt then 1024 else 0) 1024 with
    | .error f => .error f
    | .ok (b, s) => .ok (beatsDue (s.setCtx t c { x with vec := vectorOf b x.vec, extResident := true }) t c)
/-- MSTATE and MCFG of the working image (R306); an accumulator's elements arrive when it is claimed (R305). -/
def fillMatrix (s : State) (t c : Nat) : Except Trap State :=
  let x := s.ctx t c
  if x.matResident then .ok s
  else match readImage s t c x.mimg 64 16384 16 with
    | .error f => .error f
    | .ok (b, s) => .ok (s.setCtx t c { x with mat := withMstate x.mat (leAt b 0 8) (leAt b 8 8), matResident := true })
/-- Bytes of the matrix extension image copied from the checkpoint half to the working half. -/
def copyBack (s : State) (t c off n : Nat) : Except Trap State :=
  let x := s.ctx t c
  match readImage s t c x.mimg 64 (16448 + off) n with
  | .error f => .error f
  | .ok (b, s) => match writeImage s t c x.mimg 64 off b with
    | (_, some f) => .error f
    | (s, none) => .ok s
/-- The halves of accumulators copied in turn. -/
def copyAccs (t c : Nat) : List Nat → State → Except Trap State
  | [], s => .ok s
  | k :: r, s => match copyBack s t c (4096 * k) 4096 with
    | .error f => .error f
    | .ok s => copyAccs t c r s
/-- The matrix state of a restart reloaded from the checkpoint half (R306): MSTATE and MCFG, and the accumulators that MSTATE has Live. -/
def reloadMatrix (s : State) (t c : Nat) : Except Trap State :=
  if (s.ctx t c).fromCkpt = false then .ok s
  else match copyBack s t c 16384 64 with
    | .error f => .error f
    | .ok s => match fillMatrix (s.setCtx t c { s.ctx t c with matResident := false }) t c with
      | .error f => .error f
      | .ok s =>
        let live := [0, 1, 2, 3].filter fun k => ((s.ctx t c).mat.a.toList.getD k {}).live
        match copyAccs t c live s with
        | .error f => .error f
        | .ok s => .ok (s.setCtx t c { s.ctx t c with fromCkpt := false })
/-- EXTENSION_IMAGE_FILL (R231, R306). -/
def extensionBody (s : State) (t c : Nat) : State :=
  if (s.ctx t c).slot.isNone then s
  else match fillVector s t c with
    | .error f => trapImage s t c f
    | .ok s => match reloadMatrix s t c with
      | .error f => trapImage s t c f
      | .ok s => match fillMatrix s t c with
        | .error f => trapImage s t c f
        | .ok s => s
/-- EXTENSION_IMAGE_FILL (R231). -/
def execExtensionImageFill (tile ctx : Nat) (s : State) : Host.Outcome State Fault Refusal := .next (extensionBody s tile ctx)
/-- PAUSE_EXPIRY (R160). -/
def execPauseExpiry (tile ctx : Nat) (s : State) : Host.Outcome State Fault Refusal :=
  let x := s.ctx tile ctx
  .next (if x.pause ≤ s.cycle then s.setCtx tile ctx { x with pause := 0 } else s.addDueOnce (.pauseExpiry tile ctx))

/-! ## Resume packets (R139, R398, R454, R485, R493) -/

/-- The context that a packet of a tenant reaches, in a state that answers packets; the block is live and the tenant presides over it. -/
def packetTarget? (s : State) (tenant h tid : Nat) : Option (Nat × Nat) :=
  if presides tenant (blockTenant s h) then threadAt? s h tid else none
/-- Must a packet wait: its block is Evicted, or on a tile that is moving (R440, R449). -/
def packetWaits (s : State) (h : Nat) : Bool := match liveBlock? s h with | some b => b.evicted || movingTile s b.tile | none => false
/-- A Trapped context with lines 2 and 3 of its image taken up, and BUDGETLEFT renewed after BUDGET (R139, R397). -/
def takeUp (s : State) (t c : Nat) : Except Trap State :=
  match fillLines s t c [2, 3] with
  | .error f => .error f
  | .ok s =>
    let x := s.ctx t c
    let b := match x.task.bind s.task? with | some k => taskBudget s k | none => x.remain
    .ok (s.setCtx t c { x with remain := if fld x.regs.trcause 7 0 = 0x20 then b else x.remain })
/-- A context continued with registers r: Queued, or Halted when it is marked (R493); Dormant when IMAGEFAULT stopped it without a task. -/
def continueWith (s : State) (t c : Nat) (r : Regs) : State :=
  let x := s.ctx t c
  let r := { r with status := if x.marked then setBit r.status 7 false else r.status }
  let y := { x with regs := r, dirty := x.dirty ∪ [2] }
  if x.task.isNone then s.setCtx t c { y with state := .dormant, why := .none }
  else if x.marked then haltContext (s.setCtx t c y) t c
  else enqueue s t c y
/-- A resume packet acted on: what it does to a Trapped context; a packet for another state is dropped (R139). -/
def onTrapped (s : State) (tenant h tid : Nat) (packet : Instr) (f : State → Nat → Nat → State) : State :=
  if packetWaits s h then s.addDueOnce packet
  else match packetTarget? s tenant h tid with
    | some (t, c) => if (s.ctx t c).state = .trapped then f s t c else s
    | none => s
/-- What a packet does once the image lines it needs have been taken up; a fill that fails is IMAGEFAULT. -/
def afterTakeUp (s : State) (t c : Nat) (f : State → State) : State :=
  match takeUp s t c with
  | .error e => trapImage s t c e
  | .ok s => f s
/-- RESUME (Table 5.7). -/
def execResume (tenant handle tid : Nat) (s : State) : Host.Outcome State Fault Refusal :=
  .next (onTrapped s tenant handle tid (.resume tenant handle tid) fun s t c =>
    afterTakeUp s t c fun s => let r := (s.ctx t c).regs; continueWith s t c { r with pc := w64 (addrOf r.trpc) })
/-- Redirect refused (Table 5.7): BADTARGET with NESTED set, TRINFO the TVEC. TRPC stays that of the first trap (DESIGN CHOICE, log entry 30:
the table gives it no value). -/
def refuseRedirect (s : State) (t c : Nat) : State :=
  let x := s.ctx t c
  let r := { x.regs with trcause := causeWord true engScalar 0x03, traddr := 0, trinfo := pcField x.regs.tvec }
  let w := switchOut (s.setCtx t c { x with regs := r, dirty := x.dirty ∪ [3] }) t c
  match w.2 with
  | some f => trapImage w.1 t c f
  | none => sendTrap w.1 t c 0x03 0 false
/-- Does Redirect go ahead: NESTED 0 and TVEC a valid target (Table 5.7). -/
def redirectAllowed (s : State) (t c : Nat) : Bool :=
  let r := (s.ctx t c).regs
  !bitOf r.trcause 16 && (match checkTarget s (.thread t c) r.trpc (addrOf r.tvec) with | .ok _ => true | .error _ => false)
/-- REDIRECT (Table 5.7). -/
def execRedirect (tenant handle tid : Nat) (s : State) : Host.Outcome State Fault Refusal :=
  .next (onTrapped s tenant handle tid (.redirect tenant handle tid) fun s t c =>
    afterTakeUp s t c fun s =>
      let r := (s.ctx t c).regs
      if redirectAllowed s t c then continueWith s t c { r with pc := pcField r.tvec, status := setBit r.status 6 true } else refuseRedirect s t c)
/-- HALT (Table 5.7, R493): Halted with PC = TRPC. -/
def execHalt (tenant handle tid : Nat) (s : State) : Host.Outcome State Fault Refusal :=
  .next (onTrapped s tenant handle tid (.halt tenant handle tid) fun s t c =>
    afterTakeUp s t c fun s =>
      let x := s.ctx t c
      let r := x.regs
      haltContext (s.setCtx t c { x with
        regs := { r with pc := w64 (addrOf r.trpc), status := setBit r.status 7 false }, dirty := x.dirty ∪ [2] }) t c)
/-- A context's task discarded for good; without one the context is Dormant. -/
def discardContext (s : State) (t c : Nat) : State :=
  let x := s.ctx t c
  match x.task with
  | some k => discardTasks s [(k, .gone)]
  | none => slotFreed (dropAccs (s.setCtx t c { leaveSlot x with state := .dormant, why := .none }) t c) t
/-- DISCARD (Table 5.7, R398, R454): of a Trapped context, or of one Set aside by a handover. -/
def execDiscard (tenant handle tid : Nat) (s : State) : Host.Outcome State Fault Refusal :=
  .next (if packetWaits s handle then s.addDueOnce (.discard tenant handle tid)
    else match packetTarget? s tenant handle tid with
      | some (t, c) =>
        let x := s.ctx t c
        if x.state = .trapped ∨ (x.state = .setAside ∧ x.why = .handover) then discardContext s t c else s
      | none => s)
/-- PRESENT (R454): a context Set aside by a handover is Queued and resumes at TRPC. -/
def execPresent (tenant handle tid : Nat) (s : State) : Host.Outcome State Fault Refusal :=
  .next (if packetWaits s handle then s.addDueOnce (.present tenant handle tid)
    else match packetTarget? s tenant handle tid with
      | some (t, c) =>
        let x := s.ctx t c
        if x.state = .setAside ∧ x.why = .handover then
          afterTakeUp s t c fun s =>
            let x := s.ctx t c
            enqueue s t c { x with regs := { x.regs with pc := pcField x.regs.trpc }, dirty := x.dirty ∪ [2] }
        else s
      | none => s)

/-! ## Which threads may issue -/

/-- A thread that may issue: its slot, its image, its waits (R147, R150, R160), Drift (R439), Clearance (R446), its slice (R455), its budget
(R398). -/
def threadReady (s : State) (t c : Nat) : Bool :=
  let x := s.ctx t c
  x.state == .issuing && x.slot.isSome && x.pause == 0 && x.awaiting.isNone && !x.stepDone && [0, 1, 2, 3].all (resident s t c) &&
    !x.calm && !calmHeld s t && !(anchored x && !x.extResident) && x.matResident && !x.fromCkpt && !budgetDue s t c && !movingTile s t && clearanceAllows s t x.task &&
    !(sliced s (clusterOf t) && (sliceOver s t || blockTenant s x.handle != sliceTenant s t))

end Sys2Proof.Machine
end

