-- ==== Sys2Proof/Machine/Sm2.lean ====
section
/-! DEFINITION. The SM2 signature of R503, R510, R513 and R514: over the recommended 256-bit curve, with SM3. The spec names the algorithm; curve and
computation are the standard's (log entry 22). -/

namespace Sys2Proof.Machine

/-! ## The curve -/

/-- The prime of the field. -/
def sm2P : Nat := 0xFFFFFFFEFFFFFFFFFFFFFFFFFFFFFFFFFFFFFFFF00000000FFFFFFFFFFFFFFFF
/-- The coefficient a of the curve. -/
def sm2A : Nat := sm2P - 3
/-- The coefficient b of the curve. -/
def sm2B : Nat := 0x28E9FA9E9D9F5E344D5A9E4BCF6509A7F39789F515AB8F92DDBCBD414D940E93
/-- The order n of the group. -/
def sm2N : Nat := 0xFFFFFFFEFFFFFFFFFFFFFFFFFFFFFFFF7203DF6B21C6052B53BBF40939D54123
/-- A point of the curve by its coordinates; none at infinity. -/
abbrev Point := Option (Nat × Nat)
/-- The generator. -/
def sm2G : Point :=
  some (0x32C4AE2C1F1981195F9904466A39C9948FE30BBFF2660BE1715A4589334C74C7, 0xBC3736A2F4F6779C59BDCEE36B692153D0A9877CC62A474002DF32E52139F0A0)
/-- A power modulo m; the fuel is the number of the exponent's bits. -/
def powMod (m : Nat) : Nat → Nat → Nat → Nat
  | 0, _, _ => 1 % m
  | f + 1, b, e =>
    let r := powMod m f (b * b % m) (e / 2)
    if e % 2 = 1 then b * r % m else r
/-- The inverse modulo a prime below 2^256. -/
def invMod (m x : Nat) : Nat := powMod m 256 (x % m) (m - 2)
/-- The difference modulo m of residues. -/
def subMod (m x y : Nat) : Nat := (x + (m - y % m)) % m
/-- The third point of a line of slope l through points with abscissas x₁ and x₂, the first at height y₁, reflected. -/
def chord (l x₁ y₁ x₂ : Nat) : Point :=
  let x := subMod sm2P (subMod sm2P (l * l) x₁) x₂
  some (x, subMod sm2P (l * subMod sm2P x₁ x) y₁)
/-- The sum of two points. -/
def pointAdd : Point → Point → Point
  | none, q => q
  | p, none => p
  | some (x₁, y₁), some (x₂, y₂) =>
    if x₁ = x₂ then
      if (y₁ + y₂) % sm2P = 0 then none
      else chord ((3 * x₁ * x₁ + sm2A) * invMod sm2P (2 * y₁) % sm2P) x₁ y₁ x₂
    else chord (subMod sm2P y₂ y₁ * invMod sm2P (subMod sm2P x₂ x₁) % sm2P) x₁ y₁ x₂
/-- A multiple of a point; the fuel is the number of the factor's bits. -/
def pointMul : Nat → Nat → Point → Point
  | 0, _, _ => none
  | f + 1, k, p =>
    let q := pointMul f (k / 2) (pointAdd p p)
    if k % 2 = 1 then pointAdd p q else q
/-- The public key of a private key. -/
def publicKey (d : Nat) : Point := pointMul 256 d sm2G

/-! ## Signatures -/

/-- The coordinates of a point, each as 32 bytes. -/
def pointBytes : Point → List Byte
  | some (x, y) => beBytes 32 x ++ beBytes 32 y
  | none => List.replicate 64 0
/-- The digest that is signed: of a message under a signer's identity and public key. -/
def sm2Digest (id : List Byte) (pub : Point) (m : List Byte) : Nat :=
  let z := sm3 (beBytes 2 (8 * id.length) ++ id ++ beBytes 32 sm2A ++ beBytes 32 sm2B ++ pointBytes sm2G ++ pointBytes pub)
  beNat (sm3 (z ++ m))
/-- The signature of a digest with a private key and a nonce from 1 to n - 1; none where another nonce has to be drawn. -/
def sm2Try (d e k : Nat) : Option (Nat × Nat) :=
  match pointMul 256 k sm2G with
  | none => none
  | some (x, _) =>
    let r := (e + x) % sm2N
    let s := invMod sm2N (1 + d) * subMod sm2N k (r * d) % sm2N
    if r = 0 ∨ r + k = sm2N ∨ s = 0 then none else some (r, s)
/-- The signature with the first nonce that gives one. -/
def sm2Sign (id : List Byte) (d : Nat) (m : List Byte) (nonces : List Nat) : Nat × Nat :=
  (nonces.findSome? fun k => sm2Try d (sm2Digest id (publicKey d) m) (k % (sm2N - 1) + 1)).getD (0, 0)
/-- Does a signature verify. -/
def sm2Verify (id : List Byte) (pub : Point) (m : List Byte) (r s : Nat) : Bool :=
  let t := (r + s) % sm2N
  decide (0 < r) && decide (r < sm2N) && decide (0 < s) && decide (s < sm2N) && t != 0 &&
    (match pointAdd (pointMul 256 s sm2G) (pointMul 256 t pub) with
     | some (x, _) => (sm2Digest id pub m + x) % sm2N == r
     | none => false)

end Sys2Proof.Machine
end

