-- ==== Sys2Proof/Machine/Trust.lean ====
section
/-! DEFINITION. The trust engine (R500-R523): worlds, sealing and unsealing, evidence, rekey sweeps, measurements. -/

namespace Sys2Proof.Machine

/-- TRUST with a reason (R522). -/
def trustTrap (reason : Nat) : Trap := { code := 0x24, engine := engTrust, info := w64 reason }

/-! ## wsw (R501, R518) -/

/-- Is a partition in use (R518): a live or Evicted block or a bound function of it or one of its slices, a core that runs as it, a block of
any other tenant on its clusters. -/
def partitionBusy (s : State) (p : Nat) (cs : List Nat) : Bool :=
  (s.blocks.any fun b => b.2.live && (partTenant b.2.tenant == p || (!b.2.evicted && cs.contains (clusterOf b.2.tile)))) ||
  (s.vfs.any fun f => partTenant f.2 == p) ||
  s.cores.any fun c => partTenant (coreTenant c.2) == p
/-- wsw (R518). -/
def wswBody (b : Reg) (_i _k : Nat) (s : State) : Except Stop State :=
  let g := s.getG b
  let p := fld g 23 12 * 4096
  let cs := ((regionRect s p).toList.flatMap rectClusters).dedup
  if fld g 62 24 ≠ 0 ∨ fld g 11 0 ≠ 0 then .error (.trap (trustTrap 1))
  else if p = 0 then .error (.trap (trustTrap 5))
  else if partitionBusy s p cs then .error (.trap (trustTrap 3))
  else match changeWorlds s (s.setTenant p { s.tenant p with secure := bitOf g 63 }) cs with
    | .error e => .error e
    | .ok s => .ok s.retire
/-- wsw gB (R518). -/
def execWsw (b : Reg) (s : State) : Host.Outcome State Fault Refusal := runPriv engTrust 16 0 none s (wswBody b)

/-! ## seal and unseal (R508, R519, R520) -/

/-- Do two ranges of addresses overlap. -/
def rangesOverlap (a n b m : Nat) : Bool := decide (0 < n) && decide (0 < m) && decide (a < b + m) && decide (b < a + n)
/-- A pointer moved on by n bytes. -/
def ptrAt (p : Word) (n : Nat) : Word := withAddr p (addrOf p + n)
/-- Accesses that may fault halfway: the state they have reached, and the stop. -/
abbrev Partial := Except (State × Stop) State
/-- The chunks of an object written from chunk i on after MAC m; p is the place of the next (R519). -/
def sealFrom (q : Req) (src dst : Word) (enc : Nat) (mac nonce : List Byte) (l n : Nat) : Nat → Nat → Nat → List Byte → State → Partial
  | 0, _, _, _, s => .ok s
  | f + 1, i, p, m, s =>
    let len := min 65536 (l - 65536 * i)
    match coreLoad s q (ptrAt src (65536 * i)) len with
    | .error e => .error (s, e)
    | .ok (b, s) =>
      let c := cryptChunk enc nonce i b
      let m := chunkMac mac m c i n
      match coreStore s q (ptrAt dst p) c with
      | .error e => .error (s, e)
      | .ok s => match coreStore s q (ptrAt dst (p + len)) m with
        | .error e => .error (s, e)
        | .ok s => sealFrom q src dst enc mac nonce l n f (i + 1) (p + len + 32) m s
/-- The whole object of l bytes of tenant t written (R519). -/
def sealRun (q : Req) (src dst : Word) (t l : Nat) (s : State) : Partial :=
  let w := worldOf s t
  let d := s.wafer.dstate
  let (nonce, s) := randomBytes s
  let h := sealHeader t w d l nonce
  let mac := sealMac w d t
  let m := hmacSm3 mac h
  match coreStore s q dst h with
  | .error e => .error (s, e)
  | .ok s => match coreStore s q (ptrAt dst 64) m with
    | .error e => .error (s, e)
    | .ok s => sealFrom q src dst (sealEnc w d t) mac nonce l (chunkCount l) (chunkCount l) 0 96 m s
/-- What such a run does to its instruction: a fault keeps what was written, a wait keeps nothing (R517). -/
def endPartial (r : Partial) (done : State → State) : Except Stop State :=
  match r with
  | .ok s => .ok (done s)
  | .error (s, .trap tr) => .ok (raise s { tr with engine := engTrust })
  | .error (_, e) => .error e
/-- seal (R519). -/
def sealBody (a b c : Reg) (i k : Nat) (s : State) : Except Stop State :=
  let g := s.getG a
  let l := fld g 31 0
  let t := fld g 55 32
  let q := coreReq s i k
  let src := s.getG b
  let dst := s.getG c
  if fld g 63 56 ≠ 0 then .error (.trap (trustTrap 1))
  else if presides q.tenant t = false then .error (.trap (trustTrap 2))
  else if rangesOverlap (addrOf src) l (addrOf dst) (sealedLength l) then .error (.trap (trustTrap 4))
  else endPartial (sealRun q src dst t l s) (alu a (w64 (sealedLength l)))
/-- seal gA, gB, gC (R519). -/
def execSealMem (a b c : Reg) (s : State) : Host.Outcome State Fault Refusal := runPriv engTrust 17 2 none s (sealBody a b c)

/-- BADFORMAT of R520. -/
def badFormat : Word := 0x8000000000000001
/-- TOOSMALL. -/
def tooSmall : Word := 0x8000000000000003
/-- BADMAC of chunk i. -/
def badMac (i : Nat) : Word := w64 (0x8000000000000002 + i % 2 ^ 55 * 2 ^ 8)
/-- Chunks from i on deciphered to their destination, each after its MAC; a chunk that fails is answered by its number (R508). -/
def unsealFrom (q : Req) (src dst : Word) (enc : Nat) (mac nonce : List Byte) (l n : Nat) :
    Nat → Nat → Nat → List Byte → State → Except (State × Stop) (State × Option Nat)
  | 0, _, _, _, s => .ok (s, none)
  | f + 1, i, p, m, s =>
    let len := min 65536 (l - 65536 * i)
    match coreLoad s q (ptrAt src p) (len + 32) with
    | .error e => .error (s, e)
    | .ok (b, s) =>
      let c := b.take len
      let m := chunkMac mac m c i n
      if m ≠ b.drop len then .ok (s, some i)
      else match coreStore s q (ptrAt dst (65536 * i)) (cryptChunk enc nonce i c) with
        | .error e => .error (s, e)
        | .ok s => unsealFrom q src dst enc mac nonce l n f (i + 1) (p + len + 32) m s
/-- The first n chunks of a destination overwritten with zero (R508). -/
def zeroChunks (q : Req) (dst : Word) : Nat → State → Partial
  | 0, s => .ok s
  | n + 1, s => match zeroChunks q dst n s with
    | .error e => .error e
    | .ok s => match coreStore s q (ptrAt dst (65536 * n)) (List.replicate 65536 0) with
      | .error e => .error (s, e)
      | .ok s => .ok s
/-- The object behind a header checked and deciphered; what gA becomes. -/
def unsealRun (q : Req) (src dst : Word) (t cap : Nat) (h : List Byte) (s : State) : Except (State × Stop) (Word × State) :=
  let w := worldOf s t
  let d := s.wafer.dstate
  let l := leAt h 16 8
  if sealHeaderOk t w d h = false then .ok (badFormat, s)
  else if cap < l then .ok (tooSmall, s)
  else
    let n := chunkCount l
    match unsealFrom q src dst (sealEnc w d t) (sealMac w d t) ((h.drop 32).take 32) l n n 0 96 (h.drop 64) s with
    | .error e => .error e
    | .ok (s, none) => .ok (w64 l, s)
    | .ok (s, some i) => match zeroChunks q dst i s with
      | .error e => .error e
      | .ok s => .ok (badMac i, s)
/-- unseal (R520). -/
def unsealBody (a b c : Reg) (i k : Nat) (s : State) : Except Stop State :=
  let g := s.getG a
  let cap := fld g 31 0
  let t := fld g 55 32
  let q := coreReq s i k
  let src := s.getG b
  let dst := s.getG c
  if fld g 63 56 ≠ 0 then .error (.trap (trustTrap 1))
  else if presides q.tenant t = false then .error (.trap (trustTrap 2))
  else if rangesOverlap (addrOf src) 96 (addrOf dst) cap then .error (.trap (trustTrap 4))
  else match coreLoad s q src 96 with
    | .error e => .error e
    | .ok (h, s) =>
      match unsealRun q src dst t cap h s with
      | .error e => endPartial (.error e) id
      | .ok (v, s) => .ok (alu a v s)
/-- unseal gA, gB, gC (R520). -/
def execUnsealMem (a b c : Reg) (s : State) : Host.Outcome State Fault Refusal := runPriv engTrust 18 2 none s (unsealBody a b c)

/-! ## Evidence (R513, R514, R521) -/

/-- The islands of the host ports (R532). -/
def portIsland (h : Nat) : Nat := 2 * hostController h
/-- The port of a function: 32 virtual functions a port, then the physical functions (R531). -/
def functionPort (f : Nat) : Nat := if f < 128 then f / 32 else f - 128
/-- The tenant of a function's work: tenant 0 for a physical function, none for an unbound one (R531). -/
def functionTenant (s : State) (f : Nat) : Option Nat := if 128 ≤ f then some 0 else mget? s.vfs f
/-- RIGHTS of a tenant at an island, all of tenant 0. -/
def rightsOf (s : State) (i t : Nat) : Nat := if t = 0 then rightsMask else recFld (agentRecord s i t) 415 400
/-- MVF (Table 16.4). -/
def functionDigest (s : State) (f : Nat) : List Byte :=
  let t := (functionTenant s f).getD 0
  sm3 (Config.functionConfig f t ((regionRect s t).getD 0) (rightsOf s (portIsland (functionPort f)) t))
/-- The first 192 bytes of an evidence record, which hardware fills (Table 16.4). -/
def evidenceHead (s : State) (f : Nat) : List Byte :=
  let t := functionTenant s f
  let world := match t with | some t => boolNat (worldOf s t) | none => 0xFF
  toBytes 4 0x0001E71D ++ toBytes 1 f ++ toBytes 1 (gradeOf s) ++ toBytes 1 s.wafer.dstate ++ toBytes 1 world ++ toBytes 4 (t.getD 0) ++
    toBytes 2 (arbCount s) ++ toBytes 2 (retCount s) ++ digest32 Config.romDigest ++ digest32 Config.firmwareDigest ++ digest32 s.wafer.mkern ++
    functionDigest s f ++ sm3 (retiredBitmap s) ++ toBytes 16 Config.deviceId
/-- The SM2 private key of a label (R503): d := (KDF(DRK, label) mod (n - 1)) + 1. -/
def privateKey (l : List Byte) : Nat := fromBytes (kdf Config.deviceRootKey 32 l) % (sm2N - 1) + 1
/-- DAK. -/
def deviceKey : Nat := privateKey (label "dak")
/-- VFK(f). -/
def functionKey (f : Nat) : Nat := privateKey (label "vf" ++ toBytes 1 f)
/-- The 64 bytes r, s of a signature with DEVID as the signer's identity; its random numbers are drawn by counter n and number f (log entry 22). -/
def signed (d n f : Nat) (b : List Byte) : List Byte :=
  let r := sm2Sign (toBytes 16 Config.deviceId) d b ((List.range 64).map fun k => Config.sm2Nonce n (64 * f + k))
  toBytes 32 r.1 ++ toBytes 32 r.2
/-- The evidence record of a function with 32 bytes of the caller, signed with VFK(f) (R514), and the state after its random numbers are drawn. -/
def evidence (s : State) (f : Nat) (user : List Byte) : List Byte × State :=
  let b := evidenceHead s f ++ digest32 user
  (b ++ signed (functionKey f) s.freeCtr f b, { s with freeCtr := s.freeCtr + 1 })
/-- The certificate chain of a function (R513): the provisioning certificate of DAK, then that of VFK(f), which DAK has signed at boot. -/
def certificateChain (s : State) (f : Nat) : List Byte :=
  let b := Config.certificateBody f (pointBytes (publicKey (functionKey f)))
  Config.provisioning ++ b ++ signed deviceKey s.wafer.certAt f b
/-- evsign (R521). -/
def evsignBody (a b c : Reg) (i k : Nat) (s : State) : Except Stop State :=
  let g := s.getG a
  let f := fld g 6 0
  let q := coreReq s i k
  if fld g 63 7 ≠ 0 then .error (.trap (trustTrap 1))
  else if presides q.tenant (boundTenant s f) = false then .error (.trap (trustTrap 2))
  else match coreLoad s q (s.getG b) 32 with
    | .error e => .error e
    | .ok (user, s') =>
      let r := evidence s' f user
      match coreStore r.2 q (s.getG c) r.1 with
      | .error e => .error e
      | .ok s => .ok (alu a 0 s)
/-- evsign gA, gB, gC (R521). -/
def execEvsign (a b c : Reg) (s : State) : Host.Outcome State Fault Refusal := runPriv engTrust 19 1 none s (evsignBody a b c)

/-- An SPDM answer recorded for the host: code 0 with its bytes, code 1 before READY (R513). -/
def answerHost (s : State) (f : Nat) (bytes : List Byte) : State :=
  { s with replies := s.replies ++ [if s.wafer.ready then { fn := f, code := 0, bytes := bytes } else { fn := f, code := 1, bytes := [] }] }
/-- VERSION: SPDM 1.2 and no other (R513; log entry 22). -/
def versionAnswer : List Byte := [0x10, 0x04, 0, 0, 0, 1, 0x00, 0x12]
/-- CAPABILITIES: certificates, challenges and signed measurements, and no sessions (R513); its timing exponent and buffer sizes are open. -/
def capabilitiesAnswer (x : List Byte) : List Byte := [0x12, 0x61, 0, 0, 0, byteAt x 0, 0, 0] ++ toBytes 4 0x16 ++ (List.range 8).map fun k => byteAt x (1 + k)
/-- ALGORITHMS: the SM2 signature and the SM3 hash (R513). -/
def algorithmsAnswer : List Byte :=
  [0x12, 0x63, 0, 0] ++ toBytes 2 36 ++ [1, 0] ++ toBytes 4 0x80 ++ toBytes 4 0x200 ++ toBytes 4 0x40 ++ List.replicate 16 0
/-- GET_VERSION (R513). -/
def execGetVersion (fn : Nat) (s : State) : Host.Outcome State Fault Refusal := .next (answerHost s fn versionAnswer)
/-- GET_CAPABILITIES (R513). -/
def execGetCapabilities (fn : Nat) (s : State) : Host.Outcome State Fault Refusal :=
  .next (answerHost { s with freeCtr := s.freeCtr + 1 } fn (capabilitiesAnswer (Config.spdmAnswer fn 0xE1 s.freeCtr)))
/-- NEGOTIATE_ALGORITHMS (R513). -/
def execNegotiateAlgorithms (fn : Nat) (s : State) : Host.Outcome State Fault Refusal := .next (answerHost s fn algorithmsAnswer)
/-- GET_DIGESTS (R513): SM3 of the certificate chain. -/
def execGetDigests (fn : Nat) (s : State) : Host.Outcome State Fault Refusal := .next (answerHost s fn (sm3 (certificateChain s fn)))
/-- GET_CERTIFICATE (R513). -/
def execGetCertificate (fn : Nat) (s : State) : Host.Outcome State Fault Refusal := .next (answerHost s fn (certificateChain s fn))
/-- CHALLENGE (R513): signed as evsign signs, over the challenger's nonce as USER. -/
def execChallenge (fn : Nat) (nonce : List (BitVec 8)) (s : State) : Host.Outcome State Fault Refusal :=
  .next (let r := evidence s fn nonce; answerHost r.2 fn r.1)
/-- GET_MEASUREMENTS (R513): the measurement blocks, bytes 16 to 175 of the evidence record, then the record as their signed copy. -/
def execGetMeasurements (fn : Nat) (s : State) : Host.Outcome State Fault Refusal :=
  .next (let r := evidence s fn []; answerHost r.2 fn ((r.1.drop 16).take 160 ++ r.1))

/-! ## Rekey sweeps (R187, R505) and MKERN (R509) -/

/-- REGION_REKEY (R187, R505). -/
def execRegionRekey (region epoch : Nat) (s : State) : Host.Outcome State Fault Refusal := .next (beginSweep s region (epoch == 1))
/-- SWEEP_COMPLETE (R505): every line of the epoch is rewritten, its generation replaced, one REKEY event sent, whose data is the region (log
entry 20). The sweep of an Evicted block's scratchpad ends once the block is restored. -/
def sweepBody (s : State) (region : Nat) : State :=
  match s.wafer.sweeps.find? fun w => w.region == region with
  | none => s
  | some w =>
    let ends (s : State) : State :=
      let s : State := { s with wafer := { s.wafer with sweeps := s.wafer.sweeps.erase w } }
      if s.wafer.sweeps.any fun v => v.region == region then s.addDueOnce (.sweepComplete region) else s
    let swept (s : State) : State := if w.swept then s else sweepRegion s w
    let h := region - edgeEnd / 2 ^ 21
    if region < edgeEnd / 2 ^ 21 then
      sendRecord (ends (swept s)) (edgeIsland (emmOf (region * 2 ^ 21))) (eventRecord 0 3 (toBytes 32 region))
    else match s.block? h with
      | some b =>
        if b.evicted && !w.swept then s.addDueOnce (.sweepComplete region)
        else sendRecord (ends (swept s)) (homeIsland (clusterOf b.tile)) (eventRecord 0 3 (toBytes 32 region))
      | none => ends s
/-- SWEEP_COMPLETE (R505). -/
def execSweepComplete (region : Nat) (s : State) : Host.Outcome State Fault Refusal := .next (sweepBody s region)
/-- MEXT (Table 16.3): MKERN extended by a value, unless it is locked. -/
def execMext (value : Nat) (s : State) : Host.Outcome State Fault Refusal := .next (extendKernel s (toBytes 32 value))

end Sys2Proof.Machine
end

