-- ==== Sys2Proof/Machine/Edge.lean ====
section
/-! DEFINITION. The edge engines, the host and bring-up (R524-R540). -/

namespace Sys2Proof.Machine

/-! ## Edge memory (R525) -/

/-- EDGE_MEMORY_ACCESS (R349, R525): a read or write of a request at its controller, over an edge link of the edge router; the access completes without a trap. -/
def edgeAccessBody (p : Packet) (s : State) : State :=
  match p.kind, p.loc with
  | .request, .phys pa =>
    if edgeLinked p.at_ (emmOf pa) = false then dropPacket s p
    else
    if p.write then respond (spreadInvalidations (putPhys s pa p.bytes) p.srcTile pa 0 0) p [] else respond (meetAt s pa p.len) p (readPhys s pa p.len)
  | _, _ => s
/-- EDGE_MEMORY_ACCESS (R525). -/
def execEdgeMemoryAccess (pkt : Nat) (s : State) : Host.Outcome State Fault Refusal := .next (onPacket pkt s edgeAccessBody)

/-! ## The reserve tier (R527-R530) -/

/-- Bytes of an EMM. -/
def emmSize : Nat := 0x3000000000
/-- Is a physical address in EMM e. -/
def inEmm (e pa : Nat) : Bool := decide (emmSize * e ≤ pa) && decide (pa < emmSize * (e + 1))
/-- The regions of EMM e. -/
def emmRegions (e : Nat) : List Nat := (List.range 98304).map fun k => 98304 * e + k
/-- CKST written. -/
def setCkst (x : Edge) (v : Nat) : Edge := { x with ecstat := setFld x.ecstat 3 2 v }
/-- SLOTk. -/
def slotWord (x : Edge) (k : Nat) : Word := if k = 0 then x.slot0 else x.slot1
/-- SLOTk replaced with what the slot stores. -/
def setSlot (x : Edge) (k : Nat) (w : Word) (r : Option Reserve) : Edge :=
  if k = 0 then { x with slot0 := w, store0 := r } else { x with slot1 := w, store1 := r }
/-- What slot k stores. -/
def slotStore (x : Edge) (k : Nat) : Option Reserve := if k = 0 then x.store0 else x.store1
/-- CHECKPOINT (R528 step 1): SLOTk.VALID is cleared and the operation runs. -/
def checkpointBody (s : State) (e k : Nat) : State :=
  let x := s.edge e
  if x.op.isSome then s
  else (s.setEdge e (setCkst { setSlot x k (setBit (slotWord x k) 63 false) none with op := some (k, false) } 1)).addDueOnce (.checkpointComplete e)
/-- CHECKPOINT (R528). -/
def execCheckpoint (ctl slot : Nat) (s : State) : Host.Outcome State Fault Refusal := .next (checkpointBody s ctl slot)
/-- The generation double of a region, raw as the table holds it. -/
def generations (s : State) (r : Nat) : Nat := rawLe s (s.wafer.rgtbase.toNat + 8 * r) 8
/-- The plaintext image of an EMM (R528 step 2): the generation doubles of its regions, then its lines. -/
def emmImage (s : State) (e : Nat) : List Byte :=
  ((emmRegions e).flatMap fun r => toBytes 8 (generations s r)) ++ readPhys s (emmSize * e) emmSize
/-- The errors of the lines of an EMM met by a read of them all (R540). -/
def meetEmm (s : State) (e : Nat) : State := ((s.lines.map Prod.fst).filter fun l => inEmm e (16 * l)).foldl meetLine s
/-- CHECKPOINT_COMPLETE (R528 steps 2 to 4): the image sealed as an object of tenant 0 (R506, R507) is in its slot. -/
def checkpointDone (s : State) (e : Nat) : State :=
  match (s.edge e).op with
  | some (k, false) =>
    let s := meetEmm s e
    let (nonce, s) := randomBytes s
    let x := s.edge e
    let r : Reserve := { object := sealObject 0 (worldOf s 0) s.wafer.dstate nonce (emmImage s e) }
    let seq := max (fld x.slot0 31 0) (fld x.slot1 31 0) + 1
    s.setEdge e (setCkst { setSlot x k (w64 (2 ^ 63 + seq % 2 ^ 32)) (some r) with op := none } 2)
  | _ => s
/-- CHECKPOINT_COMPLETE (R528). -/
def execCheckpointComplete (ctl : Nat) (s : State) : Host.Outcome State Fault Refusal := .next (checkpointDone s ctl)
/-- SLOT_RESTORE (R530): the restore of slot k runs. -/
def slotRestoreBody (s : State) (e k : Nat) : State :=
  let x := s.edge e
  if x.op.isSome then s else (s.setEdge e (setCkst { x with op := some (k, true) } 1)).addDueOnce (.restoreComplete e)
/-- SLOT_RESTORE (R530). -/
def execSlotRestore (ctl slot : Nat) (s : State) : Host.Outcome State Fault Refusal := .next (slotRestoreBody s ctl slot)
/-- The lines of EMM e that an image holds written from its first one, each enciphered afresh with VER 0 and EP 0 (R530), whatever they hold; m of
them. -/
def restoreLines (s : State) (e m : Nat) (b : List Byte) : State :=
  let base := emmSize * e
  let new (a : Nat) : Bool := decide (base ≤ a) && decide (a < base + 16 * m)
  { s with
    mem := memWrites (s.mem.filter fun (c : Host.Cell) => !new c.1) base b
    lines := (s.lines.filter fun (l : Nat × LineMeta) => !new (16 * l.1)) ++
      (List.range m).map fun k => (base / 16 + k, ({ z := false } : LineMeta)) }
/-- The generation that region number k of an image takes: 2^20 above the larger half of its double in the image. -/
def restoredGen (b : List Byte) (k : Nat) : Nat := (max (leAt b (8 * k) 4) (leAt b (8 * k + 4) 4) + 2 ^ 20) % 2 ^ 32
/-- What of an image has been deciphered restored to EMM e (R530): its lines, then the new generations of their regions in both halves of their
doubles in the region generation table, under which the lines are enciphered. -/
def restoreEmm (s : State) (e : Nat) (b : List Byte) : State :=
  let m := (b.length - 786432) / 16
  let s := restoreLines s e m (b.drop 786432)
  let gen (s : State) (k : Nat) : State :=
    let g := restoredGen b k
    writePhys s (s.wafer.rgtbase.toNat + 8 * (98304 * e + k)) (toBytes 4 g ++ toBytes 4 g)
  let s := (List.range ((m + 131071) / 131072)).foldl gen s
  { s with lines := s.lines.map fun (l : Nat × LineMeta) =>
    if inEmm e (16 * l.1) && decide (16 * l.1 < emmSize * e + 16 * m) then (l.1, { l.2 with key := keyAt s (16 * l.1) l.2.ep }) else l }
/-- A restore that a chunk has ended: every line written is overwritten with zero (R508). -/
def abortRestore (s : State) (e : Nat) (b : List Byte) : State := zeroLines (restoreEmm s e b) (emmSize * e) (b.length - 786432)
/-- RESTORE_COMPLETE (R530): the object of the slot is checked for tenant 0 and the current debug state (R508) and restored. One whose header fails
writes nothing; one with a bad chunk leaves zeros where it wrote. -/
def restoreDone (s : State) (e : Nat) : State :=
  let x := s.edge e
  match x.op with
  | some (k, true) =>
    let ends (s : State) (v : Nat) : State := s.setEdge e (setCkst { s.edge e with op := none } v)
    (match (if bitOf (slotWord x k) 63 then slotStore x k else none) with
     | none => ends s 3
     | some r => match openObject 0 (worldOf s 0) s.wafer.dstate r.object with
       | none => ends s 3
       | some (b, some _) => ends (abortRestore s e b) 3
       | some (b, none) => ends (restoreEmm s e b) 2)
  | _ => s
/-- RESTORE_COMPLETE (R530). -/
def execRestoreComplete (ctl : Nat) (s : State) : Host.Outcome State Fault Refusal := .next (restoreDone s ctl)
/-- ERASE (R530). -/
def execErase (ctl slot : Nat) (s : State) : Host.Outcome State Fault Refusal :=
  let x := s.edge ctl
  .next (s.setEdge ctl (setSlot x slot (setBit (slotWord x slot) 63 false) none))

/-! ## The host (R531-R533) -/

/-- The places of a host request, one a line: none when a part is not translated or is refused (R532). The host ports are non-secure (R500), whatever
the world of the bound tenant, in which its tables are walked (DESIGN CHOICE, log entry 111). -/
def hostPlaces (s : State) (i t : Nat) (write : Bool) : List (Nat × Nat) → Option (List (Nat × Nat))
  | [] => some []
  | (a, n) :: r =>
    let acc : AccKind := if write then .write else .read
    match walk s i t .core acc a with
    | .error _ => none
    | .ok tr =>
      let table := decide (tr.out < edgeEnd) && fieldN (potEntry s tr.out) 29 28 == 3
      if (outputCheckAs s false t .core acc tr.out 0).isSome || table || decide (2 ^ 51 ≤ tr.out) || apertureShut s acc tr.out then none
      else (hostPlaces s i t write r).map fun l => (tr.out, n) :: l
/-- The places of n bytes at an offset of a function's HDM window; none before READY and for an unbound function. -/
def hostWindow (s : State) (f off n : Nat) (write : Bool) : Option (List (Nat × Nat)) :=
  if s.wafer.ready = false ∨ 2 ^ 40 < off + n then none
  else (functionTenant s f).bind fun t => hostPlaces s (portIsland (functionPort f)) t write (segments (0x4000000000 + off) n)
/-- An answer to the host. -/
def reply (s : State) (fn code : Nat) (bytes : List Byte) : State := { s with replies := s.replies ++ [{ fn := fn, code := code, bytes := bytes }] }
/-- BAR 0 of a function as the host reads it (Table 17.2): the mirror of W48STAT, zero beyond. -/
def barBytes (s : State) (off n : Nat) : List Byte := (List.range n).map fun k => if off + k < 8 then byteAt (toBytes 8 (w48stat s).toNat) (off + k) else 0
/-- CXL_MEM_READ (R532): the bytes committed, or data poison (code 1). An offset from 2^40 on, beyond the HDM window, stands for a host read of BAR 0
(R531; log entry 112). -/
def execCxlMemRead (fn offset len : Nat) (s : State) : Host.Outcome State Fault Refusal :=
  .next (if 2 ^ 40 ≤ offset ∧ offset + len ≤ 2 ^ 40 + 65536 then reply s fn 0 (barBytes s (offset - 2 ^ 40) len)
    else match hostWindow s fn offset len false with
      | some l => reply (l.foldl (fun s p => meetAt s p.1 p.2) s) fn 0 (l.flatMap fun p => readPhys s p.1 p.2)
      | none => reply s fn 1 [])
/-- Bytes written at places, with the invalidations of an immediate write. -/
def hostWrite : State → List (Nat × Nat) → List Byte → State
  | s, [], _ => s
  | s, (a, n) :: r, b => hostWrite (spreadInvalidations (putPhys s a (b.take n)) (2 ^ 16) a 0 0) r (b.drop n)
/-- CXL_MEM_WRITE (R532): a refused write is discarded; one that meets a rekey waits (R187). -/
def execCxlMemWrite (fn offset : Nat) (bytes : List (BitVec 8)) (s : State) : Host.Outcome State Fault Refusal :=
  .next (match hostWindow s fn offset bytes.length true with
    | some l => if l.any fun p => rekeyBlocked s p.1 then { s with due := .cxlMemWrite fn offset bytes :: s.due } else hostWrite s l bytes
    | none => s)
/-- DBELL (R533): ignored before READY; the event's data is the function and the value (log entry 20). -/
def execDbell (fn value : Nat) (s : State) : Host.Outcome State Fault Refusal :=
  .next (if s.wafer.ready then
      sendRecord s (portIsland (functionPort fn)) (eventRecord ((functionTenant s fn).getD 0) 5 (toBytes 8 fn ++ toBytes 8 value ++ List.replicate 16 0))
    else s)

/-! ## Contrail (R535, R536) -/

/-- Does this module accept an access of another (R535): a non-secure data page exported to that module or to any. -/
def exportAllows (s : State) (module pa : Nat) : Bool :=
  let e := potEntry s pa
  let x := rawLe s (s.wafer.exptbase.toNat + 8 * (pa / 2 ^ 30)) 8
  decide (pa < edgeEnd) && fieldN e 31 31 == 1 && fieldN e 30 30 == 0 && fieldN e 29 28 == 1 &&
    fieldN x 63 63 == 1 && (fieldN x 62 54 == module || fieldN x 62 54 == 0x1FF)
/-- APERTURE_ACCESS (R535): an access of another module to this one's memory, answered to it (functions from 256 on stand for modules: code 0
done, code 2 refused). -/
def execApertureAccess (module addr : Nat) (write : Bool) (bytes : List (BitVec 8)) (s : State) : Host.Outcome State Fault Refusal :=
  let say (s : State) (c : Nat) (b : List Byte) : State := { s with replies := s.replies ++ [{ fn := 256 + module, code := c, bytes := b }] }
  .next (if exportAllows s module addr && exportAllows s module (addr + bytes.length - 1) then
      (if write then
        if rekeyBlocked s addr then s.addDue (.apertureAccess module addr write bytes)
        else say (hostWrite s (segments addr bytes.length) bytes) 0 []
       else say (meetAt s addr bytes.length) 0 (readPhys s addr bytes.length))
    else say s 2 [])
/-- Fields of a collective descriptor (Table 17.4). -/
def collOk (d : List Byte) : Bool :=
  let len := recFld d 7 0
  recFld d 511 256 == 0 && recFld d 31 24 == 0 && decide (1 ≤ len) && decide (len ≤ 64) && decide (recFld d 15 8 ≤ 2) &&
    decide (3 ≤ recFld d 23 16) && decide (recFld d 23 16 ≤ 5) && (recFld d 23 16 != 4 || len % 2 == 0)
/-- Bytes written to physical memory at wafer scope. -/
def writeWide (s : State) (pa : Nat) (b : List Byte) : State := hostWrite s (segments pa b.length) b
/-- A module's contribution under CKEY, SM4 in counter mode: sealed, or in the clear again (R515). -/
def crypt (s : State) (module tag kgen : Nat) (b : List Byte) : List Byte :=
  let ks := (List.range ((b.length + 15) / 16)).flatMap fun j =>
    beBytes 16 (sm4 (Config.collectiveKey s.wafer.ckey) (Config.collectiveCounter module tag kgen j))
  (b.zip ks).map fun p => p.1 ^^^ p.2
/-- The tag of a sealed contribution: HMAC-SM3 under CKEY (R515). -/
def contributionTag (s : State) (b : List Byte) : List Byte := hmacSm3 (Config.collectiveMac s.wafer.ckey) b
/-- COLLPOST (R536): a malformed descriptor is answered at once with BADDESC; otherwise the contribution goes out sealed, with the CKGEN of the moment
(R515). Another member may have posted before. -/
def collpostBody (s : State) (a : Nat) : State :=
  let d := readPhys s a 64
  let s := meetAt s a 64
  if collOk d = false then writeWide s (recFld d 243 192) (toBytes 8 0x8000000000000001)
  else
    let tag := recFld d 63 32
    let src := recFld d 115 64
    let len := 4 * recFld d 7 0
    let kgen := s.wafer.ckgen.toNat
    let c := crypt s (fld s.wafer.modid 8 0) tag kgen (readPhys s src len)
    let x : Collective :=
      { tag := tag, desc := d, contrib := c, mac := contributionTag s c, kgen := kgen, started := min s.cycle (Config.firstPost tag s.freeCtr) }
    let s := meetAt s src len
    ({ s with wafer := { s.wafer with colls := s.wafer.colls ++ [x] }, freeCtr := s.freeCtr + 1 }.addDueOnce (.collectiveResult tag)).addDueOnce (.timeout tag)
/-- COLLPOST (R536). -/
def execCollpost (addr : Nat) (s : State) : Host.Outcome State Fault Refusal := .next (collpostBody s addr)
/-- A collective ended with a status, its result written before (R536). -/
def endCollective (s : State) (x : Collective) (result : List Byte) (status : Nat) : State :=
  let s := { s with wafer := { s.wafer with colls := s.wafer.colls.erase x } }
  let s := if status = 0 then writeWide s (recFld x.desc 179 128) result else s
  writeWide s (recFld x.desc 243 192) (toBytes 8 status)
/-- The collective with a tag. -/
def collective? (s : State) (tag : Nat) : Option Collective := s.wafer.colls.find? fun x => x.tag == tag
/-- The members of the domain other than this module (Table 17.3). -/
def otherMembers (s : State) : List Nat :=
  (List.range 432).filter fun m => m != fld s.wafer.modid 8 0 && fieldN (readByte s (s.wafer.members.toNat + m / 8)).toNat (m % 8) (m % 8) == 1
/-- Another module's sealed contribution, its KGEN in four bytes more, its TYPE and its 32-byte tag (log entry 23). -/
def otherBytes (s : State) (tag m n : Nat) : List Byte := (List.range n).map fun k => Config.contribution m tag k s.freeCtr
/-- The tag that came with another module's contribution. -/
def otherTag (s : State) (tag m : Nat) : List Byte := (List.range 32).map fun k => Config.contribution m tag (261 + k) s.freeCtr
/-- Another module's KGEN. -/
def otherKgen (s : State) (tag m : Nat) : Nat := fromBytes ((List.range 4).map fun k => Config.contribution m tag (256 + k) s.freeCtr)
/-- The TYPE that another module has posted under a tag. -/
def otherType (s : State) (tag m : Nat) : Nat := (Config.contribution m tag 260 s.freeCtr).toNat
/-- Modifiers of an instruction without any. -/
def plainMods : FMods := { neg1 := false, abs1 := false, neg2 := false, abs2 := false, neg3 := false, abs3 := false, clamp := false, rm := 0, scale := 0 }
/-- One element combined over every contribution (R536). -/
def combine (op fmt : Nat) (l : List Nat) : Nat :=
  if op = 0 then (redAdd fmt plainMods l).1 else (redPick fmt plainMods (op == 1) l).1
/-- Elements of w bytes. -/
def elementsOf (w : Nat) (b : List Byte) : List Nat := (List.range (b.length / w)).map fun k => leAt b (w * k) w
/-- The combined result of contributions. -/
def combineAll (d : List Byte) (cs : List (List Byte)) : List Byte :=
  let fmt := recFld d 23 16
  let w := if fmt = 4 then 8 else 4
  let es := cs.map (elementsOf w)
  (List.range (4 * recFld d 7 0 / w)).flatMap fun k => toBytes w (combine (recFld d 15 8) fmt (es.map fun l => l.getD k 0))
/-- The sealed contributions that a hub combines, each with its module: this one's first. -/
def contributions (s : State) (x : Collective) : List (Nat × List Byte) :=
  (fld s.wafer.modid 8 0, x.contrib) :: (otherMembers s).map fun m => (m, otherBytes s x.tag m x.contrib.length)
/-- Do all contributions of a collective come under one KGEN and with valid tags (R515). -/
def keysAgree (s : State) (x : Collective) : Bool :=
  (otherMembers s).all fun m => otherKgen s x.tag m == x.kgen && otherTag s x.tag m == contributionTag s (otherBytes s x.tag m x.contrib.length)
/-- Have a collective's COLLTMO cycles passed since the first contribution. -/
def collLate (s : State) (x : Collective) : Bool := decide (x.started + s.wafer.colltmo.toNat ≤ s.cycle)
/-- COLLECTIVE_RESULT (R515, R536): every contribution under one KGEN and with a valid tag gives the result, any other aborts it with KEYGEN. A module
that alone posted another TYPE has BADDESC; one whose collective another spoiled, or whose contributions come too late, waits for TIMEOUT (Table 17.6; log
entry 23). -/
def collectiveBody (s : State) (tag : Nat) : State :=
  match collective? s tag with
  | none => s
  | some x =>
    if collLate s x then s
    else
    let same := keysAgree s x
    let cs := (contributions s x).map fun c => crypt s c.1 tag x.kgen c.2
    let types := (otherMembers s).map (otherType s tag)
    let mine := recFld x.desc 23 16
    let s := { s with freeCtr := s.freeCtr + 1 }
    if types.any (fun t => t != mine) then
      if types.all (fun t => t != mine && t == types.headD 0) then endCollective s x [] 0x8000000000000001 else s
    else if same then endCollective s x (combineAll x.desc cs) 0 else endCollective s x [] 0x8000000000000009
/-- COLLECTIVE_RESULT (R536). -/
def execCollectiveResult (tag : Nat) (s : State) : Host.Outcome State Fault Refusal := .next (collectiveBody s tag)
/-- Have a collective's COLLTMO cycles passed. -/
def collTimedOut (s : State) (tag : Nat) : Bool :=
  match collective? s tag with | some x => collLate s x | none => true
/-- TIMEOUT (R536). -/
def execTimeout (tag : Nat) (s : State) : Host.Outcome State Fault Refusal :=
  .next (match collective? s tag with
    | some x => if collTimedOut s tag then endCollective s x [] 0x800000000000000B else s.addDueOnce (.timeout tag)
    | none => s)
/-- LINKDOWN (R536). -/
def execLinkdown (tag : Nat) (s : State) : Host.Outcome State Fault Refusal :=
  .next (match collective? s tag with | some x => endCollective s x [] 0x800000000000000A | none => s)

/-! ## Power and bring-up (R510, R512, R516, R538, R539) -/

/-- May Doze be entered: every issuing context is at an instruction boundary (R539). -/
def dozeReady (s : State) : Bool := s.wafer.power == .run && s.ctxs.all fun p => p.2.state != .issuing || p.2.awaiting.isNone
/-- DOZE (R539). -/
def execDoze (s : State) : Host.Outcome State Fault Refusal :=
  .next (if dozeReady s then { s with wafer := { s.wafer with power := .doze, pwrctl := 1 } }
    else if s.wafer.power = .run then s.addDueOnce .doze else s)
/-- RUN (R539): a write of STATE = 0 leaves Doze, or takes back a Doze not yet entered. -/
def execRun (s : State) : Host.Outcome State Fault Refusal := .next (leaveDoze s)
/-- Does a debug token allow secure debug (R510): DEVID, the nonce of this boot, a key with the digest in fuses, and its signature over the two. -/
def tokenOk (nonce : List Byte) (k : DebugToken) : Bool :=
  k.devid == Config.deviceId && k.nonce == nonce && sm3 (pointBytes k.key) == digest32 Config.debugAuthority &&
    sm2Verify (toBytes 16 Config.deviceId) k.key (toBytes 16 k.devid ++ k.nonce) k.r k.s
/-- DSTATE as the boot ROM fixes it, with a fresh nonce (R510). -/
def bootDebug (b : BootImage) (nonce : List Byte) : Nat := if b.debug ≤ 1 then b.debug else if b.debug = 2 && b.token.any (tokenOk nonce) then 2 else 0
/-- A stage reached: it fails with an error, or the next becomes due. -/
def reachStage (s : State) (stage error : Nat) (next : State → State) : State :=
  let s : State := { s with wafer := { s.wafer with stage := stage, error := error } }
  if error = 0 then next s else s
/-- The first unblown fuse of the pairs below n: its pair, and whether it is B (R512). -/
def unblown? (f : List (Bool × Bool)) (n : Nat) : Option (Nat × Bool) :=
  (List.range n).findSome? fun k => let p := f.getD k (false, false); if !p.1 then some (k, false) else if !p.2 then some (k, true) else none
/-- A fuse of pair k blown. -/
def withFuse (f : List (Bool × Bool)) (k : Nat) (b : Bool) : List (Bool × Bool) :=
  let l := f ++ List.replicate (128 - f.length) (false, false)
  l.set k (if b then ((l.getD k (false, false)).1, true) else (true, (l.getD k (false, false)).2))
/-- The pairs that the boot ROM blows whole: those below ARBCNT, and once it has accepted the image those below the minimum that it requests. -/
def fuseGoal (s : State) : Nat :=
  let n := min 128 (arbCount s)
  if s.wafer.accepted then max n (min 128 s.wafer.boot.minimum) else n
/-- One fuse blown in a step of its own: power may fail before the next; one that cannot be blown ends stage 1 with ERROR 1 (Table 17.5). -/
def blowFuse (s : State) (p : Nat × Bool) : State :=
  if s.wafer.deadFuses.contains (2 * p.1 + boolNat p.2) then reachStage s 1 1 id
  else ({ s with wafer := { s.wafer with fuses := withFuse s.wafer.fuses p.1 p.2 } } : State).addDueOnce .powerApplied
/-- The boot ROM at its end: DSTATE is fixed, the function certificates are signed (R510, R513). -/
def romEnds (s : State) : State :=
  let (nonce, s) := randomBytes s
  let s : State := { s with wafer := { s.wafer with dstate := bootDebug s.wafer.boot nonce, certAt := s.freeCtr }, freeCtr := s.freeCtr + 1 }
  reachStage s 1 0 fun s => s.addDueOnce (.selfCalibration 0)
/-- Does the boot ROM refuse the image (R512). -/
def imageRefused (s : State) : Bool := !s.wafer.boot.signed || decide (s.wafer.boot.version < min 128 (arbCount s))
/-- The boot ROM with an image that it has accepted: the counter is raised, fuse by fuse, before the image runs. -/
def romRaises (s : State) : State :=
  match unblown? s.wafer.fuses (fuseGoal s) with
  | some p => blowFuse s p
  | none => romEnds s
/-- The boot ROM from where it is: fuse pairs completed first, then the image checked (R512). -/
def romRuns (s : State) : State :=
  if s.wafer.accepted then romRaises s
  else match unblown? s.wafer.fuses (fuseGoal s) with
    | some p => blowFuse s p
    | none => if imageRefused s then reachStage s 1 2 id else romRaises { s with wafer := { s.wafer with accepted := true } }
/-- The HMAC of a retirement record (R511). -/
def recordMac (w : Wafer) : List Byte :=
  hmacSm3 (kdf Config.deviceRootKey 32 (label "retire"))
    (Config.retireRecord (w.retire.map fun p => (p.1, p.2.badRows, p.2.absentTiles, p.2.absentClusters)) w.retiredSites)
/-- The boot ROM begins: a retirement record whose MAC fails is refused, and every site counts as present (R511). -/
def romBegins (s : State) : State :=
  let w := s.wafer
  let ok := recordMac w == w.retireMac
  { s with wafer := { w with power := .boot, retire := if ok then w.retire else [], retiredSites := if ok then w.retiredSites else [] } }
/-- POWER_APPLIED (R538 stage 1): the boot ROM, one fuse a step. -/
def bootBody (s : State) : State :=
  match s.wafer.power with
  | .off => romRuns (romBegins s)
  | .boot => if s.wafer.stage = 0 then romRuns s else s
  | _ => s
/-- POWER_APPLIED (R538). -/
def execPowerApplied (s : State) : Host.Outcome State Fault Refusal := .next (bootBody s)
/-- Is a stage of the bring-up the next one. -/
def stageDue (s : State) (stage : Nat) : Bool := s.wafer.power == .boot && s.wafer.stage + 1 == stage && s.wafer.error == 0
/-- The edge controllers with a bit of ECSTAT set. -/
def setAllEdges (s : State) (bit : Nat) : State := (List.range 32).foldl (fun s e => let x := s.edge e; s.setEdge e { x with ecstat := setBit x.ecstat bit true }) s
/-- SELF_CALIBRATION (R538 stage 2): its error is 3, link training, or 4, repair. -/
def execSelfCalibration (error : Nat) (s : State) : Host.Outcome State Fault Refusal :=
  .next (if stageDue s 2 then reachStage s 2 error fun s => (setAllEdges s 0).addDueOnce (.selfTest []) else s)
/-- The good physical rows of a field, in order (R20). -/
def goodRows (f : FieldRetire) : List Nat := (List.range 34).filter fun r => !f.badRows.contains r
/-- The logical position that a physical site serves, if any (R20). -/
def sitePosition (f : FieldRetire) (field row col : Nat) : Option Nat :=
  let k := ((goodRows f).takeWhile fun r => r != row).length
  if f.badRows.contains row ∨ 32 ≤ k then none else some (tileAt (32 * (field % 8) + col) (32 * (field / 8) + k))
/-- A failing site retired (R21). -/
def retireSite (w : Wafer) (site : Nat) : Wafer :=
  let field := site / 1088
  let row := site % 1088 / 32
  let col := site % 32
  let f := mget w.retire {} field
  let w := { w with retiredSites := (field, row, col) :: w.retiredSites }
  let put (f : FieldRetire) : Wafer := { w with retire := mset w.retire field f }
  if f.badRows.contains row then w
  else if f.badRows.length < 2 then put { f with badRows := f.badRows ++ [row] }
  else match sitePosition f field row col with
    | none => w
    | some t =>
      if isIslandSlot (clusterOf t) ∨ f.absentTiles.contains t = true ∨ f.absentClusters.contains (clusterOf t) = true then w
      else if f.absentTiles.length < 16 then put { f with absentTiles := f.absentTiles ++ [t] }
      else put { f with absentClusters := f.absentClusters ++ [clusterOf t] }
/-- SELF_TEST (R21, R538 stage 3): the failing sites, each by its bit of the retired-site bitmap; the record is stored with its MAC (R511). -/
def execSelfTest (failing : List Nat) (s : State) : Host.Outcome State Fault Refusal :=
  .next (if stageDue s 3 then
      let w := (failing.filter fun x => decide (x < 52224)).foldl retireSite s.wafer
      reachStage { s with wafer := { w with retireMac := recordMac w } } 3 0 fun s => s.addDueOnce (.routerTableWrite [])
    else s)
/-- A detour entry of a router written (Table 11.3). -/
def writeDetour (s : State) (p : Nat × Nat × Word) : State :=
  let r := s.router p.1
  if 8 ≤ p.2.1 then s
  else s.setRouter p.1 { r with detours := (((r.detours ++ List.replicate 8 0).take 8).set p.2.1 (p.2.2 &&& 0xFFFFFF80FFFFFFFF)) }
/-- The tables of R339 written into every router: the retired set, every word good. -/
def writeTables (s : State) : State :=
  { s with wafer := { s.wafer with tables := s.wafer.retire }, routers := s.routers.map fun p => (p.1, { p.2 with bad := [] }) }
/-- ROUTER_TABLE_WRITE (R339, R344, R538 stage 4): the tables, and the detour entries. -/
def execRouterTableWrite (detours : List (Nat × Nat × BitVec 64)) (s : State) : Host.Outcome State Fault Refusal :=
  .next (if stageDue s 4 then reachStage (detours.foldl writeDetour (writeTables s)) 4 0 fun s => s.addDueOnce (.initialisation 0) else s)
/-- INITIALISATION (R538 stage 5): every line reads as zero, INIT, W48READY. -/
def execInitialisation (error : Nat) (s : State) : Host.Outcome State Fault Refusal :=
  .next (if stageDue s 5 then
      reachStage s 5 error fun s => let s : State := { s with mem := [], lines := [] }
        let s := setAllEdges s 1
        { s with wafer := { s.wafer with ready := true, power := .run } }
    else s)
/-- What a controller keeps without power: the slots of its reserve tier (R527). -/
def keptEdge (x : Edge) : Edge := { slot0 := x.slot0, slot1 := x.slot1, store0 := x.store0, store1 := x.store1 }
/-- POWER_OFF (Table 16.5): everything is lost but the fuses, the retirement record, the boot image and the reserve tier; power may be applied
again. A debug token serves one boot (R510). -/
def execPowerOff (s : State) : Host.Outcome State Fault Refusal :=
  let w := s.wafer
  .next { State.reset with
    choices := s.choices, cycleLens := s.cycleLens, upsets := s.upsets, freeCtr := s.freeCtr, nextId := s.nextId, replies := s.replies
    edges := s.edges.map fun p => (p.1, keptEdge p.2)
    wafer :=
      { fuses := w.fuses, deadFuses := w.deadFuses, boot := { w.boot with token := none }, retire := w.retire, retiredSites := w.retiredSites
        retireMac := w.retireMac } }

end Sys2Proof.Machine
end

