-- ==== Sys2Proof/Machine/Interp.lean ====
section
/-! DEFINITION. The table interpolation engine (R255-R271). -/

namespace Sys2Proof.Machine

/-- The interpolation engine's instructions: threads only (Table 3.1). -/
def interpProfile : Profile := { core := false, engine := engInterp }

/-! ## The table image (R258, Table 8.2) -/

/-- LO. -/
def tabLo (b : List Byte) : FpVal := FpFmt.fp32.decode (leAt b 0 4)
/-- NSEGLOG. -/
def tabSegLog (b : List Byte) : Nat := recFld b 35 32
/-- NSEG. -/
def tabSegs (b : List Byte) : Nat := 2 ^ tabSegLog b
/-- WLOG. -/
def tabWidth (b : List Byte) : Int := sextN (recFld b 47 40) 8
/-- DEG. -/
def tabDeg (b : List Byte) : Nat := recFld b 49 48
/-- Coefficient i of segment k. -/
def tabCoef (b : List Byte) (k i : Nat) : Nat := leAt b (64 + 16 * k + 4 * i) 4
/-- An integer multiple of 2^e as a value. -/
def intVal (i e : Int) : FpVal := .num (decide (i < 0)) i.natAbs e
/-- The exponent at which LO and the segment width are integers. -/
def tabExp (b : List Byte) : Int := min (tabLo b).lowExp (tabWidth b)
/-- HI = LO + NSEG · 2^WLOG, exact. -/
def tabHi (b : List Byte) : FpVal :=
  let e := tabExp b
  intVal (FpVal.toInt e (tabLo b) + tabSegs b * 2 ^ (tabWidth b - e).toNat) e
/-- Is an FP32 word finite. -/
def finite32 (x : Nat) : Bool := let v := FpFmt.fp32.decode x; !v.isNan && !v.isInf
/-- The magnitude of a value. -/
def FpVal.abs : FpVal → FpVal
  | .num _ m e => .num false m e
  | .inf _ => .inf false
  | v => v
/-- The header checks of R258. -/
def headerOk (b : List Byte) : Bool :=
  recFld b 511 192 == 0 && recFld b 63 58 == 0 && recFld b 55 50 == 0 && recFld b 39 36 == 0 && decide (tabSegLog b ≤ 8) &&
  decide (-16 ≤ tabWidth b) && decide (tabWidth b ≤ 16) && finite32 (leAt b 0 4) && finite32 (leAt b 8 4) && finite32 (leAt b 12 4) &&
  finite32 (leAt b 16 4) && finite32 (leAt b 20 4) && !fpLt (FpFmt.fp32.decode FpFmt.fp32.maxBits) (tabHi b).abs
/-- Every coefficient at or below DEG is finite. -/
def coefsOk (b : List Byte) : Bool :=
  (List.range (tabSegs b)).all fun k => (List.range (tabDeg b + 1)).all fun i => finite32 (tabCoef b k i)

/-! ## Evaluation (R259, R260) -/

/-- Segment number of an x in the domain: floor((x - LO) / 2^WLOG). -/
def segIndex (b : List Byte) (x : FpVal) : Int :=
  let e := min x.lowExp (tabExp b)
  (FpVal.toInt e x - FpVal.toInt e (tabLo b)) / 2 ^ (tabWidth b - e).toNat
/-- t = RNE(x - (LO + s · 2^WLOG)). -/
def segOffset (b : List Byte) (k : Int) (x : FpVal) : Nat × Word :=
  let e := min x.lowExp (tabExp b)
  let d := FpVal.toInt e x - (FpVal.toInt e (tabLo b) + k * 2 ^ (tabWidth b - e).toNat)
  finish .fp32 .rne 0 false (Exact.ofInt d e false)
/-- One fused step in FP32: RNE(p · t + c). -/
def fuse32 (p : Nat × Word) (t : FpVal) (c : Nat) : Nat × Word :=
  let r := fpFma .rne (FpFmt.fp32.decode p.1) t (FpFmt.fp32.decode c)
  let w := finish .fp32 .rne 0 false r.1
  (w.1, p.2 ||| r.2 ||| w.2)
/-- HORNER(s, t). -/
def horner (b : List Byte) (k : Nat) (t : FpVal) : Nat × Word :=
  (List.range (tabDeg b)).reverse.foldl (fun p i => fuse32 p t (tabCoef b k i)) (tabCoef b k (tabDeg b), 0)
/-- OUTSIDE(x): above says at or above HI. -/
def outside (b : List Byte) (above : Bool) (x : FpVal) : Nat × Word :=
  let a := leAt b (if above then 16 else 8) 4
  let c := leAt b (if above then 20 else 12) 4
  if recFld b (if above then 57 else 56) (if above then 57 else 56) = 1 then
    if x.isInf then
      let av := FpFmt.fp32.decode a
      (if av.isZero then c else FpFmt.fp32.infBits + (if av.sign != x.sign then FpFmt.fp32.signBit else 0), 0)
    else fuse32 (a, 0) x c
  else if above then horner b (tabSegs b - 1) (.num false 1 (tabWidth b)) else horner b 0 (.num false 0 0)
/-- iev of one lane (R259): FINAL rounds the FP32 value into the lane's format. -/
def ievLane (b : List Byte) (f : FpFmt) (m : FMods) (lane : Nat) : Nat × Word :=
  let r := f.read (f.modify m.neg1 m.abs1 lane)
  let x := r.1
  let y : Nat × Word :=
    if x.isNan then (FpFmt.fp32.nanBits, flagIf x.isSnan fpInvalid)
    else if fpLt x (tabLo b) then outside b false x
    else if fpLt x (tabHi b) = false then outside b true x
    else
      let k := segIndex b x
      let t := segOffset b k x
      let p := horner b k.toNat (FpFmt.fp32.decode t.1)
      (p.1, t.2 ||| p.2)
  let w := finish f .rne (scaleOf m.scale) m.clamp (FpFmt.fp32.decode y.1).exact
  (w.1, r.2 ||| y.2 ||| w.2)
/-- iseg of one lane (R260). -/
def isegLane (b : List Byte) (f : FpFmt) (lane : Nat) : Nat × Word :=
  let r := f.read lane
  let x := r.1
  let k : Int :=
    if x.isNan then -2 else if fpLt x (tabLo b) then -1 else if fpLt x (tabHi b) = false then tabSegs b else segIndex b x
  ((k % (2 ^ f.width : Int)).toNat, r.2)
/-- The lanes of a vector result of the engine. -/
def interpRegs (a : Reg) (f : FpFmt) (op : Nat → Nat × Word) (vs : List (List Vec)) : VResult :=
  let l := (lanesOf (opnd vs 0) f.width).map op
  { at_ := a.val, regs := [ofLanes f.width (l.map Prod.fst)], fp := l.foldl (fun x y => x ||| y.2) 0 }
/-- The format of MX 0 to 2 (Table 8.3). -/
def interpFmt (fmt : Fin 4) : FpFmt := (fpCode fmt.val).getD .fp32

/-! ## Names and buffers (R255-R257) -/

/-- The block whose table names a thread uses: after a migration still the one in which its task was activated (R257, Table 8.1). -/
def namesOf (s : State) (t c : Nat) : Nat :=
  let x := s.ctx t c
  ((x.task.bind s.task?).bind Task.home).getD x.handle
/-- Is a buffer for a name of a block. -/
def IBuffer.isFor (b : IBuffer) (h n : Nat) : Bool := b.handle == h && b.name == n
/-- The buffer of a tile that holds a name. -/
def ibuf? (s : State) (t h n : Nat) : Option IBuffer := (s.tile t).ibufs.find? fun b => b.isFor h n && !b.loading
/-- Is a load of a name in flight on a tile (R266). -/
def nameBusy (s : State) (t h n : Nat) : Bool := (s.tile t).ibufs.any fun b => b.isFor h n && b.loading
/-- Is a load of a name in flight, on whichever tile a thread of the block began it (R262). -/
def nameLoading (s : State) (h n : Nat) : Bool := s.tiles.any fun p => nameBusy s p.1 h n
/-- Is an itld of a name that a thread itself has issued in flight: what names it waits at issue (R61, R262). -/
def ownLoad (s : State) (t c h n : Nat) : Bool := (s.tile t).ibufs.any fun b => b.isFor h n && b.loading && b.ctx == some c
/-- The load of a name of one kind that was issued first on a tile. -/
def loadOf? (s : State) (t h n : Nat) (refetch : Bool) : Option IBuffer :=
  (s.tile t).ibufs.reverse.find? fun b => b.isFor h n && b.loading && b.refetch == refetch
/-- A tile's buffers replaced. -/
def setBufs (s : State) (t : Nat) (l : List IBuffer) : State := s.setTile t { s.tile t with ibufs := l }
/-- One buffer of a tile replaced. -/
def setBuf (s : State) (t : Nat) (b b' : IBuffer) : State := setBufs s t ((s.tile t).ibufs.map fun d => if d = b then b' else d)
/-- The source pointer and header word of a Loaded name of a block. -/
def tableSource? (s : State) (h n : Nat) : Option (Nat × Nat) := (s.block? h).bind fun b => mget? b.itabs n
/-- The descriptor of a name of a block: its source and the header word. -/
def setSource (s : State) (h n : Nat) (v : Nat × Nat) : State :=
  match s.block? h with
  | some x => s.setBlock h { x with itabs := mset x.itabs n v }
  | none => s
/-- A name made Empty: the buffers that hold it are freed on every tile; one that a refetch fills is freed when its iev or iseg has completed
(Table 8.1, R271). -/
def emptyName (s : State) (h n : Nat) : State :=
  let s := match s.block? h with | some b => s.setBlock h { b with itabs := mdel b.itabs n } | none => s
  { s with tiles := s.tiles.map fun p => (p.1, { p.2 with ibufs := p.2.ibufs.filter fun b => !(b.isFor h n && !b.loading) }) }
/-- The buffers left when one is claimed for a name (R256): of the buffer that holds the name, of a free one, of the least recently used that
no load uses; none when the claim has to wait. An iev or iseg of a Resident name is done at its issue. -/
def claimBuffer (l : List IBuffer) (h n : Nat) : Option (List IBuffer) :=
  match l.find? fun b => b.isFor h n && !b.loading with
  | some b => some (l.erase b)
  | none => if l.length < 4 then some l else (l.reverse.find? fun b => !b.loading).map l.erase
/-- The step that ends a load. -/
def loadStep (refetch : Bool) (t h n : Nat) : Instr := if refetch then .refetch t h n else .tableLoadComplete t h n
/-- A load of a name begun for the instruction op of a refetch or for an itld: the buffer, the source range of 4,160 bytes, the engine step; the
thread waits for it (R256, R263). -/
def startLoad (s : State) (t c n : Nat) (p : Word) (op : Option TableUse) : Except Stop State :=
  let x := s.ctx t c
  let h := namesOf s t c
  match claimBuffer (s.tile t).ibufs h n with
  | none => .error .wait
  | some l =>
    let (req, s) := s.fresh
    let rg := (rangeSpecs s t x.handle (blockTenant s x.handle) engInterp req x.task false (addrOf p) 4160)
    if rangesFit s rg = false then .error .wait
    else
      let b : IBuffer :=
        { handle := h, name := n, loading := true, image := [], addr := p, req := req, task := x.task, refetch := op.isSome, ctx := some c, op := op }
      let s := (registerRanges (setBufs s t (b :: l)) rg).setCtx t c { x with awaiting := some req }
      .ok (s.addDueOnce (loadStep op.isSome t h n))
/-- The ITABLE trap (R267). -/
def tableTrap (n reason : Nat) (p : Word) : Trap := { code := 0x18, engine := engInterp, addr := p, info := w64 (n * 2 ^ 8 + reason) }
/-- The range of a request shortened to its first lines (R263 step 6). -/
def shortenRange (s : State) (req lines : Nat) : State :=
  { s with tiles := s.tiles.map fun p => (p.1, { p.2 with locks := p.2.locks.map fun l => if l.req = req then { l with lines := lines } else l }) }
/-- The header read and validated, and the range shortened to the image that it names (R258, R263 steps 5 and 6); once. -/
def readHeader (s : State) (t c : Nat) (b : IBuffer) : Except Stop (IBuffer × State) :=
  if b.image ≠ [] then .ok (b, s)
  else match engineRead s (threadReq s t c) b.addr 64 with
    | .error e => .error e
    | .ok (hd, s) =>
      if headerOk hd = false then .error (.trap (tableTrap b.name 2 b.addr))
      else
        let b' := { b with image := hd }
        .ok (b', shortenRange (setBuf s t b b') b.req (4 + tabSegs hd))
/-- The segments read and checked (R263 step 7). -/
def readSegments (s : State) (t c : Nat) (b : IBuffer) : Except Stop (IBuffer × State) :=
  match engineRead s (threadReq s t c) (withAddr b.addr (addrOf b.addr + 64)) (16 * tabSegs b.image) with
  | .error e => .error e
  | .ok (sg, s) =>
    if coefsOk (b.image ++ sg) = false then .error (.trap (tableTrap b.name 2 b.addr))
    else
      let b' := { b with image := b.image ++ sg, whole := true }
      .ok (b', setBuf s t b b')
/-- The buffer of a load removed and its range released; a further load of the name goes on. -/
def dropLoad (s : State) (t : Nat) (b : IBuffer) : State :=
  (releaseRanges (setBufs s t ((s.tile t).ibufs.erase b)) b.req).addDueOnce (loadStep b.refetch t b.handle b.name)
/-- Does the thread that began a load still wait for it. -/
def loadAwaited (s : State) (t : Nat) (b : IBuffer) : Option Nat :=
  b.ctx.bind fun c => if (s.ctx t c).awaiting = some b.req then some c else none
/-- Does an itld whose image has been read leave its range registered for now: its thread may issue and has not done so since. A store to the
image that follows the itld meets the range (R263, R269, R270). -/
def loadHeld (s : State) (t : Nat) (b : IBuffer) : Bool := !b.refetch && !b.tried && b.ctx.any (threadReady s t)
/-- A load ends with its buffer the tile's copy of the name: other copies are freed, its range is released (R256, R263 step 8). -/
def holdName (s : State) (t : Nat) (b : IBuffer) : State :=
  let s := dropLoad s t b
  let rest := (s.tile t).ibufs.filter fun d => !(d.isFor b.handle b.name && !d.loading)
  setBufs s t ({ b with loading := false, ctx := none, op := none } :: rest)
/-- The buffers that hold a name freed on every tile; one that a refetch fills is freed when its iev or iseg has completed (Table 8.1, R271). -/
def freeName (s : State) (h n : Nat) : State :=
  { s with tiles := s.tiles.map fun p => (p.1, { p.2 with ibufs := p.2.ibufs.filter fun b => !(b.isFor h n && !b.loading) }) }
/-- An itld ends (R263 step 8): the name is Loaded and Resident (Table 8.1); a buffer of another tile no longer holds its contents, so that the
name is Stale there (R255, R269). -/
def endLoad (s : State) (t : Nat) (b : IBuffer) : State :=
  let s := setSource (holdName (freeName s b.handle b.name) t b) b.handle b.name (b.addr.toNat, leAt b.image 0 8)
  match b.ctx with
  | some c => noteCompleted s t c
  | none => s
/-- A refetch ends (R256): its buffer holds the name if that is still Loaded from the same source and no later load has brought it; the header
is the one that has been validated now (R266). -/
def endRefetch (s : State) (t : Nat) (b : IBuffer) : State :=
  match tableSource? s b.handle b.name, ibuf? s t b.handle b.name with
  | some p, none =>
    if p.1 = b.addr.toNat then setSource (holdName s t b) b.handle b.name (p.1, leAt b.image 0 8) else dropLoad s t b
  | _, _ => dropLoad s t b
/-- A buffer made the most recently used. -/
def bufferUsed (s : State) (t : Nat) (b : IBuffer) : State := setBufs s t (b :: (s.tile t).ibufs.erase b)
/-- An iev or iseg on a table image (R259, R260, R264). -/
def lookupWith (img : List Byte) (u : TableUse) (s : State) : Except Stop State :=
  let f := interpFmt u.fmt
  vecBody [u.b] 1 (interpRegs u.a f (match u.mods with | some m => ievLane img f m | none => isegLane img f)) s
/-- The instruction that a refetch serves, performed on the image that it has fetched (R264, R271); it may have to wait for a beat. -/
def serveRefetch (s : State) (t c : Nat) (b : IBuffer) : State :=
  let run := b.op.elim (fun s => .ok s) (lookupWith b.image)
  match run { s with cur := .thread t c } with
  | .error .wait => s.addDueOnce (loadStep true t b.handle b.name)
  | .error e => stopFor t c engInterp e (endRefetch s t b)
  | .ok _ => completeFor t c (fun s => match run s with | .ok s' => s' | .error _ => s) (endRefetch s t b)
/-- A load performed (R263 steps 5 to 8, R256). A fault or an invalid image traps at the instruction; an itld then leaves the name Empty, a
refetch only when the image is invalid (Table 8.1). An itld retires at its last fault point, the end of step 7. -/
def loadBody (s : State) (t h n : Nat) (refetch : Bool) : State :=
  let again (s : State) : State := s.addDueOnce (loadStep refetch t h n)
  match loadOf? s t h n refetch with
  | none => s
  | some b =>
    if b.whole && !refetch then (if loadHeld s t b then again s else endLoad s t b)
    else match loadAwaited s t b with
    | none => let s := dropLoad s t b; if refetch then s else emptyName s h n
    | some c =>
      let fail (s : State) (b : IBuffer) : Stop → State
        | .trap tr => stopFor t c engInterp (.trap tr) (let s := dropLoad s t b; if refetch = false ∨ tr.code = 0x18 then emptyName s h n else s)
        | _ => again s
      if b.whole then serveRefetch s t c b
      else if rangesClear s b.req = false then again s
      else match readHeader s t c b with
        | .error e => fail s b e
        | .ok (b, s) => match readSegments s t c b with
          | .error e => fail s b e
          | .ok (b, s) => if refetch then serveRefetch s t c b else again (completeFor t c State.retire s)
/-- TABLE_LOAD_COMPLETE (R263). -/
def execTableLoadComplete (tile handle name : Nat) (s : State) : Host.Outcome State Fault Refusal := .next (loadBody s tile handle name false)
/-- REFETCH (R256, R264). -/
def execRefetch (tile handle name : Nat) (s : State) : Host.Outcome State Fault Refusal := .next (loadBody s tile handle name true)

/-! ## The instructions (R263-R266) -/

/-- itld (R263 steps 1 to 4); a trap leaves the name Empty. -/
def itldBody (n b : Reg) (s : State) : Except Stop State :=
  match s.cur with
  | .thread t c =>
    let p := s.getG b
    let h := namesOf s t c
    if ownLoad s t c h n.val then .error .wait
    else if ptrOk p = false then .ok (raise (emptyName s h n.val) { memTrap 0x14 p with engine := engInterp })
    else if p.toNat % 64 ≠ 0 then .ok (raise (emptyName s h n.val) (tableTrap n.val 3 p))
    else startLoad s t c n.val p none
  | _ => .ok s
/-- itld n, gB (R263). -/
def execItld (n b _la : Reg) (s : State) : Host.Outcome State Fault Refusal := runInstr interpProfile s (itldBody n b)
/-- iev and iseg (R262, R264): ITABLE for an Empty name, a refetch for a Stale one, a wait while the name loads. -/
def lookupBody (n : Reg) (u : TableUse) (s : State) : Except Stop State :=
  match s.cur with
  | .thread t c =>
    let h := namesOf s t c
    if nameLoading s h n.val then .error .wait
    else match tableSource? s h n.val with
      | none => .error (.trap (tableTrap n.val 1 0))
      | some p => match ibuf? s t h n.val with
        | some d => (match lookupWith d.image u s with
          | .error e => .error e
          | .ok s' => .ok (bufferUsed s' t d))
        | none => startLoad s t c n.val (w64 p.1) (some u)
  | _ => .ok s
/-- iev.fmt vA, vB, n (R259, R264). -/
def execIev (fmt : Fin 4) (a b n : Reg) (m : FMods) (_la : Reg) (s : State) : Host.Outcome State Fault Refusal :=
  runInstr interpProfile s (lookupBody n { fmt := fmt, a := a, b := b, mods := some m })
/-- iseg.fmt vA, vB, n (R260, R264). -/
def execIseg (fmt : Fin 4) (a b n _la : Reg) (s : State) : Host.Outcome State Fault Refusal :=
  runInstr interpProfile s (lookupBody n { fmt := fmt, a := a, b := b, mods := none })
/-- itinv n (R265). -/
def itinvBody (n : Reg) (s : State) : Except Stop State :=
  match s.cur with
  | .thread t c =>
    let h := namesOf s t c
    if ownLoad s t c h n.val then .error .wait else .ok (emptyName s h n.val).retire
  | _ => .ok s
/-- itinv n (R265). -/
def execItinv (n _la : Reg) (s : State) : Host.Outcome State Fault Refusal := runInstr interpProfile s (itinvBody n)
/-- The word of Table 8.4. -/
def itqWord (s : State) (t h n : Nat) : Word :=
  let busy := boolNat (nameBusy s t h n) * 2 ^ 61
  match tableSource? s h n with
  | none => w64 busy
  | some (_, hd) =>
    w64 (2 ^ 63 + boolNat (ibuf? s t h n).isSome * 2 ^ 62 + busy + fieldN hd 35 32 * 2 ^ 16 + fieldN hd 47 40 * 2 ^ 8 + fieldN hd 49 48)
/-- itq (R266). -/
def itqBody (a n : Reg) (s : State) : Except Stop State :=
  match s.cur with
  | .thread t c =>
    let h := namesOf s t c
    if ownLoad s t c h n.val then .error .wait else .ok (alu a (itqWord s t h n.val) s)
  | _ => .ok s
/-- itq gA, n (R266). -/
def execItq (a n _la : Reg) (s : State) : Host.Outcome State Fault Refusal := runInstr interpProfile s (itqBody a n)

end Sys2Proof.Machine
end

