-- ==== Sys2Proof/Machine/Dispatch.lean ====
section
/-! DEFINITION. One arm per constructor of Instr: its meaning. -/

namespace Sys2Proof.Machine

/-- What an instruction or an engine step does. -/
def exec (i : Instr) (s : State) : Host.Outcome State Fault Refusal :=
  match i with
  | .codeLineFetch ag => Sys2Proof.Machine.execCodeLineFetch ag s
  | .resume tenant handle tid => Sys2Proof.Machine.execResume tenant handle tid s
  | .redirect tenant handle tid => Sys2Proof.Machine.execRedirect tenant handle tid s
  | .discard tenant handle tid => Sys2Proof.Machine.execDiscard tenant handle tid s
  | .halt tenant handle tid => Sys2Proof.Machine.execHalt tenant handle tid s
  | .present tenant handle tid => Sys2Proof.Machine.execPresent tenant handle tid s
  | .retry tenant handle req fseq => Sys2Proof.Machine.execRetry tenant handle req fseq s
  | .continue_ tenant handle req fseq => Sys2Proof.Machine.execContinue tenant handle req fseq s
  | .fail tenant handle req fseq status => Sys2Proof.Machine.execFail tenant handle req fseq status s
  | .issueSlotTaken tile => Sys2Proof.Machine.execIssueSlotTaken tile s
  | .registerCacheFill tile ctx line => Sys2Proof.Machine.execRegisterCacheFill tile ctx line s
  | .extensionImageFill tile ctx => Sys2Proof.Machine.execExtensionImageFill tile ctx s
  | .pauseExpiry tile ctx => Sys2Proof.Machine.execPauseExpiry tile ctx s
  | .budget tile ctx => Sys2Proof.Machine.execBudget tile ctx s
  | .activationByMessage tile => Sys2Proof.Machine.execActivationByMessage tile s
  | .activationByHandOff tile => Sys2Proof.Machine.execActivationByHandOff tile s
  | .automaticSteal handle => Sys2Proof.Machine.execAutomaticSteal handle s
  | .overflowReturn island => Sys2Proof.Machine.execOverflowReturn island s
  | .commit task => Sys2Proof.Machine.execCommit task s
  | .becomeSerialising task => Sys2Proof.Machine.execBecomeSerialising task s
  | .readSetRegistration task line => Sys2Proof.Machine.execReadSetRegistration task line s
  | .invalidation tile line => Sys2Proof.Machine.execInvalidation tile line s
  | .clusterWindowAccess pkt => Sys2Proof.Machine.execClusterWindowAccess pkt s
  | .edgeMemoryAccess pkt => Sys2Proof.Machine.execEdgeMemoryAccess pkt s
  | .pageWalk cluster tenant va access => Sys2Proof.Machine.execPageWalk cluster tenant va access s
  | .beatArrival tile ctx stream => Sys2Proof.Machine.execBeatArrival tile ctx stream s
  | .tableLoadComplete tile handle name => Sys2Proof.Machine.execTableLoadComplete tile handle name s
  | .refetch tile handle name => Sys2Proof.Machine.execRefetch tile handle name s
  | .requestActivation tile entry => Sys2Proof.Machine.execRequestActivation tile entry s
  | .requestDone tile entry => Sys2Proof.Machine.execRequestDone tile entry s
  | .zlimit tile entry => Sys2Proof.Machine.execZlimit tile entry s
  | .kpost island core tile addr => Sys2Proof.Machine.execKpost island core tile addr s
  | .matrixOperationStart tile => Sys2Proof.Machine.execMatrixOperationStart tile s
  | .fold tile => Sys2Proof.Machine.execFold tile s
  | .matrixOperationComplete tile => Sys2Proof.Machine.execMatrixOperationComplete tile s
  | .injection tile => Sys2Proof.Machine.execInjection tile s
  | .hop pkt => Sys2Proof.Machine.execHop pkt s
  | .relay pkt => Sys2Proof.Machine.execRelay pkt s
  | .handleCacheUpdate pkt => Sys2Proof.Machine.execHandleCacheUpdate pkt s
  | .messageArrival pkt => Sys2Proof.Machine.execMessageArrival pkt s
  | .migrationArrival pkt => Sys2Proof.Machine.execMigrationArrival pkt s
  | .ack pkt => Sys2Proof.Machine.execAck pkt s
  | .nackBusy pkt => Sys2Proof.Machine.execNackBusy pkt s
  | .nackStale pkt => Sys2Proof.Machine.execNackStale pkt s
  | .nackBadhandler pkt => Sys2Proof.Machine.execNackBadhandler pkt s
  | .nackRefused pkt => Sys2Proof.Machine.execNackRefused pkt s
  | .nackNopath pkt => Sys2Proof.Machine.execNackNopath pkt s
  | .backoffExpiry site entry => Sys2Proof.Machine.execBackoffExpiry site entry s
  | .poisonTail pkt => Sys2Proof.Machine.execPoisonTail pkt s
  | .launchPooled id => Sys2Proof.Machine.execLaunchPooled id s
  | .placement id => Sys2Proof.Machine.execPlacement id s
  | .counterComplete level id => Sys2Proof.Machine.execCounterComplete level id s
  | .deadline id => Sys2Proof.Machine.execDeadline id s
  | .ceilometerCheck cluster record => Sys2Proof.Machine.execCeilometerCheck cluster record s
  | .sensorReading tile temp => Sys2Proof.Machine.execSensorReading tile temp s
  | .rotation cluster => Sys2Proof.Machine.execRotation cluster s
  | .calmingEnd cluster => Sys2Proof.Machine.execCalmingEnd cluster s
  | .moveAbandoned cluster => Sys2Proof.Machine.execMoveAbandoned cluster s
  | .drainingEnd cluster => Sys2Proof.Machine.execDrainingEnd cluster s
  | .copyingEnd cluster => Sys2Proof.Machine.execCopyingEnd cluster s
  | .switchingEnd cluster => Sys2Proof.Machine.execSwitchingEnd cluster s
  | .stubRelease tile handle => Sys2Proof.Machine.execStubRelease tile handle s
  | .backstop clr => Sys2Proof.Machine.execBackstop clr s
  | .eviction handle => Sys2Proof.Machine.execEviction handle s
  | .cleared clr => Sys2Proof.Machine.execCleared clr s
  | .restore cluster handle => Sys2Proof.Machine.execRestore cluster handle s
  | .blockRestored handle => Sys2Proof.Machine.execBlockRestored handle s
  | .sliceEnd tile => Sys2Proof.Machine.execSliceEnd tile s
  | .faultQueueAppend island => Sys2Proof.Machine.execFaultQueueAppend island s
  | .heldRecordDelivery island => Sys2Proof.Machine.execHeldRecordDelivery island s
  | .qevent island tenant => Sys2Proof.Machine.execQevent island tenant s
  | .rsmcmd island core cmd => Sys2Proof.Machine.execRsmcmd island core cmd s
  | .mext value => Sys2Proof.Machine.execMext value s
  | .controlSpaceWrite tenant addr size value => Sys2Proof.Machine.execControlSpaceWrite tenant addr size value s
  | .regionRekey region epoch => Sys2Proof.Machine.execRegionRekey region epoch s
  | .sweepComplete region => Sys2Proof.Machine.execSweepComplete region s
  | .checkpoint ctl slot => Sys2Proof.Machine.execCheckpoint ctl slot s
  | .checkpointComplete ctl => Sys2Proof.Machine.execCheckpointComplete ctl s
  | .slotRestore ctl slot => Sys2Proof.Machine.execSlotRestore ctl slot s
  | .restoreComplete ctl => Sys2Proof.Machine.execRestoreComplete ctl s
  | .erase ctl slot => Sys2Proof.Machine.execErase ctl slot s
  | .cxlMemRead fn offset len => Sys2Proof.Machine.execCxlMemRead fn offset len s
  | .cxlMemWrite fn offset bytes => Sys2Proof.Machine.execCxlMemWrite fn offset bytes s
  | .dbell fn value => Sys2Proof.Machine.execDbell fn value s
  | .apertureAccess module addr write bytes => Sys2Proof.Machine.execApertureAccess module addr write bytes s
  | .collpost addr => Sys2Proof.Machine.execCollpost addr s
  | .collectiveResult tag => Sys2Proof.Machine.execCollectiveResult tag s
  | .timeout tag => Sys2Proof.Machine.execTimeout tag s
  | .linkdown tag => Sys2Proof.Machine.execLinkdown tag s
  | .getVersion fn => Sys2Proof.Machine.execGetVersion fn s
  | .getCapabilities fn => Sys2Proof.Machine.execGetCapabilities fn s
  | .negotiateAlgorithms fn => Sys2Proof.Machine.execNegotiateAlgorithms fn s
  | .getDigests fn => Sys2Proof.Machine.execGetDigests fn s
  | .getCertificate fn => Sys2Proof.Machine.execGetCertificate fn s
  | .challenge fn nonce => Sys2Proof.Machine.execChallenge fn nonce s
  | .getMeasurements fn => Sys2Proof.Machine.execGetMeasurements fn s
  | .doze => Sys2Proof.Machine.execDoze s
  | .run => Sys2Proof.Machine.execRun s
  | .powerApplied => Sys2Proof.Machine.execPowerApplied s
  | .selfCalibration error => Sys2Proof.Machine.execSelfCalibration error s
  | .selfTest failing => Sys2Proof.Machine.execSelfTest failing s
  | .routerTableWrite detours => Sys2Proof.Machine.execRouterTableWrite detours s
  | .initialisation error => Sys2Proof.Machine.execInitialisation error s
  | .powerOff => Sys2Proof.Machine.execPowerOff s
  | .response pkt => Sys2Proof.Machine.execResponse pkt s
  | .tlbInvalidation inv => Sys2Proof.Machine.execTlbInvalidation inv s
  | .powerGated tile => Sys2Proof.Machine.execPowerGated tile s
  | .nop => Sys2Proof.Machine.execNop s
  | .ret => Sys2Proof.Machine.execRet s
  | .jr b => Sys2Proof.Machine.execJr b s
  | .callr b => Sys2Proof.Machine.execCallr b s
  | .pause n => Sys2Proof.Machine.execPause n s
  | .sys n => Sys2Proof.Machine.execSys n s
  | .tret => Sys2Proof.Machine.execTret s
  | .yield => Sys2Proof.Machine.execYield s
  | .calm => Sys2Proof.Machine.execCalm s
  | .fence scope => Sys2Proof.Machine.execFence scope s
  | .lfence => Sys2Proof.Machine.execLfence s
  | .waitpred => Sys2Proof.Machine.execWaitpred s
  | .addHead a b => Sys2Proof.Machine.execAddHead a b s
  | .addX a b c => Sys2Proof.Machine.execAddX a b c s
  | .addI32 a b imm => Sys2Proof.Machine.execAddI32 a b imm s
  | .addI64 a b imm => Sys2Proof.Machine.execAddI64 a b imm s
  | .subHead a b => Sys2Proof.Machine.execSubHead a b s
  | .subX a b c => Sys2Proof.Machine.execSubX a b c s
  | .subI32 a b imm => Sys2Proof.Machine.execSubI32 a b imm s
  | .subI64 a b imm => Sys2Proof.Machine.execSubI64 a b imm s
  | .andX a b c => Sys2Proof.Machine.execAndX a b c s
  | .andXI a b imm => Sys2Proof.Machine.execAndXI a b imm s
  | .orX a b c => Sys2Proof.Machine.execOrX a b c s
  | .orXI a b imm => Sys2Proof.Machine.execOrXI a b imm s
  | .xorX a b c => Sys2Proof.Machine.execXorX a b c s
  | .xorXI a b imm => Sys2Proof.Machine.execXorXI a b imm s
  | .andnX a b c => Sys2Proof.Machine.execAndnX a b c s
  | .andnXI a b imm => Sys2Proof.Machine.execAndnXI a b imm s
  | .shlX a b c => Sys2Proof.Machine.execShlX a b c s
  | .shlXI a b imm => Sys2Proof.Machine.execShlXI a b imm s
  | .shrX a b c => Sys2Proof.Machine.execShrX a b c s
  | .shrXI a b imm => Sys2Proof.Machine.execShrXI a b imm s
  | .sraX a b c => Sys2Proof.Machine.execSraX a b c s
  | .sraXI a b imm => Sys2Proof.Machine.execSraXI a b imm s
  | .mulX a b c => Sys2Proof.Machine.execMulX a b c s
  | .mulXI a b imm => Sys2Proof.Machine.execMulXI a b imm s
  | .mulhX a b c => Sys2Proof.Machine.execMulhX a b c s
  | .mulhXI a b imm => Sys2Proof.Machine.execMulhXI a b imm s
  | .mulhuX a b c => Sys2Proof.Machine.execMulhuX a b c s
  | .mulhuXI a b imm => Sys2Proof.Machine.execMulhuXI a b imm s
  | .div a b c la => Sys2Proof.Machine.execDiv a b c la s
  | .divu a b c la => Sys2Proof.Machine.execDivu a b c la s
  | .rem a b c la => Sys2Proof.Machine.execRem a b c la s
  | .remu a b c la => Sys2Proof.Machine.execRemu a b c la s
  | .minX a b c => Sys2Proof.Machine.execMinX a b c s
  | .minXI a b imm => Sys2Proof.Machine.execMinXI a b imm s
  | .maxX a b c => Sys2Proof.Machine.execMaxX a b c s
  | .maxXI a b imm => Sys2Proof.Machine.execMaxXI a b imm s
  | .minuX a b c => Sys2Proof.Machine.execMinuX a b c s
  | .minuXI a b imm => Sys2Proof.Machine.execMinuXI a b imm s
  | .maxuX a b c => Sys2Proof.Machine.execMaxuX a b c s
  | .maxuXI a b imm => Sys2Proof.Machine.execMaxuXI a b imm s
  | .ldBK a b la off => Sys2Proof.Machine.execLdBK a b la off s
  | .ldBKL a b la off => Sys2Proof.Machine.execLdBKL a b la off s
  | .ldHK a b la off => Sys2Proof.Machine.execLdHK a b la off s
  | .ldHKL a b la off => Sys2Proof.Machine.execLdHKL a b la off s
  | .ldWK a b la off => Sys2Proof.Machine.execLdWK a b la off s
  | .ldWKL a b la off => Sys2Proof.Machine.execLdWKL a b la off s
  | .ldDK a b la off => Sys2Proof.Machine.execLdDK a b la off s
  | .ldDKL a b la off => Sys2Proof.Machine.execLdDKL a b la off s
  | .stBK a b la off => Sys2Proof.Machine.execStBK a b la off s
  | .stBKL a b la off => Sys2Proof.Machine.execStBKL a b la off s
  | .stHK a b la off => Sys2Proof.Machine.execStHK a b la off s
  | .stHKL a b la off => Sys2Proof.Machine.execStHKL a b la off s
  | .stWK a b la off => Sys2Proof.Machine.execStWK a b la off s
  | .stWKL a b la off => Sys2Proof.Machine.execStWKL a b la off s
  | .stDK a b la off => Sys2Proof.Machine.execStDK a b la off s
  | .stDKL a b la off => Sys2Proof.Machine.execStDKL a b la off s
  | .seqX a b c => Sys2Proof.Machine.execSeqX a b c s
  | .seqXI a b imm => Sys2Proof.Machine.execSeqXI a b imm s
  | .sneX a b c => Sys2Proof.Machine.execSneX a b c s
  | .sneXI a b imm => Sys2Proof.Machine.execSneXI a b imm s
  | .sltX a b c => Sys2Proof.Machine.execSltX a b c s
  | .sltXI a b imm => Sys2Proof.Machine.execSltXI a b imm s
  | .sltuX a b c => Sys2Proof.Machine.execSltuX a b c s
  | .sltuXI a b imm => Sys2Proof.Machine.execSltuXI a b imm s
  | .liI16 a imm => Sys2Proof.Machine.execLiI16 a imm s
  | .liI32 a imm => Sys2Proof.Machine.execLiI32 a imm s
  | .liI64 a imm => Sys2Proof.Machine.execLiI64 a imm s
  | .rdc a n => Sys2Proof.Machine.execRdc a n s
  | .wrc a n => Sys2Proof.Machine.execWrc a n s
  | .brJ loff slot => Sys2Proof.Machine.execBrJ loff slot s
  | .brJL loff slot => Sys2Proof.Machine.execBrJL loff slot s
  | .callJ loff slot => Sys2Proof.Machine.execCallJ loff slot s
  | .callJL loff slot => Sys2Proof.Machine.execCallJL loff slot s
  | .mov a b => Sys2Proof.Machine.execMov a b s
  | .neg a b => Sys2Proof.Machine.execNeg a b s
  | .not a b => Sys2Proof.Machine.execNot a b s
  | .clz a b => Sys2Proof.Machine.execClz a b s
  | .ctz a b => Sys2Proof.Machine.execCtz a b s
  | .popc a b => Sys2Proof.Machine.execPopc a b s
  | .bswap a b => Sys2Proof.Machine.execBswap a b s
  | .tagof a b => Sys2Proof.Machine.execTagof a b s
  | .extBZ a b => Sys2Proof.Machine.execExtBZ a b s
  | .extHZ a b => Sys2Proof.Machine.execExtHZ a b s
  | .extWZ a b => Sys2Proof.Machine.execExtWZ a b s
  | .extBS a b => Sys2Proof.Machine.execExtBS a b s
  | .extHS a b => Sys2Proof.Machine.execExtHS a b s
  | .extWS a b => Sys2Proof.Machine.execExtWS a b s
  | .bnzJ a loff slot => Sys2Proof.Machine.execBnzJ a loff slot s
  | .bnzJL a loff slot => Sys2Proof.Machine.execBnzJL a loff slot s
  | .bzJ a loff slot => Sys2Proof.Machine.execBzJ a loff slot s
  | .bzJL a loff slot => Sys2Proof.Machine.execBzJL a loff slot s
  | .beqJ a b loff slot => Sys2Proof.Machine.execBeqJ a b loff slot s
  | .beqJL a b loff slot => Sys2Proof.Machine.execBeqJL a b loff slot s
  | .bneJ a b loff slot => Sys2Proof.Machine.execBneJ a b loff slot s
  | .bneJL a b loff slot => Sys2Proof.Machine.execBneJL a b loff slot s
  | .bltJ a b loff slot => Sys2Proof.Machine.execBltJ a b loff slot s
  | .bltJL a b loff slot => Sys2Proof.Machine.execBltJL a b loff slot s
  | .bgeJ a b loff slot => Sys2Proof.Machine.execBgeJ a b loff slot s
  | .bgeJL a b loff slot => Sys2Proof.Machine.execBgeJL a b loff slot s
  | .bltuJ a b loff slot => Sys2Proof.Machine.execBltuJ a b loff slot s
  | .bltuJL a b loff slot => Sys2Proof.Machine.execBltuJL a b loff slot s
  | .bgeuJ a b loff slot => Sys2Proof.Machine.execBgeuJ a b loff slot s
  | .bgeuJL a b loff slot => Sys2Proof.Machine.execBgeuJL a b loff slot s
  | .sleX a b c => Sys2Proof.Machine.execSleX a b c s
  | .sleXI a b imm => Sys2Proof.Machine.execSleXI a b imm s
  | .sleuX a b c => Sys2Proof.Machine.execSleuX a b c s
  | .sleuXI a b imm => Sys2Proof.Machine.execSleuXI a b imm s
  | .bext a b lsb width1 => Sys2Proof.Machine.execBext a b lsb width1 s
  | .bins a b lsb width1 => Sys2Proof.Machine.execBins a b lsb width1 s
  | .sel a b c e => Sys2Proof.Machine.execSel a b c e s
  | .paddX a b c => Sys2Proof.Machine.execPaddX a b c s
  | .paddXI a b imm => Sys2Proof.Machine.execPaddXI a b imm s
  | .psubX a b c => Sys2Proof.Machine.execPsubX a b c s
  | .psubXI a b imm => Sys2Proof.Machine.execPsubXI a b imm s
  | .ptagX a b c => Sys2Proof.Machine.execPtagX a b c s
  | .ptagXI a b imm => Sys2Proof.Machine.execPtagXI a b imm s
  | .loopGJ a loff slot => Sys2Proof.Machine.execLoopGJ a loff slot s
  | .loopGJL a loff slot => Sys2Proof.Machine.execLoopGJL a loff slot s
  | .loopMbJ a loff slot => Sys2Proof.Machine.execLoopMbJ a loff slot s
  | .loopMbJL a loff slot => Sys2Proof.Machine.execLoopMbJL a loff slot s
  | .ldx size a b c la => Sys2Proof.Machine.execLdx size a b c la s
  | .stx size a b c la => Sys2Proof.Machine.execStx size a b c la s
  | .ldp a e b c la => Sys2Proof.Machine.execLdp a e b c la s
  | .stp a e b c la => Sys2Proof.Machine.execStp a e b c la s
  | .ldxS size a b c la => Sys2Proof.Machine.execLdxS size a b c la s
  | .vadd fmt a b c m => Sys2Proof.Machine.execVadd fmt a b c m s
  | .vsub fmt a b c m => Sys2Proof.Machine.execVsub fmt a b c m s
  | .vmul fmt a b c m => Sys2Proof.Machine.execVmul fmt a b c m s
  | .vfma fmt a b c e m => Sys2Proof.Machine.execVfma fmt a b c e m s
  | .vmin fmt a b c m => Sys2Proof.Machine.execVmin fmt a b c m s
  | .vmax fmt a b c m => Sys2Proof.Machine.execVmax fmt a b c m s
  | .vrnd fmt a b m => Sys2Proof.Machine.execVrnd fmt a b m s
  | .vdiv fmt a b c m la => Sys2Proof.Machine.execVdiv fmt a b c m la s
  | .vsqrt fmt a b m la => Sys2Proof.Machine.execVsqrt fmt a b m la s
  | .vcmp fmt a b c cond m => Sys2Proof.Machine.execVcmp fmt a b c cond m s
  | .vsel fmt a b c e m => Sys2Proof.Machine.execVsel fmt a b c e m s
  | .vredadd fmt a b m => Sys2Proof.Machine.execVredadd fmt a b m s
  | .vredmax fmt a b m => Sys2Proof.Machine.execVredmax fmt a b m s
  | .vredmin fmt a b m => Sys2Proof.Machine.execVredmin fmt a b m s
  | .vcvt dst src a b m => Sys2Proof.Machine.execVcvt dst src a b m s
  | .vqnt fmt a b c opts => Sys2Proof.Machine.execVqnt fmt a b c opts s
  | .vdqnt fmt a b c opts m => Sys2Proof.Machine.execVdqnt fmt a b c opts m s
  | .vand fmt a b c => Sys2Proof.Machine.execVand fmt a b c s
  | .vor fmt a b c => Sys2Proof.Machine.execVor fmt a b c s
  | .vxor fmt a b c => Sys2Proof.Machine.execVxor fmt a b c s
  | .vshl fmt a b c => Sys2Proof.Machine.execVshl fmt a b c s
  | .vshr fmt a b c => Sys2Proof.Machine.execVshr fmt a b c s
  | .vperm fmt a b c m => Sys2Proof.Machine.execVperm fmt a b c m s
  | .vclr a => Sys2Proof.Machine.execVclr a s
  | .vmov fmt a b m => Sys2Proof.Machine.execVmov fmt a b m s
  | .vbcast fmt a b => Sys2Proof.Machine.execVbcast fmt a b s
  | .vins fmt a b word => Sys2Proof.Machine.execVins fmt a b word s
  | .vext fmt a b word => Sys2Proof.Machine.execVext fmt a b word s
  | .vldK a b la off => Sys2Proof.Machine.execVldK a b la off s
  | .vldKL a b la off => Sys2Proof.Machine.execVldKL a b la off s
  | .vstK a b la off => Sys2Proof.Machine.execVstK a b la off s
  | .vstKL a b la off => Sys2Proof.Machine.execVstKL a b la off s
  | .sbind fmt a b => Sys2Proof.Machine.execSbind fmt a b s
  | .sunbind a => Sys2Proof.Machine.execSunbind a s
  | .sadv a b => Sys2Proof.Machine.execSadv a b s
  | .sstat a b => Sys2Proof.Machine.execSstat a b s
  | .lda size a b scope la => Sys2Proof.Machine.execLda size a b scope la s
  | .stl size a b scope la => Sys2Proof.Machine.execStl size a b scope la s
  | .amoAdd size a b c scope la => Sys2Proof.Machine.execAmoAdd size a b c scope la s
  | .amoAnd size a b c scope la => Sys2Proof.Machine.execAmoAnd size a b c scope la s
  | .amoOr size a b c scope la => Sys2Proof.Machine.execAmoOr size a b c scope la s
  | .amoXor size a b c scope la => Sys2Proof.Machine.execAmoXor size a b c scope la s
  | .amoMin size a b c scope la => Sys2Proof.Machine.execAmoMin size a b c scope la s
  | .amoMax size a b c scope la => Sys2Proof.Machine.execAmoMax size a b c scope la s
  | .amoSwap size a b c scope la => Sys2Proof.Machine.execAmoSwap size a b c scope la s
  | .amoCas size a b c scope la => Sys2Proof.Machine.execAmoCas size a b c scope la s
  | .spalloc a b c => Sys2Proof.Machine.execSpalloc a b c s
  | .spfree b => Sys2Proof.Machine.execSpfree b s
  | .tlk a b => Sys2Proof.Machine.execTlk a b s
  | .tset b c => Sys2Proof.Machine.execTset b c s
  | .tclr b => Sys2Proof.Machine.execTclr b s
  | .dcinv b => Sys2Proof.Machine.execDcinv b s
  | .dcwb b => Sys2Proof.Machine.execDcwb b s
  | .pf b => Sys2Proof.Machine.execPf b s
  | .lrwr b c => Sys2Proof.Machine.execLrwr b c s
  | .lrrd b c => Sys2Proof.Machine.execLrrd b c s
  | .rlq a b => Sys2Proof.Machine.execRlq a b s
  | .spq a => Sys2Proof.Machine.execSpq a s
  | .itld n b la => Sys2Proof.Machine.execItld n b la s
  | .iev fmt a b n m la => Sys2Proof.Machine.execIev fmt a b n m la s
  | .iseg fmt a b n la => Sys2Proof.Machine.execIseg fmt a b n la s
  | .itinv n la => Sys2Proof.Machine.execItinv n la s
  | .itq a n la => Sys2Proof.Machine.execItq a n la s
  | .zpost a b la => Sys2Proof.Machine.execZpost a b la s
  | .bseal a => Sys2Proof.Machine.execBseal a s
  | .bwait b c => Sys2Proof.Machine.execBwait b c s
  | .zstat a => Sys2Proof.Machine.execZstat a s
  | .zli a imm => Sys2Proof.Machine.execZli a imm s
  | .zmov a b => Sys2Proof.Machine.execZmov a b s
  | .zaddXD a b c => Sys2Proof.Machine.execZaddXD a b c s
  | .zaddXI a b imm => Sys2Proof.Machine.execZaddXI a b imm s
  | .zsubXD a b c => Sys2Proof.Machine.execZsubXD a b c s
  | .zsubXI a b imm => Sys2Proof.Machine.execZsubXI a b imm s
  | .zld a b c => Sys2Proof.Machine.execZld a b c s
  | .zst a b c => Sys2Proof.Machine.execZst a b c s
  | .zcopy a b c => Sys2Proof.Machine.execZcopy a b c s
  | .zstride b c => Sys2Proof.Machine.execZstride b c s
  | .zdone b => Sys2Proof.Machine.execZdone b s
  | .zhalt => Sys2Proof.Machine.execZhalt s
  | .zjmpJ loff slot => Sys2Proof.Machine.execZjmpJ loff slot s
  | .zjmpJL loff slot => Sys2Proof.Machine.execZjmpJL loff slot s
  | .zbnzJ a loff slot => Sys2Proof.Machine.execZbnzJ a loff slot s
  | .zbnzJL a loff slot => Sys2Proof.Machine.execZbnzJL a loff slot s
  | .mcfg imm la => Sys2Proof.Machine.execMcfg imm la s
  | .mzero a la => Sys2Proof.Machine.execMzero a la s
  | .mld a b la => Sys2Proof.Machine.execMld a b la s
  | .mst fmt a b rm clamp la => Sys2Proof.Machine.execMst fmt a b rm clamp la s
  | .mmac a b c e la => Sys2Proof.Machine.execMmac a b c e la s
  | .mmacm a b c e la => Sys2Proof.Machine.execMmacm a b c e la s
  | .mmacs a b c e la => Sys2Proof.Machine.execMmacs a b c e la s
  | .mbin op a b c e la => Sys2Proof.Machine.execMbin op a b c e la s
  | .mres a la => Sys2Proof.Machine.execMres a la s
  | .mwait a la => Sys2Proof.Machine.execMwait a la s
  | .mrdp a la => Sys2Proof.Machine.execMrdp a la s
  | .mwrp b la => Sys2Proof.Machine.execMwrp b la s
  | .mabort a la => Sys2Proof.Machine.execMabort a la s
  | .mstat a la => Sys2Proof.Machine.execMstat a la s
  | .msend a b c e => Sys2Proof.Machine.execMsend a b c e s
  | .msendr a b c e => Sys2Proof.Machine.execMsendr a b c e s
  | .mcast a b c e => Sys2Proof.Machine.execMcast a b c e s
  | .mgset b c => Sys2Proof.Machine.execMgset b c s
  | .mig b => Sys2Proof.Machine.execMig b s
  | .mlat a => Sys2Proof.Machine.execMlat a s
  | .mprobe a b => Sys2Proof.Machine.execMprobe a b s
  | .mbufq a => Sys2Proof.Machine.execMbufq a s
  | .mdrain => Sys2Proof.Machine.execMdrain s
  | .mpoll a => Sys2Proof.Machine.execMpoll a s
  | .glaunch a b => Sys2Proof.Machine.execGlaunch a b s
  | .cwait a b level => Sys2Proof.Machine.execCwait a b level s
  | .cancel a b level => Sys2Proof.Machine.execCancel a b level s
  | .cread a b level => Sys2Proof.Machine.execCread a b level s
  | .dqpush b => Sys2Proof.Machine.execDqpush b s
  | .dqpop a => Sys2Proof.Machine.execDqpop a s
  | .dqsteal a => Sys2Proof.Machine.execDqsteal a s
  | .dqmask b => Sys2Proof.Machine.execDqmask b s
  | .dqlen a => Sys2Proof.Machine.execDqlen a s
  | .bgrd a => Sys2Proof.Machine.execBgrd a s
  | .tsrd a => Sys2Proof.Machine.execTsrd a s
  | .earlyok => Sys2Proof.Machine.execEarlyok s
  | .lstat a b => Sys2Proof.Machine.execLstat a b s
  | .cadd b c level => Sys2Proof.Machine.execCadd b c level s
  | .ftrack b => Sys2Proof.Machine.execFtrack b s
  | .funtrack b => Sys2Proof.Machine.execFuntrack b s
  | .fopen a b c e => Sys2Proof.Machine.execFopen a b c e s
  | .fclose b => Sys2Proof.Machine.execFclose b s
  | .fstat a b => Sys2Proof.Machine.execFstat a b s
  | .falpha a b => Sys2Proof.Machine.execFalpha a b s
  | .clrpost a b c => Sys2Proof.Machine.execClrpost a b c s
  | .clrrep a b => Sys2Proof.Machine.execClrrep a b s
  | .drreq => Sys2Proof.Machine.execDrreq s
  | .resq a b => Sys2Proof.Machine.execResq a b s
  | .mfsr a n => Sys2Proof.Machine.execMfsr a n s
  | .mtsr a n => Sys2Proof.Machine.execMtsr a n s
  | .eret => Sys2Proof.Machine.execEret s
  | .ptfence => Sys2Proof.Machine.execPtfence s
  | .tlbinv b c => Sys2Proof.Machine.execTlbinv b c s
  | .icinv b => Sys2Proof.Machine.execIcinv b s
  | .splinter b c => Sys2Proof.Machine.execSplinter b c s
  | .rgset b => Sys2Proof.Machine.execRgset b s
  | .grant b c => Sys2Proof.Machine.execGrant b c s
  | .revoke b => Sys2Proof.Machine.execRevoke b s
  | .vfbind b c => Sys2Proof.Machine.execVfbind b c s
  | .dhalt b => Sys2Proof.Machine.execDhalt b s
  | .dstep b => Sys2Proof.Machine.execDstep b s
  | .dresume b => Sys2Proof.Machine.execDresume b s
  | .wsw b => Sys2Proof.Machine.execWsw b s
  | .sealMem a b c => Sys2Proof.Machine.execSealMem a b c s
  | .unsealMem a b c => Sys2Proof.Machine.execUnsealMem a b c s
  | .evsign a b c => Sys2Proof.Machine.execEvsign a b c s

end Sys2Proof.Machine
end

