-- ==== Sys2Proof/Machine/Issue.lean ====
section
/-! DEFINITION. Which step the machine takes next, and the issue of one instruction of an agent: code line (R44-R49), the checks of a code
line and of an encoding (R66-R68), the lookahead windows (R59-R61), what follows a retirement. -/

namespace Sys2Proof.Machine

noncomputable section

/-! ## One instruction -/

/-- What an agent finds at its PC. -/
inductive Fetched where
  /-- The PC lies outside the edge window. -/
  | outside
  /-- The code line is not in the instruction cache. -/
  | miss
  /-- The code line is illegal (R66). -/
  | illegalLine
  /-- The encoding is illegal (R67). -/
  | illegalOp
  | instr (i : Instr)
deriving DecidableEq, Repr

/-- What a slot of a code line holds (R66-R68). A PC that names no head of the line, as an edited TRPC can, is an illegal encoding (DESIGN
CHOICE, log entry 31: R47 excludes it and no rule gives its outcome). -/
def fetchAt (l : CodeLine) (pc : Nat) : Fetched :=
  if lineLegal l = false then .illegalLine
  else if pc % 2 = 1 ∨ pc % 64 / 2 = 0 ∨ heads l < pc % 64 / 2 then .illegalOp
  else match decodeSlot l (pc % 64 / 2) with
    | .ok i => .instr i
    | .error _ => .illegalOp
/-- The instruction at the PC of the current agent (R47, R49, R66-R68). A PC outside the edge window, as an edited TRPC or a fall-through past
the window's end gives, is a target that R48 forbids (DEDUCED, log entry 32). -/
def fetch (s : State) : Fetched :=
  if inEdgeWindow s.getPc.toNat = false then .outside
  else match cachedLine? s s.cur s.getPc.toNat with
  | none => .miss
  | some l => fetchAt l s.getPc.toNat
/-- The slice of a tile after an instruction of a context has issued in s₀: FLOOR measured, the cycle counted for the current tenant (R456, R457). -/
def countSlice (s₀ s : State) (t c : Nat) : State :=
  if sliced s₀ (clusterOf t) && blockTenant s₀ (s₀.ctx t c).handle == sliceTenant s₀ t then
    let s := measureSlice s t
    s.setTile t { s.tile t with sliceCount := (s.tile t).sliceCount + 1 }
  else s
/-- After an instruction: if it retired, its window opens and what retirement brings; if an engine will complete it, the window is kept with
the context (R59, R60, R63). -/
def afterIssue (s : State) (w : Option Window) : State :=
  if s.retired then afterRetire s w
  else match s.cur with
    | .thread t c =>
      let x := s.ctx t c
      if x.awaiting.isSome then s.setCtx t c { x with opens := w, succ := some (w64 (nextPc s s.cur x.regs.pc.toNat)) } else s
    | _ => s
/-- A function of the next state of an outcome. -/
def mapNext (f : State → State) : Host.Outcome State Fault Refusal → Host.Outcome State Fault Refusal
  | .next s => .next (f s)
  | .fault e => .fault e
  | .refused r => .refused r
/-- The minors of Table 3.1 that an island core executes in majors that it has in part. -/
def coreHas : Instr → Bool
  | .dcinv _ | .dcwb _ | .pf _ | .lrwr _ _ | .lrrd _ _ | .msend _ _ _ _ | .msendr _ _ _ _ | .mcast _ _ _ _ | .mgset _ _ | .mlat _ | .mbufq _
  | .mdrain | .glaunch _ _ | .cwait _ _ _ | .cancel _ _ _ | .cread _ _ _ | .lstat _ _ | .clrpost _ _ _ | .clrrep _ _ | .fstat _ _ | .falpha _ _
  | .resq _ _ => true
  | _ => false
/-- The minors of Table 3.1 that only a tile thread executes, in majors that an island core has otherwise. -/
def threadOnly : Instr → Bool
  | .yield | .waitpred | .calm | .tret | .loopMbJ _ _ _ | .loopMbJL _ _ _ => true
  | _ => false
/-- The minors of Table 3.1 that a tile thread does not execute, in majors that it has otherwise. -/
def coreOnly : Instr → Bool
  | .clrpost _ _ _ | .clrrep _ _ => true
  | _ => false
/-- The profile of an instruction by its major (Table 3.1). -/
def profileOf (i : Instr) : Profile :=
  match encode i with
  | none => profAll
  | some (h, _) =>
    let m := h / 2 ^ 8 % 64
    if m = 0 ∧ i = .nop then profAll
    else if m = 0x33 ∨ m = 0x34 then profZephyr
    else if m = 0x39 ∨ coreOnly i = true then profCore
    else if m ≤ 0x1F ∨ m = 0x2F then (if threadOnly i then profThread else profBoth)
    else if coreHas i then profBoth
    else profThread
/-- May an instruction issue as an instruction: inside the profile of its agent (Table 3.1), its control register assigned (R132). Otherwise it
is an illegal encoding, whatever windows are open (R67, R79). -/
def legalFor (i : Instr) (a : Agent) : Bool :=
  (profileOf i).allows a &&
    (match i with
     | .rdc _ n | .wrc _ n => (match a with | .thread _ _ => decide (n.toNat ≤ 19 ∨ (24 ≤ n.toNat ∧ n.toNat < 32)) | _ => n == 4 || n == 5)
     | _ => true)
/-- Must a LOOKAHEAD trap wait: an operation that the thread has issued before has not completed (R61). -/
def olderBusy (s : State) : Bool := match s.cur with | .thread t c => engineBusy s t c | _ => false
/-- The instruction of the current agent with what surrounds it: the windows that it opens. -/
def runIssued (i : Instr) (s : State) : Host.Outcome State Fault Refusal :=
  mapNext (fun s' => afterIssue s' (opensOf s.regs s.getPc i)) (exec i { s with retired := false })
/-- An instruction of the current agent: ILLEGALOP outside its profile, LOOKAHEAD on an open window (R61), or it runs. The LOOKAHEAD
comes before the PRIVILEGE of an instruction below its minimum level: no rule orders the two (DESIGN CHOICE, log entry 99). -/
def issueInstr (i : Instr) (s : State) : Host.Outcome State Fault Refusal :=
  if legalFor i s.cur = false then .next (raise s (illegalOp s))
  else match lookahead? s.regs (usesOf i) with
    | some tr => .next (if olderBusy s then { s with retired := false } else raise s tr)
    | none => runIssued i s
/-- One instruction of the current agent. -/
def issue (s : State) : Host.Outcome State Fault Refusal :=
  match fetch s with
  | .outside => .next (raise s { code := 0x03, engine := engScalar, info := s.getPc })
  | .miss => .next (({ s with retired := false } : State).addDueOnce (.codeLineFetch s.cur))
  | .illegalLine =>
    let line := s.getPc.toNat / 64 * 64
    .next (raise s { code := 0x01, engine := engScalar, info := s.getPc, pc := some (w64 (line + 2)) })
  | .illegalOp => .next (raise s (illegalOp s))
  | .instr i => issueInstr i s

/-! ## Which agents may issue -/

/-- Has an instruction of a thread that held slot k issued: it retired, an engine will complete it, or its thread has left the slot. -/
def hasIssued (s : State) (t c k : Nat) : Bool := s.retired || (s.ctx t c).awaiting.isSome || (s.ctx t c).slot != some k
/-- What the selector, the register cache and the slice counter keep of an issue of slot k in s₀ (R144, R149, R456): the slot issued last, or has
waited and is passed over. -/
def noteSlot (s₀ s : State) (t c k : Nat) : State :=
  if hasIssued s t c k then
    let s := countSlice s₀ (touchLines s t c) t c
    s.setTile t { s.tile t with lastSlot := k, passed := [] }
  else s.setTile t { s.tile t with passed := k :: (s.tile t).passed }
/-- The table loads and copy requests of a thread that has gone on to an instruction after them (R270, R294): those there were before its move. A
move that only missed a code line has reached none. -/
def noteTried (s₀ s : State) (t c : Nat) : State :=
  if (match fetch s₀ with | .miss => true | _ => false) then s
  else
  let x := s.tile t
  let k := (s₀.ctx t c).task
  let old (r : ZReq) : Bool := r.task.isSome && r.task == k && (s₀.tile t).zreqs.any fun q => q.uid == r.uid
  s.setTile t { x with
    ibufs := x.ibufs.map fun b => if b.whole && b.ctx == some c then { b with tried := true } else b
    zreqs := x.zreqs.map fun r => if old r then { r with tried := true } else r }
/-- Is a request left Queued for now: its thread may issue and has not done so since the zpost. A store to the copy's ranges that follows the
zpost meets them (R294, Table 9.10). -/
def requestHeld (s : State) (t : Nat) (r : ZReq) : Bool :=
  !r.tried && (match r.task.bind s.task? with | some k => k.tile == t && threadReady s t k.ctx | none => false)
/-- What the selectors of slots and of request contexts keep of the issue of s's agent, after which the state is s' (R149, R274). -/
def noteIssue (s s' : State) : State :=
  match s.cur with
  | .thread t c => (match (s.ctx t c).slot with
    | some k => noteSlot s (noteTried s s' t c) t c k
    | none => s')
  | .zephyr t zc => s'.setTile t { s'.tile t with lastZc := zc }
  | .core _ _ => s'
/-- The issue of an agent with what the selectors keep of it. -/
def issueAgent (s : State) : Host.Outcome State Fault Refusal := mapNext (noteIssue s) (issue { s with retired := false })
/-- An island core that may issue (R469, R485, R542). -/
def coreReady (s : State) (i k : Nat) : Bool :=
  let c := s.core i k
  !c.idle && !c.stopped && !c.lost && decide (c.pause ≤ s.cycle) && !sendsResume s i k
/-- The slots of a tile in the order that R149's selector examines: cyclic, from the one after the slot that issued last. -/
def slotOrder (s : State) (t : Nat) : List Nat := (List.range 8).map fun k => ((s.tile t).lastSlot + 1 + k) % 8
/-- Does the instruction that a slot waited with still wait: it would not issue now. -/
def stillWaits (s : State) (t c k : Nat) : Bool :=
  match issue { s with cur := .thread t c, retired := false } with
  | .next s' => !hasIssued s' t c k
  | _ => false
/-- The ready context of a tile that R149's selector picks. A slot that has waited since the last issue is passed over while what it waits for
has not come; when every ready one is, they are examined again. -/
def slotPick (s : State) (t : Nat) : Option (Nat × Nat) :=
  let ready (slot : Nat) : Option (Nat × Nat) :=
    (s.ctxs.find? fun p => p.1.1 == t && p.2.slot == some slot && threadReady s p.1.1 p.1.2).map Prod.fst
  let eligible (slot : Nat) : Option (Nat × Nat) :=
    if (s.tile t).passed.contains slot then (ready slot).filter fun p => !stillWaits s p.1 p.2 slot else ready slot
  ((slotOrder s t).findSome? eligible).or ((slotOrder s t).findSome? ready)
/-- A movement program that may issue (R278, R288). -/
def zreqReady (s : State) (t : Nat) (r : ZReq) : Bool := r.state == .active && r.isProgram && !r.lost && !movingTile s t && !overLimit s r
/-- The request context of a tile whose program issues next: cyclic, from the one after that which issued last (R274). -/
def zephyrPick (s : State) (t : Nat) : Option Nat :=
  ((List.range 4).map fun k => ((s.tile t).lastZc + 1 + k) % 4).find? fun k => match s.zreqOf? t k with | some r => zreqReady s t r | none => false
/-- The agents that may issue: none unless the wafer runs (R538, R539). -/
def readyAgents (s : State) : List Agent :=
  if s.wafer.power ≠ .run then []
  else
    let tiles := (s.ctxs.filter fun p => threadReady s p.1.1 p.1.2).map fun p => p.1.1
    (tiles.dedup.filterMap fun t => (slotPick s t).map fun p => Agent.thread p.1 p.2) ++
    ((s.cores.filter fun p => coreReady s p.1.1 p.1.2).map fun p => Agent.core p.1.1 p.1.2) ++
    s.tiles.filterMap fun p => (zephyrPick s p.1).map fun k => Agent.zephyr p.1 k

/-! ## Which engine steps may be taken -/

/-- Is there nothing left that a load of a table waits for (R217, R270). -/
def loadClear (s : State) (t h n : Nat) (refetch : Bool) : Bool :=
  match loadOf? s t h n refetch with
  | some b => if b.whole then !loadHeld s t b else rangesClear s b.req
  | none => true
/-- May the head operation of a tile start (R216, R311): not while IMAGEFAULT holds its thread (log entry 46). -/
def headClear (s : State) (t : Nat) : Bool := match (s.tile t).matq with
  | [] => true
  | o :: _ => o.begun || (rangesClear s o.req && (!o.stuck || (s.ctx t o.ctx).state != .trapped))
/-- May a resume packet for a request be acted on (R292, R440). -/
def answerReady (s : State) (tenant target req fseq : Nat) : Bool :=
  !packetWaits s (target % 2 ^ 24) && (match answered? s tenant target req fseq with | some (t, _) => (freeZc s t).isSome | none => true)
/-- A test of a task that is still listed. -/
def taskTest (s : State) (k : Nat) (p : Task → Bool) : Bool := match s.task? k with | some x => p x | none => true
/-- Steps that a wafer in Doze does not take: those of the outside world and of the edge (R539). -/
def sleeps : Instr → Bool
  | .sweepComplete _ | .regionRekey _ _ | .cxlMemRead _ _ _ | .cxlMemWrite _ _ _ | .dbell _ _ | .apertureAccess _ _ _ _ | .getVersion _
  | .getCapabilities _ | .negotiateAlgorithms _ | .getDigests _ | .getCertificate _ | .challenge _ _ | .getMeasurements _
  | .collectiveResult _ => true
  | _ => false
/-- Can a due engine step of a tile or of its contexts be taken now: what it waits for has come. -/
def tileStepReady (s : State) : Instr → Bool
  | .pauseExpiry t c => decide ((s.ctx t c).pause ≤ s.cycle)
  | .issueSlotTaken t => slotReady s t
  | .registerCacheFill t c k =>
    !movingTile s t && (([2, 3, 0, 1].takeWhile fun j => j != k).all fun j => resident s t c j || !s.due.contains (.registerCacheFill t c j))
  | .extensionImageFill t _ => !movingTile s t
  | .budget t c => !budgetDue s t c || ((boundary s t c).isSome && !(s.ctx t c).calm)
  | .activationByHandOff t => (handOff? s t).isSome
  | .activationByMessage t => (inboxNext? s t).isSome
  | .automaticSteal h => (steals? s h).isSome || (s.block? h).isNone
  | .overflowReturn i => (returnNext? s i).isSome || (s.island i).overflow.isEmpty
  | .beatArrival t c k => !beatWanted s t c k || rangesClear s (streamOf (s.ctx t c).vec k).req
  | .tableLoadComplete t h n => loadClear s t h n false
  | .refetch t h n => loadClear s t h n true
  | .requestActivation t u => !movingTile s t && (match zreq? s t u with | some r => r.state != .queued || (mayActivate s t r && !requestHeld s t r) | none => true)
  | .zlimit t u => (match zreq? s t u with | some r => overLimit s r || r.state != .active | none => true)
  | .matrixOperationStart t => headClear s t
  | .sliceEnd t => !sliced s (clusterOf t) || (sliceOver s t && !movingTile s t)
  | .injection t => (injectable? s (siteAt t)).isSome && !movingTile s t
  | _ => true
/-- The write of a function that came first of those not yet performed, to its HDM window or to DBELL (R533). -/
def firstWrite? (s : State) (f : Nat) : Option Instr :=
  s.due.find? fun d => match d with | .cxlMemWrite g _ _ => g == f | .dbell g _ => g == f | _ => false
/-- Can a due engine step of tasks, launches, messages, residency or the edge be taken now. -/
def waferStepReady (s : State) : Instr → Bool
  | .commit k => taskTest s k fun x => x.phase != .ended || canCommit s k x
  | .becomeSerialising k => taskTest s k fun x => !x.wantsSerial || x.phase != .running || canCommit s k x
  | .launchPooled l => (match s.launch? l with | some x => mayPool s x || predGone s x || x.state != .held | none => true)
  | .readSetRegistration k _ => taskTest s k fun x => !movingTile s x.tile
  | .placement l => (match s.launch? l with | some x => x.state != .pooled || nextPlaced s x.poolAt == some l | none => true)
  | .deadline l => (match s.launch? l with | some x => x.ended || x.deadlineHit || deadlinePassed s x | none => true)
  | .resume _ h _ | .redirect _ h _ | .discard _ h _ | .halt _ h _ | .present _ h _ => !packetWaits s h
  | .retry t h r f | .continue_ t h r f => answerReady s t h r f
  | .fail _ h _ _ _ => !packetWaits s (h % 2 ^ 24)
  | .hop p => (match s.packets.find? fun q => q.id == p with | some q => !arrivalHeld s q && !hopWaits s q | none => true)
  | .backoffExpiry x k => (match mget? (sendsOf s x) k with | some e => decide (e.wakeAt ≤ s.cycle) | none => true)
  | .calmingEnd n => calmReady s n || (s.cluster n).drift != .calming
  | .moveAbandoned n => waitPassed s n || (s.cluster n).drift != .calming
  | .drainingEnd n => drained s n || (s.cluster n).drift != .draining
  | .switchingEnd n => switched s n || (s.cluster n).drift != .switching
  | .stubRelease t h => stubIdle s t h || (mget? (s.router t).stubs h).isNone
  | .rotation n => rotationReady s n
  | .backstop c => (match mget? s.clearances c with | some x => x.done || decide (x.backstop ≤ s.cycle) | none => true)
  | .eviction h => evictable s h || (match s.block? h with | some b => b.evicted || !clearing s b.tile | none => true)
  | .cleared c => (match mget? s.clearances c with | some x => x.done || vacant s x | none => true)
  | .blockRestored h => restoreReady s h
  | .faultQueueAppend i => (s.island i).held.isEmpty
  | .heldRecordDelivery i => heldReady s i || (s.island i).held.isEmpty
  | .qevent i t => queueEmpty s i t || (qeventReady s i t).isSome
  | .cxlMemWrite f o b => firstWrite? s f == some (.cxlMemWrite f o b)
  | .dbell f v => firstWrite? s f == some (.dbell f v)
  | .timeout g => collTimedOut s g
  | .doze => dozeReady s || s.wafer.power != .run
  | .powerApplied => s.wafer.power == .off || (s.wafer.power == .boot && s.wafer.stage == 0)
  | _ => true
/-- Can a due engine step be taken now. -/
def enabled (s : State) (i : Instr) : Bool :=
  !(s.wafer.power == .doze && sleeps i) && tileStepReady s i && waferStepReady s i

/-! ## Which step -/

/-- A step the machine may take. -/
inductive Move where
  | engine (i : Instr)
  | agent (a : Agent)
deriving DecidableEq, Repr
/-- Every step the machine may take now: due engine steps, then agents. -/
def moves (s : State) : List Move := (s.due.filter (enabled s)).map .engine ++ (readyAgents s).map .agent
/-- The agent after the current one, cyclically. -/
def agentAfter (a : Agent) (l : List Agent) : Option Agent := ((l.dropWhile fun b => b != a).drop 1).head?.or l.head?
/-- The agent that moves when no choice is given: the current one while it retires, else the next. -/
def nextAgent (s : State) : Option Agent :=
  if s.retired && (readyAgents s).contains s.cur then some s.cur else agentAfter s.cur (readyAgents s)
/-- The step that State.choices names; without one the first due step and the next agent take turns (log entry 2). -/
def pick (s : State) : Option Move :=
  match s.choices with
  | k :: _ => (moves s)[k % (moves s).length]?
  | [] =>
    let e := (s.due.find? (enabled s)).map Move.engine
    let a := (nextAgent s).map Move.agent
    if s.cycle % 2 = 0 then e.or a else a.or e
/-- BUDGETLEFT of the contexts in slots after n cycles (R397). -/
def spendBudget (n : Nat) (p : (Nat × Nat) × Ctx) : (Nat × Nat) × Ctx :=
  if p.2.slot.isSome then (p.1, { p.2 with remain := p.2.remain - n }) else p
/-- The BUDGET steps of the contexts whose budget is used up made due (R398). -/
def noteBudgets (s : State) : State :=
  s.ctxs.foldl (fun s p => if budgetDue s p.1.1 p.1.2 then s.addDueOnce (.budget p.1.1 p.1.2) else s) s
/-- The ZLIMIT steps of the movement programs over their limit made due (R288). -/
def noteLimits (s : State) : State :=
  s.tiles.foldl (fun s p => p.2.zreqs.foldl (fun s r => if overLimit s r then s.addDueOnce (.zlimit p.1 r.uid) else s) s) s
/-- Tiles whose slice tenant has a context that may issue (R456). -/
def noteSlices (s : State) : State :=
  s.ctxs.foldl (fun s p =>
    if sliced s (clusterOf p.1.1) && threadReady s p.1.1 p.1.2 then s.setTile p.1.1 { s.tile p.1.1 with sliceSeen := s.cycle } else s) s
/-- The cycles that the coming step takes pass (log entry 3). -/
def tick (s : State) : State :=
  let n := s.cycleLens.headD 1
  let s := strike s
  noteSlices (noteLimits (noteBudgets { s with cycle := s.cycle + n, cycleLens := s.cycleLens.tail, ctxs := s.ctxs.map (spendBudget n) }))
/-- A move made. -/
def makeMove (m : Move) (s : State) : Host.Outcome State Fault Refusal :=
  match m with
  | .engine i => exec i (s.dropDue i)
  | .agent a => issueAgent { s with cur := a }
/-- One step of the machine: time passes, then the step picked is taken if there is one. -/
def stepOnce (s : State) : Host.Outcome State Fault Refusal :=
  let s' := tick s
  let t : State := { s' with choices := s.choices.tail }
  match pick s' with
  | some m => makeMove m t
  | none => .next t

/-! ## Placing an instruction at the next fetch -/

/-- The agent that runs an instruction by itself: the profile of Table 3.1. -/
def runnerOf (i : Instr) : Agent :=
  match encode i with
  | some (h, _) =>
    let m := h / 2 ^ 8 % 64
    if m = 0x33 ∨ m = 0x34 then .zephyr 0 0 else if m = 0x39 then .core 0 0 else .thread 0 0
  | none => .thread 0 0
/-- The head address at which placeWord puts the instruction: slot 1 of the first code line of the edge window. -/
def placePc : Word := 0x40000002
/-- Registers that fetch at placePc with no window open. -/
def atPlace (r : Regs) : Regs := { r with pc := placePc, windows := [] }
/-- What keeps tile 0 from issuing taken away: Drift, slices, Clearance; and slot 0 of the tile freed. -/
def freeTile (s : State) : State :=
  { s with
    clusters := mset s.clusters 0 { s.cluster 0 with drift := .idle, sltab := Vector.replicate 8 0 }
    clearances := s.clearances.map fun p => if rectHas p.2.rect 0 then (p.1, { p.2 with done := true }) else p
    ctxs := s.ctxs.map fun p => if p.1.1 = 0 ∧ p.2.slot = some 0 then (p.1, { p.2 with slot := none }) else p }
/-- An agent made ready with that PC: context 0 of tile 0 in slot 0 with its image resident, core 0 of island 0 not idle, an Active movement
program of tile 0. -/
def readyAt (s : State) (a : Agent) : State :=
  match a with
  | .thread t c =>
    let s := freeTile s
    let x := s.ctx t c
    let k := s.tile t
    (s.setCtx t c { x with
      state := .issuing, slot := some 0, pause := 0, awaiting := none, succ := none, stepDone := false, calm := false
      extResident := true, matResident := true, fromCkpt := false
      captured := [], posting := [], remain := max x.remain 2, regs := atPlace x.regs }).setTile
      t { k with lastSlot := 7, passed := [], rclru := [0, 1, 2, 3].map fun i => (c, i) }
  | .core i k =>
    let c := s.core i k
    s.setCore i k { c with idle := false, stopped := false, pause := 0, waiting := false, regs := atPlace c.regs }
  | .zephyr t zc =>
    let s := freeTile s
    let k := s.tile t
    s.setTile t { k with zreqs := { uid := s.nextId, state := .active, started := true, zc := some zc, isProgram := true, pc := placePc
                                    since := s.cycle } :: k.zreqs.filter fun r => r.zc != some zc }
/-- The state in which the next step fetches and runs an instruction numbered as the opcode table numbers its words (log entry 8): the wafer
running, nothing due, its agent ready and next, its code line in the agent's instruction cache. -/
def placeWord (s : State) (nbits w : Nat) : State :=
  let p := tableParts nbits w
  let a := match decodeTableWord nbits w with | some i => runnerOf i | none => .thread 0 0
  let s := readyAt { s with
    due := [], choices := [], cycleLens := [], cur := a, retired := true
    wafer := { s.wafer with power := .run, ready := true } } a
  installLine s a placePc.toNat 0 (lineOf p.1 p.2)

end

end Sys2Proof.Machine
end

