-- ==== Sys2Proof/Machine/Step.lean ====
section
/-! DEFINITION. The step of the machine and where a test places an instruction. -/

namespace Sys2Proof.Machine

noncomputable section

/-- One step: an engine step or one instruction of one agent. -/
def step (s : State) : Host.Outcome State Fault Refusal := stepOnce s

/-- The state with an instruction, numbered as the opcode table numbers its words, where the next step fetches. -/
def State.withFetchWord (s : State) (nbits w : Nat) : State := placeWord s nbits w

end

end Sys2Proof.Machine
end

