-- ==== Sys2Proof/Safety.lean ====
section
/-! DEFINITION. What counts as a safe state. -/

namespace Sys2Proof.Machine

/-- Memory keeps its canonical form. -/
def State.MemOk (s : State) : Prop := Memory.wf s.mem = true

end Sys2Proof.Machine
end

