-- ==== Sys2Proof/Certificates/Slice0/Obligations.lean ====
section
/-! DEFINITION. The statements for the provers, and the few functions in which they give the results that the rules of spec/ state. -/

open Sys2Proof
open Sys2Proof.Machine

namespace Sys2Proof.Stated

/-- The agent whose turn it is, a tile thread or an island core. -/
def ThreadOrCore (s : State) : Prop := ∀ t z, s.cur ≠ .zephyr t z
/-- Modifier fields all clear (R56). -/
def noMods : FMods := ⟨false, false, false, false, false, false, false, 0, 0⟩

end Sys2Proof.Stated

open Sys2Proof.Stated

/-- Words of the spec's own examples (spec/05 to spec/16), one family after the other. -/
def Obligations.DecodedWords : Prop :=
  decodeInstr 0x0000 0 = .ok .nop ∧
  decodeInstr 0x4A34 0x2010 = .ok (.ldWK 3 4 2 16) ∧
  decodeInstr 0x4F2F 0x0FF8 = .ok (.stDK 2 15 0 (BitVec.ofInt 12 (-8))) ∧
  decodeInstr 0xAF69 0x10000002 = .ok (.lda 2 6 9 1 0) ∧
  decodeInstr 0xB034 0x00005000 = .ok (.spalloc 3 4 5) ∧
  decodeInstr 0xA012 0x0000C000 = .ok (.vadd 0 1 2 12 noMods) ∧
  decodeInstr 0xAEC0 0x00000001 = .ok (.sunbind 12) ∧
  decodeInstr 0xB110 0x00010002 = .ok (.iev 2 1 0 0 noMods 0) ∧
  decodeInstr 0x7234 0x0200 = .ok (.zpost 3 4 2) ∧
  decodeInstr 0xF322 0x0000000800020000 = .ok (.zaddXI 2 2 8) ∧
  decodeInstr 0xB514 0x70045300 = .ok (.mmac 1 4 5 7 3) ∧
  decodeInstr 0xB634 0x60005000 = .ok (.msend 3 4 5 6) ∧
  decodeInstr 0xB7DB 0x10010000 = .ok (.cwait 13 11 1) ∧
  decodeInstr 0xB8B9 0x7002A000 = .ok (.fopen 11 9 10 7) ∧
  decodeInstr 0xB834 0x00085000 = .ok (.clrpost 3 4 5) ∧
  decodeInstr 0xF930 0x0000001000000000 = .ok (.mfsr 3 0x010) ∧
  decodeInstr 0xB934 0x00115000 = .ok (.sealMem 3 4 5)

/-- The round trip of every encoding, all operands free. -/
def Obligations.DecodeOfEncode : Prop :=
  ∀ (i : Instr) (h t : Nat), wf i = true → encode i = some (h, t) → decodeInstr h t = .ok i

/-- Decoding gives well-formed instructions only, each from one word. -/
def Obligations.DecodedIsCanonical : Prop :=
  ∀ (h t : Nat) (i : Instr), h < 2 ^ 16 → t < 2 ^ (16 * tailUnits (h / 2 ^ 14)) → decodeInstr h t = .ok i →
    wf i = true ∧ encode i = some (h, t)

/-- The unallocated majors. -/
def Obligations.ReservedMajorsRefused : Prop :=
  ∀ h t : Nat, 0x3A ≤ h / 2 ^ 8 % 64 → decodeInstr h t = .error .unallocatedMajor

/-- What a step does around exec: time passes (tick), the choice is used up, a becomes the current agent; afterwards windows and counters
(afterIssue) and what the selectors keep (noteIssue). -/
def Obligations.StepRunsDecodedInstruction : Prop :=
  ∀ (s u : State) (a : Agent) (l : CodeLine) (i : Instr),
    pick (tick s) = some (.agent a) → u = { tick s with choices := s.choices.tail, cur := a } →
    0x40000000 ≤ u.getPc.toNat → u.getPc.toNat < 0x3FFE0000000000 →
    cachedLine? u a u.getPc.toNat = some l → lineLegal l = true →
    u.getPc.toNat % 2 = 0 → u.getPc.toNat % 64 / 2 ≠ 0 → u.getPc.toNat % 64 / 2 ≤ heads l →
    decodeSlot l (u.getPc.toNat % 64 / 2) = .ok i → legalFor i a = true → lookahead? u.regs (usesOf i) = none →
    step s = mapNext (fun v => noteIssue u (afterIssue v (opensOf u.regs u.getPc i))) (exec i { u with retired := false })

/-- Engine steps run through exec as instructions do. -/
def Obligations.StepTakesEngineStep : Prop :=
  (∀ (s : State) (i : Instr), pick (tick s) = some (.engine i) →
    step s = exec i (({ tick s with choices := s.choices.tail } : State).dropDue i)) ∧
  (∀ s : State, pick (tick s) = none → step s = .next { tick s with choices := s.choices.tail })

/-- R66 and R67 at the step. -/
def Obligations.BadLinesAndEncodingsTrap : Prop :=
  ∀ (s u v : State) (a : Agent) (l : CodeLine),
    pick (tick s) = some (.agent a) → u = { tick s with choices := s.choices.tail, cur := a } → v = { u with retired := false } →
    0x40000000 ≤ u.getPc.toNat → u.getPc.toNat < 0x3FFE0000000000 →
    cachedLine? u a u.getPc.toNat = some l →
    (lineLegal l = false →
      step s = .next (noteIssue u (raise v { code := 0x01, engine := 0, info := v.getPc, pc := some (w64 (v.getPc.toNat / 64 * 64 + 2)) }))) ∧
    (∀ e, lineLegal l = true → decodeSlot l (u.getPc.toNat % 64 / 2) = .error e → step s = .next (noteIssue u (raise v (illegalOp v)))) ∧
    (∀ i, lineLegal l = true → u.getPc.toNat % 2 = 0 → u.getPc.toNat % 64 / 2 ≠ 0 → u.getPc.toNat % 64 / 2 ≤ heads l →
      decodeSlot l (u.getPc.toNat % 64 / 2) = .ok i → legalFor i a = false → step s = .next (noteIssue u (raise v (illegalOp v))))

/-- R60's three cases and R61's choice between the trap and the wait for older instructions, and that an instruction which meets none of them
executes. The registers counted for mwait and mabort are the model's reading (log entry 28). -/
def Obligations.OpenWindowTraps : Prop :=
  ∀ (s : State) (i : Instr),
    let r := s.regs
    let u := usesOf i
    let wr := u.writes ++ u.reads.filter RegName.isStream
    let bad (w : Window) : Prop := (∃ x, x ∈ w.writes ∧ (x ∈ u.reads ∨ x ∈ wr)) ∨ ∃ x, x ∈ w.readsVec ∧ x ∈ wr
    stepping r = false → legalFor i s.cur = true →
      ((∃ w ∈ r.windows, bad w) →
        (olderBusy s = false → ∃ w ∈ r.windows, bad w ∧
          issueInstr i s = .next (raise s { code := 0x04, engine := 0, info := w.pc })) ∧
        (olderBusy s = true → issueInstr i s = .next { s with retired := false })) ∧
      ((∀ w ∈ r.windows, ¬ bad w) →
        issueInstr i s = mapNext (fun v => afterIssue v (opensOf r s.getPc i)) (exec i { s with retired := false }))

/-- The state right after reset. -/
def Obligations.ResetState : Prop :=
  State.reset.mem = [] ∧ State.reset.due = [.powerApplied] ∧ State.reset.wafer.power = .off ∧ State.reset.wafer.ready = false ∧
  (∀ t c, (State.reset.ctx t c).state = .free ∧ (State.reset.ctx t c).slot = none) ∧
  (∀ i k, (State.reset.core i k).idle = true) ∧
  (∀ k, State.reset.task? k = none) ∧ (∀ h, State.reset.block? h = none) ∧ (∀ l, State.reset.launch? l = none) ∧
  (∀ n, (State.reset.cluster n).drctl = 0x07D05F0A00640003 ∧ (State.reset.cluster n).clrcfg = 0x0000EA6017701000 ∧
    fld (State.reset.cluster n).slstat 31 0 = 8192) ∧
  State.reset.wafer.colltmo = 60000 ∧
  (∀ a, (State.reset.regsOf a).pc = 0 ∧ (State.reset.regsOf a).status = 0 ∧ ∀ r : Reg, (State.reset.regsOf a).g[r] = 0)

/-- The invariant of StepKeepsMemoryCanonical holds at reset. -/
def Obligations.ResetMemoryCanonical : Prop := State.reset.MemOk

/-- The invariant that every step keeps, whichever of the 393 instructions and engine steps it takes. -/
def Obligations.StepKeepsMemoryCanonical : Prop :=
  ∀ s t : State, s.MemOk → step s = .next t → t.MemOk

namespace Sys2Proof.Stated

/-- A pointer with its address moved by d modulo 2^54 and its tag kept (R119, R156). -/
def ptrPlus (p : Word) (d : Int) : Word :=
  BitVec.ofNat 64 (p.toNat / 2 ^ 54 * 2 ^ 54 + ((((p.toNat % 2 ^ 54 : Nat) : Int) + d) % 2 ^ 54).toNat)
/-- An exact integer result modulo 2^64 (R152). -/
def wrap (x : Int) : Word := BitVec.ofInt 64 x
/-- A truth value as the compares write it (Table 5.14). -/
def truth (p : Prop) [Decidable p] : Word := if p then 1 else 0
/-- The field of w bits from bit k. -/
def bits (x : Word) (k w : Nat) : Nat := x.toNat / 2 ^ k % 2 ^ w

/-- The destination and the value of the scalar integer instructions (R152 to R157, Tables 5.14 to 5.16): exact arithmetic on integers,
narrowed at the end. -/
def intValue (s : State) : Instr → Option (Reg × Word)
  | .addHead a b => some (a, wrap ((s.getG a).toInt + (s.getG b).toInt))
  | .addX a b c => some (a, wrap ((s.getG b).toInt + (s.getG c).toInt))
  | .addI32 a b m => some (a, wrap ((s.getG b).toInt + m.toInt))
  | .addI64 a b m => some (a, wrap ((s.getG b).toInt + m.toInt))
  | .subHead a b => some (a, wrap ((s.getG a).toInt - (s.getG b).toInt))
  | .subX a b c => some (a, wrap ((s.getG b).toInt - (s.getG c).toInt))
  | .subI32 a b m => some (a, wrap ((s.getG b).toInt - m.toInt))
  | .subI64 a b m => some (a, wrap ((s.getG b).toInt - m.toInt))
  | .andX a b c => some (a, s.getG b &&& s.getG c)
  | .andXI a b m => some (a, s.getG b &&& wrap m.toInt)
  | .orX a b c => some (a, s.getG b ||| s.getG c)
  | .orXI a b m => some (a, s.getG b ||| wrap m.toInt)
  | .xorX a b c => some (a, s.getG b ^^^ s.getG c)
  | .xorXI a b m => some (a, s.getG b ^^^ wrap m.toInt)
  | .andnX a b c => some (a, s.getG b &&& ~~~(s.getG c))
  | .andnXI a b m => some (a, s.getG b &&& ~~~(wrap m.toInt))
  | .shlX a b c => some (a, BitVec.ofNat 64 ((s.getG b).toNat * 2 ^ ((s.getG c).toNat % 64)))
  | .shlXI a b m => some (a, BitVec.ofNat 64 ((s.getG b).toNat * 2 ^ (m.toNat % 64)))
  | .shrX a b c => some (a, BitVec.ofNat 64 ((s.getG b).toNat / 2 ^ ((s.getG c).toNat % 64)))
  | .shrXI a b m => some (a, BitVec.ofNat 64 ((s.getG b).toNat / 2 ^ (m.toNat % 64)))
  | .sraX a b c => some (a, wrap ((s.getG b).toInt / 2 ^ ((s.getG c).toNat % 64)))
  | .sraXI a b m => some (a, wrap ((s.getG b).toInt / 2 ^ (m.toNat % 64)))
  | .mulX a b c => some (a, wrap ((s.getG b).toInt * (s.getG c).toInt))
  | .mulXI a b m => some (a, wrap ((s.getG b).toInt * m.toInt))
  | .mulhX a b c => some (a, wrap ((s.getG b).toInt * (s.getG c).toInt / 2 ^ 64))
  | .mulhXI a b m => some (a, wrap ((s.getG b).toInt * m.toInt / 2 ^ 64))
  | .mulhuX a b c => some (a, BitVec.ofNat 64 ((s.getG b).toNat * (s.getG c).toNat / 2 ^ 64))
  | .mulhuXI a b m => some (a, BitVec.ofNat 64 ((s.getG b).toNat * (wrap m.toInt).toNat / 2 ^ 64))
  | .div a b c _ => some (a, if s.getG c = 0 then wrap (-1) else wrap ((s.getG b).toInt.tdiv (s.getG c).toInt))
  | .divu a b c _ => some (a, if s.getG c = 0 then wrap (-1) else BitVec.ofNat 64 ((s.getG b).toNat / (s.getG c).toNat))
  | .rem a b c _ => some (a, if s.getG c = 0 then s.getG b else wrap ((s.getG b).toInt.tmod (s.getG c).toInt))
  | .remu a b c _ => some (a, if s.getG c = 0 then s.getG b else BitVec.ofNat 64 ((s.getG b).toNat % (s.getG c).toNat))
  | .minX a b c => some (a, wrap (min (s.getG b).toInt (s.getG c).toInt))
  | .minXI a b m => some (a, wrap (min (s.getG b).toInt m.toInt))
  | .maxX a b c => some (a, wrap (max (s.getG b).toInt (s.getG c).toInt))
  | .maxXI a b m => some (a, wrap (max (s.getG b).toInt m.toInt))
  | .minuX a b c => some (a, BitVec.ofNat 64 (min (s.getG b).toNat (s.getG c).toNat))
  | .minuXI a b m => some (a, BitVec.ofNat 64 (min (s.getG b).toNat (wrap m.toInt).toNat))
  | .maxuX a b c => some (a, BitVec.ofNat 64 (max (s.getG b).toNat (s.getG c).toNat))
  | .maxuXI a b m => some (a, BitVec.ofNat 64 (max (s.getG b).toNat (wrap m.toInt).toNat))
  | .seqX a b c => some (a, truth (s.getG b = s.getG c))
  | .seqXI a b m => some (a, truth ((s.getG b).toInt = m.toInt))
  | .sneX a b c => some (a, truth (s.getG b ≠ s.getG c))
  | .sneXI a b m => some (a, truth ((s.getG b).toInt ≠ m.toInt))
  | .sltX a b c => some (a, truth ((s.getG b).toInt < (s.getG c).toInt))
  | .sltXI a b m => some (a, truth ((s.getG b).toInt < m.toInt))
  | .sltuX a b c => some (a, truth ((s.getG b).toNat < (s.getG c).toNat))
  | .sltuXI a b m => some (a, truth ((s.getG b).toNat < (wrap m.toInt).toNat))
  | .sleX a b c => some (a, truth ((s.getG b).toInt ≤ (s.getG c).toInt))
  | .sleXI a b m => some (a, truth ((s.getG b).toInt ≤ m.toInt))
  | .sleuX a b c => some (a, truth ((s.getG b).toNat ≤ (s.getG c).toNat))
  | .sleuXI a b m => some (a, truth ((s.getG b).toNat ≤ (wrap m.toInt).toNat))
  | .liI16 a m => some (a, wrap m.toInt)
  | .liI32 a m => some (a, wrap m.toInt)
  | .liI64 a m => some (a, m)
  | .mov a b => some (a, s.getG b)
  | .neg a b => some (a, wrap (-(s.getG b).toInt))
  | .not a b => some (a, ~~~(s.getG b))
  | .clz a b => some (a, BitVec.ofNat 64 (64 - (s.getG b).toNat.size))
  | .ctz a b => some (a, BitVec.ofNat 64 (if s.getG b = 0 then 64 else padicValNat 2 (s.getG b).toNat))
  | .popc a b => some (a, BitVec.ofNat 64 ((List.range 64).countP fun k => (s.getG b).toNat.testBit k))
  | .bswap a b => some (a, BitVec.ofNat 64 (((List.range 8).map fun k => bits (s.getG b) (8 * k) 8 * 2 ^ (8 * (7 - k))).sum))
  | .tagof a b => some (a, BitVec.ofNat 64 ((s.getG b).toNat / 2 ^ 54))
  | .extBZ a b => some (a, BitVec.ofNat 64 (bits (s.getG b) 0 8))
  | .extHZ a b => some (a, BitVec.ofNat 64 (bits (s.getG b) 0 16))
  | .extWZ a b => some (a, BitVec.ofNat 64 (bits (s.getG b) 0 32))
  | .extBS a b => some (a, wrap (BitVec.ofNat 8 (s.getG b).toNat).toInt)
  | .extHS a b => some (a, wrap (BitVec.ofNat 16 (s.getG b).toNat).toInt)
  | .extWS a b => some (a, wrap (BitVec.ofNat 32 (s.getG b).toNat).toInt)
  | .bext a b l w => some (a, BitVec.ofNat 64 (bits (s.getG b) l.toNat (w.toNat + 1)))
  | .bins a b l w => some (a, BitVec.ofNat 64 (bits (s.getG a) 0 l.toNat + bits (s.getG b) 0 (w.toNat + 1) * 2 ^ l.toNat +
      (s.getG a).toNat / 2 ^ (l.toNat + w.toNat + 1) * 2 ^ (l.toNat + w.toNat + 1)))
  | .sel a b c e => some (a, if s.getG b ≠ 0 then s.getG c else s.getG e)
  | .paddX a b c => some (a, ptrPlus (s.getG b) (s.getG c).toInt)
  | .paddXI a b m => some (a, ptrPlus (s.getG b) m.toInt)
  | .psubX a b c => some (a, ptrPlus (s.getG b) (-(s.getG c).toInt))
  | .psubXI a b m => some (a, ptrPlus (s.getG b) (-m.toInt))
  | .ptagX a b c => some (a, BitVec.ofNat 64 (bits (s.getG c) 0 10 * 2 ^ 54 + bits (s.getG b) 0 54))
  | .ptagXI a b m => some (a, BitVec.ofNat 64 (m.toNat % 2 ^ 10 * 2 ^ 54 + bits (s.getG b) 0 54))
  | _ => none

/-- The condition and the target's line offset and slot of the transfers with a J or JL tail that test registers or nothing (Table 5.17). -/
def branchOf (s : State) : Instr → Option (Bool × Int × Nat)
  | .brJ l k => some (true, l.toInt, k.toNat)
  | .brJL l k => some (true, l.toInt, k.toNat)
  | .bnzJ a l k => some (decide (s.getG a ≠ 0), l.toInt, k.toNat)
  | .bnzJL a l k => some (decide (s.getG a ≠ 0), l.toInt, k.toNat)
  | .bzJ a l k => some (decide (s.getG a = 0), l.toInt, k.toNat)
  | .bzJL a l k => some (decide (s.getG a = 0), l.toInt, k.toNat)
  | .beqJ a b l k => some (decide (s.getG a = s.getG b), l.toInt, k.toNat)
  | .beqJL a b l k => some (decide (s.getG a = s.getG b), l.toInt, k.toNat)
  | .bneJ a b l k => some (decide (s.getG a ≠ s.getG b), l.toInt, k.toNat)
  | .bneJL a b l k => some (decide (s.getG a ≠ s.getG b), l.toInt, k.toNat)
  | .bltJ a b l k => some (decide ((s.getG a).toInt < (s.getG b).toInt), l.toInt, k.toNat)
  | .bltJL a b l k => some (decide ((s.getG a).toInt < (s.getG b).toInt), l.toInt, k.toNat)
  | .bgeJ a b l k => some (decide ((s.getG b).toInt ≤ (s.getG a).toInt), l.toInt, k.toNat)
  | .bgeJL a b l k => some (decide ((s.getG b).toInt ≤ (s.getG a).toInt), l.toInt, k.toNat)
  | .bltuJ a b l k => some (decide ((s.getG a).toNat < (s.getG b).toNat), l.toInt, k.toNat)
  | .bltuJL a b l k => some (decide ((s.getG a).toNat < (s.getG b).toNat), l.toInt, k.toNat)
  | .bgeuJ a b l k => some (decide ((s.getG b).toNat ≤ (s.getG a).toNat), l.toInt, k.toNat)
  | .bgeuJL a b l k => some (decide ((s.getG b).toNat ≤ (s.getG a).toNat), l.toInt, k.toNat)
  | _ => none
/-- LINEBASE + 64·LOFF + 2·SLOT on bits [53:0] (R55). -/
def target (pc : Word) (loff : Int) (slot : Nat) : Nat := ((((pc.toNat % 2 ^ 54) / 64 * 64 : Nat) : Int) + 64 * loff + 2 * slot) % 2 ^ 54 |>.toNat
/-- T meets R48 for the current agent: its code line can be read and holds the slot. -/
def ValidTarget (s : State) (t : Nat) : Prop := ∃ l, checkTarget s s.cur s.getPc t = .ok l
/-- The conditional and unconditional jumps of movement programs (R287). -/
def jumpOf (r : ZReq) : Instr → Option (Bool × Int × Nat)
  | .zjmpJ l k => some (true, l.toInt, k.toNat)
  | .zjmpJL l k => some (true, l.toInt, k.toNat)
  | .zbnzJ a l k => some (decide (r.z.toList.getD a.val 0 ≠ 0), l.toInt, k.toNat)
  | .zbnzJL a l k => some (decide (r.z.toList.getD a.val 0 ≠ 0), l.toInt, k.toNat)
  | _ => none
/-- The calls with a J or JL tail. -/
def callOf : Instr → Option (Int × Nat)
  | .callJ l k => some (l.toInt, k.toNat)
  | .callJL l k => some (l.toInt, k.toNat)
  | _ => none
/-- The count and the target of loop (R164); mb registers are those of the thread's block, and no form of them is a core's. -/
def loopOf (s : State) : Instr → Option (Word × Int × Nat)
  | .loopGJ a l k => some (s.getG a, l.toInt, k.toNat)
  | .loopGJL a l k => some (s.getG a, l.toInt, k.toNat)
  | .loopMbJ a l k => (match s.cur with
    | .thread t c => some (((s.block? (s.ctx t c).handle).map fun b => b.mailbox.toList.getD a.val 0).getD 0, l.toInt, k.toNat)
    | _ => none)
  | .loopMbJL a l k => (match s.cur with
    | .thread t c => some (((s.block? (s.ctx t c).handle).map fun b => b.mailbox.toList.getD a.val 0).getD 0, l.toInt, k.toNat)
    | _ => none)
  | _ => none

end Sys2Proof.Stated

/-- Results of R152 to R157 for all 77 forms, no form shut out; retire is the fall-through of FallThroughAndLoopEnd. -/
def Obligations.ScalarResults : Prop :=
  ∀ (s : State) (i : Instr) (a : Reg) (v : Word),
    ThreadOrCore s → intValue s i = some (a, v) → exec i s = .next ((s.setG a v).retire)

/-- The frame of the instructions of ScalarResults. -/
def Obligations.ScalarFrame : Prop :=
  ∀ (s t : State) (i : Instr) (a : Reg) (v : Word),
    ThreadOrCore s → intValue s i = some (a, v) → exec i s = .next t →
    (∀ r : Reg, r ≠ a → t.getG r = s.getG r) ∧
    t.regs.fpstat = s.regs.fpstat ∧ t.regs.qflags = s.regs.qflags ∧ t.regs.mprog = s.regs.mprog ∧ t.regs.tvec = s.regs.tvec ∧
    t.regs.trcause = s.regs.trcause ∧ t.regs.trpc = s.regs.trpc ∧ t.regs.traddr = s.regs.traddr ∧ t.regs.trinfo = s.regs.trinfo ∧
    (∀ k, (k < 4 ∨ 5 < k) → bitOf t.regs.status k = bitOf s.regs.status k) ∧
    (∀ p, readByte t p = readByte s p) ∧ (∀ p, t.meta_ p = s.meta_ p) ∧
    (∃ x y, t = { s with ctxs := x, cores := y, retired := true }) ∧
    (∀ q, (∀ c k, s.cur = .thread c k → q ≠ (c, k)) → t.ctx q.1 q.2 = s.ctx q.1 q.2) ∧
    (∀ q, (∀ j k, s.cur = .core j k → q ≠ (j, k)) → t.core q.1 q.2 = s.core q.1 q.2)

/-- R167's loop written out for depths 0, 1 and 2. -/
def Obligations.FallThroughAndLoopEnd : Prop :=
  ∀ (r : Regs) (A N : Word),
    let p0 : Regs := { r with lcnt0 := 0, ltop0 := 0, llast0 := 0, status := setFld r.status 5 4 0, pc := N }
    let p1 : Regs := { r with lcnt1 := 0, ltop1 := 0, llast1 := 0, status := setFld r.status 5 4 1, pc := N }
    let p10 : Regs := { p1 with lcnt0 := 0, ltop0 := 0, llast0 := 0, status := setFld p1.status 5 4 0 }
    (intrap r = true → successor r A N = { r with pc := N }) ∧
    (ldepth r = 0 → successor r A N = { r with pc := N }) ∧
    (intrap r = false → ldepth r = 1 →
      (A ≠ r.llast0 → successor r A N = { r with pc := N }) ∧
      (A = r.llast0 → 1 < r.lcnt0.toNat → successor r A N = { r with pc := r.ltop0, lcnt0 := r.lcnt0 - 1 }) ∧
      (A = r.llast0 → r.lcnt0.toNat ≤ 1 → successor r A N = p0)) ∧
    (intrap r = false → ldepth r = 2 →
      (A ≠ r.llast1 → successor r A N = { r with pc := N }) ∧
      (A = r.llast1 → 1 < r.lcnt1.toNat → successor r A N = { r with pc := r.ltop1, lcnt1 := r.lcnt1 - 1 }) ∧
      (A = r.llast1 → r.lcnt1.toNat ≤ 1 → A ≠ r.llast0 → successor r A N = p1) ∧
      (A = r.llast1 → r.lcnt1.toNat ≤ 1 → A = r.llast0 → 1 < r.lcnt0.toNat →
        successor r A N = { p1 with pc := r.ltop0, lcnt0 := r.lcnt0 - 1 }) ∧
      (A = r.llast1 → r.lcnt1.toNat ≤ 1 → A = r.llast0 → r.lcnt0.toNat ≤ 1 → successor r A N = p10))

/-- R47's fall-through, of an agent that has no operation outstanding. -/
def Obligations.NextOnCodeLine : Prop :=
  ∀ (s : State) (l : CodeLine), cachedLine? s s.cur s.getPc.toNat = some l → (∀ t c, s.cur = .thread t c → (s.ctx t c).succ = none) →
    let n := if s.getPc.toNat % 64 / 2 < heads l then s.getPc.toNat + 2 else (s.getPc.toNat / 64 + 1) * 64 + 2
    nextPc s s.cur s.getPc.toNat = n % 2 ^ 54 ∧
    (ThreadOrCore s → ldepth s.regs = 0 → s.retire.getPc = BitVec.ofNat 64 (n % 2 ^ 54))

/-- R55, R158 and R287's jumps, and what a taken transfer does to PC and the loop levels (R168), for depths 0, 1 and 2. -/
def Obligations.BranchesTransfer : Prop :=
  (∀ (r : Regs) (T : Nat),
    let q : Regs := { r with pc := BitVec.ofNat 64 T }
    let p0 : Regs := { q with lcnt0 := 0, ltop0 := 0, llast0 := 0, status := setFld r.status 5 4 0 }
    let p1 : Regs := { q with lcnt1 := 0, ltop1 := 0, llast1 := 0, status := setFld r.status 5 4 1 }
    let p10 : Regs := { p1 with lcnt0 := 0, ltop0 := 0, llast0 := 0, status := setFld p1.status 5 4 0 }
    let in0 := r.ltop0.toNat ≤ T ∧ T ≤ r.llast0.toNat
    let in1 := r.ltop1.toNat ≤ T ∧ T ≤ r.llast1.toNat
    transfer r T false = q ∧ (intrap r = true → transfer r T true = q) ∧ (ldepth r = 0 → transfer r T true = q) ∧
    (intrap r = false → ldepth r = 1 → (in0 → transfer r T true = q) ∧ (¬ in0 → transfer r T true = p0)) ∧
    (intrap r = false → ldepth r = 2 → (in1 → transfer r T true = q) ∧ (¬ in1 → in0 → transfer r T true = p1) ∧
      (¬ in1 → ¬ in0 → transfer r T true = p10))) ∧
  (∀ (s : State) (T : Nat) (pops : Bool), ThreadOrCore s →
    s.jump T pops = { s.setRegs [2, 3] (transfer s.regs T pops) with retired := true } ∧ (s.jump T pops).regs = transfer s.regs T pops ∧
    (s.jump T pops).mem = s.mem) ∧
  (∀ (s : State) (i : Instr) (b : Bool) (l : Int) (k : Nat), ThreadOrCore s → branchOf s i = some (b, l, k) →
    (b = false → exec i s = .next s.retire) ∧
    (b = true → ValidTarget s (target s.getPc l k) → exec i s = .next (s.jump (target s.getPc l k) true))) ∧
  (∀ (s : State) (i : Instr) (t z : Nat) (r : ZReq) (b : Bool) (l : Int) (k : Nat),
    s.cur = .zephyr t z → s.zreqOf? t z = some r → jumpOf r i = some (b, l, k) →
    (b = false → exec i s = .next s.retire) ∧
    (b = true → ValidTarget s (target s.getPc l k) → exec i s = .next (s.jump (target s.getPc l k) false)))

/-- Table 5.17's calls and register transfers. -/
def Obligations.CallsAndReturns : Prop :=
  ∀ (s : State), ThreadOrCore s →
    let link := BitVec.ofNat 64 (nextPc s s.cur s.getPc.toNat)
    (∀ i l k, callOf i = some (l, k) → ValidTarget s (target s.getPc l k) →
      exec i s = .next ((s.setG 14 link).jump (target s.getPc l k) false)) ∧
    (∀ b, ValidTarget s ((s.getG b).toNat % 2 ^ 54) →
      exec (.callr b) s = .next ((s.setG 14 link).jump ((s.getG b).toNat % 2 ^ 54) false) ∧
      exec (.jr b) s = .next (s.jump ((s.getG b).toNat % 2 ^ 54) true)) ∧
    (ValidTarget s ((s.getG 14).toNat % 2 ^ 54) → exec .ret s = .next (s.jump ((s.getG 14).toNat % 2 ^ 54) true))

/-- Do all transfers with target T answer out: branches taken, calls, callr, jr, ret, loop, and a thread's tret in a trap handler. -/
def Sys2Proof.Stated.TransfersTo (s : State) (T : Nat) (out : Host.Outcome State Fault Refusal) : Prop :=
  (∀ i l k, branchOf s i = some (true, l, k) → target s.getPc l k = T → exec i s = out) ∧
  (∀ i l k, callOf i = some (l, k) → target s.getPc l k = T → exec i s = out) ∧
  (∀ b, (s.getG b).toNat % 2 ^ 54 = T → exec (.callr b) s = out ∧ exec (.jr b) s = out) ∧
  ((s.getG 14).toNat % 2 ^ 54 = T → exec .ret s = out) ∧
  (∀ i n l k, loopOf s i = some (n, l, k) → target s.getPc l k = T → exec i s = out) ∧
  (∀ t c, s.cur = .thread t c → intrap s.regs = true → s.regs.trpc.toNat % 2 ^ 54 = T → exec .tret s = out)

/-- R48's three conditions and the fault of reading the code line at T, for every transfer, tret and loop among them; R165's further cases. -/
def Obligations.BadTargetTraps : Prop :=
  ∀ (s : State) (T : Nat), ThreadOrCore s →
    let window := 0x40000000 ≤ T ∧ T < 0x3FFE0000000000
    (¬ window ∨ T % 2 = 1 ∨ T % 64 / 2 = 0 ∨ (∃ l, cachedLine? s s.cur T = some l ∧ heads l < T % 64 / 2) →
      TransfersTo s T (.next (raise s { code := 0x03, engine := 0, info := BitVec.ofNat 64 T, pc := some s.getPc }))) ∧
    (∀ f, window → T % 2 = 0 → T % 64 / 2 ≠ 0 → readCodeLine s s.cur T = .error f →
      TransfersTo s T (.next (raise s { xTrap f .exec (BitVec.ofNat 64 T) with addr := BitVec.ofNat 64 T, pc := some s.getPc }))) ∧
    (∀ i n l k line, loopOf s i = some (n, l, k) → target s.getPc l k = T → checkTarget s s.cur s.getPc T = .ok line →
      lineLegal line = false ∨ T ≤ s.getPc.toNat % 2 ^ 54 ∨ namesLoop line T = true ∨ (ldepth s.regs = 1 ∧ s.regs.llast0.toNat < T) →
      exec i s = .next (raise s { code := 0x03, engine := 0, info := BitVec.ofNat 64 T }))

/-- loop of R164 and R165, in all four encodings. -/
def Obligations.HardwareLoops : Prop :=
  ∀ (s : State) (i : Instr) (n : Word) (l : Int) (k : Nat) (line : CodeLine),
    ThreadOrCore s → loopOf s i = some (n, l, k) →
    let T := target s.getPc l k
    let r := s.regs
    checkTarget s s.cur s.getPc T = .ok line → lineLegal line = true → s.getPc.toNat % 2 ^ 54 < T → namesLoop line T = false →
    (ldepth r = 1 → T ≤ r.llast0.toNat) →
    (ldepth r = 2 ∨ intrap r = true → exec i s = .next (raise s { code := 0x06, engine := 0 })) ∧
    (ldepth r ≠ 2 → intrap r = false → n ≠ 0 →
      exec i s = .next { s.setRegs [2, 3] { pushLevel r n (BitVec.ofNat 64 (nextPc s s.cur s.getPc.toNat)) (BitVec.ofNat 64 T) with
        pc := BitVec.ofNat 64 (nextPc s s.cur s.getPc.toNat) } with retired := true }) ∧
    (ldepth r ≠ 2 → intrap r = false → n = 0 →
      let q : Regs := { r with pc := BitVec.ofNat 64 (nextOn line T % 2 ^ 54) }
      exec i s = .next { s.setRegs [2, 3] (if ldepth r = 1 ∧ r.llast0 = BitVec.ofNat 64 T then loopEnd (BitVec.ofNat 64 T) 1 q else q) with
        retired := true })

/-- R84, R160 to R162, R214, R223. -/
def Obligations.NopPauseFenceSysTret : Prop :=
  (∀ s, exec .nop s = .next s.retire) ∧
  (∀ s, ThreadOrCore s → (∀ sc, exec (.fence sc) s = .next s.retire) ∧ exec .lfence s = .next s.retire ∧
    exec (.pause 0) s = .next s.retire) ∧
  (∀ s t c n, s.cur = .thread t c → n ≠ (0 : BitVec 16) → exec (.pause n) s =
    .next ((s.retire.setCtx t c { s.retire.ctx t c with pause := s.cycle + n.toNat }).addDue (.pauseExpiry t c))) ∧
  (∀ s i k n, s.cur = .core i k → n ≠ (0 : BitVec 16) → exec (.pause n) s =
    .next (s.retire.setCore i k { s.retire.core i k with pause := s.cycle + n.toNat + 1 })) ∧
  (∀ s n, ThreadOrCore s → exec (.sys n) s = .next (raise s.retire { code := 0x08, engine := 0, info := n.setWidth 64, pc := some s.retire.getPc })) ∧
  (∀ s t c, s.cur = .thread t c →
    (intrap s.regs = true → ValidTarget s (s.regs.trpc.toNat % 2 ^ 54) →
      exec .tret s = .next { s.setRegs [2] { s.regs with
        pc := BitVec.ofNat 64 (s.regs.trpc.toNat % 2 ^ 54), status := setBit s.regs.status 6 false } with retired := true }) ∧
    (intrap s.regs = false → exec .tret s = .next (raise s { code := 0x07, engine := 0 })))

/-- rdc of every number, reserved bits zero. FPSTAT and QFLAGS wait for the thread's matrix operations, MPROG for an accumulate operation. -/
def Obligations.ControlRegisterReads : Prop :=
  (∀ (s : State) (t c : Nat) (a : Reg) (n : BitVec 16), s.cur = .thread t c → (∀ o ∈ (s.tile t).matq, o.ctx ≠ c) →
    let x := s.ctx t c
    let r := x.regs
    let low (v : Word) : Word := BitVec.ofNat 64 (v.toNat % 2 ^ 54)
    let regs : List Word := [liveStatus s t c, tileId s t (blockTenant s x.handle), w64 (toViewHandle s (blockTenant s x.handle) x.handle), w64 x.tid,
      r.fpstat &&& 0x3F, r.qflags &&& 0xF, r.mprog &&& 0x800000F30000FFFF, low r.tvec, r.trcause &&& 0x1FFFF, low r.trpc, r.traddr, r.trinfo,
      r.lcnt0, r.lcnt1, low r.ltop0, low r.ltop1, low r.llast0, low r.llast1, low (w64 x.img), w64 x.remain]
    (∀ v, regs[n.toNat]? = some v → exec (.rdc a n) s = .next ((s.setG a v).retire)) ∧
    (∀ b, s.block? x.handle = some b → 24 ≤ n.toNat → n.toNat < 32 →
      exec (.rdc a n) s = .next ((s.setG a (b.mailbox.toList.getD (n.toNat - 24) 0)).retire)) ∧
    ((20 ≤ n.toNat ∧ n.toNat < 24) ∨ 32 ≤ n.toNat → exec (.rdc a n) s = .next (raise s (illegalOp s)))) ∧
  (∀ (s : State) (t c : Nat) (a : Reg) (o : MatOp), s.cur = .thread t c → o ∈ (s.tile t).matq → o.ctx = c →
    exec (.rdc a 4) s = .next s ∧ exec (.rdc a 5) s = .next s ∧ (4 ≤ o.xm → o.xm ≤ 7 → exec (.rdc a 6) s = .next s)) ∧
  (∀ (s : State) (i k : Nat) (a : Reg) (n : BitVec 16), s.cur = .core i k →
    exec (.rdc a n) s = .next (if n = 4 then (s.setG a (s.regs.fpstat &&& 0x3F)).retire
      else if n = 5 then (s.setG a (s.regs.qflags &&& 0xF)).retire else raise s (illegalOp s)))

/-- wrc of every number, of a thread without a matrix operation outstanding. -/
def Obligations.ControlRegisterWrites : Prop :=
  ∀ (s : State) (t c : Nat) (a : Reg), s.cur = .thread t c → (∀ o ∈ (s.tile t).matq, o.ctx ≠ c) →
    let r := s.regs
    let v := s.getG a
    (∃ w : Word, exec (.wrc a 0) s = .next (s.setRegs [2] { r with status := w }).retire ∧ bitOf w 8 = bitOf v 8 ∧
      bitOf w 15 = (bitOf r.status 15 && !bitOf v 15) ∧ ∀ k, k ≠ 8 → k ≠ 15 → bitOf w k = bitOf r.status k) ∧
    (∃ w : Word, exec (.wrc a 4) s = .next (s.setRegs [2] { r with fpstat := w }).retire ∧
      ∀ k, bitOf w k = (bitOf r.fpstat k && !(bitOf v k && bitOf fpstatMask k))) ∧
    (∃ w : Word, exec (.wrc a 5) s = .next (s.setRegs [2] { r with qflags := w }).retire ∧
      ∀ k, bitOf w k = (bitOf r.qflags k && !(bitOf v k && bitOf qflagsMask k))) ∧
    exec (.wrc a 6) s = .next (s.setRegs [3] { r with mprog := v &&& 0x800000F30000FFFF }).retire ∧
    exec (.wrc a 7) s = .next (s.setRegs [3] { r with tvec := BitVec.ofNat 64 (v.toNat % 2 ^ 54) }).retire ∧
    exec (.wrc a 9) s = .next (s.setRegs [3] { r with trpc := BitVec.ofNat 64 (v.toNat % 2 ^ 54) }).retire ∧
    exec (.wrc a 12) s = .next (s.setRegs [2] { r with lcnt0 := v }).retire ∧
    exec (.wrc a 13) s = .next (s.setRegs [2] { r with lcnt1 := v }).retire ∧
    (∀ n : BitVec 16, n.toNat ∈ [1, 2, 3, 8, 10, 11, 14, 15, 16, 17, 18, 19, 24, 25, 26, 27, 28, 29, 30, 31] →
      exec (.wrc a n) s = .next (s.setRegs [] r).retire) ∧
    (∀ n : BitVec 16, (20 ≤ n.toNat ∧ n.toNat < 24) ∨ 32 ≤ n.toNat → exec (.wrc a n) s = .next (raise s (illegalOp s)))

namespace Sys2Proof.Stated

/-- Destination, pointer, number of bytes and sign extension of the loads of one register (R195, R196, Table 6.10). -/
def loadOf (s : State) : Instr → Option (Reg × Word × Nat × Bool)
  | .ldBK a b _ o => some (a, ptrPlus (s.getG b) o.toInt, 1, false)
  | .ldBKL a b _ o => some (a, ptrPlus (s.getG b) o.toInt, 1, false)
  | .ldHK a b _ o => some (a, ptrPlus (s.getG b) o.toInt, 2, false)
  | .ldHKL a b _ o => some (a, ptrPlus (s.getG b) o.toInt, 2, false)
  | .ldWK a b _ o => some (a, ptrPlus (s.getG b) o.toInt, 4, false)
  | .ldWKL a b _ o => some (a, ptrPlus (s.getG b) o.toInt, 4, false)
  | .ldDK a b _ o => some (a, ptrPlus (s.getG b) o.toInt, 8, false)
  | .ldDKL a b _ o => some (a, ptrPlus (s.getG b) o.toInt, 8, false)
  | .ldx z a b c _ => some (a, ptrPlus (s.getG b) ((s.getG c).toInt * 2 ^ z.val), 2 ^ z.val, false)
  | .ldxS z a b c _ => some (a, ptrPlus (s.getG b) ((s.getG c).toInt * 2 ^ z.val), 2 ^ z.val, true)
  | _ => none
/-- Pointer and bytes of the stores (R195, R196, Table 6.10), little-endian. -/
def storeOf (s : State) : Instr → Option (Word × List Byte)
  | .stBK a b _ o => some (ptrPlus (s.getG b) o.toInt, toBytes 1 (s.getG a).toNat)
  | .stBKL a b _ o => some (ptrPlus (s.getG b) o.toInt, toBytes 1 (s.getG a).toNat)
  | .stHK a b _ o => some (ptrPlus (s.getG b) o.toInt, toBytes 2 (s.getG a).toNat)
  | .stHKL a b _ o => some (ptrPlus (s.getG b) o.toInt, toBytes 2 (s.getG a).toNat)
  | .stWK a b _ o => some (ptrPlus (s.getG b) o.toInt, toBytes 4 (s.getG a).toNat)
  | .stWKL a b _ o => some (ptrPlus (s.getG b) o.toInt, toBytes 4 (s.getG a).toNat)
  | .stDK a b _ o => some (ptrPlus (s.getG b) o.toInt, toBytes 8 (s.getG a).toNat)
  | .stDKL a b _ o => some (ptrPlus (s.getG b) o.toInt, toBytes 8 (s.getG a).toNat)
  | .stx z a b c _ => some (ptrPlus (s.getG b) ((s.getG c).toInt * 2 ^ z.val), toBytes (2 ^ z.val) (s.getG a).toNat)
  | .stp a e b c _ => some (ptrPlus (s.getG b) (16 * (s.getG c).toInt), toBytes 8 (s.getG a).toNat ++ toBytes 8 (s.getG e).toNat)
  | _ => none
/-- The bytes of memory that decide which key the line of an address is read under, and which aperture entry it uses (R504, R535). -/
def tableBytes (s : State) (q : Nat) : List Nat :=
  (List.range 4).map (s.wafer.potbase.toNat + 4 * (q / 4096) + ·) ++ (List.range 8).map (s.wafer.rgtbase.toNat + 8 * (q / 2 ^ 21) + ·) ++
    (List.range 8).map (s.wafer.aptbase.toNat + 8 * ((q - 2 ^ 50) / 2 ^ 30) + ·)
/-- Is none of those bytes in the line of pa. -/
def TablesApart (s : State) (pa q : Nat) : Prop := ∀ x ∈ tableBytes s q, x / 16 ≠ pa / 16
/-- Size, registers and operation of an atomic: the old value, the operand and the compare value, n bytes each (Table 6.13). -/
def amoOf : Instr → Option (Fin 4 × Reg × Reg × Reg × (Nat → Nat → Nat → Nat))
  | .amoAdd z a b c _ _ => some (z, a, b, c, fun o v _ => o + v)
  | .amoAnd z a b c _ _ => some (z, a, b, c, fun o v _ => o &&& v)
  | .amoOr z a b c _ _ => some (z, a, b, c, fun o v _ => o ||| v)
  | .amoXor z a b c _ _ => some (z, a, b, c, fun o v _ => o ^^^ v)
  | .amoMin z a b c _ _ => some (z, a, b, c, fun o v _ =>
      if (BitVec.ofNat (8 * 2 ^ z.val) o).toInt ≤ (BitVec.ofNat (8 * 2 ^ z.val) v).toInt then o else v)
  | .amoMax z a b c _ _ => some (z, a, b, c, fun o v _ =>
      if (BitVec.ofNat (8 * 2 ^ z.val) v).toInt ≤ (BitVec.ofNat (8 * 2 ^ z.val) o).toInt then o else v)
  | .amoSwap z a b c _ _ => some (z, a, b, c, fun _ v _ => v)
  | .amoCas z a b c _ _ => some (z, a, b, c, fun o v x => if o = x then v else o)
  | _ => none

end Sys2Proof.Stated

/-- R195, R196 over the paths of loadBytes and storeBytes. -/
def Obligations.LoadsAndStoresComplete : Prop :=
  ∀ (s : State), ThreadOrCore s →
    (∀ i a p n sg bs u, loadOf s i = some (a, p, n, sg) → autoBlock s p = none → loadBytes s p n = .ok (bs, u) →
      exec i s = .next ((u.setG a (if sg then (BitVec.ofNat (8 * bs.length) (fromBytes bs)).signExtend 64 else BitVec.ofNat 64 (fromBytes bs))).retire)) ∧
    (∀ a e b c la p bs u, p = ptrPlus (s.getG b) (16 * (s.getG c).toInt) → autoBlock s p = none → loadBytes s p 16 = .ok (bs, u) →
      exec (.ldp a e b c la) s = .next (((u.setG a (BitVec.ofNat 64 (fromBytes (bs.take 8)))).setG e
        (BitVec.ofNat 64 (fromBytes ((bs.drop 8).take 8)))).retire)) ∧
    (∀ i p bs u, storeOf s i = some (p, bs) → autoBlock s p = none → storeBytes s p bs = .ok u → exec i s = .next u.retire)

/-- The memory frame of a store, byte by byte. -/
def Obligations.PhysicalCoreAccess : Prop :=
  ∀ (s : State) (j k : Nat) (p : Word), s.MemOk → s.cur = .core j k → physicalCore (s.core j k) = true → ptrOk p = true →
    let pa := addrOf p
    0x40000000 ≤ pa → pa < edgeEnd → physListed s pa = true → headWay s (senderOf s (.core j k)) (siteTile (.island j)) (.phys pa) = .ok s →
    (∀ n, 0 < n → pa % 16 + n ≤ 16 → loadBytes s p n = .ok (readPhys s pa n, meetAt s pa n)) ∧
    (∀ bs : List Byte, bs ≠ [] → pa % 16 + bs.length ≤ 16 → rekeyBlocked s pa = false → TablesApart s pa pa →
      ∃ u : State, storeBytes s p bs = .ok u ∧ (∀ m, m < bs.length → readByte u (pa + m) = bs.getD m 0) ∧
        (∀ q, (q < pa ∨ pa + bs.length ≤ q) → TablesApart s pa q → readByte u q = readByte s q) ∧
        u.cores = s.cores ∧ u.ctxs = s.ctxs ∧ u.cur = s.cur ∧ u.islands = s.islands ∧ u.clusters = s.clusters)

/-- The local window (R31) by the paths of Table 6.1. -/
def Obligations.ScratchpadAccess : Prop :=
  ∀ (s : State) (t c kid n : Nat) (p : Word) (b : Block) (al : Alloc) (x : Task),
    s.cur = .thread t c → (s.ctx t c).task = some kid → s.task? kid = some x → s.block? (s.ctx t c).handle = some b → b.tile = t →
    ptrOk p = true → addrOf p < 0x20000 → 0 < n → addrOf p % 16 + n ≤ 16 →
    allocAt s t (s.ctx t c).handle (addrOf p) n = some al →
    let h := (s.ctx t c).handle
    let pa := spadBase t + addrOf p
    let loc (k : Nat) : Loc := .spad h (addrOf p + k)
    (s.tile t).locks = [] →
    (al.shared = false → loadBytes s p n = .ok ((readPhys s pa n).mapIdx fun k v => (storedAt x.stores (loc k)).getD v, s)) ∧
    (al.shared = true → (x.serial = true ∨ x.reads.any (fun e => e.line == lineLoc (loc 0)) = true) → s.tasks.all (fun q => !q.2.parked) = true → x.readFrom = [] → x.taint.length ≤ 4 →
      ∃ u : State, loadBytes s p n = .ok ((readPhys s pa n).mapIdx fun k v => (storedAt x.stores (loc k)).getD v, u) ∧ u.mem = s.mem) ∧
    (∀ bs : List Byte, bs.length = n → al.shared = true → bufferEntries x + 1 ≤ 256 →
      ∃ (u : State) (y : Task), storeBytes s p bs = .ok u ∧ u.mem = s.mem ∧ u.lines = s.lines ∧ u.task? kid = some y ∧
        y.stores = (bs.mapIdx fun k v => (loc k, v)).reverse ++ x.stores) ∧
    (∀ bs : List Byte, bs.length = n → al.shared = false → rekeyBlocked s pa = false →
      ∃ u : State, storeBytes s p bs = .ok u ∧ u.mem = (writePhys s pa bs).mem ∧ u.lines = (writePhys s pa bs).lines)

/-- R213 and Table 6.13. -/
def Obligations.AcquireReleaseAtomics : Prop :=
  ∀ (s : State), ThreadOrCore s →
    let q := curReq s
    let at_ (b : Reg) (n : Nat) : Word := ptrPlus (s.getG b) (-(((s.getG b).toNat % 2 ^ 54 % n : Nat) : Int))
    (∀ z a b sc la xs u, checkNow s q .read (at_ b (2 ^ z.val)) (2 ^ z.val) = .ok (xs, u) →
      exec (.lda z a b sc la) s = .next (((acquired (meetPlaces u q xs)).setG a (BitVec.ofNat 64 (fromBytes (readAllNow u q xs)))).retire)) ∧
    (∀ z a b sc la xs u v, checkNow s q .write (at_ b (2 ^ z.val)) (2 ^ z.val) = .ok (xs, u) →
      writeAllNow u q xs (toBytes (2 ^ z.val) (s.getG a).toNat) = .ok v → exec (.stl z a b sc la) s = .next v.retire) ∧
    (∀ i z a b c op xs u v w, amoOf i = some (z, a, b, c, op) → checkNow s q .atomic (at_ b (2 ^ z.val)) (2 ^ z.val) = .ok (xs, u) →
      (if q.core = false ∧ xs.any Place.shared = true then settle u q = .ok v else v = u) →
      let old := fromBytes (readAllNow v q xs)
      let m := 2 ^ (8 * 2 ^ z.val)
      writeAllNow (meetPlaces v q xs) q xs (toBytes (2 ^ z.val) (op old ((v.getG c).toNat % m) ((v.getG a).toNat % m))) = .ok w →
      exec i s = .next (((acquired w).setG a (BitVec.ofNat 64 old)).retire))

/-- R194's order for every load and store. -/
def Obligations.AccessTraps : Prop :=
  ∀ (s : State) (i : Instr) (p : Word) (n t c : Nat) (acc : AccKind),
    ((∃ a sg, loadOf s i = some (a, p, n, sg) ∧ acc = .read) ∨ (∃ bs, storeOf s i = some (p, bs) ∧ n = bs.length ∧ acc = .write)) →
    s.cur = .thread t c → autoBlock s p = none →
    (ptrOk p = false → exec i s = .next (raise s { code := 0x14, engine := 1, addr := p })) ∧
    (ptrOk p = true → (segments (addrOf p) n).any (fun g => inHole g.1) = true → exec i s = .next (raise s { code := 0x10, engine := 1, addr := p })) ∧
    (∀ tr, check s (curReq s) acc p n = .error tr → tr.code ≠ 0x02 → tr.code ≠ 0x09 → tr.code ≠ 0x1E →
      exec i s = .next (if tr.code = 0x16 ∧ tr.info.toNat % 256 = 1 then takeHandover s t c { tr with engine := 1 }
        else takeTrap s t c { tr with engine := 1 }))

/-- The buddy allocator's and the tag table's instructions. -/
def Obligations.AllocatorAndTags : Prop :=
  ∀ (s : State) (t c : Nat), s.cur = .thread t c →
    let h := (s.ctx t c).handle
    let tl := s.tile t
    let quota := ((s.block? h).map Block.quota).getD 0
    (∀ a b d, let size := (s.getG b).toNat
      let attr := (s.getG d).toNat
      let st (n : Nat) : Host.Outcome State Fault Refusal := .next ((s.setG a (BitVec.ofNat 64 (2 ^ 63 + n))).retire)
      (size = 0 ∨ 131072 < size → exec (.spalloc a b d) s = st 3) ∧
      (0 < size → size ≤ 131072 → 16 ≤ attr → exec (.spalloc a b d) s = st 4) ∧
      (0 < size → size ≤ 131072 → attr < 16 → quota < quotaUsed tl.allocs h + 2 ^ allocOrder size → exec (.spalloc a b d) s = st 2) ∧
      (0 < size → size ≤ 131072 → attr < 16 → quotaUsed tl.allocs h + 2 ^ allocOrder size ≤ quota → buddyFind tl.allocs (allocOrder size) = none →
        exec (.spalloc a b d) s = st 1) ∧
      (∀ off, 0 < size → size ≤ 131072 → attr < 16 → quotaUsed tl.allocs h + 2 ^ allocOrder size ≤ quota →
        buddyFind tl.allocs (allocOrder size) = some off → off < 131072 →
        let al : Alloc := { off := off, size := 2 ^ allocOrder size, handle := h, shared := attr / 8 == 1, swz := attr % 8, made := (s.ctx t c).task }
        ∃ u : State, exec (.spalloc a b d) s = .next ((u.setG a (BitVec.ofNat 64 off)).retire) ∧ (u.tile t).allocs = al :: tl.allocs ∧
          u.mem = (zeroLines s (spadBase t + off) (2 ^ allocOrder size)).mem)) ∧
    (∀ b al, tl.allocs.find? (fun a => a.handle == h && !a.dying && a.off == (s.getG b).toNat) = some al →
      tl.locks.find? (fun l => (l.spad || l.handle == some h) && decide (l.base < al.off + al.size) && decide (al.off < l.base + 16 * l.lines)) = none →
      ∃ u : State, exec (.spfree b) s = .next u.retire ∧
        ((s.ctx t c).task = none → (u.tile t).allocs = tl.allocs.erase al) ∧
        ((s.ctx t c).task ≠ none → (u.tile t).allocs = tl.allocs.map fun a => if a = al then { a with dying := true, freer := (s.ctx t c).task } else a)) ∧
    (∀ a, exec (.spq a) s = .next ((s.setG a (BitVec.ofNat 64 (spqValue s t h))).retire)) ∧
    (∀ a b, exec (.tlk a b) s = .next ((s.setG a (BitVec.ofNat 64 ((tagFind tl.tags h ((s.getG b).toNat % 2 ^ 54)).getD 0xFFFF))).retire)) ∧
    (∀ b d, ∃ u : State, exec (.tset b d) s = .next u.retire ∧
      let k := (s.getG d).toNat % 256
      let key := (s.getG b).toNat % 2 ^ 54
      ((∃ y, mget? tl.tags k = some y ∧ y.handle ≠ h) → (u.tile t).tags = tl.tags) ∧
      ((∀ y, mget? tl.tags k = some y → y.handle = h) → mget? (u.tile t).tags k = some ({ key := key, handle := h } : TagSlot))) ∧
    (∀ b, ∃ u : State, exec (.tclr b) s = .next u.retire ∧
      (u.tile t).tags = tl.tags.filter fun q => !(q.1 == (s.getG b).toNat % 256 && q.2.handle == h))

/-- R192, R219, R221 to R224. What dcinv, dcwb and pf of an island core do to the shared cache is the model's choice (log entry 36). -/
def Obligations.CacheOpsAndRecords : Prop :=
  (∀ (s : State) (b : Reg), ThreadOrCore s → cacheAt s (s.getG b) = none →
    exec (.dcwb b) s = .next s.retire ∧
    (∀ t c, s.cur = .thread t c → exec (.dcinv b) s = .next s.retire) ∧
    (∀ i k, s.cur = .core i k → ∃ u : State, exec (.dcinv b) s = .next u.retire ∧ u.mem = s.mem ∧ u.lines = s.lines ∧ u.ctxs = s.ctxs ∧
      u.cores = s.cores ∧ ∀ e ∈ (u.island i).scache, e ∈ (s.island i).scache)) ∧
  (∀ (s : State) (t : Nat) (d : DBlock) (b : Reg), ThreadOrCore s → cacheAt s (s.getG b) = some (t, d) →
    exec (.dcinv b) s = .next (setDcache s t ((s.tile t).dcache.erase d)).retire ∧
    exec (.dcwb b) s = .next (setDcache (writeBackFrom t s d) t
      ((s.tile t).dcache.map fun x => if x = d then { d with dirty := false, wrote := [] } else x)).retire) ∧
  (∀ (s : State) (b : Reg), ThreadOrCore s → exec (.pf b) s = .next (prefetch s (s.getG b)).retire) ∧
  (∀ (s : State) (t c : Nat) (a b : Reg), s.cur = .thread t c →
    exec (.rlq a b) s = .next ((s.setG a (rlqWord s t (s.ctx t c).handle ((s.getG b).toNat % 2 ^ 54))).retire)) ∧
  (∀ (s : State) (i k n r : Nat) (b c : Reg), s.cur = .core i k → coreRecord s i k (s.getG b) = .ok (n, r) →
    (∀ img u, coreLoad s (coreReq s i k) (s.getG c) 64 = .ok (img, u) → exec (.lrwr b c) s = .next (recordCommit u n r img).retire) ∧
    (∀ u, coreStore s (coreReq s i k) (s.getG c) (layoutRecord s n r) = .ok u → exec (.lrrd b c) s = .next u.retire)) ∧
  (∀ (s : State) (t x kid : Nat) (b c : Reg), s.cur = .thread t x →
    let q := threadReq s t x
    let r := bits (s.getG b) 0 8
    q.task = some kid →
    (∀ img u k, memLoad s q false (s.getG c) 64 = .ok (img, u) → (u.ctx t x).task = some kid → u.task? kid = some k → bufferEntries k + 4 ≤ 256 →
      exec (.lrwr b c) s = .next (u.setTask kid { k with recs := ⟨clusterOf t, r, img⟩ :: k.recs }).retire) ∧
    (∀ ok img u v, check s q .write (s.getG c) 64 = .ok ok → recordRead s (some kid) (clusterOf t) r = .ok (img, u) →
      memStore u q (s.getG c) img = .ok v → exec (.lrrd b c) s = .next v.retire))

namespace Sys2Proof.Stated

/-- A signed lane of w bits. -/
def slane (w x : Nat) : Int := (BitVec.ofNat w x).toInt
/-- An exact integer in a lane of w bits: saturated under CLAMP, else modulo 2^w (R57, R98). -/
def intLane (w : Nat) (clamp : Bool) (y : Int) : Nat :=
  ((if clamp then max (-(2 ^ (w - 1) : Int)) (min (2 ^ (w - 1) - 1) y) else y) % (2 ^ w : Int)).toNat
/-- A floating-point lane: the exact value scaled, rounded once, clamped (R57, R235); the flags. -/
def fpLane (f : FpFmt) (m : FMods) (y : Exact × Word) : Nat × Word :=
  let r := finish f (RMode.ofCode m.rm) (scaleOf m.scale) m.clamp y.1
  (r.1, y.2 ||| r.2)
/-- A lane of an operation of two or three sources with a floating-point and an integer form (R235). -/
def arith (fmt : Nat) (m : FMods) (fp : FpVal → FpVal → FpVal → Exact × Word) (int : Int → Int → Int → Int) (b c e : Nat) : Nat × Word :=
  let w := laneWidth fmt
  match fpCode fmt with
  | some f =>
    let x := f.read (f.modify m.neg1 m.abs1 b)
    let y := f.read (f.modify m.neg2 m.abs2 c)
    let z := f.read (f.modify m.neg3 m.abs3 e)
    let r := fpLane f m (fp x.1 y.1 z.1)
    (r.1, x.2 ||| y.2 ||| z.2 ||| r.2)
  | none => (intLane w m.clamp (int (slane w b) (slane w c) (slane w e)), 0)
/-- A lane of an operation of one floating-point source (R236). -/
def unary (f : FpFmt) (m : FMods) (op : FpVal → Nat × Word) (b _c _e : Nat) : Nat × Word :=
  let x := f.read (f.modify m.neg1 m.abs1 b)
  ((op x.1).1, x.2 ||| (op x.1).2)
/-- The condition of a compare of values that are no NaN (Table 7.4). -/
def condHolds (cond : Nat) (lt eq : Bool) : Bool := [eq, !eq, lt, lt || eq].getD cond false
/-- A lane of vcmp: all ones when the condition holds, zero when not (R237, Table 7.4); NaN meets NE and unordered. -/
def compareLane (fmt cond : Nat) (m : FMods) (b c : Nat) : Nat × Word :=
  let w := laneWidth fmt
  match fpCode fmt with
  | some f =>
    let x := f.read (f.modify m.neg1 m.abs1 b)
    let y := f.read (f.modify m.neg2 m.abs2 c)
    let nan := x.1.isNan || y.1.isNan
    let p := if nan then cond == 1 || cond == 4 else condHolds cond (fpLt x.1 y.1) (fpEq x.1 y.1)
    (if p then 2 ^ w - 1 else 0, x.2 ||| y.2 ||| flagIf (if cond = 2 ∨ cond = 3 then nan else x.1.isSnan || y.1.isSnan) fpInvalid)
  | none => (if condHolds cond (decide (slane w b < slane w c)) (decide (slane w b = slane w c)) then 2 ^ w - 1 else 0, 0)
/-- Source modifiers of a moved lane (R56, R103): floating-point formats only. -/
def signed_ (fmt : Nat) (neg abs : Bool) (b : Nat) : Nat := match fpCode fmt with | some f => f.modify neg abs b | none => b
/-- Format, destination, sources and lane function of the lane-by-lane instructions (R235 to R238, R243, R244). -/
def laneOf : Instr → Option (Nat × Reg × List Reg × (Nat → Nat → Nat → Nat × Word))
  | .vadd z a b c m => some (z.val, a, [b, c], fun x y _ => arith z.val m (fun x y _ => fpAdd (RMode.ofCode m.rm) x y) (fun x y _ => x + y) x y 0)
  | .vsub z a b c m => some (z.val, a, [b, c], fun x y _ => arith z.val m (fun x y _ => fpAdd (RMode.ofCode m.rm) x y.negate) (fun x y _ => x - y) x y 0)
  | .vmul z a b c m => some (z.val, a, [b, c], fun x y _ => arith z.val m (fun x y _ => fpMul x y) (fun x y _ => x * y) x y 0)
  | .vfma z a b c e m => some (z.val, a, [b, c, e], arith z.val m (fun x y v => fpFma (RMode.ofCode m.rm) x y v) (fun x y v => x * y + v))
  | .vmin z a b c m => some (z.val, a, [b, c], fun x y _ =>
      match fpCode z.val with
      | some f => fpPick f false (f.modify m.neg1 m.abs1 x) (f.modify m.neg2 m.abs2 y)
      | none => (if slane (laneWidth z.val) y < slane (laneWidth z.val) x then y else x, 0))
  | .vmax z a b c m => some (z.val, a, [b, c], fun x y _ =>
      match fpCode z.val with
      | some f => fpPick f true (f.modify m.neg1 m.abs1 x) (f.modify m.neg2 m.abs2 y)
      | none => (if slane (laneWidth z.val) x < slane (laneWidth z.val) y then y else x, 0))
  | .vrnd z a b m => (fpCode z.val).map fun f => (z.val, a, [b], unary f m (fpRnd f (RMode.ofCode m.rm) (scaleOf m.scale) m.clamp))
  | .vdiv z a b c m _ => (fpCode z.val).map fun _ => (z.val, a, [b, c], fun x y _ => arith z.val m (fun x y _ => fpDiv x y) (fun x _ _ => x) x y 0)
  | .vsqrt z a b m _ => (fpCode z.val).map fun f => (z.val, a, [b], unary f m fun x => fpLane f m (fpSqrt x))
  | .vcmp z a b c k m => some (z.val, a, [b, c], fun x y _ => compareLane z.val k.val m x y)
  | .vsel z a b c e m => some (z.val, a, [b, c, e], fun x y v => (if v = 0 then signed_ z.val m.neg2 m.abs2 y else signed_ z.val m.neg1 m.abs1 x, 0))
  | .vshl z a b c => some (z.val, a, [b, c], fun x y _ => (if laneWidth z.val ≤ y then 0 else x * 2 ^ y, 0))
  | .vshr z a b c => some (z.val, a, [b, c], fun x y _ => (if laneWidth z.val ≤ y then 0 else x / 2 ^ y, 0))
  | .vmov z a b m => some (z.val, a, [b], fun x _ _ => (signed_ z.val m.neg1 m.abs1 x, 0))
  | _ => none
/-- A register with its lanes of w bits given. -/
def HasLanes (v : Vec) (w : Nat) (f : Nat → Nat) : Prop := ∀ k, k < 256 / w → lane v w k = f k % 2 ^ w

end Sys2Proof.Stated

/-- What every vector instruction shares. -/
def Obligations.VectorOperandsAndResults : Prop :=
  (∀ (s : State) (t c n : Nat) (l : List Reg), (∀ r ∈ l, r.val < 12) →
    operands s t c l n = .ok (l.map fun r => (List.range n).map fun i => readV (s.ctx t c).vec (r.val + i), s)) ∧
  (∀ (s : State) (t c k n : Nat), k < 4 →
    let m := streamOf (s.ctx t c).vec k
    (m.bound = false → takeBeats s t c k n = .error (.trap (illegalOp s))) ∧
    (m.bound = true → n ≤ m.remain → n ≤ m.ahead.length → (∀ b ∈ m.ahead.take n, b.2 = none) →
      ∃ u, takeBeats s t c k n = .ok ((m.ahead.take n).map Prod.fst, u) ∧
        streamOf (u.ctx t c).vec k = { m with ahead := m.ahead.drop n, pos := m.pos + n } ∧ u.mem = s.mem ∧ (u.ctx t c).vec.v = (s.ctx t c).vec.v)) ∧
  (∀ (s : State) (t c : Nat) (r : VResult) (x : Vec), s.cur = .thread t c → r.at_ < 12 → r.regs = [x] →
    let u := putResult s t c r
    readV (u.ctx t c).vec r.at_ = x ∧ (∀ k, k < 12 → k ≠ r.at_ → readV (u.ctx t c).vec k = readV (s.ctx t c).vec k) ∧
    (u.ctx t c).vec.s = (s.ctx t c).vec.s ∧ (u.ctx t c).mat = (s.ctx t c).mat ∧
    u.regs.fpstat = s.regs.fpstat ||| r.fp ∧ u.regs.qflags = s.regs.qflags ||| r.qf ∧
    (∀ q : Reg, (∀ v, r.g ≠ some (q, v)) → u.getG q = s.getG q) ∧ (∀ q v, r.g = some (q, v) → u.getG q = v) ∧
    u.mem = s.mem ∧ u.lines = s.lines ∧ u.cores = s.cores ∧ u.tiles = s.tiles ∧ u.tasks = s.tasks)

/-- Every lane-by-lane instruction. -/
def Obligations.VectorLanes : Prop :=
  ∀ (s u : State) (t c fmt : Nat) (i : Instr) (a : Reg) (l : List Reg) (f : Nat → Nat → Nat → Nat × Word) (vs : List (List Vec)),
    laneOf i = some (fmt, a, l, f) → s.cur = .thread t c → (s.ctx t c).extResident = true → operands s t c l 1 = .ok (vs, u) →
    let w := laneWidth fmt
    let at_ (k : Nat) : Nat × Word := f (lane (opnd vs 0) w k) (lane (opnd vs 1) w k) (lane (opnd vs 2) w k)
    ∃ x : Vec, HasLanes x w (fun k => (at_ k).1) ∧
      exec i s = .next (putResult u t c { at_ := a.val, regs := [x], fp := (List.range (256 / w)).foldl (fun g k => g ||| (at_ k).2) 0 })

/-- The other register instructions of the vector engine. -/
def Obligations.VectorWholeRegisters : Prop :=
  ∀ (s u : State) (t c : Nat), s.cur = .thread t c → (s.ctx t c).extResident = true →
    (∀ z a b d vs, operands s t c [b, d] 1 = .ok (vs, u) →
      let put (x : Vec) : Host.Outcome State Fault Refusal := .next (putResult u t c { at_ := a.val, regs := [x] })
      exec (.vand z a b d) s = put (opnd vs 0 &&& opnd vs 1) ∧ exec (.vor z a b d) s = put (opnd vs 0 ||| opnd vs 1) ∧
      exec (.vxor z a b d) s = put (opnd vs 0 ^^^ opnd vs 1) ∧
      ∀ m, let w := nameWidth z.val
        ∃ x, exec (.vperm z a b d m) s = put x ∧ HasLanes x w fun k =>
          let i := lane (opnd vs 1) w k
          if i < 256 / w then signed_ z.val m.neg1 m.abs1 (lane (opnd vs 0) w i) else 0) ∧
    (∀ z a b, ∃ x, exec (.vbcast z a b) s = .next (putResult s t c { at_ := a.val, regs := [x] }) ∧
      HasLanes x (laneWidth z.val) fun _ => (s.getG b).toNat) ∧
    (∀ (z : Fin 32) (a b k : Reg) vs, operands s t c [a] 1 = .ok (vs, u) → k.val < 8 →
      ∃ x, exec (.vins z a b k) s = .next (putResult u t c { at_ := a.val, regs := [x] }) ∧
        HasLanes x 32 fun j => if j = k.val then (s.getG b).toNat else lane (opnd vs 0) 32 j) ∧
    (∀ (z : Fin 32) a b (k : Reg) vs, operands s t c [b] 1 = .ok (vs, u) →
      let x := lane (opnd vs 0) 32 k.val
      exec (.vext z a b k) s = .next (putResult u t c { g := some (a, if z.val = 3 then (BitVec.ofNat 32 x).signExtend 64 else BitVec.ofNat 64 x) })) ∧
    (∀ a : Reg, a.val < 12 → ∃ v, exec (.vclr a) s = .next (setVec s t c v).retire ∧ readV v a.val = 0 ∧ bits (w64 v.vlive) a.val 1 = 0 ∧ v.s = (s.ctx t c).vec.s) ∧
    (∀ z a b m vs, operands s t c [b] 1 = .ok (vs, u) →
      let w := laneWidth z.val
      let one (r : Nat × Word) (i : Instr) : Prop := ∃ x, exec i s = .next (putResult u t c { at_ := a.val, regs := [x], fp := r.2 }) ∧
        HasLanes x w fun k => if k = 0 then r.1 else 0
      one (redAdd z.val m (lanesOf (opnd vs 0) w)) (.vredadd z a b m) ∧ one (redPick z.val m true (lanesOf (opnd vs 0) w)) (.vredmax z a b m) ∧
      one (redPick z.val m false (lanesOf (opnd vs 0) w)) (.vredmin z a b m)) ∧
    (∀ (dst : Fin 32) (src a b : Reg) m vs, operands s t c [b] 1 = .ok (vs, u) →
      let n := min (256 / laneWidth src.val) (256 / laneWidth dst.val)
      let cv (k : Nat) := convert src.val dst.val (RMode.ofCode m.rm) (scaleOf m.scale) m.clamp m.neg1 m.abs1 (lane (opnd vs 0) (laneWidth src.val) k)
      ∃ x, exec (.vcvt dst src a b m) s = .next (putResult u t c
          { at_ := a.val, regs := [x], fp := (List.range n).foldl (fun g k => g ||| (cv k).2) 0 }) ∧
        HasLanes x (laneWidth dst.val) fun k => if k < n then (cv k).1 else 0) ∧
    (∀ z a b d o vs, operands s t c [b] (WellFormed.groupLen o / 8) = .ok (vs, u) →
      exec (.vqnt z a b d o) s = .next (putResult u t c (qntRegs a d z.val o.val vs))) ∧
    (∀ z a b d o m vs, operands s t c [b] (WellFormed.codeRegs (o.val % 2 == 0) (WellFormed.groupLen o)) = .ok (vs, u) →
      exec (.vdqnt z a b d o m) s = .next (putResult u t c (dqntRegs a z.val o.val m (bits (s.getG d) 0 32) vs)))

/-- R245 to R250. -/
def Obligations.VectorMemoryAndStreams : Prop :=
  ∀ (s : State) (t c : Nat), s.cur = .thread t c → (s.ctx t c).extResident = true →
    (∀ (a b la : Reg) (i : Instr) (d : Int), ((∃ o, i = .vldK a b la o ∧ d = o.toInt) ∨ ∃ o, i = .vldKL a b la o ∧ d = o.toInt) →
      ∀ bs u, loadBytes s (ptrPlus (s.getG b) d) 32 = .ok (bs, u) →
        exec i s = .next (putResult u t c { at_ := a.val, regs := [BitVec.ofNat 256 (fromBytes bs)] })) ∧
    (∀ (a b la : Reg) (i : Instr) (d : Int), ((∃ o, i = .vstK a b la o ∧ d = o.toInt) ∨ ∃ o, i = .vstKL a b la o ∧ d = o.toInt) →
      ∀ u, storeBytes s (ptrPlus (s.getG b) d) (toBytes 32 (readV (s.ctx t c).vec a.val).toNat) = .ok u → exec i s = .next u.retire) ∧
    (∀ (fmt : Fin 32) (a b : Reg) bs u, memLoad s (threadReq s t c) false (s.getG b) 32 = .ok (bs, u) →
      let p := patternOf bs
      let v := unbindStream u t c (a.val - 12)
      let rg := (streamRange v t (v.ctx t c).handle (blockTenant v (v.ctx t c).handle) v.nextId (v.ctx t c).task fmt.val p)
      patternOk bs fmt.val = true → patternWindow p = none → rangesFit v rg = true →
        exec (.sbind fmt a b) s = .next (((setVec (registerRanges { v with nextId := v.nextId + 1 } rg) t c (setStream (v.ctx t c).vec (a.val - 12)
          { bound := true, fmt := fmt.val, pattern := bs, total := (p.count + beatElems fmt.val - 1) / beatElems fmt.val, req := v.nextId })).addDueOnce
            (.beatArrival t c (a.val - 12))).retire)) ∧
    (∀ a : Reg, exec (.sunbind a) s = .next (unbindStream s t c (a.val - 12)).retire) ∧
    (∀ (a b : Reg), let m := streamOf (s.ctx t c).vec (a.val - 12)
      (m.bound = false → exec (.sadv a b) s = .next (raise s (illegalOp s))) ∧
      (m.bound = true → ∃ m' : Stream, exec (.sadv a b) s =
          .next ((setVec s t c (setStream (s.ctx t c).vec (a.val - 12) m')).addDueOnce (.beatArrival t c (a.val - 12))).retire ∧
        ((s.getG b).toNat ≤ m.remain → m'.pos = m.pos + (s.getG b).toNat ∧ m'.ended = m.ended) ∧
        (m.remain < (s.getG b).toNat → m'.pos = m.total ∧ m'.ended = true))) ∧
    (∀ a b : Reg, exec (.sstat a b) s = .next ((s.setG a (streamWord (streamOf (s.ctx t c).vec (b.val - 12)))).retire))

/-- R263 to R267 at the instruction; an instruction that names a table whose load its own thread has in flight waits (R61, R262). -/
def Obligations.InterpolationInstructions : Prop :=
  ∀ (s : State) (t c : Nat), s.cur = .thread t c →
    let h := namesOf s t c
    let home := (s.ctx t c).handle
    let next : State := { s with nextId := s.nextId + 1 }
    let rg (p : Word) := (rangeSpecs next t home (blockTenant next home) 3 s.nextId (s.ctx t c).task false (addrOf p) 4160)
    (∀ (n b la : Reg) (l : List IBuffer), ownLoad s t c h n.val = false → let p := s.getG b
      (ptrOk p = false → exec (.itld n b la) s = .next (raise (emptyName s h n.val) { code := 0x14, engine := 3, addr := p })) ∧
      (ptrOk p = true → p.toNat % 64 ≠ 0 →
        exec (.itld n b la) s = .next (raise (emptyName s h n.val) { code := 0x18, engine := 3, addr := p, info := w64 (n.val * 256 + 3) })) ∧
      (ptrOk p = true → p.toNat % 64 = 0 → claimBuffer (s.tile t).ibufs h n.val = some l → rangesFit next (rg p) = true →
        ∃ u : State, exec (.itld n b la) s = .next u ∧ (u.ctx t c).awaiting = some s.nextId ∧ Instr.tableLoadComplete t h n.val ∈ u.due ∧
          (u.tile t).ibufs = { handle := h, name := n.val, loading := true, image := [], addr := p, req := s.nextId, task := (s.ctx t c).task, ctx := some c } :: l ∧
          u.mem = s.mem ∧ u.getPc = s.getPc)) ∧
    (∀ (a b n la : Reg) (fmt : Fin 4) (d : IBuffer) (vs : List (List Vec)) (u : State),
      nameLoading s h n.val = false → (tableSource? s h n.val).isSome = true → ibuf? s t h n.val = some d → (s.ctx t c).extResident = true →
      operands s t c [b] 1 = .ok (vs, u) →
      let f := interpFmt fmt
      let w := f.width
      let x (k : Nat) := lane (opnd vs 0) w k
      let put (i : Instr) (op : Nat → Nat × Word) : Prop := ∃ v : Vec, HasLanes v w (fun k => (op (x k)).1) ∧ exec i s =
        .next (bufferUsed (putResult u t c { at_ := a.val, regs := [v], fp := (List.range (256 / w)).foldl (fun g k => g ||| (op (x k)).2) 0 }) t d)
      (∀ m, put (.iev fmt a b n m la) (ievLane d.image f m)) ∧ put (.iseg fmt a b n la) (isegLane d.image f)) ∧
    (∀ (a b n la : Reg) (fmt : Fin 4) m (i : Instr), i = .iev fmt a b n m la ∨ i = .iseg fmt a b n la →
      (nameLoading s h n.val = true → exec i s = .next s) ∧
      (nameLoading s h n.val = false → tableSource? s h n.val = none →
        exec i s = .next (raise s { code := 0x18, engine := 3, info := w64 (n.val * 256 + 1) })) ∧
      (∀ p l, nameLoading s h n.val = false → tableSource? s h n.val = some p → ibuf? s t h n.val = none →
        claimBuffer (s.tile t).ibufs h n.val = some l → rangesFit next (rg (w64 p.1)) = true →
        ∃ u : State, exec i s = .next u ∧ (u.ctx t c).awaiting = some s.nextId ∧ Instr.refetch t h n.val ∈ u.due ∧ u.mem = s.mem ∧ u.getPc = s.getPc)) ∧
    (∀ n la : Reg, ownLoad s t c h n.val = false → ∃ u : State, exec (.itinv n la) s = .next u.retire ∧ u.mem = s.mem ∧
      (∀ m, m ≠ n.val → tableSource? u h m = tableSource? s h m) ∧ tableSource? u h n.val = none) ∧
    (∀ a n la : Reg, ownLoad s t c h n.val = false → exec (.itq a n la) s = .next ((s.setG a (itqWord s t h n.val)).retire)) ∧
    (∀ a b n la : Reg, ownLoad s t c h n.val = true → exec (.itld n b la) s = .next s ∧ exec (.itinv n la) s = .next s ∧ exec (.itq a n la) s = .next s)

namespace Sys2Proof.Stated

/-- What a zpost does from its step 5 on (R281), the queue entry of descriptor d reserved: the settled task posts the request as Queued, with its
ranges registered, and gA gets its number. -/
def Posted (s : State) (t c kid : Nat) (a : Reg) (d : List Byte) (out : Host.Outcome State Fault Refusal) : Prop :=
  let q := threadReq s t c
  ∀ (v : State) (k : Task), (if (dstRange d).toList.any (reachesShared s q) = true then settle s q = .ok v else v = s) → v.task? kid = some k →
    let v' : State := { v with nextId := v.nextId + 1 }
    let rg := zephyrRanges v' t q.handle q.tenant v.nextId q.task d
    let id := k.zopen * 256 + k.zcount
    rangesFit v' rg = true →
      out = .next (((enqueueRequest (registerRanges (setPosting (v'.setTask kid { k with zcount := k.zcount + 1 }) t c []) rg) t
        { uid := v.nextId, handle := q.handle, task := some kid, tenant := q.tenant, world := worldOf v' q.tenant, id := id
          desc := d, isProgram := zKind d == 1 }).setG a (BitVec.ofNat 64 id)).retire)

end Sys2Proof.Stated

/-- The thread side of the copy engine. -/
def Obligations.ZephyrThreadInstructions : Prop :=
  ∀ (s : State) (t c kid : Nat) (k : Task), s.cur = .thread t c → (s.ctx t c).task = some kid → s.task? kid = some k →
    let q := threadReq s t c
    (∀ (a b la : Reg), (s.ctx t c).posting ≠ [] → Posted s t c kid a (s.ctx t c).posting (exec (.zpost a b la) s)) ∧
    (∀ (a b la : Reg) (d : List Byte) (u : State), (s.ctx t c).posting = [] → readDesc s q (s.getG b) = .ok (d, u) →
      let rs := (srcRange d).toList ++ (dstRange d).toList
      let ok := (s.getG b).toNat % 64 = 0 ∧ descOk d false = true
      let answer (n : Nat) := Host.Outcome.next ((u.setG a (BitVec.ofNat 64 (2 ^ 63 + n))).retire)
      (¬ ok → exec (.zpost a b la) s = answer 3) ∧
      (∀ tr, ok → rangesTrap u q rs = some tr → tr.code ≠ 0x02 → tr.code ≠ 0x09 → tr.code ≠ 0x1E →
        exec (.zpost a b la) s = .next (raise s { tr with engine := 5 })) ∧
      (ok → rangesTrap u q rs = none →
        (rs.any spansWindows = true → exec (.zpost a b la) s = answer 5) ∧
        (rs.any spansWindows = false → k.zcount = 255 → exec (.zpost a b la) s = answer 2) ∧
        (rs.any spansWindows = false → k.zcount ≠ 255 → 32 ≤ queueUsed u t → exec (.zpost a b la) s = answer 1) ∧
        (rs.any spansWindows = false → k.zcount ≠ 255 → queueUsed u t < 32 →
          Posted (setPosting u t c d) t c kid a d (exec (.zpost a b la) s)))) ∧
    (∀ a, (k.zopen ≠ 0xFFFFFFFF →
        exec (.bseal a) s = .next (((s.setTask kid { k with zopen := k.zopen + 1, zcount := 0 }).setG a (BitVec.ofNat 64 k.zopen)).retire)) ∧
      (k.zopen = 0xFFFFFFFF → exec (.bseal a) s = .next (raise s { code := 0x19, engine := 5, info := w64 k.zopen }))) ∧
    (∀ b d, let bn := bits (s.getG b) 0 32
      let n := bits (s.getG d) 0 32
      (k.zopen ≤ bn → exec (.bwait b d) s = .next (raise s { code := 0x19, engine := 5, info := w64 k.zopen })) ∧
      (bn < k.zopen → bn < n → exec (.bwait b d) s = .next s.retire) ∧
      (bn < k.zopen → n ≤ bn → batchOpen s kid (bn - n) = false → (∀ f ∈ k.zfailed, bn - n < f.1 / 256) → exec (.bwait b d) s = .next s.retire) ∧
      (∀ f, bn < k.zopen → n ≤ bn → batchOpen s kid (bn - n) = false → k.zfailed.find? (fun f => decide (f.1 / 256 ≤ bn - n)) = some f →
        exec (.bwait b d) s = .next (raise (s.setTask kid { k with zfailed := k.zfailed.erase f })
          { code := 0x1A, engine := 5, info := w64 (f.1 + f.2 % 256 * 2 ^ 40) }))) ∧
    (∀ a, exec (.zstat a) s = .next ((s.setG a (zstatWord s t kid k)).retire))

namespace Sys2Proof.Stated

/-- Register zK of a request. -/
def zr (r : ZReq) (k : Reg) : Word := r.z.toList.getD k.val 0
/-- Destination and value of the register operations of a movement program (R286, R287). -/
def zvalue (r : ZReq) : Instr → Option (Reg × Word)
  | .zli a m => some (a, BitVec.ofInt 64 m.toInt)
  | .zmov a b => some (a, zr r b)
  | .zaddXD a b c => some (a, ptrPlus (zr r b) (zr r c).toInt)
  | .zaddXI a b m => some (a, ptrPlus (zr r b) m.toInt)
  | .zsubXD a b c => some (a, ptrPlus (zr r b) (-(zr r c).toInt))
  | .zsubXI a b m => some (a, ptrPlus (zr r b) (-m.toInt))
  | _ => none

end Sys2Proof.Stated

/-- Table 9.6. -/
def Obligations.MovementPrograms : Prop :=
  ∀ (s : State) (t zc : Nat) (r : ZReq), s.cur = .zephyr t zc → s.zreqOf? t zc = some r →
    let q := zephyrReq s t (r.zc.getD 0) r
    (∀ i a v, zvalue r i = some (a, v) → exec i s = .next (s.setZreq t { r with z := r.z.setIfInBounds a.val v }).retire) ∧
    (∀ a b c bs u, zephyrRead s q r (ptrPlus (zr r b) (zr r c).toInt) 8 = .ok (bs, u) →
      exec (.zld a b c) s = .next (u.setZreq t { r with rf := 0, faultPage := none, z := r.z.setIfInBounds a.val (BitVec.ofNat 64 (fromBytes bs)) }).retire) ∧
    (∀ a b c u, zephyrWrite s q r (ptrPlus (zr r b) (zr r c).toInt) (toBytes 8 (zr r a).toNat) = .ok u →
      exec (.zst a b c) s = .next (u.setZreq t { r with rf := 0, faultPage := none }).retire) ∧
    (∀ a b c, let n := (zr r c).toNat
      let cp : Copy := { src := zr r b, dst := zr r a, sstride := r.sstride, dstride := r.dstride, rows := r.zrows, len := n }
      (16777215 < n → exec (.zcopy a b c) s = .next (takeCopyFault s t r { code := 0x34, engine := 5 })) ∧
      (n = 0 → exec (.zcopy a b c) s = .next s.retire) ∧
      (∀ u m, 0 < n → n ≤ 16777215 → checkRows s q r cp (cp.rows - r.row) r.row = none → copyRows s q r cp (cp.rows - r.row) r.row = (u, m, none) →
        exec (.zcopy a b c) s = .next (u.setZreq t { r with row := 0, rf := 0, faultPage := none }).retire)) ∧
    (∀ b c, (bits (zr r b) 0 16 = 0 → exec (.zstride b c) s = .next (takeCopyFault s t r { code := 0x34, engine := 5 })) ∧
      (bits (zr r b) 0 16 ≠ 0 → exec (.zstride b c) s = .next (s.setZreq t { r with
        zrows := bits (zr r b) 0 16, sstride := (BitVec.ofNat 32 (bits (zr r c) 0 32)).toInt, dstride := (BitVec.ofNat 32 (bits (zr r c) 32 32)).toInt }).retire)) ∧
    (∀ b, exec (.zdone b) s = .next { (s.setZreq t { r with state := .draining, status := bits (zr r b) 0 8 }).addDueOnce (.requestDone t r.uid) with retired := true }) ∧
    (let r' : ZReq := { r with succ := some (BitVec.ofNat 64 (nextPc s s.cur r.pc.toNat)) }
     exec .zhalt s = .next (takeCopyFault (s.setZreq t r') t r' { code := 0x32, engine := 5 }))

/-- R291 as an operation, where the record's head has a path and meets no bad table word. RF of the REFAULT
after the third is the model's reading, the addressee of a kernel request's record its choice (log entries 77 and 103). -/
def Obligations.CopyFaultEntry : Prop :=
  ∀ (s : State) (t : Nat) (r : ZReq) (tr : Trap), zreq? s t r.uid = some r → plainRoutes s = true → cleanRouters s = true →
    let u := takeCopyFault s t r tr
    let size := 2 ^ (12 + 9 * min 2 (bits tr.info 12 3))
    let again := tr.code = 0x16 ∧ ∃ p, r.faultPage = some p ∧ p.1 / size = addrOf tr.addr / size
    let i := homeIsland (clusterOf t)
    u.mem = s.mem ∧ Instr.faultQueueAppend i ∈ u.due ∧ (u.island i).inFlight.length = (s.island i).inFlight.length + 1 ∧
    ∃ r', zreq? u t r.uid = some r' ∧ r'.state = .faulted ∧ r'.zc = none ∧ r'.fseq = (r.fseq + 1) % 256 ∧ r'.z = r.z ∧ r'.pc = r.pc ∧ r'.desc = r.desc ∧
      (again → r'.faultCode = 0x30 ∧ r'.rf = (if r.rf = 3 then 1 else r.rf + 1)) ∧ (¬ again → r'.faultCode = tr.code ∧ r'.rf = 0)

namespace Sys2Proof.Stated

/-- An operation entered last in a tile's queue for context c, whose thread waits for it when wait says so; memory and PC as before. -/
def Queued (s u : State) (t c : Nat) (o : MatOp) (wait : Bool) : Prop :=
  (u.tile t).matq = (s.tile t).matq ++ [o] ∧ Instr.matrixOperationStart t ∈ u.due ∧ u.mem = s.mem ∧
    (wait = true → (u.ctx t c).awaiting = some o.req ∧ u.getPc = s.getPc ∧ u.retired = s.retired)
/-- XM and operand registers of the accumulate instructions (R312 to R316): accumulator, operands A and B, K, MX. -/
def accumulateOf : Instr → Option (Nat × Reg × Reg × Reg × Reg × Nat)
  | .mmac a b r e _ => some (4, a, b, r, e, 0)
  | .mmacm a b r e _ => some (5, a, b, r, e, 0)
  | .mmacs a b r e _ => some (6, a, b, r, e, 0)
  | .mbin op a b r e _ => some (7, a, b, r, e, op.val)
  | _ => none

end Sys2Proof.Stated

/-- R321 to R329 and the issue of R312. -/
def Obligations.MatrixInstructions : Prop :=
  ∀ (s : State) (t c : Nat), s.cur = .thread t c → (s.ctx t c).extResident = true → (s.ctx t c).matResident = true →
    (∀ k, k < 4 → resident s t c k = true) →
    let x := s.ctx t c
    let g := x.mat.mcfg
    let next : State := { s with nextId := s.nextId + 1 }
    let lds := if g / 2 ^ 16 % 2 ^ 11 = 0 then g / 32 % 32 + 1 else g / 2 ^ 16 % 2 ^ 11
    let op (xm : Nat) (a : Reg) : MatOp :=
      { ctx := c, task := x.task, req := s.nextId, xm := xm, acc := a.val, m := g % 32 + 1, n := g / 32 % 32 + 1, lds := lds }
    (∀ (m : BitVec 32) la, exec (.mcfg m la) s = .next (s.setCtx t c { x with mat := { x.mat with mcfg := m.toNat } }).retire) ∧
    (∀ a la, (accNamed s t c a.val = false → exec (.mwait a la) s = .next s.retire) ∧ (accNamed s t c a.val = true → exec (.mwait a la) s = .next s)) ∧
    (accBusy s t c = false →
      (∀ a la, exec (.mrdp a la) s = .next ((s.setG a s.regs.mprog).retire)) ∧
      (∀ b la, exec (.mwrp b la) s = .next (s.setRegs [3] { s.regs with mprog := s.getG b &&& 0x800000F30000FFFF }).retire)) ∧
    (accBusy s t c = true → ∀ a la, exec (.mrdp a la) s = .next s ∧ exec (.mwrp a la) s = .next s) ∧
    (∀ a la, exec (.mstat a la) s = .next ((s.setG a (mstatWord s t c)).retire)) ∧
    (∀ a la, ∃ u : State, exec (.mabort a la) s = .next u.retire ∧
      ((s.tile t).matq.Pairwise (fun p q => p.req ≠ q.req) →
        (u.tile t).matq = (s.tile t).matq.filter fun o => !(o.ctx == c && o.acc == a.val && (decide (o.xm ≤ 3) && !o.begun || decide (4 ≤ o.xm) && decide (o.xm ≤ 7) && decide (o.kdone < o.k)))) ∧
      (∀ o, (s.tile t).matq.filter (fun o => o.ctx == c && o.acc == a.val && o.isAcc && decide (o.kdone < o.k)) = [o] →
        u.regs.mprog = BitVec.ofNat 64 (2 ^ 63 + o.xm * 2 ^ 36 + o.acc * 2 ^ 32 + o.kdone))) ∧
    ((s.tile t).matq.length < 8 →
      (∀ a la, ∃ u : State, exec (.mzero a la) s = .next u.retire ∧ Queued s u t c { op 1 a with retired := true } false) ∧
      (∀ a la, ∃ u : State, exec (.mres a la) s = .next u.retire ∧ Queued s u t c { op 8 a with retired := true } false ∧
        u.regs.mprog = (if bitOf s.regs.mprog 63 = true ∧ bits s.regs.mprog 32 2 = a.val then 0 else s.regs.mprog)) ∧
      (∀ (a b la : Reg) rows v, let p := s.getG b
        let o : MatOp := { op 2 a with aPtr := p, retired := true }
        ptrOk p = true → (ptrFmt p = 0 ∨ ptrFmt p = 3 ∨ ptrFmt p = 5) → rowPlaces next (threadReq next t c) .read o 4 = .ok (rows, v) →
        rangesFit v (rangeSpecs v t x.handle (blockTenant v x.handle) 4 s.nextId x.task false (addrOf p) (spanBytes o 4)) = true →
        (v.tile t).matq.length < 8 →
        ∃ u : State, exec (.mld a b la) s = .next u.retire ∧ (u.tile t).matq = (v.tile t).matq ++ [{ o with rows := rows }] ∧
          Instr.matrixOperationStart t ∈ u.due ∧ u.mem = v.mem) ∧
      (∀ (fmt : Fin 4) (a b la : Reg) rm cl rows u v, let p := s.getG b
        let o : MatOp := { op 3 a with aPtr := p, mx := fmt.val, rm := rm, clamp := cl, retired := true }
        let q := threadReq next t c
        ptrOk p = true → (fmt.val = 0 ∨ (accAfter s t c a.val).mode ≠ 2) → mstFmtOk (ptrFmt p) fmt.val (accAfter s t c a.val).mode = true →
        rowPlaces next q .write o (mstWidth fmt.val) = .ok (rows, u) → (if rows.flatten.any Place.shared = true then settle u q = .ok v else v = u) →
        rangesFit v (rangeSpecs v t q.handle q.tenant 4 s.nextId q.task true (addrOf p) (spanBytes o (mstWidth fmt.val))) = true →
        (v.tile t).matq.length < 8 →
        ∃ w : State, exec (.mst fmt a b rm cl la) s = .next w.retire ∧ (w.tile t).matq = (v.tile t).matq ++ [{ o with rows := rows }] ∧
          Instr.matrixOperationStart t ∈ w.due ∧ w.mem = v.mem) ∧
      (∀ i xm a b r e mx pa pb mode, accumulateOf i = some (xm, a, b, r, e, mx) → accBusy s t c = false →
        panelsOf s t c xm b r = .ok (pa, pb) → let k := (s.getG e).toNat
        accChecks s t c xm a.val pa pb k = .ok mode → 0 < k →
        let st := stepOf mode pa.glog
        let rg (p : Word) (fmt rows : Nat) : List RangeSpec :=
          (rangeSpecs next t x.handle (blockTenant s x.handle) 4 s.nextId x.task false (addrOf p) (partBytes fmt pa.glog st rows * (k / st)))
        let k0 := if bitOf s.regs.mprog 63 then bits s.regs.mprog 0 16 else 0
        rangesFit next (if xm = 6 then [] else rg pa.ptr pa.fmt (g % 32 + 1) ++ rg pb.ptr pb.fmt (g / 32 % 32 + 1)) = true →
        ∃ u : State, exec i s = .next u ∧ Queued s u t c { op xm a with
          aPtr := if xm = 6 then w64 (b.val - 12) else pa.ptr, bPtr := if xm = 6 then w64 (r.val - 12) else pb.ptr
          aFmt := pa.fmt, bFmt := pb.fmt, glog := pa.glog, k := k, kdone := k0, kfetch := k0, stepk := st, mx := mx } true)) ∧
    (∀ i xm a b r e mx pa pb mode, accumulateOf i = some (xm, a, b, r, e, mx) → accNamed s t c a.val = false → accBusy s t c = false →
      panelsOf s t c xm b r = .ok (pa, pb) → accChecks s t c xm a.val pa pb 0 = .ok mode → s.getG e = 0 →
      ((accOf x a.val).live = true →
        ∃ u : State, exec i s = .next u.retire ∧ u.regs.mprog = 0 ∧ (accOf (u.ctx t c) a.val).cells = (accOf x a.val).cells ∧ u.mem = s.mem) ∧
      ((accOf x a.val).live = false → a.val < 4 → accHeld s t c a.val = false → (s.tile t).physAcc.length < 8 →
        ∃ u : State, exec i s = .next u.retire ∧ u.regs.mprog = 0 ∧ (accOf (u.ctx t c) a.val).live = true ∧ (accOf (u.ctx t c) a.val).cells = [] ∧
          accHeld u t c a.val = true ∧ u.mem = s.mem))

/-- R312 step by step: a FOLD fetches the next parts or folds the oldest; the binary mode of R316 written out. -/
def Obligations.MatrixFold : Prop :=
  ∀ (s : State) (t : Nat) (o : MatOp) (rest : List MatOp), (s.tile t).matq = o :: rest →
    resident s t o.ctx 2 = true → o.begun = true → o.finished = false → 4 ≤ o.xm → o.xm ≤ 7 → o.acc < 4 → (o.retired = true ∨ (s.ctx t o.ctx).awaiting = some o.req) →
    (∀ p v, o.kfetch < o.k → o.parts.length < 2 → fetchParts s t o = .ok (p, v) →
      let o' := { o with kfetch := o.kfetch + o.stepk, parts := o.parts ++ [p] }
      (o.kfetch + o.stepk < o.k → exec (.fold t) s = .next ((setOp v t o').addDueOnce (.fold t))) ∧
      (o.k ≤ o.kfetch + o.stepk → exec (.fold t) s = .next ((retireOp (setOp v t o') t o').addDueOnce (.fold t)))) ∧
    (∀ (pa pb : List Byte) more, o.parts = (pa, pb) :: more → (o.k ≤ o.kfetch ∨ 2 ≤ o.parts.length) →
      ∃ w : State, exec (.fold t) s = .next w ∧ w.mem = s.mem ∧
        let old (i j : Nat) := mget (accOf (s.ctx t o.ctx) o.acc).cells 0 (32 * i + j)
        let new (i j : Nat) := mget (accOf (w.ctx t o.ctx) o.acc).cells 0 (32 * i + j)
        (∀ i j, i < 32 → j < 32 → new i j = if i < o.m ∧ j < o.n then (foldElem o o.mode pa pb i j (old i j)).1 else old i j) ∧
        (∀ i j, i < 32 → j < 32 → i < o.m → j < o.n → o.xm = 7 →
          let a := leAt pa (8 * i) 8
          let b := leAt pb (8 * j) 8
          (new i j : Int) = ((old i j : Int) + (if o.mx = 1 then (((List.range 64).countP fun k => a.testBit k && b.testBit k : Nat) : Int)
            else 64 - 2 * (((List.range 64).countP fun k => a.testBit k != b.testBit k : Nat) : Int))) % 2 ^ 32) ∧
        (o.kdone + o.stepk < o.k → Instr.fold t ∈ w.due) ∧ (o.k ≤ o.kdone + o.stepk → Instr.matrixOperationComplete t ∈ w.due))

namespace Sys2Proof.Stated

/-- Kind, destination rule, result, payload and handler registers of the sends (R353 to R355). -/
def sendOf (s : State) : Instr → Option (Nat × SendTo × Reg × Reg × Reg)
  | .msend a b c e => some (0, sendHandle s (curReq s) (s.getG b), a, c, e)
  | .msendr a b c e => some (0, sendRoute s (curReq s) (s.getG b), a, c, e)
  | .mcast a b c e => some (2, sendGroup s (s.getG b), a, c, e)
  | _ => none

end Sys2Proof.Stated

/-- R353's steps in order. -/
def Obligations.SendsComplete : Prop :=
  ∀ (s : State) (i : Instr) (kind : Nat) (d : SendTo) (a c e : Reg), ThreadOrCore s → sendOf s i = some (kind, d, a, c, e) → reserved? s = none →
    let q := curReq s
    let x := siteOf s.cur
    let n := (s.getG a).toNat
    let h := (s.getG e).toNat % 2 ^ 54
    let answer (k : Nat) := Host.Outcome.next ((s.setG a (BitVec.ofNat 64 (2 ^ 63 + k))).retire)
    let named := n ≤ 1024 ∧ 0x40000000 ≤ h ∧ h < 0x3FFE0000000000 ∧ h % 64 ≠ 0 ∧ h % 2 = 0
    (1024 < n → exec i s = answer 3) ∧
    (n ≤ 1024 → ¬ (0x40000000 ≤ h ∧ h < 0x3FFE0000000000 ∧ h % 64 ≠ 0 ∧ h % 2 = 0) → exec i s = answer 6) ∧
    (∀ w, named → d = .status w → exec i s = .next ((s.setG a w).retire)) ∧
    (∀ tr, named → d = .stop tr → tr.code = 0x12 → exec i s = .next (raise s { tr with engine := 6 })) ∧
    (∀ l m, named → d = .dests l → l.find? (destRefused s q) = some m →
      exec i s = .next (raise s { code := 0x17, engine := 6, info := w64 (toViewHandle s q.tenant m) })) ∧
    (∀ l, named → d = .dests l → l.find? (destRefused s q) = none → freeSend? s x = none → exec i s = answer 1) ∧
    (∀ l k v bs u, named → d = .dests l → l.find? (destRefused s q) = none → freeSend? s x = some k →
      settle s q = .ok v → v.getG a = s.getG a → v.getG e = s.getG e → curReq v = q → v.cur = s.cur →
      readPayload v q (v.getG c) n = .ok (bs, u) → u.cur = s.cur →
      ∃ (w : State) (en : SendEntry), exec i s = .next ((w.setG a (BitVec.ofNat 64 en.seq)).retire) ∧ mget? (sendsOf w x) k = some en ∧
        en.kind = kind ∧ en.pend = l ∧ en.payload = sealFlits u q (senderOf u u.cur) en.seq bs ∧ en.owner = q.tenant ∧ en.world = worldOf u q.tenant ∧ en.state = .ready ∧ en.task = q.task ∧ en.seq = (takeSeq u).1 ∧
        en.handler = BitVec.ofNat 64 ((u.getG e).toNat % 2 ^ 54) ∧ Instr.injection (siteTile x) ∈ w.due ∧ w.mem = u.mem)

/-- R363 to R366. -/
def Obligations.MigrationAndQueries : Prop :=
  (∀ (s : State) (t c : Nat) (b : Reg), s.cur = .thread t c → mayMigrate s t c = true →
    let g := s.getG b
    let q := threadReq s t c
    let h := fromViewHandle s q.tenant (addrOf g / 2 ^ 17 % 2 ^ 24)
    (addrOf g < 0x20000 → exec (.mig b) s = .next s.retire) ∧
    (∀ bl, 0x3FFE0000000000 ≤ addrOf g → liveBlock? s h = some bl → sendRefused s q bl = false → some bl.launch = (s.block? (s.ctx t c).handle).map Block.launch →
      (bl.tile = t → bl.evicted = false → exec (.mig b) s = .next s.retire) ∧
      (∀ v k w, bl.tile ≠ t → threadBusy s t c = false → settle s q = .ok v → freeSend? v (.tile t) = some k →
        switchOut (flushBlocks v t fun d => d.tp && d.dirty && d.tenant == blockTenant v (v.ctx t c).handle) t c = (w, none) →
        ∃ (u : State) (en : SendEntry), exec (.mig b) s = .next u ∧ (u.ctx t c).state = .held ∧ (u.ctx t c).slot = none ∧
          mget? (u.tile t).sends k = some en ∧ en.kind = 1 ∧ en.pend = [h] ∧ en.handler = BitVec.ofNat 64 (nextPc s s.cur s.getPc.toNat) ∧
          en.payload = sealFlits w (threadReq w t c) en.src en.seq (wordsBytes (migrationImage (w.ctx t c).regs en.handler)) ∧ Instr.issueSlotTaken t ∈ u.due))) ∧
  (∀ (s : State) (b c : Reg) (m : List Word) (u : State), ThreadOrCore s → bits (s.getG b) 3 61 = 0 →
    readMembers s (curReq s) (s.getG c) = .ok (some m, u) → (∀ w ∈ m, w.toNat < 2 ^ 24) → m.Nodup →
    let hs := m.map fun w => fromViewHandle u (curReq s).tenant w.toNat
    (∀ h ∈ hs, (liveBlock? u h).isSome = true) → (∀ h ∈ hs, destRefused u (curReq s) h = false) →
    exec (.mgset b c) s = .next (setGroup u (bits (s.getG b) 0 3) hs).retire) ∧
  (∀ (s : State) (a : Reg), ThreadOrCore s →
    (∀ t c, s.cur = .thread t c → exec (.mlat a) s = .next ((s.setG a (s.ctx t c).latency).retire)) ∧
    (∀ i k, s.cur = .core i k → exec (.mlat a) s = .next ((s.setG a (s.core i k).latency).retire)) ∧
    exec (.mbufq a) s = .next ((s.setG a (BitVec.ofNat 64 ((freeSends s (siteOf s.cur)).length * 2 ^ 16 + min 255 (pendingSends s) * 2 ^ 8 +
      min 255 (droppedOf s)))).retire) ∧
    (pendingSends s = 0 → exec .mdrain s = .next s.retire)) ∧
  (∀ (s : State) (t c : Nat) (a b : Reg), s.cur = .thread t c →
    let q := threadReq s t c
    let h := fromViewHandle s q.tenant (bits (s.getG b) 0 24)
    (liveBlock? s h = none → exec (.mprobe a b) s = .next ((s.setG a (BitVec.ofNat 64 (2 ^ 63 + 1))).retire)) ∧
    (∀ bl, liveBlock? s h = some bl →
      (sendRefused s q bl = true → exec (.mprobe a b) s = .next ((s.setG a (BitVec.ofNat 64 (2 ^ 63 + 2))).retire)) ∧
      (sendRefused s q bl = false → bl.tile = t → exec (.mprobe a b) s = .next (((cacheHandle s t h t).setG a 0).retire)) ∧
      (sendRefused s q bl = false → bl.tile ≠ t → exec (.mprobe a b) s = .next (((probe s t h bl).2.setG a (probe s t h bl).1).retire))) ∧
    exec (.mpoll a) s = .next ((s.setG a (BitVec.ofNat 64
      (min 255 ((s.tile t).inbox.filter fun e => e.handle == (s.ctx t c).handle).length * 2 ^ 8 +
        min 255 (s.ctxs.filter fun p => p.1.1 == t && p.2.handle == (s.ctx t c).handle && p.2.guest && p.2.state != .free).length))).retire))

/-- R337's dimension order as a hop count. -/
def Obligations.DimensionOrderPath : Prop :=
  ∀ (s : State) (a b : Nat), a < 256 * 192 → b < 256 * 192 → (∀ t, t < 256 * 192 → routerPresent s t = true ∧ (s.router t).detours = []) →
    let d (x y : Nat) : Nat := (x - y) + (y - x)
    let n := d (tileX a) (tileX b) + d (tileY a) (tileY b)
    pathHops s (n + 1) { at_ := a } b = some n ∧
    (tileX a ≠ tileX b → xyDir a b = some 1 ∨ xyDir a b = some 3)

/-- The launch and counter instructions. The serial in a launch's id and the island in whose pool a core's launch stands are the model's choices
(log entries 19 and 107). -/
def Obligations.LaunchesAndCounters : Prop :=
  ∀ (s : State), ThreadOrCore s →
    let q := curReq s
    let st (n : Nat) : Word := BitVec.ofNat 64 (2 ^ 63 + n)
    (∀ (a b : Reg) (l : List Byte) (u : State), (∀ i k, s.cur = .core i k → hasRight s i q.tenant 6 = true) → captured s = [] →
      launchReads s q (s.getG b) = .ok (l, u) → curReq u = q → u.cur = s.cur →
      let d := l.take 64
      let rect := fromViewRect u q.tenant (dRect d)
      let w := launcherOf u rect
      (∀ n, unitChecks u w (u.getG b) rect d (l.drop 192) = .error n → exec (.glaunch a b) s = .next ((u.setG a (st n)).retire)) ∧
      (∀ kinds v, unitChecks u w (u.getG b) rect d (l.drop 192) = .ok kinds → settle u q = .ok v →
        (∀ n, islandChecks (capture v []) w d = some n → exec (.glaunch a b) s = .next (((capture v []).setG a (st n)).retire)) ∧
        (islandChecks (capture v []) w d = none →
          let id := w.island * 2 ^ 24 + ((v.island w.island).nextSerial % (2 ^ 24 - 1) + 1)
          let held := decide (recFld d 415 384 ≠ 0)
          ∃ (z : State) (x : Launch), exec (.glaunch a b) s = .next ((z.setG a (BitVec.ofNat 64 id)).retire) ∧ z.launch? id = some x ∧ x.desc = d ∧
            x.tenant = w.tenant ∧ x.graph = w.graph ∧ x.state = (if held then .held else .pooled) ∧
            (if held then Instr.launchPooled id else Instr.placement id) ∈ z.due ∧ z.mem = v.mem))) ∧
    (∀ (a b lv : Reg), let id := unitId s lv.val (s.getG b)
      (waitsOn? s = none → unitState? s lv.val id = none → exec (.cwait a b lv) s = .next ((s.setG a (st 1)).retire)) ∧
      (waitsOn? s = none → (unitState? s lv.val id).isSome = true → unitSelf s lv.val id = true → exec (.cwait a b lv) s = .next ((s.setG a (st 2)).retire)) ∧
      (waitsOn? s = none → (unitState? s lv.val id).isSome = true → unitSelf s lv.val id = false → unitReach s lv.val id = false →
        exec (.cwait a b lv) s = .next ((s.setG a (st 3)).retire)) ∧
      (∀ r, waitsOn? s = none → (unitState? s lv.val id).isSome = true → unitSelf s lv.val id = false → unitReach s lv.val id = true →
        endedResult s lv.val id = some r → exec (.cwait a b lv) s = .next (((synchronised (setWaits s none)).setG a (BitVec.ofNat 64 r)).retire)) ∧
      (∀ k m r, waitsOn? s = some (k, m) → endedResult s k m = some r →
        exec (.cwait a b lv) s = .next (((synchronised (setWaits s none)).setG a (BitVec.ofNat 64 r)).retire)) ∧
      exec (.cread a b lv) s = .next ((s.setG a (BitVec.ofNat 64 (seenState s lv.val id * 2 ^ 61 +
        (if seenState s lv.val id = 0 then 0 else (unitCount s lv.val id).toNat % 2 ^ 32)))).retire) ∧
      (taintHolds s = true → exec (.cancel a b lv) s = .next s) ∧
      (taintHolds s = false → unitState? s lv.val id = none → exec (.cancel a b lv) s = .next ((s.setG a (st 1)).retire)) ∧
      (taintHolds s = false → (unitState? s lv.val id).isSome = true → unitReach s lv.val id = false →
        exec (.cancel a b lv) s = .next ((s.setG a (st 3)).retire)) ∧
      (∀ x, unitState? s lv.val id = some x → unitReach s lv.val id = true → taintHolds s = false →
        (x = 3 ∨ x = 4 → exec (.cancel a b lv) s = .next ((s.setG a 1).retire)) ∧
        (x ≠ 3 → x ≠ 4 → stillRuns (cancelUnit s lv.val id) q.task = true →
          exec (.cancel a b lv) s = .next (((cancelUnit s lv.val id).setG a 0).retire)) ∧
        (x ≠ 3 → x ≠ 4 → stillRuns (cancelUnit s lv.val id) q.task = false → exec (.cancel a b lv) s = .next (cancelUnit s lv.val id)))) ∧
    (∀ (a b : Reg), let id := bits (s.getG b) 0 32
      (s.launch? id = none ∨ seenState s 1 id = 0 → exec (.lstat a b) s = .next ((s.setG a 0).retire)) ∧
      (∀ x, s.launch? id = some x → seenState s 1 id ≠ 0 → exec (.lstat a b) s = .next ((s.setG a (BitVec.ofNat 64 (seenState s 1 id * 2 ^ 61 +
        boolNat x.early * 2 ^ 60 + x.marked % 2 ^ 16 * 2 ^ 32 + x.placed % 2 ^ 16 * 2 ^ 16 + min x.passed 65535))).retire))) ∧
    (∀ (b c lv : Reg) (t x : Nat), s.cur = .thread t x → let id := bits (s.getG b) 0 32
      let v := (s.getG c).toInt
      taintHolds s = false → lv.val ≠ 0 → -65536 ≤ v → v ≤ 65535 → (seenState s lv.val id = 1 ∨ seenState s lv.val id = 2 ∨ seenState s lv.val id = 5) →
        0 ≤ unitCount s lv.val id + v → exec (.cadd b c lv) s = .next (addRefs s lv.val id v).retire)

/-- The deque and task instructions. -/
def Obligations.DequesAndTaskEnds : Prop :=
  ∀ (s : State) (t c k : Nat) (x : Task), s.cur = .thread t c → (s.ctx t c).task = some k → s.task? k = some x →
    let y := s.ctx t c
    let h := y.handle
    (∀ (b : Reg) m u xu, (s.getG b).toNat % 16 = 0 → memLoad s (threadReq s t c) false (s.getG b) 16 = .ok (m, u) → u.cur = s.cur → u.task? k = some xu →
      handlerKnown u (curLaunch u) (fromBytes (m.take 8)) = true →
      ∃ (w : State) (e : DequeEntry), exec (.dqpush b) s = .next w.retire ∧ (w.task? k).map Task.pushes = some (e.id :: xu.pushes) ∧
        e.stamp = min (xu.stamp + 1) 0xFFFFFFFF ∧ e.pc = BitVec.ofNat 64 (fromBytes (m.take 8)) ∧ e.arg = BitVec.ofNat 64 (fromBytes ((m.drop 8).take 8)) ∧
        e.handle = h ∧ e.launch = xu.launch ∧ ((u.tile t).deque.length < 64 → (w.tile t).deque.head? = some e)) ∧
    (∀ (i : Instr) (a : Reg) (status : Word) (found : Option DequeEntry),
      (i = .dqpop a ∧ status = 0x8000000000000001 ∧ found = (s.tile t).deque.find? (takeable h)) ∨
      (i = .dqsteal a ∧ status = 0x8000000000000002 ∧ found = stealFrom s h) →
      3 ≤ a.val → intrap y.regs = false → matrixBusy s t c = false →
      (clearing s t = true ∨ found = none → exec i s = .next ((s.setG a status).retire)) ∧
      (∀ e, clearing s t = false → found = some e → taintAllows s e = true → nextBuffer s t k x = true →
        let v := endTask (takeEntry s { e with handle := h }) t c k x
        let pc := BitVec.ofNat 64 (nextPc s s.cur s.getPc.toNat)
        ∃ w : State, w = (match v.task? k with | some z => if z.phase = .ended ∧ canCommit v k z = true then commitEnded v k z else v | none => v) ∧
          exec i s = .next { succeed w t c (taskOf w { e with handle := h } pc) with retired := true })) ∧
    (∀ b bl, s.block? h = some bl → exec (.dqmask b) s = .next (s.setBlock h { bl with stealMask := bits (s.getG b) 0 16 }).retire) ∧
    (∀ a, exec (.dqlen a) s = .next ((s.setG a (BitVec.ofNat 64 ((s.tile t).deque.filter fun e => e.handle == h).length)).retire)) ∧
    (∀ a, exec (.bgrd a) s = .next ((s.setG a (BitVec.ofNat 64 y.remain)).retire)) ∧
    (∀ a, exec (.tsrd a) s = .next ((s.setG a (BitVec.ofNat 64 x.stamp)).retire)) ∧
    (∀ bl, s.block? h = some bl → taintHolds s = false →
      (bl.early = true ∨ hasSuccessor s bl.launch = false → exec .earlyok s = .next s.retire) ∧
      (bl.early = false → hasSuccessor s bl.launch = true → ∃ u : State, exec .earlyok s = .next u.retire ∧ u.block? h = some { bl with early := true } ∧
        (∀ l, s.launch? bl.launch = some l → (u.launch? bl.launch).map Launch.marked = some (l.marked + 1)))) ∧
    (∀ v, y.deferred = none → matrixBusy s t c = false → vectorLeave s t c = (v, none) →
      ∃ u : State, exec .yield s = .next u ∧ (u.ctx t c).state = (if y.guest then .free else .dormant) ∧ (u.ctx t c).task = none ∧
        (u.ctx t c).slot = none ∧ (u.task? k).map Task.phase = some .ended ∧ Instr.commit k ∈ u.due ∧ Instr.issueSlotTaken t ∈ u.due ∧ u.mem = v.mem) ∧
    ((s.launch? (curLaunch s)).map predOf = none ∨ (s.launch? (curLaunch s)).map predOf = some 0 → exec .waitpred s = .next s.retire) ∧
    (∀ p l, (s.launch? (curLaunch s)).map predOf = some (p + 1) → s.launch? (p + 1) = some l →
      (l.state = .complete → exec .waitpred s = .next (dropStale s t).retire) ∧ (l.state ≠ .complete → exec .waitpred s = .next s))

/-- R415 to R417, the queries of R431, and the counters HITS and MISSES of R407 at a check. A waiting fopen that is tried again goes through its steps 1 to 6 again: the model's choice (log entry
106). -/
def Obligations.ForecastInstructions : Prop :=
  ∀ (s : State) (t c : Nat), s.cur = .thread t c →
    let n := clusterOf t
    let rec_ (b : Reg) := bits (s.getG b) 0 8
    (∀ b, (tracked s n (rec_ b) = true → exec (.ftrack b) s = .next s.retire) ∧
      (tracked s n (rec_ b) = false → ∃ u : State, exec (.ftrack b) s = .next u.retire ∧ tracked u n (rec_ b) = true ∧
        let f := forecastOf u n (rec_ b)
        f.inst = none ∧ f.hits = 0 ∧ f.misses = 0 ∧ f.alpha = 2 ∧ f.run = 0 ∧ f.p2 = none ∧
          f.p1 = (if sRows (layoutRecord u n (rec_ b)) = 0 then none else some (layoutRecord u n (rec_ b))))) ∧
    (∀ b, (tracked s n (rec_ b) = false → exec (.funtrack b) s = .next s.retire) ∧
      (tracked s n (rec_ b) = true → (∀ p ∈ s.insts, ¬ (p.2.cluster = n ∧ p.2.record = rec_ b)) →
        ∃ u : State, exec (.funtrack b) s = .next u.retire ∧ tracked u n (rec_ b) = false ∧ forecastOf u n (rec_ b) = {}) ∧
      (tracked s n (rec_ b) = true →
        let l := (s.insts.filter fun x => x.2.cluster == n && x.2.record == rec_ b).map Prod.fst
        let u := l.foldl failInstance (setTracked s n (rec_ b) false {})
        exec (.funtrack b) s = .next (if stillRuns u (s.ctx t c).task then u.retire else u))) ∧
    (∀ b, (∀ k x, curTask? s = some (k, x) → ∀ i ∈ x.taint, ∀ y, mget? s.insts i = some y → ¬ (y.cluster = n ∧ y.record = rec_ b)) →
      exec (.fclose b) s = .next s.retire) ∧
    (∀ a b, exec (.fstat a b) s = .next ((s.setG a (fstatWord s n (rec_ b))).retire) ∧
      exec (.falpha a b) s = .next ((s.setG a ([0, 0x3F000000, 0x3F800000].getD (min (forecastOf s n (rec_ b)).alpha 2) 0)).retire)) ∧
    (∀ a b d e : Reg, (s.getG e).toNat % 64 ≠ 0 → exec (.fopen a b d e) s = .next ((s.setG a (BitVec.ofNat 64 (2 ^ 63 + 4))).retire)) ∧
    (∀ (a b d e : Reg) tol r u v kid k, (s.getG e).toNat % 64 = 0 → (s.ctx t c).task = some kid →
      memLoad s (threadReq s t c) false (s.getG e) 64 = .ok (tol, u) → u.getG b = s.getG b → u.cur = s.cur →
      (tolOk tol = false → exec (.fopen a b d e) s = .next ((u.setG a (BitVec.ofNat 64 (2 ^ 63 + 4))).retire)) ∧
      (tolOk tol = true → recordRead u (some kid) n (rec_ b) = .ok (r, v) → v.cur = s.cur → (v.ctx t c).task = some kid → v.task? kid = some k →
        let want := bits (v.getG d) 0 32
        let f := forecastOf v n (rec_ b)
        let ver := recVersion r
        let st (m : Nat) := Host.Outcome.next ((v.setG a (BitVec.ofNat 64 (2 ^ 63 + m))).retire)
        let on := recFld r 288 288 = 1 ∨ want = ver
        (¬ on → exec (.fopen a b d e) s = st 5) ∧
        (on → (want + 2 ^ 32 - ver) % 2 ^ 32 = 2 → exec (.fopen a b d e) s = st 3) ∧
        (on → (want + 2 ^ 32 - ver) % 2 ^ 32 = 2 ^ 32 - 2 → exec (.fopen a b d e) s = st 2) ∧
        (∀ l y w, want = ver → ver < 2 ^ 32 → forecastable r = true → destOk v t (v.ctx t c).handle (recFld tol 53 0) (sExtent r) = true →
          fopenTurn v t c (recFld tol 53 0) (sExtent r) (some r) = .ok y → readElements y (threadReq v t c) r unretiredStop = .ok (l, w) →
          exec (.fopen a b d e) s = .next (((deliverElements w t (recFld tol 53 0) r l).setG a 0).retire)) ∧
        (∀ p1 y, recFld r 288 288 = 1 → (want + 2 ^ 32 - ver) % 2 ^ 32 = 1 → f.h ≠ 0 → f.p1 = some p1 → forecastable p1 = true →
          destOk v t (v.ctx t c).handle (recFld tol 53 0) (sExtent p1) = true → noForecast v n f kid k = false →
          fopenTurn v t c (recFld tol 53 0) (sExtent p1) none = .ok y →
          exec (.fopen a b d e) s = .next (fopenForecast a y (threadReq v t c) t n (rec_ b) (recFld tol 53 0) f p1 tol kid)))) ∧
    (∀ f : Forecast, let p := afterCheck f true
      let m := afterCheck f false
      p.hits = min (2 ^ 24 - 1) (f.hits + 1) ∧ p.misses = f.misses ∧ m.misses = min (2 ^ 24 - 1) (f.misses + 1) ∧ m.hits = f.hits)

/-- R412's rule. -/
def Obligations.ForecastAlpha : Prop :=
  ∀ (f : Forecast), f.run < 4 → f.alpha ≤ 2 →
    let p := afterCheck f true
    let m := afterCheck f false
    (f.run = 3 → p.run = 0 ∧ p.alpha = min 2 (f.alpha + 1)) ∧ (f.run < 3 → p.run = f.run + 1 ∧ p.alpha = f.alpha) ∧
    m.run = 0 ∧ m.alpha = (if f.alpha = 0 then 0 else f.alpha - 1) ∧
    p.p1 = f.p1 ∧ p.p2 = f.p2 ∧ p.h = f.h ∧ p.inst = f.inst ∧ m.p1 = f.p1 ∧ m.p2 = f.p2 ∧ m.h = f.h ∧ m.inst = f.inst

/-- R445, R451 and R460 to R462. -/
def Obligations.ResidencyInstructions : Prop :=
  (∀ (s : State) (t c : Nat), s.cur = .thread t c →
    let n := clusterOf t
    let k := s.cluster n
    (bitOf k.drctl 0 = false → exec .drreq s = .next s.retire) ∧
    (∀ u, bitOf k.drctl 0 = true → coolest s ((clusterTiles s n).filter fun u => u != t) = some u → k.drift = .idle → clearing s t = false →
      ∃ w : State, exec .drreq s = .next w.retire ∧ (w.cluster n) = { k with drift := .calming, driftS := t, driftT := u, driftSince := s.cycle } ∧
        Instr.calmingEnd n ∈ w.due ∧ Instr.moveAbandoned n ∈ w.due ∧ w.mem = s.mem) ∧
    (∀ u, bitOf k.drctl 0 = true → coolest s ((clusterTiles s n).filter fun u => u != t) = some u → (k.drift ≠ .idle ∨ clearing s t = true) →
      exec .drreq s = .next (s.setCluster n { k with drstat := setFld k.drstat 31 16 (min 65535 (bits k.drstat 16 16 + 1)) }).retire) ∧
    exec .calm s = .next (if calmingTile s.retire t then s.retire.setCtx t c { s.retire.ctx t c with calm := true } else s.retire)) ∧
  (∀ (s : State) (a b : Reg), ThreadOrCore s →
    let h := fromViewHandle s (curReq s).tenant (bits (s.getG b) 0 24)
    let own := match s.cur with | .core i _ => homeIsland (h / 4096) = i | ag => h / 4096 = clusterOf (agentTile ag)
    (liveBlock? s h = none → exec (.resq a b) s = .next ((s.setG a (BitVec.ofNat 64 (2 ^ 63 + 1))).retire)) ∧
    (∀ x, liveBlock? s h = some x → ¬ own → exec (.resq a b) s = .next ((s.setG a (BitVec.ofNat 64 (2 ^ 63 + 2))).retire)) ∧
    (∀ x, liveBlock? s h = some x → own →
      exec (.resq a b) s = .next ((s.setG a (resqWord s x)).retire) ∧
      (x.evicted = true → resqWord s x = BitVec.ofNat 64 (min 65535 x.moves * 2 ^ 16 + 3 * 2 ^ 10)) ∧
      (x.evicted = false → (s.cluster (clusterOf x.tile)).drift = .idle → movingTile s x.tile = false → resqWord s x =
        BitVec.ofNat 64 ((s.tile x.tile).temp % 4096 * 2 ^ 36 + min 65535 x.moves * 2 ^ 16 + tileIndex x.tile)))) ∧
  (∀ (s : State) (i k : Nat) (a b c : Reg), s.cur = .core i k →
    let q := coreReq s i k
    let left := (s.getG c).toNat
    let st (u : State) (n : Nat) := Host.Outcome.next ((u.setG a (BitVec.ofNat 64 (2 ^ 63 + n))).retire)
    (hasRight s i q.tenant 4 = true →
      ((s.getG b).toNat % 64 ≠ 0 ∨ 2 ^ 32 ≤ left → exec (.clrpost a b c) s = st s 4) ∧
      (∀ d u, (s.getG b).toNat % 64 = 0 → left < 2 ^ 32 → coreLoad s q (s.getG b) 64 = .ok (d, u) →
        let rect := fromViewRect u q.tenant (recFld d 31 0)
        let inside := ∃ r, regionRect u q.tenant = some r ∧ rectInside rect r = true
        (badRegion d = true → exec (.clrpost a b c) s = st u 4) ∧
        (badRegion d = false → ¬ inside → exec (.clrpost a b c) s = st u 5) ∧
        (badRegion d = false → inside → left < leastDeadline u rect → exec (.clrpost a b c) s = st u 1) ∧
        (badRegion d = false → inside → leastDeadline u rect ≤ left → underClearance u rect = true → exec (.clrpost a b c) s = st u 2) ∧
        (badRegion d = false → inside → leastDeadline u rect ≤ left → underClearance u rect = false →
          (recFld d 191 160 < (regionBlocks u rect).length → exec (.clrpost a b c) s = st u 3) ∧
          ((regionBlocks u rect).length ≤ recFld d 191 160 → ∃ (v : State) (id : Nat) (x : Clearance), 0 < id ∧ id < 2 ^ 32 ∧
            mget? v.clearances id = some x ∧ x.rect = rect ∧ x.tenant = q.tenant ∧ x.core = (i, k) ∧ x.deadline = u.cycle + left ∧
            x.blocks = regionBlocks u rect ∧ x.tag = recFld d 127 64 ∧ x.done = false ∧ v.mem = u.mem ∧
            let w := (x.blocks.foldl (fun (s : State) p => s.addDueOnce (.eviction p.1)) (discardTasks v
              ((x.decisions.filter fun e => e.choice == .discard && !taskMoves v e.task).map fun e => (e.task, Fate.requeue))))
            exec (.clrpost a b c) s = .next (((((w.addDueOnce (.backstop id)).addDueOnce (.cleared id)).setG a (BitVec.ofNat 64 id))).retire))))) ∧
    (∀ x, mget? s.clearances (bits (s.getG b) 0 32) = some x → presides q.tenant x.tenant = true → laterPostings s x.core.1 x < 64 →
      exec (.clrrep a b) s = .next ((s.setG a (BitVec.ofNat 64 ((if x.done then 3 else 2) * 2 ^ 60 + x.written.length % 2 ^ 16 * 2 ^ 16 +
        min 65535 (x.decisions.countP fun d => d.choice == .runLate)))).retire)) ∧
    (mget? s.clearances (bits (s.getG b) 0 32) = none → exec (.clrrep a b) s = .next ((s.setG a (BitVec.ofNat 64 (2 ^ 63 + 1))).retire)))

namespace Sys2Proof.Stated

/-- The supervisor registers that mfsr reads, by number (Table 15.1). -/
def supervisorRegs (s : State) (i k : Nat) : List (BitVec 12 × Word) :=
  let c := s.core i k
  [(0x000, c.cstatus), (0x001, c.epc), (0x002, c.ecause), (0x003, c.eaddr), (0x004, c.einfo), (0x005, c.sscr0), (0x006, c.sscr1),
    (0x010, cycleFor s i (coreTenant c)), (0x011, BitVec.ofNat 64 (i * 2 ^ 8 + k)), (0x012, c.msglaunch), (0x013, c.lgraph),
    (0x014, agentSelf s i (coreTenant c)), (0x020, c.rsmtgt), (0x021, c.rsmreq), (0x022, 0)]
/-- An island core whose level may run an instruction of a minimum level and whose tenant holds its right, if it needs one (R80, R472). -/
def Privileged (s : State) (i k min : Nat) (right : Option Nat) : Prop :=
  s.cur = .core i k ∧ coreLevel (s.core i k) ≤ min ∧ ∀ r ∈ right, hasRight s i (coreTenant (s.core i k)) r = true

end Sys2Proof.Stated

/-- R468. -/
def Obligations.SupervisorRegisters : Prop :=
  ∀ (s : State) (i k : Nat) (a : Reg), Privileged s i k 2 none →
    let c := s.core i k
    let v := s.getG a
    let put (d : Core) := Host.Outcome.next (s.setCore i k d).retire
    (∀ p ∈ supervisorRegs s i k, exec (.mfsr a p.1) s = .next ((s.setG a p.2).retire)) ∧
    (∀ n : BitVec 12, (∀ p ∈ supervisorRegs s i k, p.1 ≠ n) →
      exec (.mfsr a n) s = .next (raise s { illegalOp s with engine := 10 }) ∧ exec (.mtsr a n) s = .next (raise s { illegalOp s with engine := 10 })) ∧
    (∃ w : Word, exec (.mtsr a 0x000) s = put { c with cstatus := w } ∧
      ∀ b, bitOf w b = if (2 ≤ b ∧ b ≤ 5) ∨ (32 ≤ b ∧ b ≤ 55) ∨ (b = 6 ∧ coreLevel c = 0) then bitOf v b else bitOf c.cstatus b) ∧
    exec (.mtsr a 0x001) s = put { c with epc := BitVec.ofNat 64 (bits v 0 54) } ∧
    exec (.mtsr a 0x005) s = put { c with sscr0 := v } ∧ exec (.mtsr a 0x006) s = put { c with sscr1 := v } ∧
    exec (.mtsr a 0x012) s = put { c with msglaunch := BitVec.ofNat 64 (bits v 0 32) } ∧
    (let d : Core := { c with lgraph := if coreLevel c = 0 then BitVec.ofNat 64 (bits v 0 32) else c.lgraph }
     exec (.mtsr a 0x013) s = .next (openGraph (s.setCore i k d) (coreTenant c) (bits d.lgraph 0 32)).retire) ∧
    exec (.mtsr a 0x020) s = put { c with rsmtgt := BitVec.ofNat 64 (bits v 0 30) } ∧
    exec (.mtsr a 0x021) s = put { c with rsmreq := BitVec.ofNat 64 (bits v 0 40) } ∧
    exec (.mtsr a 0x022) s = .next (((s.setCore i k c).addDue (.rsmcmd i k (bits v 0 25))).retire) ∧
    (∀ n : BitVec 12, n.toNat ∈ [0x002, 0x003, 0x004, 0x010, 0x011, 0x014] → exec (.mtsr a n) s = put c)

/-- R470, R481, R482, R487 to R489. That splinter's read of the leaf is checked as a store, and what becomes of slices outside a new region, are
the model's choices (log entries 108 and 109). -/
def Obligations.IslandSystem : Prop :=
  (∀ (s : State) (i k : Nat), Privileged s i k 2 none →
    let c := s.core i k
    let pl := bits c.cstatus 2 2
    let pt := bits c.cstatus 32 24
    let u := leaveException s i k
    let d := u.core i k
    (coreLevel c ≤ pl → presides (coreTenant c) pt = true → levelOf pt = pl →
      (c.epc = 0 → exec .eret s = .next { u.setCore i k { d with idle := true } with retired := true }) ∧
      (c.epc ≠ 0 → (∃ l, checkTarget (coreAs s i k pt) (.core i k) s.getPc c.epc.toNat = .ok l) →
        exec .eret s = .next (u.jump c.epc.toNat false) ∧ (u.jump c.epc.toNat false).getPc = BitVec.ofNat 64 c.epc.toNat) ∧
      coreLevel d = pl ∧ coreTenant d = pt ∧ bitOf d.cstatus 4 = bitOf c.cstatus 5 ∧ d.regs = c.regs ∧ u.mem = s.mem ∧ u.ctxs = s.ctxs) ∧
    ((∀ p ∈ s.invals, p.2.1 ≠ (i, k)) → superseded s = false → exec .ptfence s = .next s.retire)) ∧
  (∀ (s : State) (i k : Nat) (b c : Reg), Privileged s i k 2 (some 0) →
    let g := s.getG c
    let me := coreTenant (s.core i k)
    (bits g 2 10 = 0 → bits g 36 28 = 0 → presides me (bits g 12 24) = true →
      (bits g 0 2 = 0 → exec (.tlbinv b c) s = .next (sendInval s i k (.page (bits g 12 24) (bits (s.getG b) 0 54))).retire) ∧
      (bits g 0 2 = 1 → exec (.tlbinv b c) s = .next (sendInval s i k (.work (bits g 12 24))).retire)) ∧
    (bits g 2 10 = 0 → bits g 36 28 = 0 → bits g 0 2 = 2 → coreLevel (s.core i k) = 0 →
      exec (.tlbinv b c) s = .next (sendInval s i k (.frame (bits (s.getG b) 12 40 * 4096))).retire) ∧
    (∀ pa x u, agentTranslate s (.core i k) .read (bits (s.getG b) 0 54) = .ok (pa, x, u) →
      exec (.icinv b) s = .next (sendInval u i k (.code (pa / 4096 * 4096))).retire) ∧
    (let stage := bits g 0 2
     let lv := bits g 2 2
     let new := bits g 12 42 * 4096
     let p := BitVec.ofNat 64 (bits (s.getG b) 0 54)
     let q := coreReq s i k
     ∀ xs u pa w z, bits g 4 8 = 0 → bits g 54 10 = 0 → stage ≠ 0 → ownsStage me stage = true → (lv = 1 ∨ lv = 2) →
      checkNow s q .write p 8 = .ok (xs, u) → let e := fromBytes (xs.flatMap (coreReadPlace u q)); let v := meetPlaces u q xs
      e % 4 = 3 → splinterPlace v i k new = .ok pa →
      tablePageOk v pa (stageOwner me stage) (worldOf v me) = true →
      coreStore v q (BitVec.ofNat 64 new) ((List.range 512).flatMap fun j => toBytes 8 (splinterEntry e (2 ^ (3 + 9 * lv)) j)) = .ok w →
      coreStore w q p (toBytes 8 (bits (BitVec.ofNat 64 new) 12 40 * 4096 + 1)) = .ok z →
      exec (.splinter b c) s = .next z.retire)) ∧
  (∀ (s : State) (i k : Nat) (b c : Reg), Privileged s i k 1 (some 1) →
    let g := s.getG b
    let me := coreTenant (s.core i k)
    (let t := bits g 32 24
     let gone := decide (bits g 16 8 < bits g 0 8)
     let r := fromViewRect s me (bits g 0 32)
     let rs := (s.tenant t).rect.toList ++ (if gone then [] else [r])
     ∀ u, bits g 56 8 = 0 → t ≠ me → parentOf t = me → partOf t ≠ 0 → regionBusy s t rs = false →
      (gone = true ∨ (rectAllowed s me r = true ∧
        ∀ p ∈ s.tenants, p.1 ≠ t → p.1 ≠ me → parentOf p.1 = me → ∀ q ∈ p.2.rect, rectMeet r q = false)) →
      changeWorlds s (withRegion s t (if gone then none else some r)) (rs.flatMap rectClusters).dedup = .ok u →
      exec (.rgset b) s = .next u.retire) ∧
    (let t := bits g 0 24
     let x := s.tenant t
     bits g 27 37 = 0 → presides me t = true →
      exec (.revoke b) s = .next (s.setTenant t { x with grants := mdel x.grants (bits g 24 3) }).retire ∧
      (bits (s.getG c) 34 30 = 0 → rectAllowed s me (fromViewRect s me (bits (s.getG c) 0 32)) = true →
        let y : Grant := { rect := fromViewRect s me (bits (s.getG c) 0 32), vc0 := bitOf (s.getG c) 32, vc2 := bitOf (s.getG c) 33 }
        exec (.grant b c) s = .next (s.setTenant t { x with grants := mset x.grants (bits g 24 3) y }).retire))) ∧
  (∀ (s : State) (i k : Nat) (b c : Reg), Privileged s i k 1 (some 2) →
    let f := bits (s.getG b) 0 7
    let t := bits (s.getG c) 0 24
    let me := coreTenant (s.core i k)
    bits (s.getG b) 7 57 = 0 → bits (s.getG c) 24 40 = 0 → presides me (mget s.vfs 0 f) = true → presides me t = true → hostBusy s f = false →
      exec (.vfbind b c) s = .next (setGranted ({ s with vfs := if t = 0 then mdel s.vfs f else mset s.vfs f t } : State).retire i k false))

/-- R492 to R495. That a stepped context stands Queued until a slot is free is the model's choice (log entry 100). -/
def Obligations.DebugInstructions : Prop :=
  ∀ (s : State) (i k : Nat) (b : Reg), Privileged s i k 2 (some 3) →
    let told (u : State) := Host.Outcome.next (setGranted u i k (!u.retired))
    let waits (u : State) := Host.Outcome.next (setGranted u i k true)
    (∀ t c, debugTarget s i k b = .ok (t, c) →
      let x := s.ctx t c
      (movingTile s t = true → exec (.dhalt b) s = waits s) ∧
      (movingTile s t = false → x.calm = true → exec (.dhalt b) s = waits (calmHalt s t c)) ∧
      (movingTile s t = false → x.calm = false →
        (x.state = .halted → exec (.dhalt b) s = told s.retire) ∧
        (x.state = .dormant → exec (.dhalt b) s = told (s.setCtx t c { x with marked := true }).retire) ∧
        (x.state = .trapped → exec (.dhalt b) s = told (s.setCtx t c { x with marked := true })) ∧
        (x.state = .queued ∨ x.state = .setAside → exec (.dhalt b) s = told (haltContext s t c)) ∧
        (∀ u, x.state = .issuing → boundary s t c = some u → exec (.dhalt b) s = told (haltContext u t c)) ∧
        (x.state = .issuing → boundary s t c = none → exec (.dhalt b) s = waits s)) ∧
      (x.state = .halted → exec (.dresume b) s = .next (resumeHalted s t c).retire) ∧
      (x.state = .halted → x.deferred = none → exec (.dresume b) s = .next (enqueue s t c { x with marked := false }).retire) ∧
      (x.state ≠ .halted → exec (.dresume b) s = .next (s.setCtx t c { x with marked := false }).retire) ∧
      ((s.core i k).waiting = false →
        (x.state ≠ .halted → exec (.dstep b) s = .next (raise s { code := 0x22, engine := 10, info := 9 })) ∧
        (x.state = .halted → movingTile s t = true → exec (.dstep b) s = waits s) ∧
        (∀ u, x.state = .halted → movingTile s t = false → fillLine s t c 2 = .ok u →
          let y := u.ctx t c
          let v := enqueue u t c { y with regs := { y.regs with status := setBit y.regs.status 7 true }, dirty := y.dirty ∪ [2] }
          exec (.dstep b) s = told (v.setCore i k { v.core i k with waiting := true })))) ∧
    ((s.core i k).waiting = true →
      (stepEnded s i k b = true → exec (.dstep b) s = told ((s.setCore i k { s.core i k with waiting := false }).retire)) ∧
      (stepEnded s i k b = false → exec (.dstep b) s = waits s)) ∧
    (∀ tr, debugTarget s i k b = .error (.trap tr) → exec (.dhalt b) s = .next (raise s tr) ∧ exec (.dresume b) s = .next (raise s tr))

/-- R79, R80 and R472. -/
def Obligations.PrivilegeAndProfileTraps : Prop :=
  ∀ (s : State) (a b c : Reg) (n : BitVec 12),
    let table : List (Instr × Nat × Nat × Nat × Option Nat) :=
      [(.mfsr a n, 0, 10, 2, none), (.mtsr a n, 1, 10, 2, none), (.eret, 2, 10, 2, none), (.ptfence, 3, 10, 2, none), (.tlbinv b c, 4, 10, 2, some 0),
        (.icinv b, 5, 10, 2, some 0), (.splinter b c, 6, 10, 2, some 0), (.rgset b, 7, 10, 1, some 1), (.grant b c, 8, 10, 1, some 1),
        (.revoke b, 9, 10, 1, some 1), (.vfbind b c, 10, 10, 1, some 2), (.dhalt b, 11, 10, 2, some 3), (.dstep b, 12, 10, 2, some 3),
        (.dresume b, 13, 10, 2, some 3), (.wsw b, 16, 11, 0, none), (.sealMem a b c, 17, 11, 2, none), (.unsealMem a b c, 18, 11, 2, none),
        (.evsign a b c, 19, 11, 1, none)]
    (∀ p ∈ table, ∀ i k, s.cur = .core i k →
      (p.2.2.2.1 < coreLevel (s.core i k) →
        exec p.1 s = .next (takeException s i k { code := 0x05, engine := p.2.2.1, info := BitVec.ofNat 64 p.2.1 })) ∧
      (∀ r, (s.core i k).granted = false → coreLevel (s.core i k) ≤ p.2.2.2.1 → p.2.2.2.2 = some r → hasRight s i (coreTenant (s.core i k)) r = false →
        exec p.1 s = .next (takeException s i k { code := 0x22, engine := 10, info := 3 }))) ∧
    (∀ p ∈ table, ∀ t x, s.cur = .thread t x → exec p.1 s = .next (takeTrap s t x (illegalOp s))) ∧
    (∀ i k, s.cur = .core i k → ∀ j ∈ [Instr.tret, .mig b, .yield, .waitpred, .calm, .drreq, .earlyok, .dqpop a, .dqsteal a, .bgrd a, .ftrack b],
      exec j s = .next (takeException s i k (illegalOp s)))

/-- R518 to R521, with the round trip of R507 and R508. -/
def Obligations.TrustInstructions : Prop :=
  (∀ (s : State) (i k : Nat) (b : Reg), Privileged s i k 0 none →
    let g := s.getG b
    let p := bits g 12 12 * 4096
    let cs := ((regionRect s p).toList.flatMap rectClusters).dedup
    let trap (n : Word) := Host.Outcome.next (raise s { code := 0x24, engine := 11, info := n })
    (bits g 24 39 ≠ 0 ∨ bits g 0 12 ≠ 0 → exec (.wsw b) s = trap 1) ∧
    (bits g 24 39 = 0 → bits g 0 12 = 0 →
      (p = 0 → exec (.wsw b) s = trap 5) ∧
      (p ≠ 0 → partitionBusy s p cs = true → exec (.wsw b) s = trap 3) ∧
      (∀ u, p ≠ 0 → partitionBusy s p cs = false → changeWorlds s (s.setTenant p { s.tenant p with secure := bitOf g 63 }) cs = .ok u →
        exec (.wsw b) s = .next u.retire))) ∧
  (∀ (s : State) (i k : Nat) (a b c : Reg), Privileged s i k 2 none →
    let g := s.getG a
    let t := bits g 32 24
    let l := bits g 0 32
    let q := coreReq s i k
    let src := s.getG b
    let dst := s.getG c
    bits g 56 8 = 0 → presides q.tenant t = true →
      (∀ u, rangesOverlap (bits src 0 54) l (bits dst 0 54) (sealedLength l) = false → sealRun q src dst t l s = .ok u →
        exec (.sealMem a b c) s = .next ((u.setG a (BitVec.ofNat 64 (96 + l + 32 * ((l + 65535) / 65536)))).retire)) ∧
      (∀ h u, rangesOverlap (bits src 0 54) 96 (bits dst 0 54) l = false → coreLoad s q src 96 = .ok (h, u) →
        (sealHeaderOk t (worldOf u t) u.wafer.dstate h = false →
          exec (.unsealMem a b c) s = .next ((u.setG a (BitVec.ofNat 64 (2 ^ 63 + 1))).retire)) ∧
        (sealHeaderOk t (worldOf u t) u.wafer.dstate h = true → l < leAt h 16 8 →
          exec (.unsealMem a b c) s = .next ((u.setG a (BitVec.ofNat 64 (2 ^ 63 + 3))).retire)) ∧
        (∀ v w, unsealRun q src dst t l h u = .ok (v, w) → exec (.unsealMem a b c) s = .next ((w.setG a v).retire)))) ∧
  (∀ (s : State) (i k : Nat) (a b c : Reg), Privileged s i k 1 none →
    let f := bits (s.getG a) 0 7
    let q := coreReq s i k
    ∀ user u w, bits (s.getG a) 7 57 = 0 → presides q.tenant (mget s.vfs 0 f) = true → coreLoad s q (s.getG b) 32 = .ok (user, u) →
      coreStore (evidence u f user).2 q (s.getG c) (evidence u f user).1 = .ok w →
      exec (.evsign a b c) s = .next ((w.setG a 0).retire) ∧ (evidence u f user).1.length = 288) ∧
  (∀ (t d l : Nat) (w : Bool) (nonce : List Byte), t < 2 ^ 24 → d < 2 ^ 32 → nonce.length = 32 →
    let h := sealHeader t w d l nonce
    h.length = 64 ∧ sealHeaderOk t w d (h ++ hmacSm3 (sealMac w d t) h) = true) ∧
  (∀ (key i : Nat) (nonce b : List Byte), cryptChunk key nonce i (cryptChunk key nonce i b) = b)

/-- R138's five steps, where the record's head has a path and meets no bad table word. That the open windows are kept is the
model's reading (log entry 26). -/
def Obligations.ThreadTrapEntry : Prop :=
  ∀ (s : State) (t c : Nat) (tr : Trap), s.cur = .thread t c →
    let s0 := ensureTrapLines s t c
    let x := s0.ctx t c
    let r := recordTrap x.regs tr
    raise s tr = takeTrap s t c tr ∧
    (resident s t c 2 = true → resident s t c 3 = true → s0 = s) ∧
    r.trcause = BitVec.ofNat 64 ((if bitOf x.regs.status 6 then 2 ^ 16 else 0) + tr.engine * 2 ^ 8 + tr.code) ∧
    r.trpc = BitVec.ofNat 64 (bits (tr.pc.getD x.regs.pc) 0 54) ∧ r.traddr = tr.addr ∧ r.trinfo = tr.info ∧ r.windows = x.regs.windows ∧
    r.g = x.regs.g ∧ r.pc = x.regs.pc ∧ r.status = x.regs.status ∧ r.fpstat = x.regs.fpstat ∧ r.qflags = x.regs.qflags ∧
    r.mprog = x.regs.mprog ∧ r.tvec = x.regs.tvec ∧
    (stepping x.regs = false →
      let s1 := s0.setCtx t c { leaveSlot x with regs := r, state := .trapped, dirty := x.dirty ∪ [2, 3] }
      let i := homeIsland (clusterOf t)
      (s1.ctx t c).slot = none ∧ (s1.ctx t c).state = .trapped ∧
      ∀ w, switchOut s1 t c = (w, none) →
        let v := w.addDueOnce (.issueSlotTaken t)
        let y := v.ctx t c
        let u := takeTrap s t c tr
        u = sendTrap v t c tr.code tr.info.toNat false ∧ u.mem = v.mem ∧ u.ctxs = v.ctxs ∧
        Instr.issueSlotTaken t ∈ u.due ∧ (plainRoutes v = true → cleanRouters v = true → Instr.faultQueueAppend i ∈ u.due ∧
        ∃ m, (u.island i).inFlight = (v.island i).inFlight ++ [m] ∧ m.kind = 1 ∧
          m.tenant = trapReceiver (blockTenant v y.handle) (regionTenant v (clusterOf t)) tr.code tr.info.toNat ∧
          m.body.take 32 = wordsBytes [y.regs.trcause, y.regs.trpc, y.regs.traddr, y.regs.trinfo] ∧
          leAt m.body 32 4 = (y.handle + y.tid * 2 ^ 24) % 2 ^ 32))

/-- R469, with the idle core of R542. That the open windows are kept is the model's reading (log entry 26). -/
def Obligations.CoreExceptionEntry : Prop :=
  ∀ (s : State) (i k t : Nat) (cause addr info epc : Word), t < 2 ^ 24 →
    let c := s.core i k
    let u := enterException s i k t cause addr info epc
    let d := u.core i k
    d.epc = (if c.idle then 0 else epc) ∧ d.ecause = cause ∧ d.eaddr = addr ∧ d.einfo = info ∧
    bits d.cstatus 2 2 = coreLevel c ∧ bits d.cstatus 32 24 = coreTenant c ∧ bitOf d.cstatus 5 = bitOf c.cstatus 4 ∧ bitOf d.cstatus 4 = false ∧
    bitOf d.cstatus 6 = bitOf c.cstatus 6 ∧ d.regs.g = c.regs.g ∧ d.regs.windows = c.regs.windows ∧ d.sscr0 = c.sscr0 ∧ d.sscr1 = c.sscr1 ∧ d.idle = false ∧
    u.mem = s.mem ∧ u.ctxs = s.ctxs ∧ u.tasks = s.tasks ∧
    (∀ t' pc, handlerOf s i k 3 t = some (t', pc) →
      coreLevel d = levelOf t' ∧ coreTenant d = t' ∧ bitOf d.cstatus 7 = worldOf s t' ∧ d.regs.pc = BitVec.ofNat 64 pc ∧ d.stopped = false) ∧
    (handlerOf s i k 3 t = none → coreLevel d = 0 ∧ coreTenant d = 0 ∧ d.regs.pc = c.regs.pc ∧ d.stopped = true) ∧
    (t ≠ 0 → recordValid s i t = false → u = enterException s i k (parentOf t) cause addr info epc) ∧
    (∀ tr, s.cur = .core i k → raise s tr = enterException s i k (exceptionReceiver (coreTenant c) tr.code tr.info.toNat)
      (BitVec.ofNat 64 (tr.engine * 2 ^ 8 + tr.code)) tr.addr tr.info (BitVec.ofNat 64 (bits (tr.pc.getD c.regs.pc) 0 54)))

/-- The steps of contexts beside their instructions. -/
def Obligations.ContextSteps : Prop :=
  (∀ (s : State) (a : Agent), fetches s a = true → 0x40000000 ≤ (s.regsOf a).pc.toNat → (s.regsOf a).pc.toNat < 0x3FFE0000000000 →
    let pc := (s.regsOf a).pc
    (∀ l pl u, readCodeLine s a pc.toNat = .ok (l, some pl, u) →
      let e := edgeHead u (siteTile (siteOf a)) (senderOf u a) (pl * 64)
      (e.2 = true → ∃ v, exec (.codeLineFetch a) s = .next v ∧ cachedLine? v a pc.toNat = some l ∧ v.mem = u.mem ∧ v.ctxs = u.ctxs) ∧
      (e.2 = false → exec (.codeLineFetch a) s = .next (hang e.1 a))) ∧
    (∀ f, readCodeLine s a pc.toNat = .error f →
      exec (.codeLineFetch a) s = .next (asAgent a (fun s => raise s { xTrap f .exec pc with engine := 0 }) s))) ∧
  (∀ (s : State) (t k c : Nat), freeSlot? s t = some k → nextQueued? s t = some c →
    ∃ u : State, exec (.issueSlotTaken t) s = .next u ∧ (u.ctx t c).state = .issuing ∧ (u.ctx t c).slot = some k ∧
      (u.ctx t c).regs.g = (s.ctx t c).regs.g ∧ (u.ctx t c).regs.pc = (s.ctx t c).regs.pc ∧ u.mem = s.mem ∧
      ∀ p, p ≠ (t, c) → u.ctx p.1 p.2 = s.ctx p.1 p.2) ∧
  (∀ (s : State) (t c k : Nat), (s.ctx t c).slot.isSome = true →
    (∀ u, fillLine s t c k = .ok u → exec (.registerCacheFill t c k) s = .next (if k = 2 then clampSlice u t c else u) ∧
      ((resident s t c k = true ∨ ∃ pa v, imagePhys s t c (64 * k) .read = .ok (pa, v) ∧ (edgeHead v t (contextSender v t c) pa).2 = true) →
        resident u t c k = true)) ∧
    (∀ f, fillLine s t c k = .error f → exec (.registerCacheFill t c k) s = .next (trapImage s t c f)) ∧
    (∀ u v w, fillVector s t c = .ok u → reloadMatrix u t c = .ok v → fillMatrix v t c = .ok w → exec (.extensionImageFill t c) s = .next w) ∧
    (∀ f, fillVector s t c = .error f → exec (.extensionImageFill t c) s = .next (trapImage s t c f))) ∧
  (∀ (s : State) (t c : Nat), ((s.ctx t c).pause ≤ s.cycle → exec (.pauseExpiry t c) s = .next (s.setCtx t c { s.ctx t c with pause := 0 })) ∧
    (∀ u, budgetDue s t c = true → boundary s t c = some u →
      let b : Word := BitVec.ofNat 64 ((((u.ctx t c).task.bind u.task?).map (taskBudget u)).getD 0)
      exec (.budget t c) s = .next (takeTrap u t c { code := 0x20, engine := 7, info := b }))) ∧
  (∀ (s : State) (ten h tid t c : Nat), packetWaits s h = false → presides ten (blockTenant s h) = true → threadAt? s h tid = some (t, c) →
    let x := s.ctx t c
    (∀ u, x.state = .trapped → takeUp s t c = .ok u →
      let y := u.ctx t c
      let r := y.regs
      let back : Word := BitVec.ofNat 64 (bits r.trpc 0 54)
      exec (.resume ten h tid) s = .next (continueWith u t c { r with pc := back }) ∧
      (y.marked = false → y.task.isSome = true → continueWith u t c { r with pc := back } = enqueue u t c { y with regs := { r with pc := back }, dirty := y.dirty ∪ [2] }) ∧
      (redirectAllowed u t c = true →
        exec (.redirect ten h tid) s = .next (continueWith u t c { r with pc := BitVec.ofNat 64 (bits r.tvec 0 54), status := setBit r.status 6 true })) ∧
      (redirectAllowed u t c = false → exec (.redirect ten h tid) s = .next (refuseRedirect u t c)) ∧
      (let q : Regs := { r with pc := back, status := setBit r.status 7 false }
       exec (.halt ten h tid) s = .next (haltContext (u.setCtx t c { y with regs := q, dirty := y.dirty ∪ [2] }) t c))) ∧
    (∀ k, x.state = .trapped ∨ (x.state = .setAside ∧ x.why = .handover) → x.task = some k →
      exec (.discard ten h tid) s = .next (discardTasks s [(k, .gone)])) ∧
    (∀ u, x.state = .setAside → x.why = .handover → takeUp s t c = .ok u → let y := u.ctx t c
      exec (.present ten h tid) s = .next (enqueue u t c { y with
        regs := { y.regs with pc := BitVec.ofNat 64 (bits y.regs.trpc 0 54) }, dirty := y.dirty ∪ [2] })) ∧
    (x.state ≠ .trapped → exec (.resume ten h tid) s = .next s ∧ exec (.redirect ten h tid) s = .next s ∧ exec (.halt ten h tid) s = .next s) ∧
    (x.state ≠ .setAside → exec (.present ten h tid) s = .next s))

/-- The engines' steps, each under the condition that makes it take effect; the commit of an interval with its stores (R202). The bytes of the
DEADLINE event are the model's choice (log entry 20). -/
def Obligations.TaskAndEngineSteps : Prop :=
  (∀ (s : State) (t c : Nat) e, inboxNext? s t = some (e, c) →
    let v := s.setTile t { s.tile t with inbox := (s.tile t).inbox.erase e }
    let stamp := e.stamp.getD (((v.launch? e.launch).map Launch.frontier).getD 0)
    let k : Task := { launch := e.launch, stamp := stamp, act := e.act, payload := e.payload }
    exec (.activationByMessage t) s = .next ((activate v t c k).addDueOnce (.activationByMessage t))) ∧
  (∀ (s : State) (t c : Nat) e, handOff? s t = some (e, c) → e.restart = none → let v := takeEntry s e
    exec (.activationByHandOff t) s = .next ((activate v t c (taskOf v e e.pc)).addDueOnce (.activationByHandOff t))) ∧
  (∀ (s : State) (h c : Nat) b e, steals? s h = some (b, c, e) →
    exec (.automaticSteal h) s = .next (activate (takeEntry ((s.addDueOnce (.automaticSteal h)).setBlock h { b with stealAt := s.cycle + 64 }) e)
      b.tile c (taskOf s { e with handle := h } e.pc))) ∧
  (∀ (s : State) (i t h : Nat) e, returnNext? s i = some (e, t, h) →
    ∃ u : State, exec (.overflowReturn i) s = .next u ∧ (u.tile t).deque = (s.tile t).deque ++ [{ e with handle := h }] ∧
      (u.island i).overflow = (s.island i).overflow.erase e ∧ u.mem = s.mem) ∧
  (∀ (s : State) (k : Nat) x, s.task? k = some x →
    (x.phase = .ended → canCommit s k x = true → exec (.commit k) s = .next (commitEnded s k x)) ∧
    (x.phase = .ended → canCommit s k x = false → exec (.commit k) s = .next (s.addDueOnce (.commit k))) ∧
    (x.phase = .ended → canCommit s k x = true → s.MemOk → plainRoutes s = true → cleanRouters s = true → soundLines s = true →
      (∀ p ∈ s.tiles, p.2.dcache = []) → abortedBy s k x.launch x.stamp (storeLines x.stores ++ x.recs.map fun w => Loc.record w.cluster w.record) = [] →
      (∀ e ∈ x.stores, ∃ p, e.1 = .phys p ∧ 0x40000000 ≤ p ∧ p < edgeEnd ∧ (s.meta_ p).ver ≠ 0xFFFF) →
      ∃ u, exec (.commit k) s = .next u ∧ (∀ z, u.task? k = some z → z.stores = [] ∧ z.recs = []) ∧
        (∀ n r, (∀ w ∈ x.recs, ¬ (w.cluster = n ∧ w.record = r)) → layoutRecord u n r = layoutRecord s n r) ∧
        (∀ w, x.recs = [w] → layoutRecord u w.cluster w.record = recMerge (layoutRecord s w.cluster w.record) w.image) ∧
        ∀ q, (∀ e ∈ x.stores, ∀ p, e.1 = .phys p → TablesApart s p q) → readByte u q = (storedAt x.stores (.phys q)).getD (readByte s q)) ∧
    (∀ u y, x.wantsSerial = true → x.phase = .running → canCommit s k x = true → endInterval s k x = (u, none) → u.task? k = some y →
      exec (.becomeSerialising k) s = .next (dropStale (u.setTask k { y with serial := true, wantsSerial := false }) y.tile)) ∧
    (∀ line, (∀ e ∈ x.reads, e.line = .phys (16 * line) → e.missed = false) → exec (.readSetRegistration k line) s =
      .next (s.setTask k { x with reads := x.reads.map fun e => if e.line = .phys (16 * line) then { e with acked := true } else e })) ∧
    (∀ line, (∃ e ∈ x.reads, e.line = .phys (16 * line) ∧ e.missed = true) →
      exec (.readSetRegistration k line) s = .next (discardTasks s [(k, .restart)]))) ∧
  (∀ (s : State) (t line : Nat), ∃ u : State, exec (.invalidation t line) s = .next u ∧
    (u.tile t).dcache = (s.tile t).dcache.filter (fun b => b.pblock != line || b.tp) ∧ u.mem = s.mem ∧ u.ctxs = s.ctxs) ∧
  (∀ (s : State) (n ten va a pa : Nat) x u, tileTranslate s n ten .tile (accessOf a) (va % 2 ^ 54) = .ok (pa, x, u) →
    exec (.pageWalk n ten va a) s = .next u) ∧
  (∀ (s : State) (t c k : Nat) b u, k < 4 → let m := streamOf (s.ctx t c).vec k
    let v := regainLock s t c m
    beatWanted v t c k = true → streamClear v t c m = true → fetchBeat v t c m (m.pos + m.ahead.length) = .ok (b, u) →
    ∃ w : State, exec (.beatArrival t c k) s = .next w ∧ (streamOf (w.ctx t c).vec k).ahead = m.ahead ++ [b] ∧ w.mem = u.mem) ∧
  (∀ (s : State) (t h n : Nat) b, loadOf? s t h n false = some b →
    (b.whole = true → loadHeld s t b = false → ∃ u : State, exec (.tableLoadComplete t h n) s = .next u ∧ u = endLoad s t b ∧
      ((s.block? h).isSome = true → tableSource? u h n = some (b.addr.toNat, leAt b.image 0 8))) ∧
    (∀ c b' b'' u v, b.whole = false → loadAwaited s t b = some c → rangesClear s b.req = true → readHeader s t c b = .ok (b', u) →
      readSegments u t c b' = .ok (b'', v) →
      exec (.tableLoadComplete t h n) s = .next ((completeFor t c State.retire v).addDueOnce (.tableLoadComplete t h n)))) ∧
  (∀ (s : State) (t h n c : Nat) b, loadOf? s t h n true = some b → loadAwaited s t b = some c →
    (b.whole = true → exec (.refetch t h n) s = .next (serveRefetch s t c b)) ∧
    (∀ b' b'' u v, b.whole = false → rangesClear s b.req = true → readHeader s t c b = .ok (b', u) → readSegments u t c b' = .ok (b'', v) →
      exec (.refetch t h n) s = .next (serveRefetch v t c b''))) ∧
  (∀ (s : State) (t uid : Nat) r, zreq? s t uid = some r →
    (∀ z, r.state = .queued → mayActivate s t r = true → freeZc s t = some z →
      exec (.requestActivation t uid) s = .next (makeActive s t z r (.requestActivation t uid))) ∧
    (r.state = .draining → exec (.requestDone t uid) s = .next (finishRequest s t r r.status)) ∧
    (overLimit s r = true → exec (.zlimit t uid) s = .next (takeCopyFault s t r { code := 0x33, engine := 5 }))) ∧
  (∀ (s : State) (ten g req fseq t : Nat) r, answered? s ten g req fseq = some (t, r) →
    (∀ z, freeZc s t = some z → r.isProgram = true → r.started = true →
      let act (q : ZReq) := s.setZreq t { q with state := .active, zc := some z, since := s.cycle, succ := none }
      exec (.retry ten g req fseq) s = .next (act r) ∧
      (r.faultCode ≠ 0x32 → exec (.continue_ ten g req fseq) s = .next (act r)) ∧
      (∀ n, r.faultCode = 0x32 → r.succ = some n → exec (.continue_ ten g req fseq) s = .next (act { r with pc := n }))) ∧
    (∀ z, freeZc s t = some z → r.isProgram = false →
      exec (.retry ten g req fseq) s = .next (makeActive s t z r (.requestActivation t r.uid))) ∧
    (∀ status, exec (.fail ten g req fseq status) s = .next (finishRequest s t r (if status % 256 = 0 then 0xFF else status % 256)))) ∧
  (∀ (s : State) (i k t addr : Nat), tilePresent s t = true → let d0 := readPhys s addr 64
    let d := if zKind d0 = 1 then d0 ++ readPhys s (addr + 64) 64 else d0
    let next : State := { meetAt s addr d.length with nextId := s.nextId + 1 }
    let phys := decide (recFld d 5 5 = 1)
    let rg := if phys then zephyrPhysRanges next t s.nextId d else zephyrRanges next t 0 0 s.nextId none d
    addr % 64 = 0 → descOk d true = true → kernelRangesOk phys d = true → queueUsed (meetAt s addr d.length) t < 32 → rangesFit next rg = true →
    exec (.kpost i k t addr) s = .next (enqueueRequest (registerRanges next rg) t
      { uid := s.nextId, id := s.nextId, world := true, desc := d, isProgram := zKind d == 1, phys := phys, poster := some (i, k) })) ∧
  (∀ (s : State) (t : Nat) o rest, (s.tile t).matq = o :: rest → (o.retired = true ∨ (s.ctx t o.ctx).awaiting = some o.req) →
    let ended (u : State) (fp : Word) := (setOp u t { o with begun := true, finished := true, fp := fp }).addDueOnce (.matrixOperationComplete t)
    (o.begun = false → rangesClear s o.req = true → o.acc < 4 →
      (o.xm = 8 → ∃ u : State, exec (.matrixOperationStart t) s = .next u ∧ accOf (u.ctx t o.ctx) o.acc = {} ∧ accHeld u t o.ctx o.acc = false ∧
        Instr.matrixOperationComplete t ∈ u.due ∧ u.mem = s.mem) ∧
      (∀ u, claimAcc s t o.ctx o.acc = .ok u →
        (o.xm = 1 → ∃ v : State, exec (.matrixOperationStart t) s = .next v ∧ accOf (v.ctx t o.ctx) o.acc = { live := true } ∧
          accHeld v t o.ctx o.acc = true ∧ Instr.matrixOperationComplete t ∈ v.due ∧ v.mem = u.mem) ∧
        (∀ v, o.xm = 2 → runMld u t o = .ok v → exec (.matrixOperationStart t) s = .next (ended v o.fp)) ∧
        (∀ v fp, o.xm = 3 → runMst u t o = .ok (v, fp) → exec (.matrixOperationStart t) s = .next (ended v fp)) ∧
        (4 ≤ o.xm → o.xm ≤ 7 →
          exec (.matrixOperationStart t) s = .next ((setOp (makeLive u t o.ctx o.acc o.xm) t { o with begun := true }).addDueOnce (.fold t))))) ∧
    (o.finished = true → exec (.matrixOperationComplete t) s = .next (completeOp s t o))) ∧
  (∀ (s : State) (id : Nat) x, s.launch? id = some x →
    (predGone s x = true → exec (.launchPooled id) s = .next (cancelUnit s 1 id)) ∧
    (predGone s x = false → mayPool s x = true → exec (.launchPooled id) s = .next ((s.setLaunch id { x with state := .pooled }).addDueOnce (.placement id))) ∧
    (nextPlaced s x.poolAt = some id → ∃ (u : State) (y : Launch), exec (.placement id) s = .next u ∧ u.launch? id = some y ∧ y.state = .running ∧
      y.desc = x.desc ∧ y.placed = y.blocks.length ∧ y.tenant = x.tenant) ∧
    (x.raised = true → x.ended = false → launchCount s id = 0 → exec (.counterComplete 1 id) s = .next (endLaunch s id .complete)) ∧
    (x.ended = false → x.deadlineHit = false → deadlinePassed s x = true → exec (.deadline id) s =
      .next (sendRecord (s.setLaunch id { x with deadlineHit := true }) x.island (eventRecord x.tenant 1 (toBytes 32 id))))) ∧
  (∀ (s : State) (level id : Nat) k, level ≠ 1 → mget? s.counters (level, id) = some k → k.raised = true → k.state = .running →
    unitCount s level id = 0 → exec (.counterComplete level id) s = .next (endUnit s level id .complete)) ∧
  (∀ (s : State) (n r i : Nat) x img, toCheck? s n r = some (i, x, img) → x.cluster = n ∧ x.record = r ∧ x.committed = some img ∧
    let pass := checkPasses s n img x
    let u := setForecast s n r (afterCheck (forecastOf s n r) pass)
    let v := if pass then resolveInstance u i else failInstance u i
    exec (.ceilometerCheck n r) s = .next (if (toCheck? v n r).isSome then v.addDueOnce (.ceilometerCheck n r) else v))

/-- R335 to R364, one step each. -/
def Obligations.FabricSteps : Prop :=
  (∀ (s : State) (n : Nat) (p : Packet), packet? s n = some p →
    let d := dropPacket s p
    (∀ b, liveBlock? s p.dhandle = some b → exec (.clusterWindowAccess n) s = .next (if p.write = true
      then respond (putPhys s (physOf s p.loc) p.bytes) p [] else respond s p (readPhys s (physOf s p.loc) p.len))) ∧
    (∀ pa, p.kind = .request → p.loc = .phys pa → edgeLinked p.at_ (emmOf pa) = false → exec (.edgeMemoryAccess n) s = .next d) ∧
    (∀ pa, p.kind = .request → p.loc = .phys pa → edgeLinked p.at_ (emmOf pa) = true →
      exec (.edgeMemoryAccess n) s = .next (if p.write = true then respond (spreadInvalidations (putPhys s pa p.bytes) p.srcTile pa 0 0) p []
        else respond (meetAt s pa p.len) p (readPhys s pa p.len))) ∧
    (let u := fillFrom d p
     (∀ t c, p.waiter = some (t, c) → exec (.response n) s = .next (u.setCtx t c { u.ctx t c with awaiting := none, succ := none })) ∧
     (p.waiter = none → exec (.response n) s = .next u)) ∧
    (let u := cleanTables s p
     tablesStuck s p = true ∨ relayWaits s p = true ∨ laneWaits u p = true → exec (.hop n) s = .next (u.addDue (.hop p.id))) ∧
    (let u := cleanTables s p
     let r := turn u { at_ := p.at_, port := p.port, detour := p.detour, legs := p.legs, relay := p.relay } p.dst
     tablesStuck s p = false → relayWaits s p = false → laneWaits u p = false →
     (r = .arrive → exec (.hop n) s = .next (deliver u p)) ∧ (r = .relay → exec (.hop n) s = .next (u.addDue (.relay p.id))) ∧
     (r = .noPath → exec (.hop n) s = .next (dropNoPath u p)) ∧
     (∀ c, r = .next c → hopRefused u p c.at_ = true → exec (.hop n) s = .next (dropRefused u p)) ∧
     (∀ c, r = .next c → hopRefused u p c.at_ = false →
      let q : Packet := { p with at_ := c.at_, port := c.port, detour := c.detour, legs := c.legs, relay := c.relay, inRelay := none, hops := p.hops + 1 }
      exec (.hop n) s = .next ((setPacket u q).addDue (.hop p.id)))) ∧
    (let q : Packet := { p with detour := false, legs := [], relay := false, inRelay := some p.at_, port := 4 }
     (relayFree s p = true → exec (.relay n) s = .next ((setPacket s (if p.kind = .head then { q with relayed := true, relayPos := p.at_ } else q)).addDue (.hop p.id))) ∧
     (relayFree s p = false → exec (.relay n) s = .next (s.addDue (.hop p.id)))) ∧
    exec (.handleCacheUpdate n) s = .next (cacheHandle d p.at_ p.dhandle p.report) ∧
    exec (.poisonTail n) s = .next (fabricFault d p.at_ 0x40 (regionTenant s (clusterOf p.at_)) p) ∧
    (∀ b, liveBlock? s p.dhandle = some b → b.evicted = false → movingTile s b.tile = false → b.tile = p.at_ →
      (otherWorld s p b = false → handlerKnown s b.launch (addrOf p.handler) = true → (s.tile b.tile).inbox.length < 16 →
        (p.payload = [] → exec (.messageArrival n) s = .next (acceptMessage s p b none) ∧
          ((acceptMessage s p b none).tile b.tile).inbox.length = (s.tile b.tile).inbox.length + 1) ∧
        (∀ o u, p.payload ≠ [] → allocate s b.tile p.dhandle b.quota (max 256 p.payload.length) false
            (((s.launch? b.launch).map fun l => recFld l.desc 379 377).getD 0) = some (o, u) →
          exec (.messageArrival n) s = .next (acceptMessage u p b (some o)))) ∧
      (∀ k x c, clearing s b.tile = false → (s.tasks.find? fun q => q.2.phase == .running && (let y := s.ctx q.2.tile q.2.ctx
          y.state == .held && senderOf s (.thread q.2.tile q.2.ctx) == p.src && y.task == some q.1)) = some (k, x) →
        freeContext? s b.tile = some c → bufferFree s b.tile = true →
        exec (.migrationArrival n) s = .next (acceptMigration s p b.tile c k x))) ∧
    (∀ k e, answeredEntry? d p = some (k, e) →
      let x := siteAt p.at_
      let y : SendEntry := { e with state := .backoff, out := e.out.erase p.member, pend := e.pend ++ [p.member], tries := e.tries + 1, wakeAt := s.cycle + 64 * 2 ^ min e.tries 4 }
      let final (code : Nat) := Host.Outcome.next
        (answeredBy (if e.kind = 1 then returnMigration d x e code p.member else recordAnswer d x e none) x k e p.member)
      exec (.ack n) s = .next (answeredBy (recordAnswer d x e
        (some (BitVec.ofNat 64 (p.report % 256 * 2 ^ 32 + (s.cycle - e.sentAt) % 2 ^ 32)))) x k e p.member) ∧
      exec (.nackBusy n) s = .next ((setSends d x (mset (sendsOf d x) k y)).addDueOnce (.backoffExpiry x k)) ∧
      exec (.nackStale n) s = final 0x12 ∧ exec (.nackBadhandler n) s = final 0x17 ∧ exec (.nackRefused n) s = final 0x17 ∧
      exec (.nackNopath n) s = final 0x17)) ∧
  (∀ (s : State) (t k : Nat) e, let x := siteAt t
    injectable? s x = some (k, e) →
    let y : SendEntry := { e with state := .inFlight, out := e.out ++ e.pend, pend := [], sentAt := s.cycle }
    let u := e.pend.foldl (fun s h => launchPacket s (headOf s x e h)) (setSends s x (mset (sendsOf s x) k y))
    exec (.injection t) s = .next (if (injectable? u x).isSome then u.addDueOnce (.injection (siteTile x)) else u) ∧
    u.packets.length = s.packets.length + e.pend.length ∧ u.mem = s.mem) ∧
  (∀ (s : State) (x : Site) (k : Nat) e, mget? (sendsOf s x) k = some e → e.state = .backoff →
    exec (.backoffExpiry x k) s = .next (putSend s x k { e with state := .ready })) ∧
  (∀ (s : State) (t : Nat), let cut (p : Packet) : Bool := p.kind == .head && p.srcTile == t && p.at_ == t && p.hops == 0
    ∃ u : State, exec (.powerGated t) s = .next u ∧ (u.tile t).gated = true ∧ u.packets = (s.packets.map fun p => if cut p then { p with poison := true } else p) ∧
      ∀ e ∈ (s.tile t).sends, e ∈ (u.tile t).sends ↔ ∀ p ∈ s.packets, cut p = true → ¬ (p.src = e.2.src ∧ p.seq = e.2.seq))

/-- The residency and island engines' steps, each under the condition that makes it take effect. That Copying takes everything over in one step, the
plaintext of an evicted block's state, and the bytes of events are the model's choices (log entries 69, 21, 20). -/
def Obligations.ResidencyAndIslandSteps : Prop :=
  (∀ (s : State) (t temp : Nat), tilePresent s t = true →
    let n := clusterOf t
    let x := s.tile t
    let limit := 4 * bits (s.cluster n).drctl 40 8
    let asks := bitOf (s.cluster n).drctl 1 = true ∧ limit ≤ temp ∧ x.thermal = false
    let read (th : Bool) : State := s.setTile t { x with temp := temp % 4096, thermal := th }
    (temp < 460 → asks → exec (.sensorReading t temp) s = .next ((requestFrom (read true) t).addDueOnce (.rotation n))) ∧
    (temp < 460 → ¬ asks → exec (.sensorReading t temp) s =
      .next ((read (x.thermal && !decide (temp + 20 < limit))).addDueOnce (.rotation n))) ∧
    (460 ≤ temp → asks → exec (.sensorReading t temp) s = .next (thermalTrip ((requestFrom (read true) t).addDueOnce (.rotation n)) t)) ∧
    (460 ≤ temp → ¬ asks → exec (.sensorReading t temp) s =
      .next (thermalTrip ((read (x.thermal && !decide (temp + 20 < limit))).addDueOnce (.rotation n)) t)) ∧
    ∃ u : State, exec (.sensorReading t temp) s = .next u ∧ (u.tile t).temp = temp % 4096 ∧ u.mem = s.mem ∧ u.ctxs = s.ctxs) ∧
  (∀ (s : State) (n : Nat), let c := s.cluster n
    let u := (s.setCluster n { c with rotatedAt := s.cycle }).addDueOnce (.rotation n)
    (∀ h k, rotationReady s n = true → bitOf c.drctl 0 = true → hottest u (clusterTiles u n) = some h → coolest u (clusterTiles u n) = some k → h ≠ k →
      (u.tile k).temp + 4 * bits c.drctl 32 8 ≤ (u.tile h).temp → exec (.rotation n) s = .next (requestMove u n h k)) ∧
    (let u := setStubs (setStubs s c.driftS c.driftT) c.driftT c.driftS
     let v := u.setCluster n { u.cluster n with drift := .draining, driftSince := u.cycle }
     let w := (writeBackAll v (moveContexts v n)).1
     calmReady s n = true →
      ((writeBackAll v (moveContexts v n)).2 = true →
        exec (.calmingEnd n) s = .next ((flushPrivate (flushPrivate w c.driftS) c.driftT).addDueOnce (.drainingEnd n))) ∧
      ((writeBackAll v (moveContexts v n)).2 = false → exec (.calmingEnd n) s = .next (abandonMove w n))) ∧
    (waitPassed s n = true → exec (.moveAbandoned n) s = .next (abandonMove s n)) ∧
    (drained s n = true → let w := (writeBackAll s (moveContexts s n)).1
      let v := flushPrivate (flushPrivate w c.driftS) c.driftT
      ((writeBackAll s (moveContexts s n)).2 = true →
        exec (.drainingEnd n) s = .next ((v.setCluster n { v.cluster n with drift := .copying, driftSince := v.cycle }).addDueOnce (.copyingEnd n))) ∧
      ((writeBackAll s (moveContexts s n)).2 = false → exec (.drainingEnd n) s = .next (abandonMove w n))) ∧
    (c.drift = .copying → ∃ u : State, exec (.copyingEnd n) s = .next u ∧ (u.cluster n).drift = .switching ∧ Instr.switchingEnd n ∈ u.due ∧
      ∀ h b, s.block? h = some b → b.evicted = false →
        (b.tile = c.driftS → ∃ y, u.block? h = some y ∧ y.tile = c.driftT ∧ y.index = b.index ∧ y.moves = min 65535 (b.moves + 1)) ∧
        (b.tile ≠ c.driftS → b.tile ≠ c.driftT → u.block? h = some b)) ∧
    (switched s n = true →
      let v := afterMove (s.setCluster n { c with drift := .idle, drstat := setFld c.drstat 63 48 (min 65535 (bits c.drstat 48 16 + 1)) }) n
      exec (.switchingEnd n) s = .next (wakeTile (wakeTile (startStubs (startStubs (endCalm v n) c.driftS) c.driftT) c.driftS) c.driftT))) ∧
  (∀ (s : State) (t h : Nat), let r := s.router t
    (mget? r.stubs h).isSome = true → stubIdle s t h = true →
      exec (.stubRelease t h) s = .next (s.setRouter t { r with stubs := mdel r.stubs h, used := mdel r.used h })) ∧
  (∀ (s : State) (id : Nat) x, mget? s.clearances id = some x → x.done = false →
    let late (d : Decision) : Bool := d.choice == .run && stillRunning s d.task
    let ds := x.decisions.map fun d => if late d then { d with choice := .runLate } else d
    (x.backstop ≤ s.cycle → exec (.backstop id) s = .next (discardTasks { s with clearances := mset s.clearances id { x with decisions := ds } }
      ((x.decisions.filter fun d => late d && !taskMoves s d.task).map fun d => (d.task, Fate.requeue)))) ∧
    (let rep (u : State) (p : Nat × Nat) : State := match mget? u.clearances id with
       | some y => if y.written.contains p.1 then u
         else reportBlock u id y p.1 (match u.launch? p.2 with | some l => if l.state = .complete ∧ l.dead.contains p.1 = false then 1 else 3 | none => 1) 0
       | none => u
     let v := x.blocks.foldl rep s
     vacant s x = true → exec (.cleared id) s = .next (sendRecord
      { v with clearances := v.clearances.map fun p => if p.1 = id then (p.1, { p.2 with done := true }) else p }
        x.core.1 (eventRecord x.tenant 2 (toBytes 32 id))))) ∧
  (∀ (s : State) (h : Nat) b, s.block? h = some b →
    (∀ u id x, evictable s h = true → settleBlock s b.tile (blockContexts s b.tile h) = some u → postingOf s b.tile = some (id, x) →
      let v := flushBlocks u b.tile fun d => d.tp && d.tenant == b.tenant
      let q := ((allEntries v).filter fun e => e.handle == h).length + ((v.tile b.tile).inbox.filter fun e => e.handle == h).length
      exec (.eviction h) s = .next (reportBlock (sealBlock v h ((v.block? h).getD b)) id x h 2 q)) ∧
    (∀ n, (b.evicted = true → exec (.restore n h) s = .next (s.addDueOnce (.blockRestored h))) ∧
      (b.evicted = false → exec (.restore n h) s = .next (restoreEnds s n))) ∧
    (∀ t z, b.evicted = true → restoreTile s h b = some t → b.frozen = some z → clearing s t = false →
      (∀ obj u, readSystem s (clusterOf t) b.tenant b.area b.sealed_.length = some (obj, u) →
        (objectRestores u b obj = true → exec (.blockRestored h) s = .next (restoreEnds (thaw u h b z t) (h / 4096)) ∧
          (thaw u h b z t).block? h = some { b with evicted := false, frozen := none, sealed_ := [], tile := t }) ∧
        (objectRestores u b obj = false → exec (.blockRestored h) s = .next (restoreEnds u (h / 4096)))) ∧
      (readSystem s (clusterOf t) b.tenant b.area b.sealed_.length = none →
        exec (.blockRestored h) s = .next (restoreEnds s (h / 4096))))) ∧
  (∀ (s : State) (t : Nat) u, sliceOver s t = true → movingTile s t = false →
    let l := tenantContexts s t (sliceTenant s t)
    sliceBoundary s t l = some u → keptCanCommit u l = true →
    let v := nextSlice (endSliceOf u t (tenantContexts u t (sliceTenant u t))) t
    exec (.sliceEnd t) s = .next (if sliced v (clusterOf t) then v.addDueOnce (.sliceEnd t) else v)) ∧
  (∀ (s : State) (i : Nat) r rest, let isl := s.island i
    (let v := s.setIsland i { isl with inFlight := rest }
     isl.inFlight = r :: rest → isl.held = [] →
      exec (.faultQueueAppend i) s = .next (deliverRecord v i 3 r.tenant r) ∧
      (∀ pa, queueRoom v i r.tenant = true → queuePlace v i r.tenant = some pa → exec (.faultQueueAppend i) s = .next (appendAt v i r.tenant pa r))) ∧
    (let v := deliverRecord (s.setIsland i { isl with held := rest }) i 1 0 r
     isl.held = r :: rest → heldReady s i = true →
      exec (.heldRecordDelivery i) s = .next (if rest.isEmpty then v else v.addDueOnce (.heldRecordDelivery i)))) ∧
  (∀ (s : State) (i t k : Nat), queueEmpty s i t = false → qeventReady s i t = some k →
    exec (.qevent i t) s = .next (enterException (s.addDueOnce (.qevent i t)) i k t (BitVec.ofNat 64 (10 * 2 ^ 8 + 0x23)) 0
      (BitVec.ofNat 64 (queueTail (agentRecord s i t))) (s.core i k).regs.pc)) ∧
  (∀ (s : State) (i k cmd : Nat) p, let c := s.core i k
    resumePacket (coreTenant c) (fromViewHandle s (coreTenant c) (bits c.rsmtgt 0 24)) (bits c.rsmtgt 24 6) (bits c.rsmreq 0 40) cmd = some p →
      exec (.rsmcmd i k cmd) s = .next (s.addDue p)) ∧
  (∀ (s : State) (n : Nat) c v, mget? s.invals n = some (c, v) → let u := applyInval s v
    exec (.tlbInvalidation n) s = .next { u with invals := mdel u.invals n } ∧
    (∀ p ∈ u.clusters, ∀ e ∈ p.2.tlb, v.hitsTlb e = false) ∧ (∀ p ∈ u.tiles, ∀ e ∈ p.2.icache, v.hitsCode e = false))

/-- The trust and edge engines' steps and the host's requests. The bytes of events, what SPDM answers beside R513, what a collective's hubs exchange
beside R515, the islands of events, the region number of a scratchpad, the numbering of functions and modules, the world in which a host's tables are
walked, and the place of a BAR read are the model's choices (log entries 20, 22, 23, 24, 37, 82, 111, 112). -/
def Obligations.TrustEdgeAndHostSteps : Prop :=
  (∀ (s : State) (v : Nat), let w := s.wafer
    (w.mlock = true → exec (.mext v) s = .next s) ∧
    (w.mlock = false → exec (.mext v) s = .next { s with wafer := { w with mkern := sm3 (digest32 w.mkern ++ toBytes 32 v) } })) ∧
  (∀ (s : State) (ten a n v : Nat), exec (.controlSpaceWrite ten a n v) s = .next (controlWrite s ten 0 0 a (toBytes n v)) ∧
    (a % 8 = 0 → controlReach s ten (controlAt a) = false → exec (.controlSpaceWrite ten a 8 v) s = .next s)) ∧
  (∀ (s : State) (r e : Nat), ∃ u : State, exec (.regionRekey r e) s = .next u ∧ u.wafer.sweeps = s.wafer.sweeps ++ [{ region := r, epoch := e == 1 }] ∧
    Instr.sweepComplete r ∈ u.due ∧ u.mem = s.mem ∧ u.lines = s.lines) ∧
  (∀ (s : State) (r : Nat) w, s.wafer.sweeps.find? (fun w => w.region == r) = some w →
    let ends (v : State) : State :=
      let u : State := { v with wafer := { v.wafer with sweeps := v.wafer.sweeps.erase w } }
      if u.wafer.sweeps.any (fun x => x.region == r) then u.addDueOnce (.sweepComplete r) else u
    let event := eventRecord 0 3 (toBytes 32 r)
    let h := r - edgeEnd / 2 ^ 21
    (r < edgeEnd / 2 ^ 21 →
      exec (.sweepComplete r) s = .next (sendRecord (ends (if w.swept then s else sweepEdge s w)) (edgeIsland (emmOf (r * 2 ^ 21))) event)) ∧
    (∀ b, edgeEnd / 2 ^ 21 ≤ r → s.block? h = some b →
      (b.evicted = false → exec (.sweepComplete r) s =
        .next (sendRecord (ends (if w.swept then s else sweepScratch s w h b)) (homeIsland (clusterOf b.tile)) event)) ∧
      (b.evicted = true → w.swept = false → exec (.sweepComplete r) s = .next (s.addDueOnce (.sweepComplete r))))) ∧
  (∀ (s : State) (e k : Nat), k < 2 → let x := s.edge e
    (x.op = none → ∃ u : State, exec (.checkpoint e k) s = .next u ∧ (u.edge e).op = some (k, false) ∧ bitOf (slotWord (u.edge e) k) 63 = false ∧
      slotStore (u.edge e) k = none ∧ bits (u.edge e).ecstat 2 2 = 1 ∧ Instr.checkpointComplete e ∈ u.due ∧ u.mem = s.mem) ∧
    (x.op = some (k, false) → let n := randomBytes (meetEmm s e)
      ∃ u : State, exec (.checkpointComplete e) s = .next u ∧ (u.edge e).op = none ∧ bitOf (slotWord (u.edge e) k) 63 = true ∧
        slotStore (u.edge e) k = some { object := sealObject 0 (worldOf n.2 0) n.2.wafer.dstate n.1 (emmImage n.2 e) } ∧
        bits (u.edge e).ecstat 2 2 = 2 ∧ u.mem = s.mem) ∧
    (∀ l, e < 32 → inEmm e (16 * l) = true → (s.meta_ (16 * l)).ecc = 2 → ((meetEmm s e).meta_ (16 * l)).poisoned = true) ∧
    (x.op = none → ∃ u : State, exec (.slotRestore e k) s = .next u ∧ (u.edge e).op = some (k, true) ∧ Instr.restoreComplete e ∈ u.due ∧ u.mem = s.mem) ∧
    (x.op = some (k, true) →
      let ends (v : State) (n : Nat) := Host.Outcome.next (v.setEdge e (setCkst { v.edge e with op := none } n))
      (slotStore x k = none ∨ bitOf (slotWord x k) 63 = false → exec (.restoreComplete e) s = ends s 3) ∧
      (∀ r, slotStore x k = some r → bitOf (slotWord x k) 63 = true →
        let o := openObject 0 (worldOf s 0) s.wafer.dstate r.object
        (o = none → exec (.restoreComplete e) s = ends s 3) ∧
        (∀ b i, o = some (b, some i) → exec (.restoreComplete e) s = ends (zeroLines (restoreEmm s e b) (emmSize * e) (b.length - 786432)) 3) ∧
        (∀ b, o = some (b, none) → exec (.restoreComplete e) s = ends (restoreEmm s e b) 2))) ∧
    (∃ u : State, exec (.erase e k) s = .next u ∧ bitOf (slotWord (u.edge e) k) 63 = false ∧ slotStore (u.edge e) k = none ∧ u.mem = s.mem)) ∧
  (∀ (s : State) (f off n v : Nat) (b : List Byte),
    let say (u : State) (c : Nat) (l : List Byte) : State := { u with replies := u.replies ++ [{ fn := f, code := c, bytes := l }] }
    let bar := 2 ^ 40 ≤ off ∧ off + n ≤ 2 ^ 40 + 65536
    (bar → ∃ l, exec (.cxlMemRead f off n) s = .next (say s 0 l) ∧ l.length = n ∧
      ∀ j, j < n → l.getD j 0 = if off - 2 ^ 40 + j < 8 then byteAt (toBytes 8 (w48stat s).toNat) (off - 2 ^ 40 + j) else 0) ∧
    (∀ l, ¬ bar → hostWindow s f off n false = some l →
      exec (.cxlMemRead f off n) s = .next (say (l.foldl (fun s p => meetAt s p.1 p.2) s) 0 (l.flatMap fun p => readPhys s p.1 p.2))) ∧
    (¬ bar → hostWindow s f off n false = none → exec (.cxlMemRead f off n) s = .next (say s 1 [])) ∧
    (∀ l, hostWindow s f off b.length true = some l → (∀ p ∈ l, rekeyBlocked s p.1 = false) →
      exec (.cxlMemWrite f off b) s = .next (hostWrite s l b)) ∧
    (hostWindow s f off b.length true = none → exec (.cxlMemWrite f off b) s = .next s) ∧
    (s.wafer.ready = true → exec (.dbell f v) s = .next (sendRecord s (portIsland (functionPort f))
      (eventRecord ((functionTenant s f).getD 0) 5 (toBytes 8 f ++ toBytes 8 v ++ List.replicate 16 0)))) ∧
    (s.wafer.ready = false → exec (.dbell f v) s = .next s) ∧
    (let ans (l : List Byte) : HostReply := if s.wafer.ready then { fn := f, code := 0, bytes := l } else { fn := f, code := 1, bytes := [] }
     exec (.getDigests f) s = .next { s with replies := s.replies ++ [ans (sm3 (certificateChain s f))] } ∧
     exec (.getCertificate f) s = .next { s with replies := s.replies ++ [ans (certificateChain s f)] } ∧
     exec (.getVersion f) s = .next { s with replies := s.replies ++ [ans versionAnswer] } ∧
     exec (.negotiateAlgorithms f) s = .next { s with replies := s.replies ++ [ans algorithmsAnswer] } ∧
     (∃ u : State, exec (.challenge f b) s = .next u ∧ u.replies = s.replies ++ [ans (evidence s f b).1] ∧ u.mem = s.mem) ∧
     (∃ u : State, exec (.getMeasurements f) s = .next u ∧ u.mem = s.mem ∧
       u.replies = s.replies ++ [ans (((evidence s f []).1.drop 16).take 160 ++ (evidence s f []).1)]) ∧
     ∃ (u : State) (x : List Byte), exec (.getCapabilities f) s = .next u ∧ u.replies = s.replies ++ [ans (capabilitiesAnswer x)] ∧ u.mem = s.mem)) ∧
  (∀ (s : State) (m a : Nat) (w : Bool) (b : List Byte),
    let say (u : State) (c : Nat) (l : List Byte) : State := { u with replies := u.replies ++ [{ fn := 256 + m, code := c, bytes := l }] }
    let ok := exportAllows s m a = true ∧ exportAllows s m (a + b.length - 1) = true
    (¬ ok → exec (.apertureAccess m a w b) s = .next (say s 2 [])) ∧
    (ok → w = false → exec (.apertureAccess m a w b) s = .next (say (meetAt s a b.length) 0 (readPhys s a b.length))) ∧
    (ok → w = true → rekeyBlocked s a = false → exec (.apertureAccess m a w b) s = .next (say (hostWrite s (segments a b.length) b) 0 []))) ∧
  (∀ (s : State) (a : Nat), let d := readPhys s a 64
    let v := meetAt s a 64
    (collOk d = false → exec (.collpost a) s = .next (writeWide v (recFld d 243 192) (toBytes 8 (2 ^ 63 + 1)))) ∧
    (collOk d = true → ∃ (u : State) (x : Collective), exec (.collpost a) s = .next u ∧ u.wafer.colls = s.wafer.colls ++ [x] ∧ x.tag = recFld d 63 32 ∧
      x.desc = d ∧ x.kgen = s.wafer.ckgen.toNat ∧ x.mac = contributionTag v x.contrib ∧ x.started ≤ s.cycle ∧
      crypt v (bits s.wafer.modid 0 9) x.tag x.kgen x.contrib = readPhys v (recFld d 115 64) (4 * recFld d 7 0) ∧
      Instr.collectiveResult x.tag ∈ u.due ∧ Instr.timeout x.tag ∈ u.due ∧ u.mem = s.mem)) ∧
  (∀ (s : State) (tag : Nat) x, collective? s tag = some x →
    let v : State := { s with freeCtr := s.freeCtr + 1 }
    let mine := recFld x.desc 23 16
    let agreed := ∀ m ∈ otherMembers s, otherType s tag m = mine
    let apart := ∃ ty, ty ≠ mine ∧ otherMembers s ≠ [] ∧ ∀ m ∈ otherMembers s, otherType s tag m = ty
    let late := x.started + s.wafer.colltmo.toNat ≤ s.cycle
    (late → exec (.collectiveResult tag) s = .next s ∧ exec (.timeout tag) s = .next (endCollective s x [] (2 ^ 63 + 11))) ∧
    (¬ late → exec (.timeout tag) s = .next (s.addDueOnce (.timeout tag))) ∧
    (¬ late → apart → exec (.collectiveResult tag) s = .next (endCollective v x [] (2 ^ 63 + 1))) ∧
    (¬ late → agreed → keysAgree s x = true → exec (.collectiveResult tag) s = .next
      (endCollective v x (combineAll x.desc ((contributions s x).map fun c => crypt s c.1 tag x.kgen c.2)) 0)) ∧
    (¬ late → agreed → keysAgree s x = false → exec (.collectiveResult tag) s = .next (endCollective v x [] (2 ^ 63 + 9))) ∧
    exec (.linkdown tag) s = .next (endCollective s x [] (2 ^ 63 + 10)))

/-- R538's stages, R512's fuses one a step, R539. -/
def Obligations.PowerAndBringUp : Prop :=
  (∀ s : State, dozeReady s = true → exec .doze s = .next { s with wafer := { s.wafer with power := .doze, pwrctl := 1 } }) ∧
  (∀ s : State, ∃ u : State, exec .run s = .next u ∧ u.wafer.power = (if s.wafer.power = .doze then .run else s.wafer.power) ∧ u.wafer.pwrctl = 0 ∧
    u.wafer.thermal = false ∧ Instr.doze ∉ u.due ∧ u.mem = s.mem ∧ u.ctxs = s.ctxs) ∧
  (∀ (f : List (Bool × Bool)) (n k : Nat) (b : Bool), let at_ (j : Nat) := f.getD j (false, false)
    (unblown? f n = some (k, b) ↔ k < n ∧ (∀ j, j < k → at_ j = (true, true)) ∧ (if b then at_ k = (true, false) else (at_ k).1 = false)) ∧
    (k < 128 → (withFuse f k b).getD k (false, false) = (if b then ((at_ k).1, true) else (true, (at_ k).2)) ∧
      ∀ j, j ≠ k → (withFuse f k b).getD j (false, false) = at_ j)) ∧
  (∀ s u : State, (s.wafer.power = .off ∧ u = romBegins s) ∨ (s.wafer.power = .boot ∧ s.wafer.stage = 0 ∧ u = s) →
    let b := u.wafer.boot
    let n := min 128 (arbCount u)
    let top := max n (min 128 b.minimum)
    let dead (p : Nat × Bool) := u.wafer.deadFuses.contains (2 * p.1 + boolNat p.2) = true
    let blown (p : Nat × Bool) (a : Bool) : State := ({ u with wafer := { u.wafer with fuses := withFuse u.wafer.fuses p.1 p.2, accepted := a } } : State).addDueOnce .powerApplied
    let fails (e : Nat) (a : Bool) := Host.Outcome.next ({ u with wafer := { u.wafer with stage := 1, error := e, accepted := a } } : State)
    let accepts := u.wafer.accepted = true ∨ (unblown? u.wafer.fuses n = none ∧ b.signed = true ∧ n ≤ b.version)
    (∀ p, u.wafer.accepted = false → unblown? u.wafer.fuses n = some p →
      (¬ dead p → exec .powerApplied s = .next (blown p false)) ∧ (dead p → exec .powerApplied s = fails 1 false)) ∧
    (u.wafer.accepted = false → unblown? u.wafer.fuses n = none → b.signed = false ∨ b.version < n → exec .powerApplied s = fails 2 false) ∧
    (∀ p, accepts → unblown? u.wafer.fuses top = some p →
      (¬ dead p → exec .powerApplied s = .next (blown p true)) ∧ (dead p → exec .powerApplied s = fails 1 true)) ∧
    (accepts → unblown? u.wafer.fuses top = none → ∃ v : State, exec .powerApplied s = .next v ∧ v.wafer.stage = 1 ∧ v.wafer.error = 0 ∧
      v.wafer.dstate = bootDebug b (randomBytes u).1 ∧ v.wafer.fuses = u.wafer.fuses ∧ Instr.selfCalibration 0 ∈ v.due ∧ v.mem = s.mem)) ∧
  (∀ s : State, (romBegins s).wafer.power = .boot ∧ (romBegins s).mem = s.mem ∧ (romBegins s).wafer.fuses = s.wafer.fuses ∧
    (recordMac s.wafer = s.wafer.retireMac → (romBegins s).wafer.retire = s.wafer.retire ∧ (romBegins s).wafer.retiredSites = s.wafer.retiredSites) ∧
    (recordMac s.wafer ≠ s.wafer.retireMac → (romBegins s).wafer.retire = [] ∧ (romBegins s).wafer.retiredSites = [])) ∧
  (∀ (s : State) (e : Nat), stageDue s 2 = true → ∃ u : State, exec (.selfCalibration e) s = .next u ∧ u.wafer.stage = 2 ∧ u.wafer.error = e ∧
    (e = 0 → Instr.selfTest [] ∈ u.due)) ∧
  (∀ (s : State) (l : List Nat), stageDue s 3 = true → ∃ u : State, exec (.selfTest l) s = .next u ∧ u.wafer.stage = 3 ∧ u.wafer.error = 0 ∧
    u.wafer.retiredSites = ((l.filter fun x => decide (x < 52224)).map fun x => (x / 1088, x % 1088 / 32, x % 32)).reverse ++ s.wafer.retiredSites ∧
    u.wafer.retireMac = recordMac u.wafer ∧ Instr.routerTableWrite [] ∈ u.due) ∧
  (∀ (s : State) (l : List (Nat × Nat × BitVec 64)), stageDue s 4 = true →
    exec (.routerTableWrite l) s = .next (reachStage (l.foldl writeDetour (writeTables s)) 4 0 fun s => s.addDueOnce (.initialisation 0)) ∧
    (writeTables s).wafer.tables = s.wafer.retire ∧ cleanRouters (writeTables s) = true) ∧
  (∀ (s : State) (e : Nat), stageDue s 5 = true → ∃ u : State, exec (.initialisation e) s = .next u ∧ u.wafer.stage = 5 ∧ u.wafer.error = e ∧
    (e = 0 → u.wafer.ready = true ∧ u.wafer.power = .run ∧ u.mem = [] ∧ u.lines = []) ∧ (e ≠ 0 → u.wafer.ready = s.wafer.ready ∧ u.mem = s.mem)) ∧
  (∀ s : State, ∃ u : State, exec .powerOff s = .next u ∧ u.mem = [] ∧ u.lines = [] ∧ u.wafer.power = .off ∧ u.wafer.ready = false ∧
    u.wafer.fuses = s.wafer.fuses ∧ u.wafer.deadFuses = s.wafer.deadFuses ∧ u.wafer.retire = s.wafer.retire ∧
    u.wafer.retireMac = s.wafer.retireMac ∧ u.wafer.boot = { s.wafer.boot with token := none } ∧ (∀ t c, (u.ctx t c).state = .free) ∧
    (∀ e, slotStore (u.edge e) 0 = slotStore (s.edge e) 0 ∧ slotStore (u.edge e) 1 = slotStore (s.edge e) 1))
end

