-- ==== Sys2Proof/Laws/State.lean ====
section
/-! SUPPORT. What each update of the state leaves and writes, field by field: no later proof unfolds a record update. -/

namespace Sys2Proof.Machine

/-! ## setCtx -/

@[simp] theorem State.setCtx_cur (s : State) (t c : Nat) (x : Ctx) : (s.setCtx t c x).cur = s.cur := rfl
@[simp] theorem State.setCtx_due (s : State) (t c : Nat) (x : Ctx) : (s.setCtx t c x).due = s.due := rfl
@[simp] theorem State.setCtx_choices (s : State) (t c : Nat) (x : Ctx) : (s.setCtx t c x).choices = s.choices := rfl
@[simp] theorem State.setCtx_cycleLens (s : State) (t c : Nat) (x : Ctx) : (s.setCtx t c x).cycleLens = s.cycleLens := rfl
@[simp] theorem State.setCtx_upsets (s : State) (t c : Nat) (x : Ctx) : (s.setCtx t c x).upsets = s.upsets := rfl
@[simp] theorem State.setCtx_freeCtr (s : State) (t c : Nat) (x : Ctx) : (s.setCtx t c x).freeCtr = s.freeCtr := rfl
@[simp] theorem State.setCtx_retired (s : State) (t c : Nat) (x : Ctx) : (s.setCtx t c x).retired = s.retired := rfl
@[simp] theorem State.setCtx_nextId (s : State) (t c : Nat) (x : Ctx) : (s.setCtx t c x).nextId = s.nextId := rfl
@[simp] theorem State.setCtx_cycle (s : State) (t c : Nat) (x : Ctx) : (s.setCtx t c x).cycle = s.cycle := rfl
@[simp] theorem State.setCtx_mem (s : State) (t c : Nat) (x : Ctx) : (s.setCtx t c x).mem = s.mem := rfl
@[simp] theorem State.setCtx_lines (s : State) (t c : Nat) (x : Ctx) : (s.setCtx t c x).lines = s.lines := rfl
@[simp] theorem State.setCtx_ctxs (s : State) (t c : Nat) (x : Ctx) : (s.setCtx t c x).ctxs = mset s.ctxs (t, c) x := rfl
@[simp] theorem State.setCtx_cores (s : State) (t c : Nat) (x : Ctx) : (s.setCtx t c x).cores = s.cores := rfl
@[simp] theorem State.setCtx_tiles (s : State) (t c : Nat) (x : Ctx) : (s.setCtx t c x).tiles = s.tiles := rfl
@[simp] theorem State.setCtx_clusters (s : State) (t c : Nat) (x : Ctx) : (s.setCtx t c x).clusters = s.clusters := rfl
@[simp] theorem State.setCtx_islands (s : State) (t c : Nat) (x : Ctx) : (s.setCtx t c x).islands = s.islands := rfl
@[simp] theorem State.setCtx_routers (s : State) (t c : Nat) (x : Ctx) : (s.setCtx t c x).routers = s.routers := rfl
@[simp] theorem State.setCtx_edges (s : State) (t c : Nat) (x : Ctx) : (s.setCtx t c x).edges = s.edges := rfl
@[simp] theorem State.setCtx_tasks (s : State) (t c : Nat) (x : Ctx) : (s.setCtx t c x).tasks = s.tasks := rfl
@[simp] theorem State.setCtx_blocks (s : State) (t c : Nat) (x : Ctx) : (s.setCtx t c x).blocks = s.blocks := rfl
@[simp] theorem State.setCtx_launches (s : State) (t c : Nat) (x : Ctx) : (s.setCtx t c x).launches = s.launches := rfl
@[simp] theorem State.setCtx_counters (s : State) (t c : Nat) (x : Ctx) : (s.setCtx t c x).counters = s.counters := rfl
@[simp] theorem State.setCtx_insts (s : State) (t c : Nat) (x : Ctx) : (s.setCtx t c x).insts = s.insts := rfl
@[simp] theorem State.setCtx_clearances (s : State) (t c : Nat) (x : Ctx) : (s.setCtx t c x).clearances = s.clearances := rfl
@[simp] theorem State.setCtx_tenants (s : State) (t c : Nat) (x : Ctx) : (s.setCtx t c x).tenants = s.tenants := rfl
@[simp] theorem State.setCtx_vfs (s : State) (t c : Nat) (x : Ctx) : (s.setCtx t c x).vfs = s.vfs := rfl
@[simp] theorem State.setCtx_packets (s : State) (t c : Nat) (x : Ctx) : (s.setCtx t c x).packets = s.packets := rfl
@[simp] theorem State.setCtx_invals (s : State) (t c : Nat) (x : Ctx) : (s.setCtx t c x).invals = s.invals := rfl
@[simp] theorem State.setCtx_wafer (s : State) (t c : Nat) (x : Ctx) : (s.setCtx t c x).wafer = s.wafer := rfl
@[simp] theorem State.setCtx_replies (s : State) (t c : Nat) (x : Ctx) : (s.setCtx t c x).replies = s.replies := rfl

/-! ## setCore -/

@[simp] theorem State.setCore_cur (s : State) (i k : Nat) (x : Core) : (s.setCore i k x).cur = s.cur := rfl
@[simp] theorem State.setCore_due (s : State) (i k : Nat) (x : Core) : (s.setCore i k x).due = s.due := rfl
@[simp] theorem State.setCore_choices (s : State) (i k : Nat) (x : Core) : (s.setCore i k x).choices = s.choices := rfl
@[simp] theorem State.setCore_cycleLens (s : State) (i k : Nat) (x : Core) : (s.setCore i k x).cycleLens = s.cycleLens := rfl
@[simp] theorem State.setCore_upsets (s : State) (i k : Nat) (x : Core) : (s.setCore i k x).upsets = s.upsets := rfl
@[simp] theorem State.setCore_freeCtr (s : State) (i k : Nat) (x : Core) : (s.setCore i k x).freeCtr = s.freeCtr := rfl
@[simp] theorem State.setCore_retired (s : State) (i k : Nat) (x : Core) : (s.setCore i k x).retired = s.retired := rfl
@[simp] theorem State.setCore_nextId (s : State) (i k : Nat) (x : Core) : (s.setCore i k x).nextId = s.nextId := rfl
@[simp] theorem State.setCore_cycle (s : State) (i k : Nat) (x : Core) : (s.setCore i k x).cycle = s.cycle := rfl
@[simp] theorem State.setCore_mem (s : State) (i k : Nat) (x : Core) : (s.setCore i k x).mem = s.mem := rfl
@[simp] theorem State.setCore_lines (s : State) (i k : Nat) (x : Core) : (s.setCore i k x).lines = s.lines := rfl
@[simp] theorem State.setCore_ctxs (s : State) (i k : Nat) (x : Core) : (s.setCore i k x).ctxs = s.ctxs := rfl
@[simp] theorem State.setCore_cores (s : State) (i k : Nat) (x : Core) : (s.setCore i k x).cores = mset s.cores (i, k) x := rfl
@[simp] theorem State.setCore_tiles (s : State) (i k : Nat) (x : Core) : (s.setCore i k x).tiles = s.tiles := rfl
@[simp] theorem State.setCore_clusters (s : State) (i k : Nat) (x : Core) : (s.setCore i k x).clusters = s.clusters := rfl
@[simp] theorem State.setCore_islands (s : State) (i k : Nat) (x : Core) : (s.setCore i k x).islands = s.islands := rfl
@[simp] theorem State.setCore_routers (s : State) (i k : Nat) (x : Core) : (s.setCore i k x).routers = s.routers := rfl
@[simp] theorem State.setCore_edges (s : State) (i k : Nat) (x : Core) : (s.setCore i k x).edges = s.edges := rfl
@[simp] theorem State.setCore_tasks (s : State) (i k : Nat) (x : Core) : (s.setCore i k x).tasks = s.tasks := rfl
@[simp] theorem State.setCore_blocks (s : State) (i k : Nat) (x : Core) : (s.setCore i k x).blocks = s.blocks := rfl
@[simp] theorem State.setCore_launches (s : State) (i k : Nat) (x : Core) : (s.setCore i k x).launches = s.launches := rfl
@[simp] theorem State.setCore_counters (s : State) (i k : Nat) (x : Core) : (s.setCore i k x).counters = s.counters := rfl
@[simp] theorem State.setCore_insts (s : State) (i k : Nat) (x : Core) : (s.setCore i k x).insts = s.insts := rfl
@[simp] theorem State.setCore_clearances (s : State) (i k : Nat) (x : Core) : (s.setCore i k x).clearances = s.clearances := rfl
@[simp] theorem State.setCore_tenants (s : State) (i k : Nat) (x : Core) : (s.setCore i k x).tenants = s.tenants := rfl
@[simp] theorem State.setCore_vfs (s : State) (i k : Nat) (x : Core) : (s.setCore i k x).vfs = s.vfs := rfl
@[simp] theorem State.setCore_packets (s : State) (i k : Nat) (x : Core) : (s.setCore i k x).packets = s.packets := rfl
@[simp] theorem State.setCore_invals (s : State) (i k : Nat) (x : Core) : (s.setCore i k x).invals = s.invals := rfl
@[simp] theorem State.setCore_wafer (s : State) (i k : Nat) (x : Core) : (s.setCore i k x).wafer = s.wafer := rfl
@[simp] theorem State.setCore_replies (s : State) (i k : Nat) (x : Core) : (s.setCore i k x).replies = s.replies := rfl

/-! ## setTile -/

@[simp] theorem State.setTile_cur (s : State) (t : Nat) (x : Tile) : (s.setTile t x).cur = s.cur := rfl
@[simp] theorem State.setTile_due (s : State) (t : Nat) (x : Tile) : (s.setTile t x).due = s.due := rfl
@[simp] theorem State.setTile_choices (s : State) (t : Nat) (x : Tile) : (s.setTile t x).choices = s.choices := rfl
@[simp] theorem State.setTile_cycleLens (s : State) (t : Nat) (x : Tile) : (s.setTile t x).cycleLens = s.cycleLens := rfl
@[simp] theorem State.setTile_upsets (s : State) (t : Nat) (x : Tile) : (s.setTile t x).upsets = s.upsets := rfl
@[simp] theorem State.setTile_freeCtr (s : State) (t : Nat) (x : Tile) : (s.setTile t x).freeCtr = s.freeCtr := rfl
@[simp] theorem State.setTile_retired (s : State) (t : Nat) (x : Tile) : (s.setTile t x).retired = s.retired := rfl
@[simp] theorem State.setTile_nextId (s : State) (t : Nat) (x : Tile) : (s.setTile t x).nextId = s.nextId := rfl
@[simp] theorem State.setTile_cycle (s : State) (t : Nat) (x : Tile) : (s.setTile t x).cycle = s.cycle := rfl
@[simp] theorem State.setTile_mem (s : State) (t : Nat) (x : Tile) : (s.setTile t x).mem = s.mem := rfl
@[simp] theorem State.setTile_lines (s : State) (t : Nat) (x : Tile) : (s.setTile t x).lines = s.lines := rfl
@[simp] theorem State.setTile_ctxs (s : State) (t : Nat) (x : Tile) : (s.setTile t x).ctxs = s.ctxs := rfl
@[simp] theorem State.setTile_cores (s : State) (t : Nat) (x : Tile) : (s.setTile t x).cores = s.cores := rfl
@[simp] theorem State.setTile_tiles (s : State) (t : Nat) (x : Tile) : (s.setTile t x).tiles = mset s.tiles t x := rfl
@[simp] theorem State.setTile_clusters (s : State) (t : Nat) (x : Tile) : (s.setTile t x).clusters = s.clusters := rfl
@[simp] theorem State.setTile_islands (s : State) (t : Nat) (x : Tile) : (s.setTile t x).islands = s.islands := rfl
@[simp] theorem State.setTile_routers (s : State) (t : Nat) (x : Tile) : (s.setTile t x).routers = s.routers := rfl
@[simp] theorem State.setTile_edges (s : State) (t : Nat) (x : Tile) : (s.setTile t x).edges = s.edges := rfl
@[simp] theorem State.setTile_tasks (s : State) (t : Nat) (x : Tile) : (s.setTile t x).tasks = s.tasks := rfl
@[simp] theorem State.setTile_blocks (s : State) (t : Nat) (x : Tile) : (s.setTile t x).blocks = s.blocks := rfl
@[simp] theorem State.setTile_launches (s : State) (t : Nat) (x : Tile) : (s.setTile t x).launches = s.launches := rfl
@[simp] theorem State.setTile_counters (s : State) (t : Nat) (x : Tile) : (s.setTile t x).counters = s.counters := rfl
@[simp] theorem State.setTile_insts (s : State) (t : Nat) (x : Tile) : (s.setTile t x).insts = s.insts := rfl
@[simp] theorem State.setTile_clearances (s : State) (t : Nat) (x : Tile) : (s.setTile t x).clearances = s.clearances := rfl
@[simp] theorem State.setTile_tenants (s : State) (t : Nat) (x : Tile) : (s.setTile t x).tenants = s.tenants := rfl
@[simp] theorem State.setTile_vfs (s : State) (t : Nat) (x : Tile) : (s.setTile t x).vfs = s.vfs := rfl
@[simp] theorem State.setTile_packets (s : State) (t : Nat) (x : Tile) : (s.setTile t x).packets = s.packets := rfl
@[simp] theorem State.setTile_invals (s : State) (t : Nat) (x : Tile) : (s.setTile t x).invals = s.invals := rfl
@[simp] theorem State.setTile_wafer (s : State) (t : Nat) (x : Tile) : (s.setTile t x).wafer = s.wafer := rfl
@[simp] theorem State.setTile_replies (s : State) (t : Nat) (x : Tile) : (s.setTile t x).replies = s.replies := rfl

/-! ## setCluster -/

@[simp] theorem State.setCluster_cur (s : State) (n : Nat) (x : Cluster) : (s.setCluster n x).cur = s.cur := rfl
@[simp] theorem State.setCluster_due (s : State) (n : Nat) (x : Cluster) : (s.setCluster n x).due = s.due := rfl
@[simp] theorem State.setCluster_choices (s : State) (n : Nat) (x : Cluster) : (s.setCluster n x).choices = s.choices := rfl
@[simp] theorem State.setCluster_cycleLens (s : State) (n : Nat) (x : Cluster) : (s.setCluster n x).cycleLens = s.cycleLens := rfl
@[simp] theorem State.setCluster_upsets (s : State) (n : Nat) (x : Cluster) : (s.setCluster n x).upsets = s.upsets := rfl
@[simp] theorem State.setCluster_freeCtr (s : State) (n : Nat) (x : Cluster) : (s.setCluster n x).freeCtr = s.freeCtr := rfl
@[simp] theorem State.setCluster_retired (s : State) (n : Nat) (x : Cluster) : (s.setCluster n x).retired = s.retired := rfl
@[simp] theorem State.setCluster_nextId (s : State) (n : Nat) (x : Cluster) : (s.setCluster n x).nextId = s.nextId := rfl
@[simp] theorem State.setCluster_cycle (s : State) (n : Nat) (x : Cluster) : (s.setCluster n x).cycle = s.cycle := rfl
@[simp] theorem State.setCluster_mem (s : State) (n : Nat) (x : Cluster) : (s.setCluster n x).mem = s.mem := rfl
@[simp] theorem State.setCluster_lines (s : State) (n : Nat) (x : Cluster) : (s.setCluster n x).lines = s.lines := rfl
@[simp] theorem State.setCluster_ctxs (s : State) (n : Nat) (x : Cluster) : (s.setCluster n x).ctxs = s.ctxs := rfl
@[simp] theorem State.setCluster_cores (s : State) (n : Nat) (x : Cluster) : (s.setCluster n x).cores = s.cores := rfl
@[simp] theorem State.setCluster_tiles (s : State) (n : Nat) (x : Cluster) : (s.setCluster n x).tiles = s.tiles := rfl
@[simp] theorem State.setCluster_clusters (s : State) (n : Nat) (x : Cluster) : (s.setCluster n x).clusters = mset s.clusters n x := rfl
@[simp] theorem State.setCluster_islands (s : State) (n : Nat) (x : Cluster) : (s.setCluster n x).islands = s.islands := rfl
@[simp] theorem State.setCluster_routers (s : State) (n : Nat) (x : Cluster) : (s.setCluster n x).routers = s.routers := rfl
@[simp] theorem State.setCluster_edges (s : State) (n : Nat) (x : Cluster) : (s.setCluster n x).edges = s.edges := rfl
@[simp] theorem State.setCluster_tasks (s : State) (n : Nat) (x : Cluster) : (s.setCluster n x).tasks = s.tasks := rfl
@[simp] theorem State.setCluster_blocks (s : State) (n : Nat) (x : Cluster) : (s.setCluster n x).blocks = s.blocks := rfl
@[simp] theorem State.setCluster_launches (s : State) (n : Nat) (x : Cluster) : (s.setCluster n x).launches = s.launches := rfl
@[simp] theorem State.setCluster_counters (s : State) (n : Nat) (x : Cluster) : (s.setCluster n x).counters = s.counters := rfl
@[simp] theorem State.setCluster_insts (s : State) (n : Nat) (x : Cluster) : (s.setCluster n x).insts = s.insts := rfl
@[simp] theorem State.setCluster_clearances (s : State) (n : Nat) (x : Cluster) : (s.setCluster n x).clearances = s.clearances := rfl
@[simp] theorem State.setCluster_tenants (s : State) (n : Nat) (x : Cluster) : (s.setCluster n x).tenants = s.tenants := rfl
@[simp] theorem State.setCluster_vfs (s : State) (n : Nat) (x : Cluster) : (s.setCluster n x).vfs = s.vfs := rfl
@[simp] theorem State.setCluster_packets (s : State) (n : Nat) (x : Cluster) : (s.setCluster n x).packets = s.packets := rfl
@[simp] theorem State.setCluster_invals (s : State) (n : Nat) (x : Cluster) : (s.setCluster n x).invals = s.invals := rfl
@[simp] theorem State.setCluster_wafer (s : State) (n : Nat) (x : Cluster) : (s.setCluster n x).wafer = s.wafer := rfl
@[simp] theorem State.setCluster_replies (s : State) (n : Nat) (x : Cluster) : (s.setCluster n x).replies = s.replies := rfl

/-! ## setIsland -/

@[simp] theorem State.setIsland_cur (s : State) (i : Nat) (x : Island) : (s.setIsland i x).cur = s.cur := rfl
@[simp] theorem State.setIsland_due (s : State) (i : Nat) (x : Island) : (s.setIsland i x).due = s.due := rfl
@[simp] theorem State.setIsland_choices (s : State) (i : Nat) (x : Island) : (s.setIsland i x).choices = s.choices := rfl
@[simp] theorem State.setIsland_cycleLens (s : State) (i : Nat) (x : Island) : (s.setIsland i x).cycleLens = s.cycleLens := rfl
@[simp] theorem State.setIsland_upsets (s : State) (i : Nat) (x : Island) : (s.setIsland i x).upsets = s.upsets := rfl
@[simp] theorem State.setIsland_freeCtr (s : State) (i : Nat) (x : Island) : (s.setIsland i x).freeCtr = s.freeCtr := rfl
@[simp] theorem State.setIsland_retired (s : State) (i : Nat) (x : Island) : (s.setIsland i x).retired = s.retired := rfl
@[simp] theorem State.setIsland_nextId (s : State) (i : Nat) (x : Island) : (s.setIsland i x).nextId = s.nextId := rfl
@[simp] theorem State.setIsland_cycle (s : State) (i : Nat) (x : Island) : (s.setIsland i x).cycle = s.cycle := rfl
@[simp] theorem State.setIsland_mem (s : State) (i : Nat) (x : Island) : (s.setIsland i x).mem = s.mem := rfl
@[simp] theorem State.setIsland_lines (s : State) (i : Nat) (x : Island) : (s.setIsland i x).lines = s.lines := rfl
@[simp] theorem State.setIsland_ctxs (s : State) (i : Nat) (x : Island) : (s.setIsland i x).ctxs = s.ctxs := rfl
@[simp] theorem State.setIsland_cores (s : State) (i : Nat) (x : Island) : (s.setIsland i x).cores = s.cores := rfl
@[simp] theorem State.setIsland_tiles (s : State) (i : Nat) (x : Island) : (s.setIsland i x).tiles = s.tiles := rfl
@[simp] theorem State.setIsland_clusters (s : State) (i : Nat) (x : Island) : (s.setIsland i x).clusters = s.clusters := rfl
@[simp] theorem State.setIsland_islands (s : State) (i : Nat) (x : Island) : (s.setIsland i x).islands = mset s.islands i x := rfl
@[simp] theorem State.setIsland_routers (s : State) (i : Nat) (x : Island) : (s.setIsland i x).routers = s.routers := rfl
@[simp] theorem State.setIsland_edges (s : State) (i : Nat) (x : Island) : (s.setIsland i x).edges = s.edges := rfl
@[simp] theorem State.setIsland_tasks (s : State) (i : Nat) (x : Island) : (s.setIsland i x).tasks = s.tasks := rfl
@[simp] theorem State.setIsland_blocks (s : State) (i : Nat) (x : Island) : (s.setIsland i x).blocks = s.blocks := rfl
@[simp] theorem State.setIsland_launches (s : State) (i : Nat) (x : Island) : (s.setIsland i x).launches = s.launches := rfl
@[simp] theorem State.setIsland_counters (s : State) (i : Nat) (x : Island) : (s.setIsland i x).counters = s.counters := rfl
@[simp] theorem State.setIsland_insts (s : State) (i : Nat) (x : Island) : (s.setIsland i x).insts = s.insts := rfl
@[simp] theorem State.setIsland_clearances (s : State) (i : Nat) (x : Island) : (s.setIsland i x).clearances = s.clearances := rfl
@[simp] theorem State.setIsland_tenants (s : State) (i : Nat) (x : Island) : (s.setIsland i x).tenants = s.tenants := rfl
@[simp] theorem State.setIsland_vfs (s : State) (i : Nat) (x : Island) : (s.setIsland i x).vfs = s.vfs := rfl
@[simp] theorem State.setIsland_packets (s : State) (i : Nat) (x : Island) : (s.setIsland i x).packets = s.packets := rfl
@[simp] theorem State.setIsland_invals (s : State) (i : Nat) (x : Island) : (s.setIsland i x).invals = s.invals := rfl
@[simp] theorem State.setIsland_wafer (s : State) (i : Nat) (x : Island) : (s.setIsland i x).wafer = s.wafer := rfl
@[simp] theorem State.setIsland_replies (s : State) (i : Nat) (x : Island) : (s.setIsland i x).replies = s.replies := rfl

/-! ## setRouter -/

@[simp] theorem State.setRouter_cur (s : State) (t : Nat) (x : Router) : (s.setRouter t x).cur = s.cur := rfl
@[simp] theorem State.setRouter_due (s : State) (t : Nat) (x : Router) : (s.setRouter t x).due = s.due := rfl
@[simp] theorem State.setRouter_choices (s : State) (t : Nat) (x : Router) : (s.setRouter t x).choices = s.choices := rfl
@[simp] theorem State.setRouter_cycleLens (s : State) (t : Nat) (x : Router) : (s.setRouter t x).cycleLens = s.cycleLens := rfl
@[simp] theorem State.setRouter_upsets (s : State) (t : Nat) (x : Router) : (s.setRouter t x).upsets = s.upsets := rfl
@[simp] theorem State.setRouter_freeCtr (s : State) (t : Nat) (x : Router) : (s.setRouter t x).freeCtr = s.freeCtr := rfl
@[simp] theorem State.setRouter_retired (s : State) (t : Nat) (x : Router) : (s.setRouter t x).retired = s.retired := rfl
@[simp] theorem State.setRouter_nextId (s : State) (t : Nat) (x : Router) : (s.setRouter t x).nextId = s.nextId := rfl
@[simp] theorem State.setRouter_cycle (s : State) (t : Nat) (x : Router) : (s.setRouter t x).cycle = s.cycle := rfl
@[simp] theorem State.setRouter_mem (s : State) (t : Nat) (x : Router) : (s.setRouter t x).mem = s.mem := rfl
@[simp] theorem State.setRouter_lines (s : State) (t : Nat) (x : Router) : (s.setRouter t x).lines = s.lines := rfl
@[simp] theorem State.setRouter_ctxs (s : State) (t : Nat) (x : Router) : (s.setRouter t x).ctxs = s.ctxs := rfl
@[simp] theorem State.setRouter_cores (s : State) (t : Nat) (x : Router) : (s.setRouter t x).cores = s.cores := rfl
@[simp] theorem State.setRouter_tiles (s : State) (t : Nat) (x : Router) : (s.setRouter t x).tiles = s.tiles := rfl
@[simp] theorem State.setRouter_clusters (s : State) (t : Nat) (x : Router) : (s.setRouter t x).clusters = s.clusters := rfl
@[simp] theorem State.setRouter_islands (s : State) (t : Nat) (x : Router) : (s.setRouter t x).islands = s.islands := rfl
@[simp] theorem State.setRouter_routers (s : State) (t : Nat) (x : Router) : (s.setRouter t x).routers = mset s.routers t x := rfl
@[simp] theorem State.setRouter_edges (s : State) (t : Nat) (x : Router) : (s.setRouter t x).edges = s.edges := rfl
@[simp] theorem State.setRouter_tasks (s : State) (t : Nat) (x : Router) : (s.setRouter t x).tasks = s.tasks := rfl
@[simp] theorem State.setRouter_blocks (s : State) (t : Nat) (x : Router) : (s.setRouter t x).blocks = s.blocks := rfl
@[simp] theorem State.setRouter_launches (s : State) (t : Nat) (x : Router) : (s.setRouter t x).launches = s.launches := rfl
@[simp] theorem State.setRouter_counters (s : State) (t : Nat) (x : Router) : (s.setRouter t x).counters = s.counters := rfl
@[simp] theorem State.setRouter_insts (s : State) (t : Nat) (x : Router) : (s.setRouter t x).insts = s.insts := rfl
@[simp] theorem State.setRouter_clearances (s : State) (t : Nat) (x : Router) : (s.setRouter t x).clearances = s.clearances := rfl
@[simp] theorem State.setRouter_tenants (s : State) (t : Nat) (x : Router) : (s.setRouter t x).tenants = s.tenants := rfl
@[simp] theorem State.setRouter_vfs (s : State) (t : Nat) (x : Router) : (s.setRouter t x).vfs = s.vfs := rfl
@[simp] theorem State.setRouter_packets (s : State) (t : Nat) (x : Router) : (s.setRouter t x).packets = s.packets := rfl
@[simp] theorem State.setRouter_invals (s : State) (t : Nat) (x : Router) : (s.setRouter t x).invals = s.invals := rfl
@[simp] theorem State.setRouter_wafer (s : State) (t : Nat) (x : Router) : (s.setRouter t x).wafer = s.wafer := rfl
@[simp] theorem State.setRouter_replies (s : State) (t : Nat) (x : Router) : (s.setRouter t x).replies = s.replies := rfl

/-! ## setEdge -/

@[simp] theorem State.setEdge_cur (s : State) (e : Nat) (x : Edge) : (s.setEdge e x).cur = s.cur := rfl
@[simp] theorem State.setEdge_due (s : State) (e : Nat) (x : Edge) : (s.setEdge e x).due = s.due := rfl
@[simp] theorem State.setEdge_choices (s : State) (e : Nat) (x : Edge) : (s.setEdge e x).choices = s.choices := rfl
@[simp] theorem State.setEdge_cycleLens (s : State) (e : Nat) (x : Edge) : (s.setEdge e x).cycleLens = s.cycleLens := rfl
@[simp] theorem State.setEdge_upsets (s : State) (e : Nat) (x : Edge) : (s.setEdge e x).upsets = s.upsets := rfl
@[simp] theorem State.setEdge_freeCtr (s : State) (e : Nat) (x : Edge) : (s.setEdge e x).freeCtr = s.freeCtr := rfl
@[simp] theorem State.setEdge_retired (s : State) (e : Nat) (x : Edge) : (s.setEdge e x).retired = s.retired := rfl
@[simp] theorem State.setEdge_nextId (s : State) (e : Nat) (x : Edge) : (s.setEdge e x).nextId = s.nextId := rfl
@[simp] theorem State.setEdge_cycle (s : State) (e : Nat) (x : Edge) : (s.setEdge e x).cycle = s.cycle := rfl
@[simp] theorem State.setEdge_mem (s : State) (e : Nat) (x : Edge) : (s.setEdge e x).mem = s.mem := rfl
@[simp] theorem State.setEdge_lines (s : State) (e : Nat) (x : Edge) : (s.setEdge e x).lines = s.lines := rfl
@[simp] theorem State.setEdge_ctxs (s : State) (e : Nat) (x : Edge) : (s.setEdge e x).ctxs = s.ctxs := rfl
@[simp] theorem State.setEdge_cores (s : State) (e : Nat) (x : Edge) : (s.setEdge e x).cores = s.cores := rfl
@[simp] theorem State.setEdge_tiles (s : State) (e : Nat) (x : Edge) : (s.setEdge e x).tiles = s.tiles := rfl
@[simp] theorem State.setEdge_clusters (s : State) (e : Nat) (x : Edge) : (s.setEdge e x).clusters = s.clusters := rfl
@[simp] theorem State.setEdge_islands (s : State) (e : Nat) (x : Edge) : (s.setEdge e x).islands = s.islands := rfl
@[simp] theorem State.setEdge_routers (s : State) (e : Nat) (x : Edge) : (s.setEdge e x).routers = s.routers := rfl
@[simp] theorem State.setEdge_edges (s : State) (e : Nat) (x : Edge) : (s.setEdge e x).edges = mset s.edges e x := rfl
@[simp] theorem State.setEdge_tasks (s : State) (e : Nat) (x : Edge) : (s.setEdge e x).tasks = s.tasks := rfl
@[simp] theorem State.setEdge_blocks (s : State) (e : Nat) (x : Edge) : (s.setEdge e x).blocks = s.blocks := rfl
@[simp] theorem State.setEdge_launches (s : State) (e : Nat) (x : Edge) : (s.setEdge e x).launches = s.launches := rfl
@[simp] theorem State.setEdge_counters (s : State) (e : Nat) (x : Edge) : (s.setEdge e x).counters = s.counters := rfl
@[simp] theorem State.setEdge_insts (s : State) (e : Nat) (x : Edge) : (s.setEdge e x).insts = s.insts := rfl
@[simp] theorem State.setEdge_clearances (s : State) (e : Nat) (x : Edge) : (s.setEdge e x).clearances = s.clearances := rfl
@[simp] theorem State.setEdge_tenants (s : State) (e : Nat) (x : Edge) : (s.setEdge e x).tenants = s.tenants := rfl
@[simp] theorem State.setEdge_vfs (s : State) (e : Nat) (x : Edge) : (s.setEdge e x).vfs = s.vfs := rfl
@[simp] theorem State.setEdge_packets (s : State) (e : Nat) (x : Edge) : (s.setEdge e x).packets = s.packets := rfl
@[simp] theorem State.setEdge_invals (s : State) (e : Nat) (x : Edge) : (s.setEdge e x).invals = s.invals := rfl
@[simp] theorem State.setEdge_wafer (s : State) (e : Nat) (x : Edge) : (s.setEdge e x).wafer = s.wafer := rfl
@[simp] theorem State.setEdge_replies (s : State) (e : Nat) (x : Edge) : (s.setEdge e x).replies = s.replies := rfl

/-! ## setTask -/

@[simp] theorem State.setTask_cur (s : State) (k : Nat) (x : Task) : (s.setTask k x).cur = s.cur := rfl
@[simp] theorem State.setTask_due (s : State) (k : Nat) (x : Task) : (s.setTask k x).due = s.due := rfl
@[simp] theorem State.setTask_choices (s : State) (k : Nat) (x : Task) : (s.setTask k x).choices = s.choices := rfl
@[simp] theorem State.setTask_cycleLens (s : State) (k : Nat) (x : Task) : (s.setTask k x).cycleLens = s.cycleLens := rfl
@[simp] theorem State.setTask_upsets (s : State) (k : Nat) (x : Task) : (s.setTask k x).upsets = s.upsets := rfl
@[simp] theorem State.setTask_freeCtr (s : State) (k : Nat) (x : Task) : (s.setTask k x).freeCtr = s.freeCtr := rfl
@[simp] theorem State.setTask_retired (s : State) (k : Nat) (x : Task) : (s.setTask k x).retired = s.retired := rfl
@[simp] theorem State.setTask_nextId (s : State) (k : Nat) (x : Task) : (s.setTask k x).nextId = s.nextId := rfl
@[simp] theorem State.setTask_cycle (s : State) (k : Nat) (x : Task) : (s.setTask k x).cycle = s.cycle := rfl
@[simp] theorem State.setTask_mem (s : State) (k : Nat) (x : Task) : (s.setTask k x).mem = s.mem := rfl
@[simp] theorem State.setTask_lines (s : State) (k : Nat) (x : Task) : (s.setTask k x).lines = s.lines := rfl
@[simp] theorem State.setTask_ctxs (s : State) (k : Nat) (x : Task) : (s.setTask k x).ctxs = s.ctxs := rfl
@[simp] theorem State.setTask_cores (s : State) (k : Nat) (x : Task) : (s.setTask k x).cores = s.cores := rfl
@[simp] theorem State.setTask_tiles (s : State) (k : Nat) (x : Task) : (s.setTask k x).tiles = s.tiles := rfl
@[simp] theorem State.setTask_clusters (s : State) (k : Nat) (x : Task) : (s.setTask k x).clusters = s.clusters := rfl
@[simp] theorem State.setTask_islands (s : State) (k : Nat) (x : Task) : (s.setTask k x).islands = s.islands := rfl
@[simp] theorem State.setTask_routers (s : State) (k : Nat) (x : Task) : (s.setTask k x).routers = s.routers := rfl
@[simp] theorem State.setTask_edges (s : State) (k : Nat) (x : Task) : (s.setTask k x).edges = s.edges := rfl
@[simp] theorem State.setTask_tasks (s : State) (k : Nat) (x : Task) : (s.setTask k x).tasks = mset s.tasks k x := rfl
@[simp] theorem State.setTask_blocks (s : State) (k : Nat) (x : Task) : (s.setTask k x).blocks = s.blocks := rfl
@[simp] theorem State.setTask_launches (s : State) (k : Nat) (x : Task) : (s.setTask k x).launches = s.launches := rfl
@[simp] theorem State.setTask_counters (s : State) (k : Nat) (x : Task) : (s.setTask k x).counters = s.counters := rfl
@[simp] theorem State.setTask_insts (s : State) (k : Nat) (x : Task) : (s.setTask k x).insts = s.insts := rfl
@[simp] theorem State.setTask_clearances (s : State) (k : Nat) (x : Task) : (s.setTask k x).clearances = s.clearances := rfl
@[simp] theorem State.setTask_tenants (s : State) (k : Nat) (x : Task) : (s.setTask k x).tenants = s.tenants := rfl
@[simp] theorem State.setTask_vfs (s : State) (k : Nat) (x : Task) : (s.setTask k x).vfs = s.vfs := rfl
@[simp] theorem State.setTask_packets (s : State) (k : Nat) (x : Task) : (s.setTask k x).packets = s.packets := rfl
@[simp] theorem State.setTask_invals (s : State) (k : Nat) (x : Task) : (s.setTask k x).invals = s.invals := rfl
@[simp] theorem State.setTask_wafer (s : State) (k : Nat) (x : Task) : (s.setTask k x).wafer = s.wafer := rfl
@[simp] theorem State.setTask_replies (s : State) (k : Nat) (x : Task) : (s.setTask k x).replies = s.replies := rfl

/-! ## setBlock -/

@[simp] theorem State.setBlock_cur (s : State) (h : Nat) (x : Block) : (s.setBlock h x).cur = s.cur := rfl
@[simp] theorem State.setBlock_due (s : State) (h : Nat) (x : Block) : (s.setBlock h x).due = s.due := rfl
@[simp] theorem State.setBlock_choices (s : State) (h : Nat) (x : Block) : (s.setBlock h x).choices = s.choices := rfl
@[simp] theorem State.setBlock_cycleLens (s : State) (h : Nat) (x : Block) : (s.setBlock h x).cycleLens = s.cycleLens := rfl
@[simp] theorem State.setBlock_upsets (s : State) (h : Nat) (x : Block) : (s.setBlock h x).upsets = s.upsets := rfl
@[simp] theorem State.setBlock_freeCtr (s : State) (h : Nat) (x : Block) : (s.setBlock h x).freeCtr = s.freeCtr := rfl
@[simp] theorem State.setBlock_retired (s : State) (h : Nat) (x : Block) : (s.setBlock h x).retired = s.retired := rfl
@[simp] theorem State.setBlock_nextId (s : State) (h : Nat) (x : Block) : (s.setBlock h x).nextId = s.nextId := rfl
@[simp] theorem State.setBlock_cycle (s : State) (h : Nat) (x : Block) : (s.setBlock h x).cycle = s.cycle := rfl
@[simp] theorem State.setBlock_mem (s : State) (h : Nat) (x : Block) : (s.setBlock h x).mem = s.mem := rfl
@[simp] theorem State.setBlock_lines (s : State) (h : Nat) (x : Block) : (s.setBlock h x).lines = s.lines := rfl
@[simp] theorem State.setBlock_ctxs (s : State) (h : Nat) (x : Block) : (s.setBlock h x).ctxs = s.ctxs := rfl
@[simp] theorem State.setBlock_cores (s : State) (h : Nat) (x : Block) : (s.setBlock h x).cores = s.cores := rfl
@[simp] theorem State.setBlock_tiles (s : State) (h : Nat) (x : Block) : (s.setBlock h x).tiles = s.tiles := rfl
@[simp] theorem State.setBlock_clusters (s : State) (h : Nat) (x : Block) : (s.setBlock h x).clusters = s.clusters := rfl
@[simp] theorem State.setBlock_islands (s : State) (h : Nat) (x : Block) : (s.setBlock h x).islands = s.islands := rfl
@[simp] theorem State.setBlock_routers (s : State) (h : Nat) (x : Block) : (s.setBlock h x).routers = s.routers := rfl
@[simp] theorem State.setBlock_edges (s : State) (h : Nat) (x : Block) : (s.setBlock h x).edges = s.edges := rfl
@[simp] theorem State.setBlock_tasks (s : State) (h : Nat) (x : Block) : (s.setBlock h x).tasks = s.tasks := rfl
@[simp] theorem State.setBlock_blocks (s : State) (h : Nat) (x : Block) : (s.setBlock h x).blocks = mset s.blocks h x := rfl
@[simp] theorem State.setBlock_launches (s : State) (h : Nat) (x : Block) : (s.setBlock h x).launches = s.launches := rfl
@[simp] theorem State.setBlock_counters (s : State) (h : Nat) (x : Block) : (s.setBlock h x).counters = s.counters := rfl
@[simp] theorem State.setBlock_insts (s : State) (h : Nat) (x : Block) : (s.setBlock h x).insts = s.insts := rfl
@[simp] theorem State.setBlock_clearances (s : State) (h : Nat) (x : Block) : (s.setBlock h x).clearances = s.clearances := rfl
@[simp] theorem State.setBlock_tenants (s : State) (h : Nat) (x : Block) : (s.setBlock h x).tenants = s.tenants := rfl
@[simp] theorem State.setBlock_vfs (s : State) (h : Nat) (x : Block) : (s.setBlock h x).vfs = s.vfs := rfl
@[simp] theorem State.setBlock_packets (s : State) (h : Nat) (x : Block) : (s.setBlock h x).packets = s.packets := rfl
@[simp] theorem State.setBlock_invals (s : State) (h : Nat) (x : Block) : (s.setBlock h x).invals = s.invals := rfl
@[simp] theorem State.setBlock_wafer (s : State) (h : Nat) (x : Block) : (s.setBlock h x).wafer = s.wafer := rfl
@[simp] theorem State.setBlock_replies (s : State) (h : Nat) (x : Block) : (s.setBlock h x).replies = s.replies := rfl

/-! ## setLaunch -/

@[simp] theorem State.setLaunch_cur (s : State) (l : Nat) (x : Launch) : (s.setLaunch l x).cur = s.cur := rfl
@[simp] theorem State.setLaunch_due (s : State) (l : Nat) (x : Launch) : (s.setLaunch l x).due = s.due := rfl
@[simp] theorem State.setLaunch_choices (s : State) (l : Nat) (x : Launch) : (s.setLaunch l x).choices = s.choices := rfl
@[simp] theorem State.setLaunch_cycleLens (s : State) (l : Nat) (x : Launch) : (s.setLaunch l x).cycleLens = s.cycleLens := rfl
@[simp] theorem State.setLaunch_upsets (s : State) (l : Nat) (x : Launch) : (s.setLaunch l x).upsets = s.upsets := rfl
@[simp] theorem State.setLaunch_freeCtr (s : State) (l : Nat) (x : Launch) : (s.setLaunch l x).freeCtr = s.freeCtr := rfl
@[simp] theorem State.setLaunch_retired (s : State) (l : Nat) (x : Launch) : (s.setLaunch l x).retired = s.retired := rfl
@[simp] theorem State.setLaunch_nextId (s : State) (l : Nat) (x : Launch) : (s.setLaunch l x).nextId = s.nextId := rfl
@[simp] theorem State.setLaunch_cycle (s : State) (l : Nat) (x : Launch) : (s.setLaunch l x).cycle = s.cycle := rfl
@[simp] theorem State.setLaunch_mem (s : State) (l : Nat) (x : Launch) : (s.setLaunch l x).mem = s.mem := rfl
@[simp] theorem State.setLaunch_lines (s : State) (l : Nat) (x : Launch) : (s.setLaunch l x).lines = s.lines := rfl
@[simp] theorem State.setLaunch_ctxs (s : State) (l : Nat) (x : Launch) : (s.setLaunch l x).ctxs = s.ctxs := rfl
@[simp] theorem State.setLaunch_cores (s : State) (l : Nat) (x : Launch) : (s.setLaunch l x).cores = s.cores := rfl
@[simp] theorem State.setLaunch_tiles (s : State) (l : Nat) (x : Launch) : (s.setLaunch l x).tiles = s.tiles := rfl
@[simp] theorem State.setLaunch_clusters (s : State) (l : Nat) (x : Launch) : (s.setLaunch l x).clusters = s.clusters := rfl
@[simp] theorem State.setLaunch_islands (s : State) (l : Nat) (x : Launch) : (s.setLaunch l x).islands = s.islands := rfl
@[simp] theorem State.setLaunch_routers (s : State) (l : Nat) (x : Launch) : (s.setLaunch l x).routers = s.routers := rfl
@[simp] theorem State.setLaunch_edges (s : State) (l : Nat) (x : Launch) : (s.setLaunch l x).edges = s.edges := rfl
@[simp] theorem State.setLaunch_tasks (s : State) (l : Nat) (x : Launch) : (s.setLaunch l x).tasks = s.tasks := rfl
@[simp] theorem State.setLaunch_blocks (s : State) (l : Nat) (x : Launch) : (s.setLaunch l x).blocks = s.blocks := rfl
@[simp] theorem State.setLaunch_launches (s : State) (l : Nat) (x : Launch) : (s.setLaunch l x).launches = mset s.launches l x := rfl
@[simp] theorem State.setLaunch_counters (s : State) (l : Nat) (x : Launch) : (s.setLaunch l x).counters = s.counters := rfl
@[simp] theorem State.setLaunch_insts (s : State) (l : Nat) (x : Launch) : (s.setLaunch l x).insts = s.insts := rfl
@[simp] theorem State.setLaunch_clearances (s : State) (l : Nat) (x : Launch) : (s.setLaunch l x).clearances = s.clearances := rfl
@[simp] theorem State.setLaunch_tenants (s : State) (l : Nat) (x : Launch) : (s.setLaunch l x).tenants = s.tenants := rfl
@[simp] theorem State.setLaunch_vfs (s : State) (l : Nat) (x : Launch) : (s.setLaunch l x).vfs = s.vfs := rfl
@[simp] theorem State.setLaunch_packets (s : State) (l : Nat) (x : Launch) : (s.setLaunch l x).packets = s.packets := rfl
@[simp] theorem State.setLaunch_invals (s : State) (l : Nat) (x : Launch) : (s.setLaunch l x).invals = s.invals := rfl
@[simp] theorem State.setLaunch_wafer (s : State) (l : Nat) (x : Launch) : (s.setLaunch l x).wafer = s.wafer := rfl
@[simp] theorem State.setLaunch_replies (s : State) (l : Nat) (x : Launch) : (s.setLaunch l x).replies = s.replies := rfl

/-! ## setTenant -/

@[simp] theorem State.setTenant_cur (s : State) (t : Nat) (x : Tenant) : (s.setTenant t x).cur = s.cur := rfl
@[simp] theorem State.setTenant_due (s : State) (t : Nat) (x : Tenant) : (s.setTenant t x).due = s.due := rfl
@[simp] theorem State.setTenant_choices (s : State) (t : Nat) (x : Tenant) : (s.setTenant t x).choices = s.choices := rfl
@[simp] theorem State.setTenant_cycleLens (s : State) (t : Nat) (x : Tenant) : (s.setTenant t x).cycleLens = s.cycleLens := rfl
@[simp] theorem State.setTenant_upsets (s : State) (t : Nat) (x : Tenant) : (s.setTenant t x).upsets = s.upsets := rfl
@[simp] theorem State.setTenant_freeCtr (s : State) (t : Nat) (x : Tenant) : (s.setTenant t x).freeCtr = s.freeCtr := rfl
@[simp] theorem State.setTenant_retired (s : State) (t : Nat) (x : Tenant) : (s.setTenant t x).retired = s.retired := rfl
@[simp] theorem State.setTenant_nextId (s : State) (t : Nat) (x : Tenant) : (s.setTenant t x).nextId = s.nextId := rfl
@[simp] theorem State.setTenant_cycle (s : State) (t : Nat) (x : Tenant) : (s.setTenant t x).cycle = s.cycle := rfl
@[simp] theorem State.setTenant_mem (s : State) (t : Nat) (x : Tenant) : (s.setTenant t x).mem = s.mem := rfl
@[simp] theorem State.setTenant_lines (s : State) (t : Nat) (x : Tenant) : (s.setTenant t x).lines = s.lines := rfl
@[simp] theorem State.setTenant_ctxs (s : State) (t : Nat) (x : Tenant) : (s.setTenant t x).ctxs = s.ctxs := rfl
@[simp] theorem State.setTenant_cores (s : State) (t : Nat) (x : Tenant) : (s.setTenant t x).cores = s.cores := rfl
@[simp] theorem State.setTenant_tiles (s : State) (t : Nat) (x : Tenant) : (s.setTenant t x).tiles = s.tiles := rfl
@[simp] theorem State.setTenant_clusters (s : State) (t : Nat) (x : Tenant) : (s.setTenant t x).clusters = s.clusters := rfl
@[simp] theorem State.setTenant_islands (s : State) (t : Nat) (x : Tenant) : (s.setTenant t x).islands = s.islands := rfl
@[simp] theorem State.setTenant_routers (s : State) (t : Nat) (x : Tenant) : (s.setTenant t x).routers = s.routers := rfl
@[simp] theorem State.setTenant_edges (s : State) (t : Nat) (x : Tenant) : (s.setTenant t x).edges = s.edges := rfl
@[simp] theorem State.setTenant_tasks (s : State) (t : Nat) (x : Tenant) : (s.setTenant t x).tasks = s.tasks := rfl
@[simp] theorem State.setTenant_blocks (s : State) (t : Nat) (x : Tenant) : (s.setTenant t x).blocks = s.blocks := rfl
@[simp] theorem State.setTenant_launches (s : State) (t : Nat) (x : Tenant) : (s.setTenant t x).launches = s.launches := rfl
@[simp] theorem State.setTenant_counters (s : State) (t : Nat) (x : Tenant) : (s.setTenant t x).counters = s.counters := rfl
@[simp] theorem State.setTenant_insts (s : State) (t : Nat) (x : Tenant) : (s.setTenant t x).insts = s.insts := rfl
@[simp] theorem State.setTenant_clearances (s : State) (t : Nat) (x : Tenant) : (s.setTenant t x).clearances = s.clearances := rfl
@[simp] theorem State.setTenant_tenants (s : State) (t : Nat) (x : Tenant) : (s.setTenant t x).tenants = mset s.tenants t x := rfl
@[simp] theorem State.setTenant_vfs (s : State) (t : Nat) (x : Tenant) : (s.setTenant t x).vfs = s.vfs := rfl
@[simp] theorem State.setTenant_packets (s : State) (t : Nat) (x : Tenant) : (s.setTenant t x).packets = s.packets := rfl
@[simp] theorem State.setTenant_invals (s : State) (t : Nat) (x : Tenant) : (s.setTenant t x).invals = s.invals := rfl
@[simp] theorem State.setTenant_wafer (s : State) (t : Nat) (x : Tenant) : (s.setTenant t x).wafer = s.wafer := rfl
@[simp] theorem State.setTenant_replies (s : State) (t : Nat) (x : Tenant) : (s.setTenant t x).replies = s.replies := rfl

/-! ## addDue -/

@[simp] theorem State.addDue_cur (s : State) (i : Instr) : (s.addDue i).cur = s.cur := rfl
@[simp] theorem State.addDue_due (s : State) (i : Instr) : (s.addDue i).due = s.due ++ [i] := rfl
@[simp] theorem State.addDue_choices (s : State) (i : Instr) : (s.addDue i).choices = s.choices := rfl
@[simp] theorem State.addDue_cycleLens (s : State) (i : Instr) : (s.addDue i).cycleLens = s.cycleLens := rfl
@[simp] theorem State.addDue_upsets (s : State) (i : Instr) : (s.addDue i).upsets = s.upsets := rfl
@[simp] theorem State.addDue_freeCtr (s : State) (i : Instr) : (s.addDue i).freeCtr = s.freeCtr := rfl
@[simp] theorem State.addDue_retired (s : State) (i : Instr) : (s.addDue i).retired = s.retired := rfl
@[simp] theorem State.addDue_nextId (s : State) (i : Instr) : (s.addDue i).nextId = s.nextId := rfl
@[simp] theorem State.addDue_cycle (s : State) (i : Instr) : (s.addDue i).cycle = s.cycle := rfl
@[simp] theorem State.addDue_mem (s : State) (i : Instr) : (s.addDue i).mem = s.mem := rfl
@[simp] theorem State.addDue_lines (s : State) (i : Instr) : (s.addDue i).lines = s.lines := rfl
@[simp] theorem State.addDue_ctxs (s : State) (i : Instr) : (s.addDue i).ctxs = s.ctxs := rfl
@[simp] theorem State.addDue_cores (s : State) (i : Instr) : (s.addDue i).cores = s.cores := rfl
@[simp] theorem State.addDue_tiles (s : State) (i : Instr) : (s.addDue i).tiles = s.tiles := rfl
@[simp] theorem State.addDue_clusters (s : State) (i : Instr) : (s.addDue i).clusters = s.clusters := rfl
@[simp] theorem State.addDue_islands (s : State) (i : Instr) : (s.addDue i).islands = s.islands := rfl
@[simp] theorem State.addDue_routers (s : State) (i : Instr) : (s.addDue i).routers = s.routers := rfl
@[simp] theorem State.addDue_edges (s : State) (i : Instr) : (s.addDue i).edges = s.edges := rfl
@[simp] theorem State.addDue_tasks (s : State) (i : Instr) : (s.addDue i).tasks = s.tasks := rfl
@[simp] theorem State.addDue_blocks (s : State) (i : Instr) : (s.addDue i).blocks = s.blocks := rfl
@[simp] theorem State.addDue_launches (s : State) (i : Instr) : (s.addDue i).launches = s.launches := rfl
@[simp] theorem State.addDue_counters (s : State) (i : Instr) : (s.addDue i).counters = s.counters := rfl
@[simp] theorem State.addDue_insts (s : State) (i : Instr) : (s.addDue i).insts = s.insts := rfl
@[simp] theorem State.addDue_clearances (s : State) (i : Instr) : (s.addDue i).clearances = s.clearances := rfl
@[simp] theorem State.addDue_tenants (s : State) (i : Instr) : (s.addDue i).tenants = s.tenants := rfl
@[simp] theorem State.addDue_vfs (s : State) (i : Instr) : (s.addDue i).vfs = s.vfs := rfl
@[simp] theorem State.addDue_packets (s : State) (i : Instr) : (s.addDue i).packets = s.packets := rfl
@[simp] theorem State.addDue_invals (s : State) (i : Instr) : (s.addDue i).invals = s.invals := rfl
@[simp] theorem State.addDue_wafer (s : State) (i : Instr) : (s.addDue i).wafer = s.wafer := rfl
@[simp] theorem State.addDue_replies (s : State) (i : Instr) : (s.addDue i).replies = s.replies := rfl

/-! ## dropDue -/

@[simp] theorem State.dropDue_cur (s : State) (i : Instr) : (s.dropDue i).cur = s.cur := rfl
@[simp] theorem State.dropDue_due (s : State) (i : Instr) : (s.dropDue i).due = s.due.erase i := rfl
@[simp] theorem State.dropDue_choices (s : State) (i : Instr) : (s.dropDue i).choices = s.choices := rfl
@[simp] theorem State.dropDue_cycleLens (s : State) (i : Instr) : (s.dropDue i).cycleLens = s.cycleLens := rfl
@[simp] theorem State.dropDue_upsets (s : State) (i : Instr) : (s.dropDue i).upsets = s.upsets := rfl
@[simp] theorem State.dropDue_freeCtr (s : State) (i : Instr) : (s.dropDue i).freeCtr = s.freeCtr := rfl
@[simp] theorem State.dropDue_retired (s : State) (i : Instr) : (s.dropDue i).retired = s.retired := rfl
@[simp] theorem State.dropDue_nextId (s : State) (i : Instr) : (s.dropDue i).nextId = s.nextId := rfl
@[simp] theorem State.dropDue_cycle (s : State) (i : Instr) : (s.dropDue i).cycle = s.cycle := rfl
@[simp] theorem State.dropDue_mem (s : State) (i : Instr) : (s.dropDue i).mem = s.mem := rfl
@[simp] theorem State.dropDue_lines (s : State) (i : Instr) : (s.dropDue i).lines = s.lines := rfl
@[simp] theorem State.dropDue_ctxs (s : State) (i : Instr) : (s.dropDue i).ctxs = s.ctxs := rfl
@[simp] theorem State.dropDue_cores (s : State) (i : Instr) : (s.dropDue i).cores = s.cores := rfl
@[simp] theorem State.dropDue_tiles (s : State) (i : Instr) : (s.dropDue i).tiles = s.tiles := rfl
@[simp] theorem State.dropDue_clusters (s : State) (i : Instr) : (s.dropDue i).clusters = s.clusters := rfl
@[simp] theorem State.dropDue_islands (s : State) (i : Instr) : (s.dropDue i).islands = s.islands := rfl
@[simp] theorem State.dropDue_routers (s : State) (i : Instr) : (s.dropDue i).routers = s.routers := rfl
@[simp] theorem State.dropDue_edges (s : State) (i : Instr) : (s.dropDue i).edges = s.edges := rfl
@[simp] theorem State.dropDue_tasks (s : State) (i : Instr) : (s.dropDue i).tasks = s.tasks := rfl
@[simp] theorem State.dropDue_blocks (s : State) (i : Instr) : (s.dropDue i).blocks = s.blocks := rfl
@[simp] theorem State.dropDue_launches (s : State) (i : Instr) : (s.dropDue i).launches = s.launches := rfl
@[simp] theorem State.dropDue_counters (s : State) (i : Instr) : (s.dropDue i).counters = s.counters := rfl
@[simp] theorem State.dropDue_insts (s : State) (i : Instr) : (s.dropDue i).insts = s.insts := rfl
@[simp] theorem State.dropDue_clearances (s : State) (i : Instr) : (s.dropDue i).clearances = s.clearances := rfl
@[simp] theorem State.dropDue_tenants (s : State) (i : Instr) : (s.dropDue i).tenants = s.tenants := rfl
@[simp] theorem State.dropDue_vfs (s : State) (i : Instr) : (s.dropDue i).vfs = s.vfs := rfl
@[simp] theorem State.dropDue_packets (s : State) (i : Instr) : (s.dropDue i).packets = s.packets := rfl
@[simp] theorem State.dropDue_invals (s : State) (i : Instr) : (s.dropDue i).invals = s.invals := rfl
@[simp] theorem State.dropDue_wafer (s : State) (i : Instr) : (s.dropDue i).wafer = s.wafer := rfl
@[simp] theorem State.dropDue_replies (s : State) (i : Instr) : (s.dropDue i).replies = s.replies := rfl

/-! ## addDueOnce -/

@[simp] theorem State.addDueOnce_cur (s : State) (i : Instr) : (s.addDueOnce i).cur = s.cur := by
  unfold State.addDueOnce; split <;> rfl
@[simp] theorem State.addDueOnce_choices (s : State) (i : Instr) : (s.addDueOnce i).choices = s.choices := by
  unfold State.addDueOnce; split <;> rfl
@[simp] theorem State.addDueOnce_cycleLens (s : State) (i : Instr) : (s.addDueOnce i).cycleLens = s.cycleLens := by
  unfold State.addDueOnce; split <;> rfl
@[simp] theorem State.addDueOnce_upsets (s : State) (i : Instr) : (s.addDueOnce i).upsets = s.upsets := by
  unfold State.addDueOnce; split <;> rfl
@[simp] theorem State.addDueOnce_freeCtr (s : State) (i : Instr) : (s.addDueOnce i).freeCtr = s.freeCtr := by
  unfold State.addDueOnce; split <;> rfl
@[simp] theorem State.addDueOnce_retired (s : State) (i : Instr) : (s.addDueOnce i).retired = s.retired := by
  unfold State.addDueOnce; split <;> rfl
@[simp] theorem State.addDueOnce_nextId (s : State) (i : Instr) : (s.addDueOnce i).nextId = s.nextId := by
  unfold State.addDueOnce; split <;> rfl
@[simp] theorem State.addDueOnce_cycle (s : State) (i : Instr) : (s.addDueOnce i).cycle = s.cycle := by
  unfold State.addDueOnce; split <;> rfl
@[simp] theorem State.addDueOnce_mem (s : State) (i : Instr) : (s.addDueOnce i).mem = s.mem := by
  unfold State.addDueOnce; split <;> rfl
@[simp] theorem State.addDueOnce_lines (s : State) (i : Instr) : (s.addDueOnce i).lines = s.lines := by
  unfold State.addDueOnce; split <;> rfl
@[simp] theorem State.addDueOnce_ctxs (s : State) (i : Instr) : (s.addDueOnce i).ctxs = s.ctxs := by
  unfold State.addDueOnce; split <;> rfl
@[simp] theorem State.addDueOnce_cores (s : State) (i : Instr) : (s.addDueOnce i).cores = s.cores := by
  unfold State.addDueOnce; split <;> rfl
@[simp] theorem State.addDueOnce_tiles (s : State) (i : Instr) : (s.addDueOnce i).tiles = s.tiles := by
  unfold State.addDueOnce; split <;> rfl
@[simp] theorem State.addDueOnce_clusters (s : State) (i : Instr) : (s.addDueOnce i).clusters = s.clusters := by
  unfold State.addDueOnce; split <;> rfl
@[simp] theorem State.addDueOnce_islands (s : State) (i : Instr) : (s.addDueOnce i).islands = s.islands := by
  unfold State.addDueOnce; split <;> rfl
@[simp] theorem State.addDueOnce_routers (s : State) (i : Instr) : (s.addDueOnce i).routers = s.routers := by
  unfold State.addDueOnce; split <;> rfl
@[simp] theorem State.addDueOnce_edges (s : State) (i : Instr) : (s.addDueOnce i).edges = s.edges := by
  unfold State.addDueOnce; split <;> rfl
@[simp] theorem State.addDueOnce_tasks (s : State) (i : Instr) : (s.addDueOnce i).tasks = s.tasks := by
  unfold State.addDueOnce; split <;> rfl
@[simp] theorem State.addDueOnce_blocks (s : State) (i : Instr) : (s.addDueOnce i).blocks = s.blocks := by
  unfold State.addDueOnce; split <;> rfl
@[simp] theorem State.addDueOnce_launches (s : State) (i : Instr) : (s.addDueOnce i).launches = s.launches := by
  unfold State.addDueOnce; split <;> rfl
@[simp] theorem State.addDueOnce_counters (s : State) (i : Instr) : (s.addDueOnce i).counters = s.counters := by
  unfold State.addDueOnce; split <;> rfl
@[simp] theorem State.addDueOnce_insts (s : State) (i : Instr) : (s.addDueOnce i).insts = s.insts := by
  unfold State.addDueOnce; split <;> rfl
@[simp] theorem State.addDueOnce_clearances (s : State) (i : Instr) : (s.addDueOnce i).clearances = s.clearances := by
  unfold State.addDueOnce; split <;> rfl
@[simp] theorem State.addDueOnce_tenants (s : State) (i : Instr) : (s.addDueOnce i).tenants = s.tenants := by
  unfold State.addDueOnce; split <;> rfl
@[simp] theorem State.addDueOnce_vfs (s : State) (i : Instr) : (s.addDueOnce i).vfs = s.vfs := by
  unfold State.addDueOnce; split <;> rfl
@[simp] theorem State.addDueOnce_packets (s : State) (i : Instr) : (s.addDueOnce i).packets = s.packets := by
  unfold State.addDueOnce; split <;> rfl
@[simp] theorem State.addDueOnce_invals (s : State) (i : Instr) : (s.addDueOnce i).invals = s.invals := by
  unfold State.addDueOnce; split <;> rfl
@[simp] theorem State.addDueOnce_wafer (s : State) (i : Instr) : (s.addDueOnce i).wafer = s.wafer := by
  unfold State.addDueOnce; split <;> rfl
@[simp] theorem State.addDueOnce_replies (s : State) (i : Instr) : (s.addDueOnce i).replies = s.replies := by
  unfold State.addDueOnce; split <;> rfl
/-- An engine step made due once is due. -/
theorem State.mem_addDueOnce (s : State) (i : Instr) : i ∈ (s.addDueOnce i).due := by
  unfold State.addDueOnce; split
  · assumption
  · simp

/-! ## Sparse parts: a part written reads as written, the others as before -/

theorem mget?_mset_same {κ α : Type} [DecidableEq κ] (m : Map κ α) (k : κ) (v : α) : mget? (mset m k v) k = some v := by
  induction m with
  | nil => simp [mset, mget?]
  | cons p r ih => by_cases h : p.1 = k <;> simp [mset, mget?, h, ih]

theorem mget?_mset_other {κ α : Type} [DecidableEq κ] (m : Map κ α) {k j : κ} (v : α) (h : j ≠ k) : mget? (mset m k v) j = mget? m j := by
  induction m with
  | nil => simp [mset, mget?, Ne.symm h]
  | cons p r ih =>
    by_cases hp : p.1 = k
    · subst hp; simp [mset, mget?, Ne.symm h]
    · by_cases hj : p.1 = j
      · subst hj; simp [mset, mget?, hp]
      · simp [mset, mget?, hp, hj, ih]

@[simp] theorem State.ctx_setCtx_same (s : State) (t c : Nat) (x : Ctx) : (s.setCtx t c x).ctx t c = x := by
  simp [State.ctx, State.setCtx, mget, mget?_mset_same]
theorem State.ctx_setCtx_other (s : State) (t c t' c' : Nat) (x : Ctx) (h : (t', c') ≠ (t, c)) : (s.setCtx t c x).ctx t' c' = s.ctx t' c' := by
  simp [State.ctx, State.setCtx, mget, mget?_mset_other _ _ h]
@[simp] theorem State.core_setCore_same (s : State) (i k : Nat) (x : Core) : (s.setCore i k x).core i k = x := by
  simp [State.core, State.setCore, mget, mget?_mset_same]
theorem State.core_setCore_other (s : State) (i k i' k' : Nat) (x : Core) (h : (i', k') ≠ (i, k)) : (s.setCore i k x).core i' k' = s.core i' k' := by
  simp [State.core, State.setCore, mget, mget?_mset_other _ _ h]
@[simp] theorem State.tile_setTile_same (s : State) (n : Nat) (x : Tile) : (s.setTile n x).tile n = x := by
  simp [State.tile, State.setTile, mget, mget?_mset_same]
theorem State.tile_setTile_other (s : State) (n m : Nat) (x : Tile) (h : m ≠ n) : (s.setTile n x).tile m = s.tile m := by
  simp [State.tile, State.setTile, mget, mget?_mset_other _ _ h]
@[simp] theorem State.cluster_setCluster_same (s : State) (n : Nat) (x : Cluster) : (s.setCluster n x).cluster n = x := by
  simp [State.cluster, State.setCluster, mget, mget?_mset_same]
theorem State.cluster_setCluster_other (s : State) (n m : Nat) (x : Cluster) (h : m ≠ n) : (s.setCluster n x).cluster m = s.cluster m := by
  simp [State.cluster, State.setCluster, mget, mget?_mset_other _ _ h]
@[simp] theorem State.island_setIsland_same (s : State) (n : Nat) (x : Island) : (s.setIsland n x).island n = x := by
  simp [State.island, State.setIsland, mget, mget?_mset_same]
theorem State.island_setIsland_other (s : State) (n m : Nat) (x : Island) (h : m ≠ n) : (s.setIsland n x).island m = s.island m := by
  simp [State.island, State.setIsland, mget, mget?_mset_other _ _ h]
@[simp] theorem State.router_setRouter_same (s : State) (n : Nat) (x : Router) : (s.setRouter n x).router n = x := by
  simp [State.router, State.setRouter, mget, mget?_mset_same]
theorem State.router_setRouter_other (s : State) (n m : Nat) (x : Router) (h : m ≠ n) : (s.setRouter n x).router m = s.router m := by
  simp [State.router, State.setRouter, mget, mget?_mset_other _ _ h]
@[simp] theorem State.edge_setEdge_same (s : State) (n : Nat) (x : Edge) : (s.setEdge n x).edge n = x := by
  simp [State.edge, State.setEdge, mget, mget?_mset_same]
theorem State.edge_setEdge_other (s : State) (n m : Nat) (x : Edge) (h : m ≠ n) : (s.setEdge n x).edge m = s.edge m := by
  simp [State.edge, State.setEdge, mget, mget?_mset_other _ _ h]
@[simp] theorem State.tenant_setTenant_same (s : State) (n : Nat) (x : Tenant) : (s.setTenant n x).tenant n = x := by
  simp [State.tenant, State.setTenant, mget, mget?_mset_same]
theorem State.tenant_setTenant_other (s : State) (n m : Nat) (x : Tenant) (h : m ≠ n) : (s.setTenant n x).tenant m = s.tenant m := by
  simp [State.tenant, State.setTenant, mget, mget?_mset_other _ _ h]
@[simp] theorem State.task_setTask_same (s : State) (n : Nat) (x : Task) : (s.setTask n x).task? n = some x := by
  simp [State.task?, State.setTask, mget?_mset_same]
theorem State.task_setTask_other (s : State) (n m : Nat) (x : Task) (h : m ≠ n) : (s.setTask n x).task? m = s.task? m := by
  simp [State.task?, State.setTask, mget?_mset_other _ _ h]
@[simp] theorem State.block_setBlock_same (s : State) (n : Nat) (x : Block) : (s.setBlock n x).block? n = some x := by
  simp [State.block?, State.setBlock, mget?_mset_same]
theorem State.block_setBlock_other (s : State) (n m : Nat) (x : Block) (h : m ≠ n) : (s.setBlock n x).block? m = s.block? m := by
  simp [State.block?, State.setBlock, mget?_mset_other _ _ h]
@[simp] theorem State.launch_setLaunch_same (s : State) (n : Nat) (x : Launch) : (s.setLaunch n x).launch? n = some x := by
  simp [State.launch?, State.setLaunch, mget?_mset_same]
theorem State.launch_setLaunch_other (s : State) (n m : Nat) (x : Launch) (h : m ≠ n) : (s.setLaunch n x).launch? m = s.launch? m := by
  simp [State.launch?, State.setLaunch, mget?_mset_other _ _ h]

/-! ## Parts that another part's update leaves -/

@[simp] theorem State.ctx_setCore (s : State) (i₁ k₁ : Nat) (x : Core) (t c : Nat) : (s.setCore i₁ k₁ x).ctx t c = s.ctx t c := rfl
@[simp] theorem State.ctx_setTile (s : State) (t₁ : Nat) (x : Tile) (t c : Nat) : (s.setTile t₁ x).ctx t c = s.ctx t c := rfl
@[simp] theorem State.ctx_setCluster (s : State) (n₁ : Nat) (x : Cluster) (t c : Nat) : (s.setCluster n₁ x).ctx t c = s.ctx t c := rfl
@[simp] theorem State.ctx_setIsland (s : State) (i₁ : Nat) (x : Island) (t c : Nat) : (s.setIsland i₁ x).ctx t c = s.ctx t c := rfl
@[simp] theorem State.ctx_setRouter (s : State) (t₁ : Nat) (x : Router) (t c : Nat) : (s.setRouter t₁ x).ctx t c = s.ctx t c := rfl
@[simp] theorem State.ctx_setEdge (s : State) (e₁ : Nat) (x : Edge) (t c : Nat) : (s.setEdge e₁ x).ctx t c = s.ctx t c := rfl
@[simp] theorem State.ctx_setTask (s : State) (k₁ : Nat) (x : Task) (t c : Nat) : (s.setTask k₁ x).ctx t c = s.ctx t c := rfl
@[simp] theorem State.ctx_setBlock (s : State) (h₁ : Nat) (x : Block) (t c : Nat) : (s.setBlock h₁ x).ctx t c = s.ctx t c := rfl
@[simp] theorem State.ctx_setLaunch (s : State) (l₁ : Nat) (x : Launch) (t c : Nat) : (s.setLaunch l₁ x).ctx t c = s.ctx t c := rfl
@[simp] theorem State.ctx_setTenant (s : State) (t₁ : Nat) (x : Tenant) (t c : Nat) : (s.setTenant t₁ x).ctx t c = s.ctx t c := rfl
@[simp] theorem State.ctx_addDue (s : State) (j : Instr) (t c : Nat) : (s.addDue j).ctx t c = s.ctx t c := rfl
@[simp] theorem State.ctx_dropDue (s : State) (j : Instr) (t c : Nat) : (s.dropDue j).ctx t c = s.ctx t c := rfl
@[simp] theorem State.ctx_addDueOnce (s : State) (j : Instr) (t c : Nat) : (s.addDueOnce j).ctx t c = s.ctx t c := by
  simp [State.ctx]
@[simp] theorem State.core_setCtx (s : State) (t₁ c₁ : Nat) (x : Ctx) (i k : Nat) : (s.setCtx t₁ c₁ x).core i k = s.core i k := rfl
@[simp] theorem State.core_setTile (s : State) (t₁ : Nat) (x : Tile) (i k : Nat) : (s.setTile t₁ x).core i k = s.core i k := rfl
@[simp] theorem State.core_setCluster (s : State) (n₁ : Nat) (x : Cluster) (i k : Nat) : (s.setCluster n₁ x).core i k = s.core i k := rfl
@[simp] theorem State.core_setIsland (s : State) (i₁ : Nat) (x : Island) (i k : Nat) : (s.setIsland i₁ x).core i k = s.core i k := rfl
@[simp] theorem State.core_setRouter (s : State) (t₁ : Nat) (x : Router) (i k : Nat) : (s.setRouter t₁ x).core i k = s.core i k := rfl
@[simp] theorem State.core_setEdge (s : State) (e₁ : Nat) (x : Edge) (i k : Nat) : (s.setEdge e₁ x).core i k = s.core i k := rfl
@[simp] theorem State.core_setTask (s : State) (k₁ : Nat) (x : Task) (i k : Nat) : (s.setTask k₁ x).core i k = s.core i k := rfl
@[simp] theorem State.core_setBlock (s : State) (h₁ : Nat) (x : Block) (i k : Nat) : (s.setBlock h₁ x).core i k = s.core i k := rfl
@[simp] theorem State.core_setLaunch (s : State) (l₁ : Nat) (x : Launch) (i k : Nat) : (s.setLaunch l₁ x).core i k = s.core i k := rfl
@[simp] theorem State.core_setTenant (s : State) (t₁ : Nat) (x : Tenant) (i k : Nat) : (s.setTenant t₁ x).core i k = s.core i k := rfl
@[simp] theorem State.core_addDue (s : State) (j : Instr) (i k : Nat) : (s.addDue j).core i k = s.core i k := rfl
@[simp] theorem State.core_dropDue (s : State) (j : Instr) (i k : Nat) : (s.dropDue j).core i k = s.core i k := rfl
@[simp] theorem State.core_addDueOnce (s : State) (j : Instr) (i k : Nat) : (s.addDueOnce j).core i k = s.core i k := by
  simp [State.core]
@[simp] theorem State.tile_setCtx (s : State) (t₁ c₁ : Nat) (x : Ctx) (t : Nat) : (s.setCtx t₁ c₁ x).tile t = s.tile t := rfl
@[simp] theorem State.tile_setCore (s : State) (i₁ k₁ : Nat) (x : Core) (t : Nat) : (s.setCore i₁ k₁ x).tile t = s.tile t := rfl
@[simp] theorem State.tile_setCluster (s : State) (n₁ : Nat) (x : Cluster) (t : Nat) : (s.setCluster n₁ x).tile t = s.tile t := rfl
@[simp] theorem State.tile_setIsland (s : State) (i₁ : Nat) (x : Island) (t : Nat) : (s.setIsland i₁ x).tile t = s.tile t := rfl
@[simp] theorem State.tile_setRouter (s : State) (t₁ : Nat) (x : Router) (t : Nat) : (s.setRouter t₁ x).tile t = s.tile t := rfl
@[simp] theorem State.tile_setEdge (s : State) (e₁ : Nat) (x : Edge) (t : Nat) : (s.setEdge e₁ x).tile t = s.tile t := rfl
@[simp] theorem State.tile_setTask (s : State) (k₁ : Nat) (x : Task) (t : Nat) : (s.setTask k₁ x).tile t = s.tile t := rfl
@[simp] theorem State.tile_setBlock (s : State) (h₁ : Nat) (x : Block) (t : Nat) : (s.setBlock h₁ x).tile t = s.tile t := rfl
@[simp] theorem State.tile_setLaunch (s : State) (l₁ : Nat) (x : Launch) (t : Nat) : (s.setLaunch l₁ x).tile t = s.tile t := rfl
@[simp] theorem State.tile_setTenant (s : State) (t₁ : Nat) (x : Tenant) (t : Nat) : (s.setTenant t₁ x).tile t = s.tile t := rfl
@[simp] theorem State.tile_addDue (s : State) (j : Instr) (t : Nat) : (s.addDue j).tile t = s.tile t := rfl
@[simp] theorem State.tile_dropDue (s : State) (j : Instr) (t : Nat) : (s.dropDue j).tile t = s.tile t := rfl
@[simp] theorem State.tile_addDueOnce (s : State) (j : Instr) (t : Nat) : (s.addDueOnce j).tile t = s.tile t := by
  simp [State.tile]
@[simp] theorem State.cluster_setCtx (s : State) (t₁ c₁ : Nat) (x : Ctx) (n : Nat) : (s.setCtx t₁ c₁ x).cluster n = s.cluster n := rfl
@[simp] theorem State.cluster_setCore (s : State) (i₁ k₁ : Nat) (x : Core) (n : Nat) : (s.setCore i₁ k₁ x).cluster n = s.cluster n := rfl
@[simp] theorem State.cluster_setTile (s : State) (t₁ : Nat) (x : Tile) (n : Nat) : (s.setTile t₁ x).cluster n = s.cluster n := rfl
@[simp] theorem State.cluster_setIsland (s : State) (i₁ : Nat) (x : Island) (n : Nat) : (s.setIsland i₁ x).cluster n = s.cluster n := rfl
@[simp] theorem State.cluster_setRouter (s : State) (t₁ : Nat) (x : Router) (n : Nat) : (s.setRouter t₁ x).cluster n = s.cluster n := rfl
@[simp] theorem State.cluster_setEdge (s : State) (e₁ : Nat) (x : Edge) (n : Nat) : (s.setEdge e₁ x).cluster n = s.cluster n := rfl
@[simp] theorem State.cluster_setTask (s : State) (k₁ : Nat) (x : Task) (n : Nat) : (s.setTask k₁ x).cluster n = s.cluster n := rfl
@[simp] theorem State.cluster_setBlock (s : State) (h₁ : Nat) (x : Block) (n : Nat) : (s.setBlock h₁ x).cluster n = s.cluster n := rfl
@[simp] theorem State.cluster_setLaunch (s : State) (l₁ : Nat) (x : Launch) (n : Nat) : (s.setLaunch l₁ x).cluster n = s.cluster n := rfl
@[simp] theorem State.cluster_setTenant (s : State) (t₁ : Nat) (x : Tenant) (n : Nat) : (s.setTenant t₁ x).cluster n = s.cluster n := rfl
@[simp] theorem State.cluster_addDue (s : State) (j : Instr) (n : Nat) : (s.addDue j).cluster n = s.cluster n := rfl
@[simp] theorem State.cluster_dropDue (s : State) (j : Instr) (n : Nat) : (s.dropDue j).cluster n = s.cluster n := rfl
@[simp] theorem State.cluster_addDueOnce (s : State) (j : Instr) (n : Nat) : (s.addDueOnce j).cluster n = s.cluster n := by
  simp [State.cluster]
@[simp] theorem State.island_setCtx (s : State) (t₁ c₁ : Nat) (x : Ctx) (i : Nat) : (s.setCtx t₁ c₁ x).island i = s.island i := rfl
@[simp] theorem State.island_setCore (s : State) (i₁ k₁ : Nat) (x : Core) (i : Nat) : (s.setCore i₁ k₁ x).island i = s.island i := rfl
@[simp] theorem State.island_setTile (s : State) (t₁ : Nat) (x : Tile) (i : Nat) : (s.setTile t₁ x).island i = s.island i := rfl
@[simp] theorem State.island_setCluster (s : State) (n₁ : Nat) (x : Cluster) (i : Nat) : (s.setCluster n₁ x).island i = s.island i := rfl
@[simp] theorem State.island_setRouter (s : State) (t₁ : Nat) (x : Router) (i : Nat) : (s.setRouter t₁ x).island i = s.island i := rfl
@[simp] theorem State.island_setEdge (s : State) (e₁ : Nat) (x : Edge) (i : Nat) : (s.setEdge e₁ x).island i = s.island i := rfl
@[simp] theorem State.island_setTask (s : State) (k₁ : Nat) (x : Task) (i : Nat) : (s.setTask k₁ x).island i = s.island i := rfl
@[simp] theorem State.island_setBlock (s : State) (h₁ : Nat) (x : Block) (i : Nat) : (s.setBlock h₁ x).island i = s.island i := rfl
@[simp] theorem State.island_setLaunch (s : State) (l₁ : Nat) (x : Launch) (i : Nat) : (s.setLaunch l₁ x).island i = s.island i := rfl
@[simp] theorem State.island_setTenant (s : State) (t₁ : Nat) (x : Tenant) (i : Nat) : (s.setTenant t₁ x).island i = s.island i := rfl
@[simp] theorem State.island_addDue (s : State) (j : Instr) (i : Nat) : (s.addDue j).island i = s.island i := rfl
@[simp] theorem State.island_dropDue (s : State) (j : Instr) (i : Nat) : (s.dropDue j).island i = s.island i := rfl
@[simp] theorem State.island_addDueOnce (s : State) (j : Instr) (i : Nat) : (s.addDueOnce j).island i = s.island i := by
  simp [State.island]
@[simp] theorem State.task_setCtx (s : State) (t₁ c₁ : Nat) (x : Ctx) (k : Nat) : (s.setCtx t₁ c₁ x).task? k = s.task? k := rfl
@[simp] theorem State.task_setCore (s : State) (i₁ k₁ : Nat) (x : Core) (k : Nat) : (s.setCore i₁ k₁ x).task? k = s.task? k := rfl
@[simp] theorem State.task_setTile (s : State) (t₁ : Nat) (x : Tile) (k : Nat) : (s.setTile t₁ x).task? k = s.task? k := rfl
@[simp] theorem State.task_setCluster (s : State) (n₁ : Nat) (x : Cluster) (k : Nat) : (s.setCluster n₁ x).task? k = s.task? k := rfl
@[simp] theorem State.task_setIsland (s : State) (i₁ : Nat) (x : Island) (k : Nat) : (s.setIsland i₁ x).task? k = s.task? k := rfl
@[simp] theorem State.task_setRouter (s : State) (t₁ : Nat) (x : Router) (k : Nat) : (s.setRouter t₁ x).task? k = s.task? k := rfl
@[simp] theorem State.task_setEdge (s : State) (e₁ : Nat) (x : Edge) (k : Nat) : (s.setEdge e₁ x).task? k = s.task? k := rfl
@[simp] theorem State.task_setBlock (s : State) (h₁ : Nat) (x : Block) (k : Nat) : (s.setBlock h₁ x).task? k = s.task? k := rfl
@[simp] theorem State.task_setLaunch (s : State) (l₁ : Nat) (x : Launch) (k : Nat) : (s.setLaunch l₁ x).task? k = s.task? k := rfl
@[simp] theorem State.task_setTenant (s : State) (t₁ : Nat) (x : Tenant) (k : Nat) : (s.setTenant t₁ x).task? k = s.task? k := rfl
@[simp] theorem State.task_addDue (s : State) (j : Instr) (k : Nat) : (s.addDue j).task? k = s.task? k := rfl
@[simp] theorem State.task_dropDue (s : State) (j : Instr) (k : Nat) : (s.dropDue j).task? k = s.task? k := rfl
@[simp] theorem State.task_addDueOnce (s : State) (j : Instr) (k : Nat) : (s.addDueOnce j).task? k = s.task? k := by
  simp [State.task?]
@[simp] theorem State.block_setCtx (s : State) (t₁ c₁ : Nat) (x : Ctx) (h : Nat) : (s.setCtx t₁ c₁ x).block? h = s.block? h := rfl
@[simp] theorem State.block_setCore (s : State) (i₁ k₁ : Nat) (x : Core) (h : Nat) : (s.setCore i₁ k₁ x).block? h = s.block? h := rfl
@[simp] theorem State.block_setTile (s : State) (t₁ : Nat) (x : Tile) (h : Nat) : (s.setTile t₁ x).block? h = s.block? h := rfl
@[simp] theorem State.block_setCluster (s : State) (n₁ : Nat) (x : Cluster) (h : Nat) : (s.setCluster n₁ x).block? h = s.block? h := rfl
@[simp] theorem State.block_setIsland (s : State) (i₁ : Nat) (x : Island) (h : Nat) : (s.setIsland i₁ x).block? h = s.block? h := rfl
@[simp] theorem State.block_setRouter (s : State) (t₁ : Nat) (x : Router) (h : Nat) : (s.setRouter t₁ x).block? h = s.block? h := rfl
@[simp] theorem State.block_setEdge (s : State) (e₁ : Nat) (x : Edge) (h : Nat) : (s.setEdge e₁ x).block? h = s.block? h := rfl
@[simp] theorem State.block_setTask (s : State) (k₁ : Nat) (x : Task) (h : Nat) : (s.setTask k₁ x).block? h = s.block? h := rfl
@[simp] theorem State.block_setLaunch (s : State) (l₁ : Nat) (x : Launch) (h : Nat) : (s.setLaunch l₁ x).block? h = s.block? h := rfl
@[simp] theorem State.block_setTenant (s : State) (t₁ : Nat) (x : Tenant) (h : Nat) : (s.setTenant t₁ x).block? h = s.block? h := rfl
@[simp] theorem State.block_addDue (s : State) (j : Instr) (h : Nat) : (s.addDue j).block? h = s.block? h := rfl
@[simp] theorem State.block_dropDue (s : State) (j : Instr) (h : Nat) : (s.dropDue j).block? h = s.block? h := rfl
@[simp] theorem State.block_addDueOnce (s : State) (j : Instr) (h : Nat) : (s.addDueOnce j).block? h = s.block? h := by
  simp [State.block?]

end Sys2Proof.Machine
end

