-- ==== Sys2Proof/Laws/Memory.lean ====
section
/-! SUPPORT. The laws of memory: a byte written reads back, a write leaves every other byte, and every memory operation keeps the canonical
form (R538: an unlisted byte is zero). -/

namespace Sys2Proof.Machine

/-! ## Bytes -/

theorem memRead_of_lt : ∀ (m : List Host.Cell) (a : Nat), Memory.wf m = true → (∀ b v, m.head? = some (b, v) → a < b) → memRead m a = 0
  | [], _, _, _ => rfl
  | [(b, v)], a, _, h => by
    have : a < b := h b v rfl
    have : b ≠ a := by omega
    simp [memRead, this]
  | (b, v) :: (c, w) :: r, a, hw, h => by
    have hab : a < b := h b v rfl
    simp only [Memory.wf, Bool.and_eq_true, decide_eq_true_eq] at hw
    have hne : b ≠ a := by omega
    rw [memRead, if_neg hne]
    exact memRead_of_lt ((c, w) :: r) a hw.2 fun b' v' e => by
      simp only [List.head?_cons, Option.some.injEq, Prod.mk.injEq] at e
      omega

/-- The canonical form of a tail. -/
theorem Memory.wf_tail {p : Host.Cell} {r : List Host.Cell} (h : Memory.wf (p :: r) = true) : Memory.wf r = true := by
  obtain ⟨a, v⟩ := p
  cases r with
  | nil => rfl
  | cons q r =>
    obtain ⟨b, w⟩ := q
    simp only [Memory.wf, Bool.and_eq_true, decide_eq_true_eq] at h
    exact h.2

theorem memRead_memWrite_same (m : List Host.Cell) (a : Nat) (v : Byte) (h : Memory.wf m = true) : memRead (memWrite m a v) a = v := by
  induction m with
  | nil => by_cases hv : v = 0#8 <;> simp [memWrite, memRead, hv]
  | cons p r ih =>
    obtain ⟨b, w⟩ := p
    simp only [memWrite]
    split
    · rename_i hlt
      split
      · rename_i hv
        subst hv
        exact memRead_of_lt _ _ h fun b' v' e => by simp at e; omega
      · simp [memRead]
    · split
      · rename_i hnl hab
        subst hab
        split
        · rename_i hv
          subst hv
          refine memRead_of_lt _ _ (Memory.wf_tail h) fun b' v' e => ?_
          cases r with
          | nil => simp at e
          | cons q r =>
            obtain ⟨c, x⟩ := q
            simp only [List.head?_cons, Option.some.injEq, Prod.mk.injEq] at e
            simp only [Memory.wf, Bool.and_eq_true, decide_eq_true_eq] at h
            omega
        · simp [memRead]
      · rename_i h1 h2
        have : b ≠ a := fun e => h2 e.symm
        rw [memRead, if_neg this]
        exact ih (Memory.wf_tail h)

theorem memRead_memWrite_other (m : List Host.Cell) (a c : Nat) (v : Byte) (h : c ≠ a) : memRead (memWrite m a v) c = memRead m c := by
  induction m with
  | nil => by_cases hv : v = 0#8 <;> simp [memWrite, memRead, hv, Ne.symm h]
  | cons p r ih =>
    obtain ⟨b, w⟩ := p
    simp only [memWrite]
    split
    · split
      · rfl
      · simp [memRead, Ne.symm h]
    · split
      · rename_i hab
        subst hab
        split <;> simp [memRead, Ne.symm h]
      · by_cases hb : b = c <;> simp [memRead, hb, ih]

/-! ## The canonical form -/

/-- Every entry of a canonical tail lies above its head. -/
theorem Memory.wf_cons {a : Nat} {v : Byte} {m : List Host.Cell} (hv : v ≠ 0) (hm : Memory.wf m = true)
    (h : ∀ b w, m.head? = some (b, w) → a < b) : Memory.wf ((a, v) :: m) = true := by
  cases m with
  | nil => simpa [Memory.wf] using hv
  | cons p r =>
    obtain ⟨b, w⟩ := p
    have := h b w rfl
    rw [Memory.wf, hm, decide_eq_true this, Bool.and_true, Bool.and_true]
    simpa using hv

theorem Memory.wf_head {a : Nat} {v : Byte} {m : List Host.Cell} (h : Memory.wf ((a, v) :: m) = true) :
    v ≠ 0 ∧ ∀ b w, m.head? = some (b, w) → a < b := by
  cases m with
  | nil => simpa [Memory.wf] using h
  | cons p r =>
    obtain ⟨b, w⟩ := p
    simp only [Memory.wf, Bool.and_eq_true, decide_eq_true_eq, bne_iff_ne] at h
    refine ⟨h.1.1, fun b' w' e => ?_⟩
    simp only [List.head?_cons, Option.some.injEq, Prod.mk.injEq] at e
    omega

/-- The head of a memory with one byte written lies at the byte or is the old head. -/
theorem memWrite_head (m : List Host.Cell) (a : Nat) (v : Byte) (c : Nat) (x : Byte) (hm : Memory.wf m = true)
    (h : (memWrite m a v).head? = some (c, x)) : c = a ∨ ∃ b w, m.head? = some (b, w) ∧ b ≤ c := by
  cases m with
  | nil =>
    by_cases hv : v = 0#8 <;> simp [memWrite, hv] at h
    exact .inl h.1.symm
  | cons p r =>
    obtain ⟨b, w⟩ := p
    simp only [memWrite] at h
    split at h
    · split at h
      · simp at h; exact .inr ⟨b, w, rfl, by omega⟩
      · simp at h; exact .inl h.1.symm
    · split at h
      · split at h
        · cases r with
          | nil => simp at h
          | cons q r =>
            obtain ⟨d, y⟩ := q
            simp only [List.head?_cons, Option.some.injEq, Prod.mk.injEq] at h
            have := (Memory.wf_head hm).2 d y rfl
            exact .inr ⟨b, w, rfl, by omega⟩
        · simp at h; exact .inl h.1.symm
      · simp at h; exact .inr ⟨b, w, rfl, by omega⟩

/-- A byte written keeps the canonical form. -/
theorem memWrite_wf (m : List Host.Cell) (a : Nat) (v : Byte) (h : Memory.wf m = true) : Memory.wf (memWrite m a v) = true := by
  induction m with
  | nil => by_cases hv : v = 0#8 <;> simp [memWrite, Memory.wf, hv]
  | cons p r ih =>
    obtain ⟨b, w⟩ := p
    have hd := Memory.wf_head h
    have ht := Memory.wf_tail h
    simp only [memWrite]
    split
    · split
      · exact h
      · rename_i hlt hv
        exact Memory.wf_cons hv h fun b' w' e => by simp at e; omega
    · split
      · rename_i hab
        subst hab
        split
        · exact ht
        · rename_i hv
          exact Memory.wf_cons hv ht hd.2
      · rename_i h1 h2
        refine Memory.wf_cons hd.1 (ih ht) fun c x e => ?_
        rcases memWrite_head r a v c x ht e with rfl | ⟨b', w', e', hle⟩
        · omega
        · have := hd.2 b' w' e'
          omega

/-- Bytes written keep the canonical form. -/
theorem memWrites_wf (bs : List Byte) : ∀ (m : List Host.Cell) (a : Nat), Memory.wf m = true → Memory.wf (memWrites m a bs) = true := by
  induction bs with
  | nil => intro m a h; exact h
  | cons v r ih => intro m a h; exact ih _ _ (memWrite_wf m a v h)

theorem Memory.wf_iff (m : List Host.Cell) : Memory.wf m = true ↔ m.Pairwise (fun p q => p.1 < q.1) ∧ ∀ p ∈ m, p.2 ≠ 0 := by
  induction m with
  | nil => simp [Memory.wf]
  | cons p r ih =>
    obtain ⟨a, v⟩ := p
    constructor
    · intro h
      have hd := Memory.wf_head h
      have ht := ih.1 (Memory.wf_tail h)
      refine ⟨List.pairwise_cons.2 ⟨fun q hq => ?_, ht.1⟩, fun q hq => ?_⟩
      · cases r with
        | nil => simp at hq
        | cons s r =>
          have h1 := hd.2 s.1 s.2 rfl
          rcases List.mem_cons.1 hq with rfl | hq
          · exact h1
          · have := (List.pairwise_cons.1 ht.1).1 q hq
            simp only; omega
      · rcases List.mem_cons.1 hq with rfl | hq
        · exact hd.1
        · exact ht.2 q hq
    · rintro ⟨h1, h2⟩
      have h1 := List.pairwise_cons.1 h1
      refine Memory.wf_cons (h2 _ List.mem_cons_self) (ih.2 ⟨h1.2, fun q hq => h2 q (List.mem_cons_of_mem _ hq)⟩) fun b w e => ?_
      cases r with
      | nil => simp at e
      | cons q r =>
        simp only [List.head?_cons, Option.some.injEq] at e
        subst e
        exact h1.1 _ List.mem_cons_self

/-- Entries taken out keep the canonical form. -/
theorem Memory.wf_filter (m : List Host.Cell) (p : Host.Cell → Bool) (h : Memory.wf m = true) : Memory.wf (m.filter p) = true := by
  rw [Memory.wf_iff] at h ⊢
  exact ⟨h.1.filter _, fun q hq => h.2 q (List.mem_of_mem_filter hq)⟩

/-- A fold of writes keeps the canonical form. -/
theorem Memory.wf_foldl {α : Type} (f : List Host.Cell → α → List Host.Cell) (hf : ∀ m x, Memory.wf m = true → Memory.wf (f m x) = true)
    (l : List α) : ∀ m, Memory.wf m = true → Memory.wf (l.foldl f m) = true := by
  induction l with
  | nil => intro m h; exact h
  | cons x r ih => intro m h; exact ih _ (hf m x h)

/-! ## Operations of the state -/

/-- A wrap of VER makes an event due and changes no byte. -/
@[simp] theorem noteWrap_mem (s : State) (pa : Nat) (m : LineMeta) : (noteWrap s pa m).mem = s.mem := by
  unfold noteWrap
  split <;> simp
/-- A fold of steps that keep a property of states keeps it. -/
theorem foldl_keeps {σ α : Type} (p : σ → Prop) (f : σ → α → σ) (hf : ∀ s x, p s → p (f s x)) (l : List α) : ∀ s, p s → p (l.foldl f s) := by
  induction l with
  | nil => intro s h; exact h
  | cons x r ih => intro s h; exact ih _ (hf s x h)

theorem writeLine_wf (s : State) (pa : Nat) (bs : List Byte) (h : Memory.wf s.mem = true) : Memory.wf (writeLine s pa bs).mem = true := by
  simp only [writeLine, noteWrap_mem]
  apply memWrites_wf
  split
  · exact h
  · exact memWrites_wf _ _ _ h

theorem writePhysFuel_wf (f : Nat) : ∀ (s : State) (pa : Nat) (bs : List Byte), Memory.wf s.mem = true →
    Memory.wf (writePhysFuel f s pa bs).mem = true := by
  induction f with
  | zero => intro s pa bs h; exact h
  | succ f ih =>
    intro s pa bs h
    rw [writePhysFuel]
    split
    · exact h
    · exact ih _ _ _ (writeLine_wf s pa _ h)

/-- A physical write keeps the canonical form. -/
theorem writePhys_wf (s : State) (pa : Nat) (bs : List Byte) (h : Memory.wf s.mem = true) : Memory.wf (writePhys s pa bs).mem = true :=
  writePhysFuel_wf _ _ _ _ h

/-- Lines made zero keep the canonical form. -/
theorem zeroLines_wf (s : State) (pa n : Nat) (h : Memory.wf s.mem = true) : Memory.wf (zeroLines s pa n).mem = true :=
  Memory.wf_filter _ _ h

/-! ## Traffic and errors change no byte -/

@[simp] theorem sendRecord_mem (s : State) (i : Nat) (r : FaultRecord) : (sendRecord s i r).mem = s.mem := rfl
@[simp] theorem cleanWord_mem (p : Packet) (w : Nat) (s : State) (t : Nat) : (cleanWord p w s t).mem = s.mem := rfl
@[simp] theorem cleanAt_mem (p : Packet) (s : State) (t : Nat) : (cleanAt p s t).mem = s.mem :=
  foldl_keeps (fun u : State => u.mem = s.mem) _ (fun u w h => by
    split
    · exact foldl_keeps (fun v : State => v.mem = s.mem) _ (fun v n h => by rw [cleanWord_mem]; exact h) _ u h
    · exact h) _ s rfl
@[simp] theorem cleanPath_mem (s : State) (p : Packet) (a b : Nat) : (cleanPath s p a b).mem = s.mem := by
  unfold cleanPath
  split
  · rfl
  · exact foldl_keeps (fun u : State => u.mem = s.mem) _ (fun u t h => by rw [cleanAt_mem]; exact h) _ s rfl
@[simp] theorem recordFrom_mem (s : State) (t : Nat) (r : FaultRecord) : (recordFrom s t r).mem = s.mem := by
  unfold recordFrom
  dsimp only
  split
  · simp
  · split <;> simp
@[simp] theorem fabricFault_mem (s : State) (a c n : Nat) (p : Packet) (i : Nat) : (fabricFault s a c n p i).mem = s.mem := recordFrom_mem ..
@[simp] theorem edgeHead_mem (s : State) (t src pa : Nat) : (edgeHead s t src pa).1.mem = s.mem := by
  unfold edgeHead
  split
  · rfl
  · dsimp only
    split
    · simp
    · split <;> simp
@[simp] theorem meetLine_mem (s : State) (l : Nat) : (meetLine s l).mem = s.mem := by
  unfold meetLine
  split
  · rfl
  · split
    · rfl
    · split <;> rfl
@[simp] theorem meetAt_mem (s : State) (pa n : Nat) : (meetAt s pa n).mem = s.mem := by
  unfold meetAt
  split
  · rfl
  · exact foldl_keeps (fun u : State => u.mem = s.mem) _ (fun u k h => by rw [meetLine_mem]; exact h) _ s rfl
@[simp] theorem meetWords_mem (s : State) (l : List Nat) : (meetWords s l).mem = s.mem :=
  foldl_keeps (fun u : State => u.mem = s.mem) _ (fun u k h => by rw [meetAt_mem]; exact h) _ s rfl
/-- Where no line is about to give an error a read meets none. -/
theorem meetAt_sound {s : State} (h : soundLines s = true) (pa n : Nat) : meetAt s pa n = s := by simp [meetAt, h]

/-! ## A rekey keeps the canonical form -/

theorem sweepLine_wf (s : State) (e : Bool) (l : Nat) (h : Memory.wf s.mem = true) : Memory.wf (sweepLine s e l).mem = true := by
  unfold sweepLine
  dsimp only
  split
  · exact h
  · dsimp only
    split
    · exact h
    · exact memWrites_wf _ _ _ h
theorem sweepRegion_wf (s : State) (w : Sweep) (h : Memory.wf s.mem = true) : Memory.wf (sweepRegion s w).mem = true := by
  unfold sweepRegion
  split
  · unfold sweepEdge
    exact writePhys_wf _ _ _ (foldl_keeps (fun u : State => Memory.wf u.mem = true) _ (fun u k h => sweepLine_wf u _ _ h) _ s h)
  · split
    · unfold sweepScratch
      simp only [State.setBlock_mem, State.setCluster_mem]
      refine foldl_keeps (fun u : State => Memory.wf u.mem = true) _ (fun u a h => ?_) _ s h
      split
      · exact foldl_keeps (fun u : State => Memory.wf u.mem = true) _ (fun u k h => sweepLine_wf u _ _ h) _ u h
      · exact h
    · exact h
@[simp] theorem beginSweep_mem (s : State) (r : Nat) (e : Bool) : (beginSweep s r e).mem = s.mem := State.addDueOnce_mem ..
theorem finishRekey_wf (s : State) (r : Nat) (h : Memory.wf s.mem = true) : Memory.wf (finishRekey s r).mem = true := by
  unfold finishRekey
  refine foldl_keeps (fun u : State => Memory.wf u.mem = true) _ (fun u w h => sweepRegion_wf u w h) _ _ ?_
  refine foldl_keeps (fun u : State => Memory.wf u.mem = true) _ (fun u i h => ?_) _ s h
  split
  · simpa using h
  · exact h
theorem awaitRekey_wf (s : State) (pa : Nat) (h : Memory.wf s.mem = true) : Memory.wf (awaitRekey s pa).mem = true := by
  unfold awaitRekey
  split
  · split
    · exact finishRekey_wf s _ h
    · exact h
  · exact h
theorem putPhysFuel_wf (f : Nat) : ∀ (s : State) (pa : Nat) (bs : List Byte), Memory.wf s.mem = true →
    Memory.wf (putPhysFuel f s pa bs).mem = true := by
  induction f with
  | zero => intro s pa bs h; exact h
  | succ f ih =>
    intro s pa bs h
    rw [putPhysFuel]
    split
    · exact h
    · exact ih _ _ _ (writeLine_wf _ _ _ (awaitRekey_wf s pa h))
/-- A write of hardware keeps the canonical form. -/
theorem putPhys_wf (s : State) (pa : Nat) (bs : List Byte) (h : Memory.wf s.mem = true) : Memory.wf (putPhys s pa bs).mem = true :=
  putPhysFuel_wf _ _ _ _ h

end Sys2Proof.Machine
end

