-- ==== Sys2Proof/Laws/Ops.lean ====
section
/-! SUPPORT. What the shared operations do, once each: an instruction as its body, privileged instructions, register writes and retirement, traps
and exceptions, translation, image traffic; later proofs cite these and unfold nothing. -/

namespace Sys2Proof.Machine

/-! ## An instruction as its body -/

@[simp] theorem Profile.allows_thread (p : Profile) (t c : Nat) : p.allows (.thread t c) = p.thread := rfl
@[simp] theorem Profile.allows_core (p : Profile) (i k : Nat) : p.allows (.core i k) = p.core := rfl
@[simp] theorem Profile.allows_zephyr (p : Profile) (t z : Nat) : p.allows (.zephyr t z) = p.zephyr := rfl
@[simp] theorem profAll_allows (a : Agent) : profAll.allows a = true := by cases a <;> rfl
theorem profBoth_allows (a : Agent) (h : ∀ t z, a ≠ .zephyr t z) : profBoth.allows a = true := by
  cases a with
  | zephyr t z => exact absurd rfl (h t z)
  | _ => rfl

theorem runInstr_ok {p : Profile} {s t : State} {body : State → Except Stop State} (hp : p.allows s.cur = true) (h : body s = .ok t) :
    runInstr p s body = .next t := by simp [runInstr, hp, h]
theorem runInstr_error {p : Profile} {s : State} {body : State → Except Stop State} {st : Stop} (hp : p.allows s.cur = true)
    (h : body s = .error st) : runInstr p s body = .next (onStop s (ownEngine p.engine st)) := by simp [runInstr, hp, h]
theorem runInstr_illegal {p : Profile} {s : State} {body : State → Except Stop State} (hp : p.allows s.cur = false) :
    runInstr p s body = .next (raise s (illegalOp s)) := by simp [runInstr, hp]
/-- Everything an instruction can do: its body's next state, what its body's stop does, or ILLEGALOP outside its agent's profile. -/
theorem runInstr_cases {p : Profile} {s t : State} {body : State → Except Stop State} (h : runInstr p s body = .next t) :
    (p.allows s.cur = true ∧ body s = .ok t) ∨
    (p.allows s.cur = true ∧ ∃ st, body s = .error st ∧ t = onStop s (ownEngine p.engine st)) ∨
    (p.allows s.cur = false ∧ t = raise s (illegalOp s)) := by
  unfold runInstr at h
  split at h
  · split at h <;> cases h
    · exact .inl ⟨‹_›, ‹_›⟩
    · exact .inr (.inl ⟨‹_›, _, ‹_›, rfl⟩)
  · cases h; exact .inr (.inr ⟨by simp_all, rfl⟩)
/-- No instruction faults or refuses. -/
theorem runInstr_next (p : Profile) (s : State) (body : State → Except Stop State) : ∃ t, runInstr p s body = .next t := by
  unfold runInstr
  split
  · split <;> exact ⟨_, rfl⟩
  · exact ⟨_, rfl⟩

@[simp] theorem onStop_trap (s : State) (tr : Trap) : onStop s (.trap tr) = raise s tr := rfl
@[simp] theorem onStop_wait (s : State) : onStop s .wait = s := rfl
@[simp] theorem ownEngine_wait (e : Nat) : ownEngine e .wait = .wait := rfl
/-- A trap takes its instruction's engine, but for the causes that belong to another. -/
theorem ownEngine_trap {e : Nat} {tr : Trap} (h2 : tr.code ≠ 0x02) (h9 : tr.code ≠ 0x09) (hE : tr.code ≠ 0x1E) :
    ownEngine e (.trap tr) = .trap { tr with engine := e } := by simp [ownEngine, h2, h9, hE]
/-- ILLEGALOP keeps the scalar engine. -/
@[simp] theorem ownEngine_illegalOp (e : Nat) (s : State) : ownEngine e (.trap (illegalOp s)) = .trap (illegalOp s) := rfl

/-! ## Privileged instructions -/

theorem runPriv_thread {e xm min : Nat} {right : Option Nat} {s : State} {body : Nat → Nat → State → Except Stop State} {t c : Nat}
    (h : s.cur = .thread t c) : runPriv e xm min right s body = .next (raise s (illegalOp s)) := by
  simp [runPriv, runInstr, h]
theorem runPriv_level {e xm min : Nat} {right : Option Nat} {s : State} {body : Nat → Nat → State → Except Stop State} {i k : Nat}
    (h : s.cur = .core i k) (hl : min < coreLevel (s.core i k)) :
    runPriv e xm min right s body = .next (raise s { code := 0x05, engine := e, info := w64 xm }) := by
  simp [runPriv, runInstr, h, hl, ownEngine]
theorem runPriv_right {e xm min r : Nat} {s : State} {body : Nat → Nat → State → Except Stop State} {i k : Nat}
    (h : s.cur = .core i k) (hl : coreLevel (s.core i k) ≤ min) (hr : hasRight s i (coreTenant (s.core i k)) r = false)
    (hg : (s.core i k).granted = false) :
    runPriv e xm min (some r) s body = .next (raise s { code := 0x22, engine := e, info := w64 3 }) := by
  simp [runPriv, runInstr, h, Nat.not_lt.mpr hl, hr, hg, ownEngine, islandTrap]
/-- A core of the level and the right runs the body of a minor that does not wait beyond its issue. -/
theorem runPriv_body {e xm min : Nat} {right : Option Nat} {s : State} {body : Nat → Nat → State → Except Stop State} {i k : Nat}
    (h : s.cur = .core i k) (hl : coreLevel (s.core i k) ≤ min) (hr : ∀ r ∈ right, hasRight s i (coreTenant (s.core i k)) r = true)
    (hx : waitsIssued xm = false) :
    runPriv e xm min right s body = match body i k s with | .ok t => .next t | .error st => .next (onStop s (ownEngine e st)) := by
  cases right with
  | none => simp only [runPriv, runInstr, h, if_neg (Nat.not_lt.mpr hl), hx]; cases body i k s <;> rfl
  | some r =>
    have hr := hr r rfl
    simp only [runPriv, runInstr, h, if_neg (Nat.not_lt.mpr hl), hr, hx, Bool.not_true]; cases body i k s <;> rfl

/-! ## Whose trap it is -/

theorem raise_thread {s : State} {t c : Nat} (h : s.cur = .thread t c) (tr : Trap) : raise s tr = takeTrap s t c tr := by simp [raise, h]
theorem raise_core {s : State} {i k : Nat} (h : s.cur = .core i k) (tr : Trap) : raise s tr = takeException s i k tr := by simp [raise, h]
theorem raise_zephyr {s : State} {t z : Nat} {r : ZReq} (h : s.cur = .zephyr t z) (hr : s.zreqOf? t z = some r) (tr : Trap) :
    raise s tr = takeCopyFault s t r tr := by simp [raise, h, hr]

/-! ## Register writes and retirement: the parts they leave -/

@[simp] theorem State.setRegs_cur (s : State) (d : List Nat) (r : Regs) : (s.setRegs d r).cur = s.cur := by
  unfold State.setRegs State.setRegsOf; split <;> (try split) <;> rfl
@[simp] theorem State.setRegs_due (s : State) (d : List Nat) (r : Regs) : (s.setRegs d r).due = s.due := by
  unfold State.setRegs State.setRegsOf; split <;> (try split) <;> rfl
@[simp] theorem State.setRegs_choices (s : State) (d : List Nat) (r : Regs) : (s.setRegs d r).choices = s.choices := by
  unfold State.setRegs State.setRegsOf; split <;> (try split) <;> rfl
@[simp] theorem State.setRegs_cycleLens (s : State) (d : List Nat) (r : Regs) : (s.setRegs d r).cycleLens = s.cycleLens := by
  unfold State.setRegs State.setRegsOf; split <;> (try split) <;> rfl
@[simp] theorem State.setRegs_upsets (s : State) (d : List Nat) (r : Regs) : (s.setRegs d r).upsets = s.upsets := by
  unfold State.setRegs State.setRegsOf; split <;> (try split) <;> rfl
@[simp] theorem State.setRegs_freeCtr (s : State) (d : List Nat) (r : Regs) : (s.setRegs d r).freeCtr = s.freeCtr := by
  unfold State.setRegs State.setRegsOf; split <;> (try split) <;> rfl
@[simp] theorem State.setRegs_retired (s : State) (d : List Nat) (r : Regs) : (s.setRegs d r).retired = s.retired := by
  unfold State.setRegs State.setRegsOf; split <;> (try split) <;> rfl
@[simp] theorem State.setRegs_nextId (s : State) (d : List Nat) (r : Regs) : (s.setRegs d r).nextId = s.nextId := by
  unfold State.setRegs State.setRegsOf; split <;> (try split) <;> rfl
@[simp] theorem State.setRegs_cycle (s : State) (d : List Nat) (r : Regs) : (s.setRegs d r).cycle = s.cycle := by
  unfold State.setRegs State.setRegsOf; split <;> (try split) <;> rfl
@[simp] theorem State.setRegs_mem (s : State) (d : List Nat) (r : Regs) : (s.setRegs d r).mem = s.mem := by
  unfold State.setRegs State.setRegsOf; split <;> (try split) <;> rfl
@[simp] theorem State.setRegs_lines (s : State) (d : List Nat) (r : Regs) : (s.setRegs d r).lines = s.lines := by
  unfold State.setRegs State.setRegsOf; split <;> (try split) <;> rfl
@[simp] theorem State.setRegs_clusters (s : State) (d : List Nat) (r : Regs) : (s.setRegs d r).clusters = s.clusters := by
  unfold State.setRegs State.setRegsOf; split <;> (try split) <;> rfl
@[simp] theorem State.setRegs_islands (s : State) (d : List Nat) (r : Regs) : (s.setRegs d r).islands = s.islands := by
  unfold State.setRegs State.setRegsOf; split <;> (try split) <;> rfl
@[simp] theorem State.setRegs_routers (s : State) (d : List Nat) (r : Regs) : (s.setRegs d r).routers = s.routers := by
  unfold State.setRegs State.setRegsOf; split <;> (try split) <;> rfl
@[simp] theorem State.setRegs_edges (s : State) (d : List Nat) (r : Regs) : (s.setRegs d r).edges = s.edges := by
  unfold State.setRegs State.setRegsOf; split <;> (try split) <;> rfl
@[simp] theorem State.setRegs_tasks (s : State) (d : List Nat) (r : Regs) : (s.setRegs d r).tasks = s.tasks := by
  unfold State.setRegs State.setRegsOf; split <;> (try split) <;> rfl
@[simp] theorem State.setRegs_blocks (s : State) (d : List Nat) (r : Regs) : (s.setRegs d r).blocks = s.blocks := by
  unfold State.setRegs State.setRegsOf; split <;> (try split) <;> rfl
@[simp] theorem State.setRegs_launches (s : State) (d : List Nat) (r : Regs) : (s.setRegs d r).launches = s.launches := by
  unfold State.setRegs State.setRegsOf; split <;> (try split) <;> rfl
@[simp] theorem State.setRegs_counters (s : State) (d : List Nat) (r : Regs) : (s.setRegs d r).counters = s.counters := by
  unfold State.setRegs State.setRegsOf; split <;> (try split) <;> rfl
@[simp] theorem State.setRegs_insts (s : State) (d : List Nat) (r : Regs) : (s.setRegs d r).insts = s.insts := by
  unfold State.setRegs State.setRegsOf; split <;> (try split) <;> rfl
@[simp] theorem State.setRegs_clearances (s : State) (d : List Nat) (r : Regs) : (s.setRegs d r).clearances = s.clearances := by
  unfold State.setRegs State.setRegsOf; split <;> (try split) <;> rfl
@[simp] theorem State.setRegs_tenants (s : State) (d : List Nat) (r : Regs) : (s.setRegs d r).tenants = s.tenants := by
  unfold State.setRegs State.setRegsOf; split <;> (try split) <;> rfl
@[simp] theorem State.setRegs_vfs (s : State) (d : List Nat) (r : Regs) : (s.setRegs d r).vfs = s.vfs := by
  unfold State.setRegs State.setRegsOf; split <;> (try split) <;> rfl
@[simp] theorem State.setRegs_packets (s : State) (d : List Nat) (r : Regs) : (s.setRegs d r).packets = s.packets := by
  unfold State.setRegs State.setRegsOf; split <;> (try split) <;> rfl
@[simp] theorem State.setRegs_invals (s : State) (d : List Nat) (r : Regs) : (s.setRegs d r).invals = s.invals := by
  unfold State.setRegs State.setRegsOf; split <;> (try split) <;> rfl
@[simp] theorem State.setRegs_wafer (s : State) (d : List Nat) (r : Regs) : (s.setRegs d r).wafer = s.wafer := by
  unfold State.setRegs State.setRegsOf; split <;> (try split) <;> rfl
@[simp] theorem State.setRegs_replies (s : State) (d : List Nat) (r : Regs) : (s.setRegs d r).replies = s.replies := by
  unfold State.setRegs State.setRegsOf; split <;> (try split) <;> rfl
@[simp] theorem State.setG_cur (s : State) (r : Reg) (v : Word) : (s.setG r v).cur = s.cur := State.setRegs_cur ..
@[simp] theorem State.setG_due (s : State) (r : Reg) (v : Word) : (s.setG r v).due = s.due := State.setRegs_due ..
@[simp] theorem State.setG_choices (s : State) (r : Reg) (v : Word) : (s.setG r v).choices = s.choices := State.setRegs_choices ..
@[simp] theorem State.setG_cycleLens (s : State) (r : Reg) (v : Word) : (s.setG r v).cycleLens = s.cycleLens := State.setRegs_cycleLens ..
@[simp] theorem State.setG_upsets (s : State) (r : Reg) (v : Word) : (s.setG r v).upsets = s.upsets := State.setRegs_upsets ..
@[simp] theorem State.setG_freeCtr (s : State) (r : Reg) (v : Word) : (s.setG r v).freeCtr = s.freeCtr := State.setRegs_freeCtr ..
@[simp] theorem State.setG_retired (s : State) (r : Reg) (v : Word) : (s.setG r v).retired = s.retired := State.setRegs_retired ..
@[simp] theorem State.setG_nextId (s : State) (r : Reg) (v : Word) : (s.setG r v).nextId = s.nextId := State.setRegs_nextId ..
@[simp] theorem State.setG_cycle (s : State) (r : Reg) (v : Word) : (s.setG r v).cycle = s.cycle := State.setRegs_cycle ..
@[simp] theorem State.setG_mem (s : State) (r : Reg) (v : Word) : (s.setG r v).mem = s.mem := State.setRegs_mem ..
@[simp] theorem State.setG_lines (s : State) (r : Reg) (v : Word) : (s.setG r v).lines = s.lines := State.setRegs_lines ..
@[simp] theorem State.setG_clusters (s : State) (r : Reg) (v : Word) : (s.setG r v).clusters = s.clusters := State.setRegs_clusters ..
@[simp] theorem State.setG_islands (s : State) (r : Reg) (v : Word) : (s.setG r v).islands = s.islands := State.setRegs_islands ..
@[simp] theorem State.setG_routers (s : State) (r : Reg) (v : Word) : (s.setG r v).routers = s.routers := State.setRegs_routers ..
@[simp] theorem State.setG_edges (s : State) (r : Reg) (v : Word) : (s.setG r v).edges = s.edges := State.setRegs_edges ..
@[simp] theorem State.setG_tasks (s : State) (r : Reg) (v : Word) : (s.setG r v).tasks = s.tasks := State.setRegs_tasks ..
@[simp] theorem State.setG_blocks (s : State) (r : Reg) (v : Word) : (s.setG r v).blocks = s.blocks := State.setRegs_blocks ..
@[simp] theorem State.setG_launches (s : State) (r : Reg) (v : Word) : (s.setG r v).launches = s.launches := State.setRegs_launches ..
@[simp] theorem State.setG_counters (s : State) (r : Reg) (v : Word) : (s.setG r v).counters = s.counters := State.setRegs_counters ..
@[simp] theorem State.setG_insts (s : State) (r : Reg) (v : Word) : (s.setG r v).insts = s.insts := State.setRegs_insts ..
@[simp] theorem State.setG_clearances (s : State) (r : Reg) (v : Word) : (s.setG r v).clearances = s.clearances := State.setRegs_clearances ..
@[simp] theorem State.setG_tenants (s : State) (r : Reg) (v : Word) : (s.setG r v).tenants = s.tenants := State.setRegs_tenants ..
@[simp] theorem State.setG_vfs (s : State) (r : Reg) (v : Word) : (s.setG r v).vfs = s.vfs := State.setRegs_vfs ..
@[simp] theorem State.setG_packets (s : State) (r : Reg) (v : Word) : (s.setG r v).packets = s.packets := State.setRegs_packets ..
@[simp] theorem State.setG_invals (s : State) (r : Reg) (v : Word) : (s.setG r v).invals = s.invals := State.setRegs_invals ..
@[simp] theorem State.setG_wafer (s : State) (r : Reg) (v : Word) : (s.setG r v).wafer = s.wafer := State.setRegs_wafer ..
@[simp] theorem State.setG_replies (s : State) (r : Reg) (v : Word) : (s.setG r v).replies = s.replies := State.setRegs_replies ..
@[simp] theorem State.retire_cur (s : State) : s.retire.cur = s.cur := State.setRegs_cur ..
@[simp] theorem State.jump_cur (s : State) (t : Nat) (p : Bool) : (s.jump t p).cur = s.cur := State.setRegs_cur ..
@[simp] theorem State.retire_due (s : State) : s.retire.due = s.due := State.setRegs_due ..
@[simp] theorem State.jump_due (s : State) (t : Nat) (p : Bool) : (s.jump t p).due = s.due := State.setRegs_due ..
@[simp] theorem State.retire_choices (s : State) : s.retire.choices = s.choices := State.setRegs_choices ..
@[simp] theorem State.jump_choices (s : State) (t : Nat) (p : Bool) : (s.jump t p).choices = s.choices := State.setRegs_choices ..
@[simp] theorem State.retire_cycleLens (s : State) : s.retire.cycleLens = s.cycleLens := State.setRegs_cycleLens ..
@[simp] theorem State.jump_cycleLens (s : State) (t : Nat) (p : Bool) : (s.jump t p).cycleLens = s.cycleLens := State.setRegs_cycleLens ..
@[simp] theorem State.retire_upsets (s : State) : s.retire.upsets = s.upsets := State.setRegs_upsets ..
@[simp] theorem State.jump_upsets (s : State) (t : Nat) (p : Bool) : (s.jump t p).upsets = s.upsets := State.setRegs_upsets ..
@[simp] theorem State.retire_freeCtr (s : State) : s.retire.freeCtr = s.freeCtr := State.setRegs_freeCtr ..
@[simp] theorem State.jump_freeCtr (s : State) (t : Nat) (p : Bool) : (s.jump t p).freeCtr = s.freeCtr := State.setRegs_freeCtr ..
@[simp] theorem State.retire_nextId (s : State) : s.retire.nextId = s.nextId := State.setRegs_nextId ..
@[simp] theorem State.jump_nextId (s : State) (t : Nat) (p : Bool) : (s.jump t p).nextId = s.nextId := State.setRegs_nextId ..
@[simp] theorem State.retire_cycle (s : State) : s.retire.cycle = s.cycle := State.setRegs_cycle ..
@[simp] theorem State.jump_cycle (s : State) (t : Nat) (p : Bool) : (s.jump t p).cycle = s.cycle := State.setRegs_cycle ..
@[simp] theorem State.retire_mem (s : State) : s.retire.mem = s.mem := State.setRegs_mem ..
@[simp] theorem State.jump_mem (s : State) (t : Nat) (p : Bool) : (s.jump t p).mem = s.mem := State.setRegs_mem ..
@[simp] theorem State.retire_lines (s : State) : s.retire.lines = s.lines := State.setRegs_lines ..
@[simp] theorem State.jump_lines (s : State) (t : Nat) (p : Bool) : (s.jump t p).lines = s.lines := State.setRegs_lines ..
@[simp] theorem State.retire_clusters (s : State) : s.retire.clusters = s.clusters := State.setRegs_clusters ..
@[simp] theorem State.jump_clusters (s : State) (t : Nat) (p : Bool) : (s.jump t p).clusters = s.clusters := State.setRegs_clusters ..
@[simp] theorem State.retire_islands (s : State) : s.retire.islands = s.islands := State.setRegs_islands ..
@[simp] theorem State.jump_islands (s : State) (t : Nat) (p : Bool) : (s.jump t p).islands = s.islands := State.setRegs_islands ..
@[simp] theorem State.retire_routers (s : State) : s.retire.routers = s.routers := State.setRegs_routers ..
@[simp] theorem State.jump_routers (s : State) (t : Nat) (p : Bool) : (s.jump t p).routers = s.routers := State.setRegs_routers ..
@[simp] theorem State.retire_edges (s : State) : s.retire.edges = s.edges := State.setRegs_edges ..
@[simp] theorem State.jump_edges (s : State) (t : Nat) (p : Bool) : (s.jump t p).edges = s.edges := State.setRegs_edges ..
@[simp] theorem State.retire_tasks (s : State) : s.retire.tasks = s.tasks := State.setRegs_tasks ..
@[simp] theorem State.jump_tasks (s : State) (t : Nat) (p : Bool) : (s.jump t p).tasks = s.tasks := State.setRegs_tasks ..
@[simp] theorem State.retire_blocks (s : State) : s.retire.blocks = s.blocks := State.setRegs_blocks ..
@[simp] theorem State.jump_blocks (s : State) (t : Nat) (p : Bool) : (s.jump t p).blocks = s.blocks := State.setRegs_blocks ..
@[simp] theorem State.retire_launches (s : State) : s.retire.launches = s.launches := State.setRegs_launches ..
@[simp] theorem State.jump_launches (s : State) (t : Nat) (p : Bool) : (s.jump t p).launches = s.launches := State.setRegs_launches ..
@[simp] theorem State.retire_counters (s : State) : s.retire.counters = s.counters := State.setRegs_counters ..
@[simp] theorem State.jump_counters (s : State) (t : Nat) (p : Bool) : (s.jump t p).counters = s.counters := State.setRegs_counters ..
@[simp] theorem State.retire_insts (s : State) : s.retire.insts = s.insts := State.setRegs_insts ..
@[simp] theorem State.jump_insts (s : State) (t : Nat) (p : Bool) : (s.jump t p).insts = s.insts := State.setRegs_insts ..
@[simp] theorem State.retire_clearances (s : State) : s.retire.clearances = s.clearances := State.setRegs_clearances ..
@[simp] theorem State.jump_clearances (s : State) (t : Nat) (p : Bool) : (s.jump t p).clearances = s.clearances := State.setRegs_clearances ..
@[simp] theorem State.retire_tenants (s : State) : s.retire.tenants = s.tenants := State.setRegs_tenants ..
@[simp] theorem State.jump_tenants (s : State) (t : Nat) (p : Bool) : (s.jump t p).tenants = s.tenants := State.setRegs_tenants ..
@[simp] theorem State.retire_vfs (s : State) : s.retire.vfs = s.vfs := State.setRegs_vfs ..
@[simp] theorem State.jump_vfs (s : State) (t : Nat) (p : Bool) : (s.jump t p).vfs = s.vfs := State.setRegs_vfs ..
@[simp] theorem State.retire_packets (s : State) : s.retire.packets = s.packets := State.setRegs_packets ..
@[simp] theorem State.jump_packets (s : State) (t : Nat) (p : Bool) : (s.jump t p).packets = s.packets := State.setRegs_packets ..
@[simp] theorem State.retire_invals (s : State) : s.retire.invals = s.invals := State.setRegs_invals ..
@[simp] theorem State.jump_invals (s : State) (t : Nat) (p : Bool) : (s.jump t p).invals = s.invals := State.setRegs_invals ..
@[simp] theorem State.retire_wafer (s : State) : s.retire.wafer = s.wafer := State.setRegs_wafer ..
@[simp] theorem State.jump_wafer (s : State) (t : Nat) (p : Bool) : (s.jump t p).wafer = s.wafer := State.setRegs_wafer ..
@[simp] theorem State.retire_replies (s : State) : s.retire.replies = s.replies := State.setRegs_replies ..
@[simp] theorem State.jump_replies (s : State) (t : Nat) (p : Bool) : (s.jump t p).replies = s.replies := State.setRegs_replies ..
@[simp] theorem State.retire_retired (s : State) : s.retire.retired = true := rfl
@[simp] theorem State.jump_retired (s : State) (t : Nat) (p : Bool) : (s.jump t p).retired = true := rfl

/-! ## Registers read after they are written -/

/-- A thread or a core holds the registers written. -/
theorem State.regs_setRegs {s : State} (h : ∀ t z, s.cur ≠ .zephyr t z) (d : List Nat) (r : Regs) : (s.setRegs d r).regs = r := by
  unfold State.regs
  rw [State.setRegs_cur]
  unfold State.setRegs
  cases hc : s.cur with
  | thread t c => simp [State.setRegsOf, State.regsOf]
  | core i k => simp [State.setRegsOf, State.regsOf]
  | zephyr t z => exact absurd hc (h t z)
theorem State.getG_setG_same {s : State} (h : ∀ t z, s.cur ≠ .zephyr t z) (r : Reg) (v : Word) : (s.setG r v).getG r = v := by
  simp only [State.getG, State.setG, State.regs_setRegs h]
  simp
theorem State.getG_setG_other {s : State} (h : ∀ t z, s.cur ≠ .zephyr t z) {r q : Reg} (v : Word) (hq : q ≠ r) :
    (s.setG r v).getG q = s.getG q := by
  have : r.val ≠ q.val := fun e => hq (Fin.ext e.symm)
  simp only [State.getG, State.setG, State.regs_setRegs h]
  simp [this]
theorem State.getPc_setG {s : State} (h : ∀ t z, s.cur ≠ .zephyr t z) (r : Reg) (v : Word) : (s.setG r v).getPc = s.getPc := by
  simp only [State.getPc, State.setG, State.regs_setRegs h]

/-- The loop-end action changes the PC, the loop registers and LDEPTH alone. -/
theorem loopEnd_g (a : Word) : ∀ (n : Nat) (r : Regs), (loopEnd a n r).g = r.g := by
  intro n
  induction n with
  | zero => intro r; rfl
  | succ j ih =>
    intro r
    unfold loopEnd
    split
    · split
      · unfold countDown; split <;> rfl
      · rw [ih]; unfold popLevel; split <;> rfl
    · rfl
theorem successor_g (r : Regs) (a n : Word) : (successor r a n).g = r.g := by
  unfold successor
  dsimp only
  split
  · rfl
  · rw [loopEnd_g]
theorem popOutside_g (t : Nat) : ∀ (n : Nat) (r : Regs), (popOutside t n r).g = r.g := by
  intro n
  induction n with
  | zero => intro r; rfl
  | succ j ih =>
    intro r
    unfold popOutside
    split
    · rfl
    · rw [ih]; unfold popLevel; split <;> rfl
theorem transfer_g (r : Regs) (t : Nat) (p : Bool) : (transfer r t p).g = r.g := by
  unfold transfer
  dsimp only
  split
  · rw [popOutside_g]
  · rfl
theorem State.getG_retire {s : State} (h : ∀ t z, s.cur ≠ .zephyr t z) (q : Reg) : s.retire.getG q = s.getG q := by
  have e : s.retire.regs = successor s.regs s.regs.pc (w64 (nextPc s s.cur s.regs.pc.toNat)) := by
    have := State.regs_setRegs h [2, 3] (successor s.regs s.regs.pc (w64 (nextPc s s.cur s.regs.pc.toNat)))
    exact this
  simp only [State.getG, e, successor_g]
theorem State.getG_jump {s : State} (h : ∀ t z, s.cur ≠ .zephyr t z) (t : Nat) (p : Bool) (q : Reg) : (s.jump t p).getG q = s.getG q := by
  have e : (s.jump t p).regs = transfer s.regs t p := State.regs_setRegs h [2, 3] (transfer s.regs t p)
  simp only [State.getG, e, transfer_g]

/-! ## Translation changes no memory -/

@[simp] theorem fillTlb_mem (s : State) (n t : Nat) (w : Who) (a : AccKind) (va : Nat) (tr : Trans) : (fillTlb s n t w a va tr).mem = s.mem := rfl
@[simp] theorem fillLast_mem (s : State) (i t : Nat) (tr : Trans) : (fillLast s i t tr).mem = s.mem := by
  unfold fillLast; split
  · rfl
  · dsimp only; split <;> rfl
@[simp] theorem walked_mem (s : State) (n t : Nat) (w : Who) (a : AccKind) (va : Nat) (tr : Trans) : (walked s n t w a va tr).mem = s.mem := by
  simp [walked]
theorem tileTranslate_mem {s s' : State} {n t va pa : Nat} {w : Who} {a : AccKind} {tp : Bool}
    (h : tileTranslate s n t w a va = .ok (pa, tp, s')) : s'.mem = s.mem := by
  unfold tileTranslate at h
  split at h
  · split at h
    · cases h; rfl
    · split at h <;> cases h; simp
  · split at h <;> cases h; simp
theorem agentTranslate_mem {s s' : State} {ag : Agent} {va pa : Nat} {a : AccKind} {tp : Bool}
    (h : agentTranslate s ag a va = .ok (pa, tp, s')) : s'.mem = s.mem := by
  cases ag with
  | thread t c => exact tileTranslate_mem h
  | zephyr t z => exact tileTranslate_mem h
  | core i k =>
    simp only [agentTranslate] at h
    split at h
    · split at h <;> cases h; rfl
    · split at h <;> cases h; simp
theorem imagePhys_mem {s s' : State} {t c off pa : Nat} {a : AccKind} (h : imagePhys s t c off a = .ok (pa, s')) : s'.mem = s.mem := by
  simp only [imagePhys] at h
  split at h
  · cases h
  · cases h; exact tileTranslate_mem ‹_›

/-! ## Image traffic keeps the canonical form of memory -/

theorem runSteps_wf (l : List (State → State × Option Trap)) (hl : ∀ f ∈ l, ∀ s : State, Memory.wf s.mem = true → Memory.wf (f s).1.mem = true) :
    ∀ s : State, Memory.wf s.mem = true → Memory.wf (runSteps s l).1.mem = true := by
  induction l with
  | nil => intro s h; exact h
  | cons f r ih =>
    intro s h
    exact ih (fun g hg => hl g (List.mem_cons_of_mem _ hg)) _ (hl f (List.mem_cons_self ..) s h)
theorem writeBackLine_wf (s : State) (t c k : Nat) (h : Memory.wf s.mem = true) : Memory.wf (writeBackLine s t c k).1.mem = true := by
  unfold writeBackLine
  split
  · exact h
  · split
    · exact h
    · rename_i e
      simp only [State.setCtx_mem]
      split
      · exact putPhys_wf _ _ _ (by rw [edgeHead_mem, imagePhys_mem e]; exact h)
      · rw [edgeHead_mem, imagePhys_mem e]; exact h
theorem writeBack_wf (s : State) (t c : Nat) (h : Memory.wf s.mem = true) : Memory.wf (writeBack s t c).1.mem = true :=
  runSteps_wf _ (by simp only [List.mem_map]; rintro f ⟨k, -, rfl⟩ s h; exact writeBackLine_wf s t c k h) s h
theorem writeImage_wf (s : State) (t c base first off : Nat) (bs : List Byte) (h : Memory.wf s.mem = true) :
    Memory.wf (writeImage s t c base first off bs).1.mem = true := by
  refine runSteps_wf _ ?_ s h
  simp only [List.mem_map]
  rintro f ⟨k, -, rfl⟩ s h
  dsimp only
  split
  · exact h
  · rename_i e
    dsimp only
    split
    · exact putPhys_wf _ _ _ (by rw [edgeHead_mem, tileTranslate_mem e]; exact h)
    · rw [edgeHead_mem, tileTranslate_mem e]; exact h
theorem vectorLeave_wf (s : State) (t c : Nat) (h : Memory.wf s.mem = true) : Memory.wf (vectorLeave s t c).1.mem = true := by
  unfold vectorLeave
  dsimp only
  split
  · exact h
  · split
    · exact writeImage_wf _ _ _ _ _ _ _ h
    · simp only [State.setCtx_mem]; exact writeImage_wf _ _ _ _ _ _ _ h
theorem writeAcc_wf (s : State) (t c a : Nat) (h : Memory.wf s.mem = true) : Memory.wf (writeAcc s t c a).1.mem = true := by
  unfold writeAcc
  dsimp only
  split
  · exact writeImage_wf _ _ _ _ _ _ _ h
  · simp only [State.setTile_mem]; exact writeImage_wf _ _ _ _ _ _ _ h
theorem writeTail_wf (s : State) (t c : Nat) (h : Memory.wf s.mem = true) : Memory.wf (writeTail s t c).1.mem = true := by
  unfold writeTail
  dsimp only
  split
  · exact writeImage_wf _ _ _ _ _ _ _ h
  · simp only [State.setCtx_mem]; exact writeImage_wf _ _ _ _ _ _ _ h
theorem matrixLeave_wf (s : State) (t c : Nat) (h : Memory.wf s.mem = true) : Memory.wf (matrixLeave s t c).1.mem = true := by
  refine runSteps_wf _ ?_ s h
  simp only [List.mem_append, List.mem_map]
  rintro f (⟨e, -, rfl⟩ | hf) s h
  · exact writeAcc_wf s t c _ h
  · split at hf
    · rw [List.mem_singleton.1 hf]; exact writeTail_wf s t c h
    · simp at hf
@[simp] theorem dropFopen_mem (s : State) (t c : Nat) : (dropFopen s t c).mem = s.mem := rfl
theorem switchOut_wf (s : State) (t c : Nat) (h : Memory.wf s.mem = true) : Memory.wf (switchOut s t c).1.mem = true := by
  simp only [switchOut, dropClean, dropCleanAccs, State.setTile_mem]
  refine runSteps_wf _ ?_ _ (by simpa using h)
  simp only [List.mem_cons, List.not_mem_nil, or_false]
  rintro f (rfl | rfl | rfl) s h
  · exact writeBack_wf s t c h
  · exact vectorLeave_wf s t c h
  · exact matrixLeave_wf s t c h

/-! ## And fills of the register cache, with the threads that IMAGEFAULT stops -/

/-- What becomes of the owner of a line that cannot be written back keeps the canonical form. -/
abbrev KeepsForm (stop : State → Nat → Nat → Trap → State) : Prop :=
  ∀ s t c tr, Memory.wf s.mem = true → Memory.wf (stop s t c tr).mem = true
theorem evictFrom_wf {stop : State → Nat → Nat → Trap → State} (hs : KeepsForm stop) (t : Nat) (l : List (Nat × Nat)) :
    ∀ s : State, Memory.wf s.mem = true → Memory.wf (evictFrom stop s t l).mem = true := by
  induction l with
  | nil => intro s h; exact h
  | cons p r ih =>
    intro s h
    rw [evictFrom]
    dsimp only
    split
    · exact h
    · split
      · exact ih s h
      · have hw := writeBackLine_wf s t p.1 p.2 h
        split
        · refine ih _ ?_
          split
          · exact hs _ _ _ _ hw
          · exact hw
        · simpa using hw
theorem ensureLineBy_wf {stop : State → Nat → Nat → Trap → State} (hs : KeepsForm stop) (s : State) (t c k : Nat)
    (h : Memory.wf s.mem = true) : Memory.wf (ensureLineBy stop s t c k).mem = true := by
  unfold ensureLineBy
  split
  · exact h
  · have h1 := evictFrom_wf hs t (s.tile t).rclru.reverse s h
    dsimp only
    simp only [State.setTile_mem]
    split
    · exact h1
    · rename_i e
      rw [State.setCtx_mem, meetAt_mem, imagePhys_mem e]
      exact h1
@[simp] theorem slotFreed_mem (s : State) (t : Nat) : (slotFreed s t).mem = s.mem := State.addDueOnce_mem ..
@[simp] theorem sendTrap_mem (s : State) (t c code info : Nat) (h : Bool) : (sendTrap s t c code info h).mem = s.mem := recordFrom_mem ..
@[simp] theorem dropAccs_mem (s : State) (t c : Nat) : (dropAccs s t c).mem = s.mem := rfl
theorem trapImageBy_wf {stop : State → Nat → Nat → Trap → State} (hs : KeepsForm stop) : KeepsForm (trapImageBy stop) := by
  intro s t c tr h
  simp only [trapImageBy, sendTrap_mem, slotFreed_mem]
  exact switchOut_wf _ _ _ (ensureLineBy_wf hs _ t c 3 (ensureLineBy_wf hs s t c 2 h))
theorem trapImageTo_wf : ∀ n, KeepsForm (trapImageTo n)
  | 0 => fun _ _ _ _ h => h
  | n + 1 => trapImageBy_wf (trapImageTo_wf n)
theorem trapImage_wf (s : State) (t c : Nat) (tr : Trap) (h : Memory.wf s.mem = true) : Memory.wf (trapImage s t c tr).mem = true :=
  trapImageTo_wf 64 s t c tr h
theorem ensureLine_wf (s : State) (t c k : Nat) (h : Memory.wf s.mem = true) : Memory.wf (ensureLine s t c k).mem = true :=
  ensureLineBy_wf (fun s t c tr h => trapImage_wf s t c tr h) s t c k h
theorem ensureTrapLines_wf (s : State) (t c : Nat) (h : Memory.wf s.mem = true) : Memory.wf (ensureTrapLines s t c).mem = true :=
  ensureLine_wf _ t c 3 (ensureLine_wf s t c 2 h)

/-! ## So do traps and exceptions -/

theorem switchOut_setCtx_wf (s : State) (t c : Nat) (x : Ctx) (h : Memory.wf s.mem = true) :
    Memory.wf (switchOut (s.setCtx t c x) t c).1.mem = true := switchOut_wf _ _ _ h
theorem takeTrap_wf (s : State) (t c : Nat) (tr : Trap) (h : Memory.wf s.mem = true) : Memory.wf (takeTrap s t c tr).mem = true := by
  have h1 := ensureTrapLines_wf s t c h
  simp only [takeTrap]
  generalize ensureTrapLines s t c = s at h1 ⊢
  generalize hx : ({ leaveSlot (s.ctx t c) with regs := _, state := _, dirty := _, marked := _ } : Ctx) = x
  have hw := switchOut_setCtx_wf s t c x h1
  generalize switchOut (s.setCtx t c x) t c = wb at hw ⊢
  rcases wb with ⟨v, _ | f⟩
  · simp only
    split
    · simpa using hw
    · simpa using hw
  · exact trapImage_wf _ _ _ _ hw
theorem takeHandover_wf (s : State) (t c : Nat) (tr : Trap) (h : Memory.wf s.mem = true) : Memory.wf (takeHandover s t c tr).mem = true := by
  simp only [takeHandover]
  split
  · exact h
  · split
    · exact takeTrap_wf s t c tr h
    · have h1 := ensureTrapLines_wf s t c h
      generalize ensureTrapLines s t c = s' at h1 ⊢
      generalize hx : ({ leaveSlot (s'.ctx t c) with regs := _, state := _, why := _, dirty := _ } : Ctx) = x
      have hw : Memory.wf (vectorLeave (s'.setCtx t c x) t c).1.mem = true := vectorLeave_wf _ _ _ h1
      generalize vectorLeave (s'.setCtx t c x) t c = wb at hw ⊢
      rcases wb with ⟨v, _ | f⟩
      · simpa using hw
      · exact trapImage_wf _ _ _ _ hw
@[simp] theorem newTenancy_mem (s : State) (i k old : Nat) : (newTenancy s i k old).mem = s.mem := by
  unfold newTenancy
  dsimp only
  split <;> rfl
@[simp] theorem enterException_mem (s : State) (i k t : Nat) (cause addr info epc : Word) : (enterException s i k t cause addr info epc).mem = s.mem := by
  simp [enterException]
@[simp] theorem takeException_mem (s : State) (i k : Nat) (tr : Trap) : (takeException s i k tr).mem = s.mem := by simp [takeException]
@[simp] theorem setZreq_mem (s : State) (t : Nat) (r : ZReq) : (s.setZreq t r).mem = s.mem := rfl
@[simp] theorem takeCopyFault_mem (s : State) (t : Nat) (r : ZReq) (tr : Trap) : (takeCopyFault s t r tr).mem = s.mem := by
  simp [takeCopyFault]
theorem raise_wf (s : State) (tr : Trap) (h : Memory.wf s.mem = true) : Memory.wf (raise s tr).mem = true := by
  unfold raise
  split
  · exact takeTrap_wf s _ _ tr h
  · simpa using h
  · split
    · simpa using h
    · exact h
theorem wantSerial_wf (s : State) (h : Memory.wf s.mem = true) : Memory.wf (wantSerial s).mem = true := by
  unfold wantSerial
  split
  · split
    · split
      · simpa using h
      · exact h
    · exact h
  · exact h
/-- The state that a stop keeps. -/
def Stop.base (s : State) : Stop → State
  | .kept s' _ => s'
  | _ => s
@[simp] theorem ownEngine_base (e : Nat) (s : State) (st : Stop) : (ownEngine e st).base s = st.base s := by cases st <;> rfl
/-- A stop keeps the form when the state that it keeps has it. -/
theorem onStop_wf (s : State) (st : Stop) (h : Memory.wf s.mem = true) (hb : Memory.wf (st.base s).mem = true) :
    Memory.wf (onStop s st).mem = true := by
  cases st with
  | trap tr => exact raise_wf s tr h
  | wait => exact h
  | kept s' o => cases o with
    | none => exact hb
    | some tr => exact raise_wf s' tr hb
  | serialise => exact wantSerial_wf s h
  | handover tr =>
    simp only [onStop]
    split
    · exact takeHandover_wf s _ _ tr h
    · exact raise_wf s tr h
/-- An instruction keeps the form when its body does, whether it retires or stops. -/
theorem runInstr_wf {p : Profile} {s t : State} {body : State → Except Stop State} (hb : ∀ u, body s = .ok u → Memory.wf u.mem = true)
    (hk : ∀ st, body s = .error st → Memory.wf (st.base s).mem = true) (hs : Memory.wf s.mem = true) (h : runInstr p s body = .next t) :
    Memory.wf t.mem = true := by
  rcases runInstr_cases h with ⟨-, e⟩ | ⟨-, st, e, rfl⟩ | ⟨-, rfl⟩
  · exact hb t e
  · exact onStop_wf s _ hs (by rw [ownEngine_base]; exact hk st e)
  · exact raise_wf s _ hs

/-! ## Results of the scalar integer instructions -/

@[simp] theorem alu_mem (a : Reg) (v : Word) (s : State) : (alu a v s).mem = s.mem := by simp [alu]
@[simp] theorem alu_cur (a : Reg) (v : Word) (s : State) : (alu a v s).cur = s.cur := by simp [alu]
/-- A result lands in its register. -/
theorem alu_getG {s : State} (h : ∀ t z, s.cur ≠ .zephyr t z) (a : Reg) (v : Word) : (alu a v s).getG a = v := by
  have h' : ∀ t z, (s.setG a v).cur ≠ .zephyr t z := by simpa using h
  rw [alu, State.getG_retire h', State.getG_setG_same h]
/-- And in no other. -/
theorem alu_getG_other {s : State} (h : ∀ t z, s.cur ≠ .zephyr t z) {a q : Reg} (v : Word) (hq : q ≠ a) : (alu a v s).getG q = s.getG q := by
  have h' : ∀ t z, (s.setG a v).cur ≠ .zephyr t z := by simpa using h
  rw [alu, State.getG_retire h', State.getG_setG_other h v hq]
/-- An integer instruction completes on every thread and core. -/
theorem execAlu_next {s : State} (h : ∀ t z, s.cur ≠ .zephyr t z) (a : Reg) (f : State → Word) : execAlu a f s = .next (alu a (f s) s) :=
  runInstr_ok (profBoth_allows _ h) rfl

end Sys2Proof.Machine
end

