-- ==== Sys2Proof/Laws/PerInstr.lean ====
section
/-! SUPPORT. One lemma per constructor of Instr: the fields that the encoder gives it have the tail layout of its major, and the parser
reads the instruction back from them (spec/02 Tables 2.2 to 2.4, spec/03 Tables 3.3 to 3.14). -/

/-- The fields of a well-formed instruction's encoding lie in its major's layout and parse to it. An engine step has no encoding. -/
def Sys2Proof.Laws.Fields.Statement (i : Sys2Proof.Instr) : Prop :=
  ∀ (h : Sys2Proof.Head) (t : Sys2Proof.Tail), Sys2Proof.wf i = true → Sys2Proof.encFields i = some (h, t) →
    Sys2Proof.layoutOf h.major.val h.tlen = some t.layout ∧ Sys2Proof.parse h t = some i

namespace Sys2Proof.Laws.Fields

open Sys2Proof

/-- lsb comes back from the immediate of bext and bins. -/
theorem bitfieldImm_lsb (l w : BitVec 6) : (bitfieldImm l w).setWidth 6 = l := by
  have := l.isLt
  have := w.isLt
  apply BitVec.eq_of_toNat_eq
  simp only [bitfieldImm, BitVec.toNat_setWidth, BitVec.toNat_ofNat]
  omega
/-- So does the width less 1. -/
theorem bitfieldImm_width (l w : BitVec 6) : (bitfieldImm l w >>> 8).setWidth 6 = w := by
  have := l.isLt
  have := w.isLt
  apply BitVec.eq_of_toNat_eq
  simp only [bitfieldImm, BitVec.toNat_setWidth, BitVec.toNat_ushiftRight, BitVec.toNat_ofNat, Nat.shiftRight_eq_div_pow]
  omega

theorem nop : Statement .nop := fun _ _ _ he => by cases he; exact ⟨rfl, rfl⟩
theorem ret : Statement .ret := fun _ _ _ he => by cases he; exact ⟨rfl, rfl⟩
theorem jr (x0 : Reg) : Statement (.jr x0) := fun _ _ _ he => by cases he; exact ⟨rfl, rfl⟩
theorem callr (x0 : Reg) : Statement (.callr x0) := fun _ _ _ he => by cases he; exact ⟨rfl, rfl⟩
theorem pause (x0 : BitVec 16) : Statement (.pause x0) := fun _ _ _ he => by cases he; exact ⟨rfl, rfl⟩
theorem sys (x0 : BitVec 16) : Statement (.sys x0) := fun _ _ _ he => by cases he; exact ⟨rfl, rfl⟩
theorem tret : Statement .tret := fun _ _ _ he => by cases he; exact ⟨rfl, rfl⟩
theorem yield : Statement .yield := fun _ _ _ he => by cases he; exact ⟨rfl, rfl⟩
theorem calm : Statement .calm := fun _ _ _ he => by cases he; exact ⟨rfl, rfl⟩
theorem fence (x0 : Reg) : Statement (.fence x0) := fun _ _ _ he => by cases he; exact ⟨rfl, rfl⟩
theorem lfence : Statement .lfence := fun _ _ _ he => by cases he; exact ⟨rfl, rfl⟩
theorem waitpred : Statement .waitpred := fun _ _ _ he => by cases he; exact ⟨rfl, rfl⟩
theorem addHead (x0 : Reg) (x1 : Reg) : Statement (.addHead x0 x1) := fun _ _ _ he => by cases he; exact ⟨rfl, rfl⟩
theorem addX (x0 : Reg) (x1 : Reg) (x2 : Reg) : Statement (.addX x0 x1 x2) := fun _ _ _ he => by cases he; exact ⟨rfl, rfl⟩
theorem addI32 (x0 : Reg) (x1 : Reg) (x2 : BitVec 32) : Statement (.addI32 x0 x1 x2) := fun _ _ _ he => by cases he; exact ⟨rfl, rfl⟩
theorem addI64 (x0 : Reg) (x1 : Reg) (x2 : BitVec 64) : Statement (.addI64 x0 x1 x2) := fun _ _ _ he => by cases he; exact ⟨rfl, rfl⟩
theorem subHead (x0 : Reg) (x1 : Reg) : Statement (.subHead x0 x1) := fun _ _ _ he => by cases he; exact ⟨rfl, rfl⟩
theorem subX (x0 : Reg) (x1 : Reg) (x2 : Reg) : Statement (.subX x0 x1 x2) := fun _ _ _ he => by cases he; exact ⟨rfl, rfl⟩
theorem subI32 (x0 : Reg) (x1 : Reg) (x2 : BitVec 32) : Statement (.subI32 x0 x1 x2) := fun _ _ _ he => by cases he; exact ⟨rfl, rfl⟩
theorem subI64 (x0 : Reg) (x1 : Reg) (x2 : BitVec 64) : Statement (.subI64 x0 x1 x2) := fun _ _ _ he => by cases he; exact ⟨rfl, rfl⟩
theorem andX (x0 : Reg) (x1 : Reg) (x2 : Reg) : Statement (.andX x0 x1 x2) := fun _ _ _ he => by cases he; exact ⟨rfl, rfl⟩
theorem andXI (x0 : Reg) (x1 : Reg) (x2 : BitVec 32) : Statement (.andXI x0 x1 x2) := fun _ _ _ he => by cases he; exact ⟨rfl, rfl⟩
theorem orX (x0 : Reg) (x1 : Reg) (x2 : Reg) : Statement (.orX x0 x1 x2) := fun _ _ _ he => by cases he; exact ⟨rfl, rfl⟩
theorem orXI (x0 : Reg) (x1 : Reg) (x2 : BitVec 32) : Statement (.orXI x0 x1 x2) := fun _ _ _ he => by cases he; exact ⟨rfl, rfl⟩
theorem xorX (x0 : Reg) (x1 : Reg) (x2 : Reg) : Statement (.xorX x0 x1 x2) := fun _ _ _ he => by cases he; exact ⟨rfl, rfl⟩
theorem xorXI (x0 : Reg) (x1 : Reg) (x2 : BitVec 32) : Statement (.xorXI x0 x1 x2) := fun _ _ _ he => by cases he; exact ⟨rfl, rfl⟩
theorem andnX (x0 : Reg) (x1 : Reg) (x2 : Reg) : Statement (.andnX x0 x1 x2) := fun _ _ _ he => by cases he; exact ⟨rfl, rfl⟩
theorem andnXI (x0 : Reg) (x1 : Reg) (x2 : BitVec 32) : Statement (.andnXI x0 x1 x2) := fun _ _ _ he => by cases he; exact ⟨rfl, rfl⟩
theorem shlX (x0 : Reg) (x1 : Reg) (x2 : Reg) : Statement (.shlX x0 x1 x2) := fun _ _ _ he => by cases he; exact ⟨rfl, rfl⟩
theorem shlXI (x0 : Reg) (x1 : Reg) (x2 : BitVec 32) : Statement (.shlXI x0 x1 x2) := fun _ _ _ he => by cases he; exact ⟨rfl, rfl⟩
theorem shrX (x0 : Reg) (x1 : Reg) (x2 : Reg) : Statement (.shrX x0 x1 x2) := fun _ _ _ he => by cases he; exact ⟨rfl, rfl⟩
theorem shrXI (x0 : Reg) (x1 : Reg) (x2 : BitVec 32) : Statement (.shrXI x0 x1 x2) := fun _ _ _ he => by cases he; exact ⟨rfl, rfl⟩
theorem sraX (x0 : Reg) (x1 : Reg) (x2 : Reg) : Statement (.sraX x0 x1 x2) := fun _ _ _ he => by cases he; exact ⟨rfl, rfl⟩
theorem sraXI (x0 : Reg) (x1 : Reg) (x2 : BitVec 32) : Statement (.sraXI x0 x1 x2) := fun _ _ _ he => by cases he; exact ⟨rfl, rfl⟩
theorem mulX (x0 : Reg) (x1 : Reg) (x2 : Reg) : Statement (.mulX x0 x1 x2) := fun _ _ _ he => by cases he; exact ⟨rfl, rfl⟩
theorem mulXI (x0 : Reg) (x1 : Reg) (x2 : BitVec 32) : Statement (.mulXI x0 x1 x2) := fun _ _ _ he => by cases he; exact ⟨rfl, rfl⟩
theorem mulhX (x0 : Reg) (x1 : Reg) (x2 : Reg) : Statement (.mulhX x0 x1 x2) := fun _ _ _ he => by cases he; exact ⟨rfl, rfl⟩
theorem mulhXI (x0 : Reg) (x1 : Reg) (x2 : BitVec 32) : Statement (.mulhXI x0 x1 x2) := fun _ _ _ he => by cases he; exact ⟨rfl, rfl⟩
theorem mulhuX (x0 : Reg) (x1 : Reg) (x2 : Reg) : Statement (.mulhuX x0 x1 x2) := fun _ _ _ he => by cases he; exact ⟨rfl, rfl⟩
theorem mulhuXI (x0 : Reg) (x1 : Reg) (x2 : BitVec 32) : Statement (.mulhuXI x0 x1 x2) := fun _ _ _ he => by cases he; exact ⟨rfl, rfl⟩
theorem div (x0 : Reg) (x1 : Reg) (x2 : Reg) (x3 : Reg) : Statement (.div x0 x1 x2 x3) := fun _ _ _ he => by cases he; exact ⟨rfl, rfl⟩
theorem divu (x0 : Reg) (x1 : Reg) (x2 : Reg) (x3 : Reg) : Statement (.divu x0 x1 x2 x3) := fun _ _ _ he => by cases he; exact ⟨rfl, rfl⟩
theorem rem (x0 : Reg) (x1 : Reg) (x2 : Reg) (x3 : Reg) : Statement (.rem x0 x1 x2 x3) := fun _ _ _ he => by cases he; exact ⟨rfl, rfl⟩
theorem remu (x0 : Reg) (x1 : Reg) (x2 : Reg) (x3 : Reg) : Statement (.remu x0 x1 x2 x3) := fun _ _ _ he => by cases he; exact ⟨rfl, rfl⟩
theorem minX (x0 : Reg) (x1 : Reg) (x2 : Reg) : Statement (.minX x0 x1 x2) := fun _ _ _ he => by cases he; exact ⟨rfl, rfl⟩
theorem minXI (x0 : Reg) (x1 : Reg) (x2 : BitVec 32) : Statement (.minXI x0 x1 x2) := fun _ _ _ he => by cases he; exact ⟨rfl, rfl⟩
theorem maxX (x0 : Reg) (x1 : Reg) (x2 : Reg) : Statement (.maxX x0 x1 x2) := fun _ _ _ he => by cases he; exact ⟨rfl, rfl⟩
theorem maxXI (x0 : Reg) (x1 : Reg) (x2 : BitVec 32) : Statement (.maxXI x0 x1 x2) := fun _ _ _ he => by cases he; exact ⟨rfl, rfl⟩
theorem minuX (x0 : Reg) (x1 : Reg) (x2 : Reg) : Statement (.minuX x0 x1 x2) := fun _ _ _ he => by cases he; exact ⟨rfl, rfl⟩
theorem minuXI (x0 : Reg) (x1 : Reg) (x2 : BitVec 32) : Statement (.minuXI x0 x1 x2) := fun _ _ _ he => by cases he; exact ⟨rfl, rfl⟩
theorem maxuX (x0 : Reg) (x1 : Reg) (x2 : Reg) : Statement (.maxuX x0 x1 x2) := fun _ _ _ he => by cases he; exact ⟨rfl, rfl⟩
theorem maxuXI (x0 : Reg) (x1 : Reg) (x2 : BitVec 32) : Statement (.maxuXI x0 x1 x2) := fun _ _ _ he => by cases he; exact ⟨rfl, rfl⟩
theorem ldBK (x0 : Reg) (x1 : Reg) (x2 : Reg) (x3 : BitVec 12) : Statement (.ldBK x0 x1 x2 x3) := fun _ _ _ he => by cases he; exact ⟨rfl, rfl⟩
theorem ldBKL (x0 : Reg) (x1 : Reg) (x2 : Reg) (x3 : BitVec 24) : Statement (.ldBKL x0 x1 x2 x3) := fun _ _ _ he => by cases he; exact ⟨rfl, rfl⟩
theorem ldHK (x0 : Reg) (x1 : Reg) (x2 : Reg) (x3 : BitVec 12) : Statement (.ldHK x0 x1 x2 x3) := fun _ _ _ he => by cases he; exact ⟨rfl, rfl⟩
theorem ldHKL (x0 : Reg) (x1 : Reg) (x2 : Reg) (x3 : BitVec 24) : Statement (.ldHKL x0 x1 x2 x3) := fun _ _ _ he => by cases he; exact ⟨rfl, rfl⟩
theorem ldWK (x0 : Reg) (x1 : Reg) (x2 : Reg) (x3 : BitVec 12) : Statement (.ldWK x0 x1 x2 x3) := fun _ _ _ he => by cases he; exact ⟨rfl, rfl⟩
theorem ldWKL (x0 : Reg) (x1 : Reg) (x2 : Reg) (x3 : BitVec 24) : Statement (.ldWKL x0 x1 x2 x3) := fun _ _ _ he => by cases he; exact ⟨rfl, rfl⟩
theorem ldDK (x0 : Reg) (x1 : Reg) (x2 : Reg) (x3 : BitVec 12) : Statement (.ldDK x0 x1 x2 x3) := fun _ _ _ he => by cases he; exact ⟨rfl, rfl⟩
theorem ldDKL (x0 : Reg) (x1 : Reg) (x2 : Reg) (x3 : BitVec 24) : Statement (.ldDKL x0 x1 x2 x3) := fun _ _ _ he => by cases he; exact ⟨rfl, rfl⟩
theorem stBK (x0 : Reg) (x1 : Reg) (x2 : Reg) (x3 : BitVec 12) : Statement (.stBK x0 x1 x2 x3) := fun _ _ _ he => by cases he; exact ⟨rfl, rfl⟩
theorem stBKL (x0 : Reg) (x1 : Reg) (x2 : Reg) (x3 : BitVec 24) : Statement (.stBKL x0 x1 x2 x3) := fun _ _ _ he => by cases he; exact ⟨rfl, rfl⟩
theorem stHK (x0 : Reg) (x1 : Reg) (x2 : Reg) (x3 : BitVec 12) : Statement (.stHK x0 x1 x2 x3) := fun _ _ _ he => by cases he; exact ⟨rfl, rfl⟩
theorem stHKL (x0 : Reg) (x1 : Reg) (x2 : Reg) (x3 : BitVec 24) : Statement (.stHKL x0 x1 x2 x3) := fun _ _ _ he => by cases he; exact ⟨rfl, rfl⟩
theorem stWK (x0 : Reg) (x1 : Reg) (x2 : Reg) (x3 : BitVec 12) : Statement (.stWK x0 x1 x2 x3) := fun _ _ _ he => by cases he; exact ⟨rfl, rfl⟩
theorem stWKL (x0 : Reg) (x1 : Reg) (x2 : Reg) (x3 : BitVec 24) : Statement (.stWKL x0 x1 x2 x3) := fun _ _ _ he => by cases he; exact ⟨rfl, rfl⟩
theorem stDK (x0 : Reg) (x1 : Reg) (x2 : Reg) (x3 : BitVec 12) : Statement (.stDK x0 x1 x2 x3) := fun _ _ _ he => by cases he; exact ⟨rfl, rfl⟩
theorem stDKL (x0 : Reg) (x1 : Reg) (x2 : Reg) (x3 : BitVec 24) : Statement (.stDKL x0 x1 x2 x3) := fun _ _ _ he => by cases he; exact ⟨rfl, rfl⟩
theorem seqX (x0 : Reg) (x1 : Reg) (x2 : Reg) : Statement (.seqX x0 x1 x2) := fun _ _ _ he => by cases he; exact ⟨rfl, rfl⟩
theorem seqXI (x0 : Reg) (x1 : Reg) (x2 : BitVec 32) : Statement (.seqXI x0 x1 x2) := fun _ _ _ he => by cases he; exact ⟨rfl, rfl⟩
theorem sneX (x0 : Reg) (x1 : Reg) (x2 : Reg) : Statement (.sneX x0 x1 x2) := fun _ _ _ he => by cases he; exact ⟨rfl, rfl⟩
theorem sneXI (x0 : Reg) (x1 : Reg) (x2 : BitVec 32) : Statement (.sneXI x0 x1 x2) := fun _ _ _ he => by cases he; exact ⟨rfl, rfl⟩
theorem sltX (x0 : Reg) (x1 : Reg) (x2 : Reg) : Statement (.sltX x0 x1 x2) := fun _ _ _ he => by cases he; exact ⟨rfl, rfl⟩
theorem sltXI (x0 : Reg) (x1 : Reg) (x2 : BitVec 32) : Statement (.sltXI x0 x1 x2) := fun _ _ _ he => by cases he; exact ⟨rfl, rfl⟩
theorem sltuX (x0 : Reg) (x1 : Reg) (x2 : Reg) : Statement (.sltuX x0 x1 x2) := fun _ _ _ he => by cases he; exact ⟨rfl, rfl⟩
theorem sltuXI (x0 : Reg) (x1 : Reg) (x2 : BitVec 32) : Statement (.sltuXI x0 x1 x2) := fun _ _ _ he => by cases he; exact ⟨rfl, rfl⟩
theorem liI16 (x0 : Reg) (x1 : BitVec 16) : Statement (.liI16 x0 x1) := fun _ _ _ he => by cases he; exact ⟨rfl, rfl⟩
theorem liI32 (x0 : Reg) (x1 : BitVec 32) : Statement (.liI32 x0 x1) := fun _ _ _ he => by cases he; exact ⟨rfl, rfl⟩
theorem liI64 (x0 : Reg) (x1 : BitVec 64) : Statement (.liI64 x0 x1) := fun _ _ _ he => by cases he; exact ⟨rfl, rfl⟩
theorem rdc (x0 : Reg) (x1 : BitVec 16) : Statement (.rdc x0 x1) := fun _ _ _ he => by cases he; exact ⟨rfl, rfl⟩
theorem wrc (x0 : Reg) (x1 : BitVec 16) : Statement (.wrc x0 x1) := fun _ _ _ he => by cases he; exact ⟨rfl, rfl⟩
theorem brJ (x0 : BitVec 11) (x1 : BitVec 5) : Statement (.brJ x0 x1) := fun _ _ _ he => by cases he; exact ⟨rfl, rfl⟩
theorem brJL (x0 : BitVec 27) (x1 : BitVec 5) : Statement (.brJL x0 x1) := fun _ _ _ he => by cases he; exact ⟨rfl, rfl⟩
theorem callJ (x0 : BitVec 11) (x1 : BitVec 5) : Statement (.callJ x0 x1) := fun _ _ _ he => by cases he; exact ⟨rfl, rfl⟩
theorem callJL (x0 : BitVec 27) (x1 : BitVec 5) : Statement (.callJL x0 x1) := fun _ _ _ he => by cases he; exact ⟨rfl, rfl⟩
theorem mov (x0 : Reg) (x1 : Reg) : Statement (.mov x0 x1) := fun _ _ _ he => by cases he; exact ⟨rfl, rfl⟩
theorem neg (x0 : Reg) (x1 : Reg) : Statement (.neg x0 x1) := fun _ _ _ he => by cases he; exact ⟨rfl, rfl⟩
theorem not (x0 : Reg) (x1 : Reg) : Statement (.not x0 x1) := fun _ _ _ he => by cases he; exact ⟨rfl, rfl⟩
theorem clz (x0 : Reg) (x1 : Reg) : Statement (.clz x0 x1) := fun _ _ _ he => by cases he; exact ⟨rfl, rfl⟩
theorem ctz (x0 : Reg) (x1 : Reg) : Statement (.ctz x0 x1) := fun _ _ _ he => by cases he; exact ⟨rfl, rfl⟩
theorem popc (x0 : Reg) (x1 : Reg) : Statement (.popc x0 x1) := fun _ _ _ he => by cases he; exact ⟨rfl, rfl⟩
theorem bswap (x0 : Reg) (x1 : Reg) : Statement (.bswap x0 x1) := fun _ _ _ he => by cases he; exact ⟨rfl, rfl⟩
theorem tagof (x0 : Reg) (x1 : Reg) : Statement (.tagof x0 x1) := fun _ _ _ he => by cases he; exact ⟨rfl, rfl⟩
theorem extBZ (x0 : Reg) (x1 : Reg) : Statement (.extBZ x0 x1) := fun _ _ _ he => by cases he; exact ⟨rfl, rfl⟩
theorem extHZ (x0 : Reg) (x1 : Reg) : Statement (.extHZ x0 x1) := fun _ _ _ he => by cases he; exact ⟨rfl, rfl⟩
theorem extWZ (x0 : Reg) (x1 : Reg) : Statement (.extWZ x0 x1) := fun _ _ _ he => by cases he; exact ⟨rfl, rfl⟩
theorem extBS (x0 : Reg) (x1 : Reg) : Statement (.extBS x0 x1) := fun _ _ _ he => by cases he; exact ⟨rfl, rfl⟩
theorem extHS (x0 : Reg) (x1 : Reg) : Statement (.extHS x0 x1) := fun _ _ _ he => by cases he; exact ⟨rfl, rfl⟩
theorem extWS (x0 : Reg) (x1 : Reg) : Statement (.extWS x0 x1) := fun _ _ _ he => by cases he; exact ⟨rfl, rfl⟩
theorem bnzJ (x0 : Reg) (x1 : BitVec 11) (x2 : BitVec 5) : Statement (.bnzJ x0 x1 x2) := fun _ _ _ he => by cases he; exact ⟨rfl, rfl⟩
theorem bnzJL (x0 : Reg) (x1 : BitVec 27) (x2 : BitVec 5) : Statement (.bnzJL x0 x1 x2) := fun _ _ _ he => by cases he; exact ⟨rfl, rfl⟩
theorem bzJ (x0 : Reg) (x1 : BitVec 11) (x2 : BitVec 5) : Statement (.bzJ x0 x1 x2) := fun _ _ _ he => by cases he; exact ⟨rfl, rfl⟩
theorem bzJL (x0 : Reg) (x1 : BitVec 27) (x2 : BitVec 5) : Statement (.bzJL x0 x1 x2) := fun _ _ _ he => by cases he; exact ⟨rfl, rfl⟩
theorem beqJ (x0 : Reg) (x1 : Reg) (x2 : BitVec 11) (x3 : BitVec 5) : Statement (.beqJ x0 x1 x2 x3) := fun _ _ _ he => by cases he; exact ⟨rfl, rfl⟩
theorem beqJL (x0 : Reg) (x1 : Reg) (x2 : BitVec 27) (x3 : BitVec 5) : Statement (.beqJL x0 x1 x2 x3) := fun _ _ _ he => by cases he; exact ⟨rfl, rfl⟩
theorem bneJ (x0 : Reg) (x1 : Reg) (x2 : BitVec 11) (x3 : BitVec 5) : Statement (.bneJ x0 x1 x2 x3) := fun _ _ _ he => by cases he; exact ⟨rfl, rfl⟩
theorem bneJL (x0 : Reg) (x1 : Reg) (x2 : BitVec 27) (x3 : BitVec 5) : Statement (.bneJL x0 x1 x2 x3) := fun _ _ _ he => by cases he; exact ⟨rfl, rfl⟩
theorem bltJ (x0 : Reg) (x1 : Reg) (x2 : BitVec 11) (x3 : BitVec 5) : Statement (.bltJ x0 x1 x2 x3) := fun _ _ _ he => by cases he; exact ⟨rfl, rfl⟩
theorem bltJL (x0 : Reg) (x1 : Reg) (x2 : BitVec 27) (x3 : BitVec 5) : Statement (.bltJL x0 x1 x2 x3) := fun _ _ _ he => by cases he; exact ⟨rfl, rfl⟩
theorem bgeJ (x0 : Reg) (x1 : Reg) (x2 : BitVec 11) (x3 : BitVec 5) : Statement (.bgeJ x0 x1 x2 x3) := fun _ _ _ he => by cases he; exact ⟨rfl, rfl⟩
theorem bgeJL (x0 : Reg) (x1 : Reg) (x2 : BitVec 27) (x3 : BitVec 5) : Statement (.bgeJL x0 x1 x2 x3) := fun _ _ _ he => by cases he; exact ⟨rfl, rfl⟩
theorem bltuJ (x0 : Reg) (x1 : Reg) (x2 : BitVec 11) (x3 : BitVec 5) : Statement (.bltuJ x0 x1 x2 x3) := fun _ _ _ he => by cases he; exact ⟨rfl, rfl⟩
theorem bltuJL (x0 : Reg) (x1 : Reg) (x2 : BitVec 27) (x3 : BitVec 5) : Statement (.bltuJL x0 x1 x2 x3) := fun _ _ _ he => by cases he; exact ⟨rfl, rfl⟩
theorem bgeuJ (x0 : Reg) (x1 : Reg) (x2 : BitVec 11) (x3 : BitVec 5) : Statement (.bgeuJ x0 x1 x2 x3) := fun _ _ _ he => by cases he; exact ⟨rfl, rfl⟩
theorem bgeuJL (x0 : Reg) (x1 : Reg) (x2 : BitVec 27) (x3 : BitVec 5) : Statement (.bgeuJL x0 x1 x2 x3) := fun _ _ _ he => by cases he; exact ⟨rfl, rfl⟩
theorem sleX (x0 : Reg) (x1 : Reg) (x2 : Reg) : Statement (.sleX x0 x1 x2) := fun _ _ _ he => by cases he; exact ⟨rfl, rfl⟩
theorem sleXI (x0 : Reg) (x1 : Reg) (x2 : BitVec 32) : Statement (.sleXI x0 x1 x2) := fun _ _ _ he => by cases he; exact ⟨rfl, rfl⟩
theorem sleuX (x0 : Reg) (x1 : Reg) (x2 : Reg) : Statement (.sleuX x0 x1 x2) := fun _ _ _ he => by cases he; exact ⟨rfl, rfl⟩
theorem sleuXI (x0 : Reg) (x1 : Reg) (x2 : BitVec 32) : Statement (.sleuXI x0 x1 x2) := fun _ _ _ he => by cases he; exact ⟨rfl, rfl⟩
theorem bext (x0 : Reg) (x1 : Reg) (x2 : BitVec 6) (x3 : BitVec 6) : Statement (.bext x0 x1 x2 x3) := fun _ _ _ he => by
  cases he
  exact ⟨rfl, by simp [parse, parse1C, bitfieldImm_lsb, bitfieldImm_width]⟩
theorem bins (x0 : Reg) (x1 : Reg) (x2 : BitVec 6) (x3 : BitVec 6) : Statement (.bins x0 x1 x2 x3) := fun _ _ _ he => by
  cases he
  exact ⟨rfl, by simp [parse, parse1C, bitfieldImm_lsb, bitfieldImm_width]⟩
theorem sel (x0 : Reg) (x1 : Reg) (x2 : Reg) (x3 : Reg) : Statement (.sel x0 x1 x2 x3) := fun _ _ _ he => by cases he; exact ⟨rfl, rfl⟩
theorem paddX (x0 : Reg) (x1 : Reg) (x2 : Reg) : Statement (.paddX x0 x1 x2) := fun _ _ _ he => by cases he; exact ⟨rfl, rfl⟩
theorem paddXI (x0 : Reg) (x1 : Reg) (x2 : BitVec 32) : Statement (.paddXI x0 x1 x2) := fun _ _ _ he => by cases he; exact ⟨rfl, rfl⟩
theorem psubX (x0 : Reg) (x1 : Reg) (x2 : Reg) : Statement (.psubX x0 x1 x2) := fun _ _ _ he => by cases he; exact ⟨rfl, rfl⟩
theorem psubXI (x0 : Reg) (x1 : Reg) (x2 : BitVec 32) : Statement (.psubXI x0 x1 x2) := fun _ _ _ he => by cases he; exact ⟨rfl, rfl⟩
theorem ptagX (x0 : Reg) (x1 : Reg) (x2 : Reg) : Statement (.ptagX x0 x1 x2) := fun _ _ _ he => by cases he; exact ⟨rfl, rfl⟩
theorem ptagXI (x0 : Reg) (x1 : Reg) (x2 : BitVec 32) : Statement (.ptagXI x0 x1 x2) := fun _ _ _ he => by cases he; exact ⟨rfl, rfl⟩
theorem loopGJ (x0 : Reg) (x1 : BitVec 11) (x2 : BitVec 5) : Statement (.loopGJ x0 x1 x2) := fun _ _ _ he => by cases he; exact ⟨rfl, rfl⟩
theorem loopGJL (x0 : Reg) (x1 : BitVec 27) (x2 : BitVec 5) : Statement (.loopGJL x0 x1 x2) := fun _ _ _ he => by cases he; exact ⟨rfl, rfl⟩
theorem loopMbJ (x0 : Reg) (x1 : BitVec 11) (x2 : BitVec 5) : Statement (.loopMbJ x0 x1 x2) := fun _ _ _ he => by cases he; exact ⟨rfl, rfl⟩
theorem loopMbJL (x0 : Reg) (x1 : BitVec 27) (x2 : BitVec 5) : Statement (.loopMbJL x0 x1 x2) := fun _ _ _ he => by cases he; exact ⟨rfl, rfl⟩
theorem ldx (x0 : Fin 4) (x1 : Reg) (x2 : Reg) (x3 : Reg) (x4 : Reg) : Statement (.ldx x0 x1 x2 x3 x4) := fun _ _ _ he => by cases he; exact ⟨rfl, rfl⟩
theorem stx (x0 : Fin 4) (x1 : Reg) (x2 : Reg) (x3 : Reg) (x4 : Reg) : Statement (.stx x0 x1 x2 x3 x4) := fun _ _ _ he => by cases he; exact ⟨rfl, rfl⟩
theorem ldp (x0 : Reg) (x1 : Reg) (x2 : Reg) (x3 : Reg) (x4 : Reg) : Statement (.ldp x0 x1 x2 x3 x4) := fun _ _ _ he => by cases he; exact ⟨rfl, rfl⟩
theorem stp (x0 : Reg) (x1 : Reg) (x2 : Reg) (x3 : Reg) (x4 : Reg) : Statement (.stp x0 x1 x2 x3 x4) := fun _ _ _ he => by cases he; exact ⟨rfl, rfl⟩
theorem ldxS (x0 : Fin 4) (x1 : Reg) (x2 : Reg) (x3 : Reg) (x4 : Reg) : Statement (.ldxS x0 x1 x2 x3 x4) := fun _ _ _ he => by cases he; exact ⟨rfl, rfl⟩
theorem vadd (x0 : Fin 32) (x1 : Reg) (x2 : Reg) (x3 : Reg) (x4 : FMods) : Statement (.vadd x0 x1 x2 x3 x4) := fun _ _ _ he => by cases he; exact ⟨rfl, rfl⟩
theorem vsub (x0 : Fin 32) (x1 : Reg) (x2 : Reg) (x3 : Reg) (x4 : FMods) : Statement (.vsub x0 x1 x2 x3 x4) := fun _ _ _ he => by cases he; exact ⟨rfl, rfl⟩
theorem vmul (x0 : Fin 32) (x1 : Reg) (x2 : Reg) (x3 : Reg) (x4 : FMods) : Statement (.vmul x0 x1 x2 x3 x4) := fun _ _ _ he => by cases he; exact ⟨rfl, rfl⟩
theorem vfma (x0 : Fin 32) (x1 : Reg) (x2 : Reg) (x3 : Reg) (x4 : Reg) (x5 : FMods) : Statement (.vfma x0 x1 x2 x3 x4 x5) := fun _ _ _ he => by cases he; exact ⟨rfl, rfl⟩
theorem vmin (x0 : Fin 32) (x1 : Reg) (x2 : Reg) (x3 : Reg) (x4 : FMods) : Statement (.vmin x0 x1 x2 x3 x4) := fun _ _ _ he => by cases he; exact ⟨rfl, rfl⟩
theorem vmax (x0 : Fin 32) (x1 : Reg) (x2 : Reg) (x3 : Reg) (x4 : FMods) : Statement (.vmax x0 x1 x2 x3 x4) := fun _ _ _ he => by cases he; exact ⟨rfl, rfl⟩
theorem vrnd (x0 : Fin 32) (x1 : Reg) (x2 : Reg) (x3 : FMods) : Statement (.vrnd x0 x1 x2 x3) := fun _ _ _ he => by cases he; exact ⟨rfl, rfl⟩
theorem vdiv (x0 : Fin 32) (x1 : Reg) (x2 : Reg) (x3 : Reg) (x4 : FMods) (x5 : Reg) : Statement (.vdiv x0 x1 x2 x3 x4 x5) := fun _ _ _ he => by cases he; exact ⟨rfl, rfl⟩
theorem vsqrt (x0 : Fin 32) (x1 : Reg) (x2 : Reg) (x3 : FMods) (x4 : Reg) : Statement (.vsqrt x0 x1 x2 x3 x4) := fun _ _ _ he => by cases he; exact ⟨rfl, rfl⟩
theorem vcmp (x0 : Fin 32) (x1 : Reg) (x2 : Reg) (x3 : Reg) (x4 : Reg) (x5 : FMods) : Statement (.vcmp x0 x1 x2 x3 x4 x5) := fun _ _ _ he => by cases he; exact ⟨rfl, rfl⟩
theorem vsel (x0 : Fin 32) (x1 : Reg) (x2 : Reg) (x3 : Reg) (x4 : Reg) (x5 : FMods) : Statement (.vsel x0 x1 x2 x3 x4 x5) := fun _ _ _ he => by cases he; exact ⟨rfl, rfl⟩
theorem vredadd (x0 : Fin 32) (x1 : Reg) (x2 : Reg) (x3 : FMods) : Statement (.vredadd x0 x1 x2 x3) := fun _ _ _ he => by cases he; exact ⟨rfl, rfl⟩
theorem vredmax (x0 : Fin 32) (x1 : Reg) (x2 : Reg) (x3 : FMods) : Statement (.vredmax x0 x1 x2 x3) := fun _ _ _ he => by cases he; exact ⟨rfl, rfl⟩
theorem vredmin (x0 : Fin 32) (x1 : Reg) (x2 : Reg) (x3 : FMods) : Statement (.vredmin x0 x1 x2 x3) := fun _ _ _ he => by cases he; exact ⟨rfl, rfl⟩
theorem vcvt (x0 : Fin 32) (x1 : Reg) (x2 : Reg) (x3 : Reg) (x4 : FMods) : Statement (.vcvt x0 x1 x2 x3 x4) := fun _ _ _ he => by cases he; exact ⟨rfl, rfl⟩
theorem vqnt (x0 : Fin 32) (x1 : Reg) (x2 : Reg) (x3 : Reg) (x4 : Reg) : Statement (.vqnt x0 x1 x2 x3 x4) := fun _ _ _ he => by cases he; exact ⟨rfl, rfl⟩
theorem vdqnt (x0 : Fin 32) (x1 : Reg) (x2 : Reg) (x3 : Reg) (x4 : Reg) (x5 : FMods) : Statement (.vdqnt x0 x1 x2 x3 x4 x5) := fun _ _ _ he => by cases he; exact ⟨rfl, rfl⟩
theorem vand (x0 : Fin 32) (x1 : Reg) (x2 : Reg) (x3 : Reg) : Statement (.vand x0 x1 x2 x3) := fun _ _ _ he => by cases he; exact ⟨rfl, rfl⟩
theorem vor (x0 : Fin 32) (x1 : Reg) (x2 : Reg) (x3 : Reg) : Statement (.vor x0 x1 x2 x3) := fun _ _ _ he => by cases he; exact ⟨rfl, rfl⟩
theorem vxor (x0 : Fin 32) (x1 : Reg) (x2 : Reg) (x3 : Reg) : Statement (.vxor x0 x1 x2 x3) := fun _ _ _ he => by cases he; exact ⟨rfl, rfl⟩
theorem vshl (x0 : Fin 32) (x1 : Reg) (x2 : Reg) (x3 : Reg) : Statement (.vshl x0 x1 x2 x3) := fun _ _ _ he => by cases he; exact ⟨rfl, rfl⟩
theorem vshr (x0 : Fin 32) (x1 : Reg) (x2 : Reg) (x3 : Reg) : Statement (.vshr x0 x1 x2 x3) := fun _ _ _ he => by cases he; exact ⟨rfl, rfl⟩
theorem vperm (x0 : Fin 32) (x1 : Reg) (x2 : Reg) (x3 : Reg) (x4 : FMods) : Statement (.vperm x0 x1 x2 x3 x4) := fun _ _ _ he => by cases he; exact ⟨rfl, rfl⟩
theorem vclr (x0 : Reg) : Statement (.vclr x0) := fun _ _ _ he => by cases he; exact ⟨rfl, rfl⟩
theorem vmov (x0 : Fin 32) (x1 : Reg) (x2 : Reg) (x3 : FMods) : Statement (.vmov x0 x1 x2 x3) := fun _ _ _ he => by cases he; exact ⟨rfl, rfl⟩
theorem vbcast (x0 : Fin 32) (x1 : Reg) (x2 : Reg) : Statement (.vbcast x0 x1 x2) := fun _ _ _ he => by cases he; exact ⟨rfl, rfl⟩
theorem vins (x0 : Fin 32) (x1 : Reg) (x2 : Reg) (x3 : Reg) : Statement (.vins x0 x1 x2 x3) := fun _ _ _ he => by cases he; exact ⟨rfl, rfl⟩
theorem vext (x0 : Fin 32) (x1 : Reg) (x2 : Reg) (x3 : Reg) : Statement (.vext x0 x1 x2 x3) := fun _ _ _ he => by cases he; exact ⟨rfl, rfl⟩
theorem vldK (x0 : Reg) (x1 : Reg) (x2 : Reg) (x3 : BitVec 12) : Statement (.vldK x0 x1 x2 x3) := fun _ _ _ he => by cases he; exact ⟨rfl, rfl⟩
theorem vldKL (x0 : Reg) (x1 : Reg) (x2 : Reg) (x3 : BitVec 24) : Statement (.vldKL x0 x1 x2 x3) := fun _ _ _ he => by cases he; exact ⟨rfl, rfl⟩
theorem vstK (x0 : Reg) (x1 : Reg) (x2 : Reg) (x3 : BitVec 12) : Statement (.vstK x0 x1 x2 x3) := fun _ _ _ he => by cases he; exact ⟨rfl, rfl⟩
theorem vstKL (x0 : Reg) (x1 : Reg) (x2 : Reg) (x3 : BitVec 24) : Statement (.vstKL x0 x1 x2 x3) := fun _ _ _ he => by cases he; exact ⟨rfl, rfl⟩
theorem sbind (x0 : Fin 32) (x1 : Reg) (x2 : Reg) : Statement (.sbind x0 x1 x2) := fun _ _ _ he => by cases he; exact ⟨rfl, rfl⟩
theorem sunbind (x0 : Reg) : Statement (.sunbind x0) := fun _ _ _ he => by cases he; exact ⟨rfl, rfl⟩
theorem sadv (x0 : Reg) (x1 : Reg) : Statement (.sadv x0 x1) := fun _ _ _ he => by cases he; exact ⟨rfl, rfl⟩
theorem sstat (x0 : Reg) (x1 : Reg) : Statement (.sstat x0 x1) := fun _ _ _ he => by cases he; exact ⟨rfl, rfl⟩
theorem lda (x0 : Fin 4) (x1 : Reg) (x2 : Reg) (x3 : Reg) (x4 : Reg) : Statement (.lda x0 x1 x2 x3 x4) := fun _ _ _ he => by cases he; exact ⟨rfl, rfl⟩
theorem stl (x0 : Fin 4) (x1 : Reg) (x2 : Reg) (x3 : Reg) (x4 : Reg) : Statement (.stl x0 x1 x2 x3 x4) := fun _ _ _ he => by cases he; exact ⟨rfl, rfl⟩
theorem amoAdd (x0 : Fin 4) (x1 : Reg) (x2 : Reg) (x3 : Reg) (x4 : Reg) (x5 : Reg) : Statement (.amoAdd x0 x1 x2 x3 x4 x5) := fun _ _ _ he => by cases he; exact ⟨rfl, rfl⟩
theorem amoAnd (x0 : Fin 4) (x1 : Reg) (x2 : Reg) (x3 : Reg) (x4 : Reg) (x5 : Reg) : Statement (.amoAnd x0 x1 x2 x3 x4 x5) := fun _ _ _ he => by cases he; exact ⟨rfl, rfl⟩
theorem amoOr (x0 : Fin 4) (x1 : Reg) (x2 : Reg) (x3 : Reg) (x4 : Reg) (x5 : Reg) : Statement (.amoOr x0 x1 x2 x3 x4 x5) := fun _ _ _ he => by cases he; exact ⟨rfl, rfl⟩
theorem amoXor (x0 : Fin 4) (x1 : Reg) (x2 : Reg) (x3 : Reg) (x4 : Reg) (x5 : Reg) : Statement (.amoXor x0 x1 x2 x3 x4 x5) := fun _ _ _ he => by cases he; exact ⟨rfl, rfl⟩
theorem amoMin (x0 : Fin 4) (x1 : Reg) (x2 : Reg) (x3 : Reg) (x4 : Reg) (x5 : Reg) : Statement (.amoMin x0 x1 x2 x3 x4 x5) := fun _ _ _ he => by cases he; exact ⟨rfl, rfl⟩
theorem amoMax (x0 : Fin 4) (x1 : Reg) (x2 : Reg) (x3 : Reg) (x4 : Reg) (x5 : Reg) : Statement (.amoMax x0 x1 x2 x3 x4 x5) := fun _ _ _ he => by cases he; exact ⟨rfl, rfl⟩
theorem amoSwap (x0 : Fin 4) (x1 : Reg) (x2 : Reg) (x3 : Reg) (x4 : Reg) (x5 : Reg) : Statement (.amoSwap x0 x1 x2 x3 x4 x5) := fun _ _ _ he => by cases he; exact ⟨rfl, rfl⟩
theorem amoCas (x0 : Fin 4) (x1 : Reg) (x2 : Reg) (x3 : Reg) (x4 : Reg) (x5 : Reg) : Statement (.amoCas x0 x1 x2 x3 x4 x5) := fun _ _ _ he => by cases he; exact ⟨rfl, rfl⟩
theorem spalloc (x0 : Reg) (x1 : Reg) (x2 : Reg) : Statement (.spalloc x0 x1 x2) := fun _ _ _ he => by cases he; exact ⟨rfl, rfl⟩
theorem spfree (x0 : Reg) : Statement (.spfree x0) := fun _ _ _ he => by cases he; exact ⟨rfl, rfl⟩
theorem tlk (x0 : Reg) (x1 : Reg) : Statement (.tlk x0 x1) := fun _ _ _ he => by cases he; exact ⟨rfl, rfl⟩
theorem tset (x0 : Reg) (x1 : Reg) : Statement (.tset x0 x1) := fun _ _ _ he => by cases he; exact ⟨rfl, rfl⟩
theorem tclr (x0 : Reg) : Statement (.tclr x0) := fun _ _ _ he => by cases he; exact ⟨rfl, rfl⟩
theorem dcinv (x0 : Reg) : Statement (.dcinv x0) := fun _ _ _ he => by cases he; exact ⟨rfl, rfl⟩
theorem dcwb (x0 : Reg) : Statement (.dcwb x0) := fun _ _ _ he => by cases he; exact ⟨rfl, rfl⟩
theorem pf (x0 : Reg) : Statement (.pf x0) := fun _ _ _ he => by cases he; exact ⟨rfl, rfl⟩
theorem lrwr (x0 : Reg) (x1 : Reg) : Statement (.lrwr x0 x1) := fun _ _ _ he => by cases he; exact ⟨rfl, rfl⟩
theorem lrrd (x0 : Reg) (x1 : Reg) : Statement (.lrrd x0 x1) := fun _ _ _ he => by cases he; exact ⟨rfl, rfl⟩
theorem rlq (x0 : Reg) (x1 : Reg) : Statement (.rlq x0 x1) := fun _ _ _ he => by cases he; exact ⟨rfl, rfl⟩
theorem spq (x0 : Reg) : Statement (.spq x0) := fun _ _ _ he => by cases he; exact ⟨rfl, rfl⟩
theorem itld (x0 : Reg) (x1 : Reg) (x2 : Reg) : Statement (.itld x0 x1 x2) := fun _ _ _ he => by cases he; exact ⟨rfl, rfl⟩
theorem iev (x0 : Fin 4) (x1 : Reg) (x2 : Reg) (x3 : Reg) (x4 : FMods) (x5 : Reg) : Statement (.iev x0 x1 x2 x3 x4 x5) := fun _ _ _ he => by cases he; exact ⟨rfl, rfl⟩
theorem iseg (x0 : Fin 4) (x1 : Reg) (x2 : Reg) (x3 : Reg) (x4 : Reg) : Statement (.iseg x0 x1 x2 x3 x4) := fun _ _ _ he => by cases he; exact ⟨rfl, rfl⟩
theorem itinv (x0 : Reg) (x1 : Reg) : Statement (.itinv x0 x1) := fun _ _ _ he => by cases he; exact ⟨rfl, rfl⟩
theorem itq (x0 : Reg) (x1 : Reg) (x2 : Reg) : Statement (.itq x0 x1 x2) := fun _ _ _ he => by cases he; exact ⟨rfl, rfl⟩
theorem zpost (x0 : Reg) (x1 : Reg) (x2 : Reg) : Statement (.zpost x0 x1 x2) := fun _ _ _ he => by cases he; exact ⟨rfl, rfl⟩
theorem bseal (x0 : Reg) : Statement (.bseal x0) := fun _ _ _ he => by cases he; exact ⟨rfl, rfl⟩
theorem bwait (x0 : Reg) (x1 : Reg) : Statement (.bwait x0 x1) := fun _ _ _ he => by cases he; exact ⟨rfl, rfl⟩
theorem zstat (x0 : Reg) : Statement (.zstat x0) := fun _ _ _ he => by cases he; exact ⟨rfl, rfl⟩
theorem zli (x0 : Reg) (x1 : BitVec 32) : Statement (.zli x0 x1) := fun _ _ _ he => by cases he; exact ⟨rfl, rfl⟩
theorem zmov (x0 : Reg) (x1 : Reg) : Statement (.zmov x0 x1) := fun _ _ _ he => by cases he; exact ⟨rfl, rfl⟩
theorem zaddXD (x0 : Reg) (x1 : Reg) (x2 : Reg) : Statement (.zaddXD x0 x1 x2) := fun _ _ _ he => by cases he; exact ⟨rfl, rfl⟩
theorem zaddXI (x0 : Reg) (x1 : Reg) (x2 : BitVec 32) : Statement (.zaddXI x0 x1 x2) := fun _ _ _ he => by cases he; exact ⟨rfl, rfl⟩
theorem zsubXD (x0 : Reg) (x1 : Reg) (x2 : Reg) : Statement (.zsubXD x0 x1 x2) := fun _ _ _ he => by cases he; exact ⟨rfl, rfl⟩
theorem zsubXI (x0 : Reg) (x1 : Reg) (x2 : BitVec 32) : Statement (.zsubXI x0 x1 x2) := fun _ _ _ he => by cases he; exact ⟨rfl, rfl⟩
theorem zld (x0 : Reg) (x1 : Reg) (x2 : Reg) : Statement (.zld x0 x1 x2) := fun _ _ _ he => by cases he; exact ⟨rfl, rfl⟩
theorem zst (x0 : Reg) (x1 : Reg) (x2 : Reg) : Statement (.zst x0 x1 x2) := fun _ _ _ he => by cases he; exact ⟨rfl, rfl⟩
theorem zcopy (x0 : Reg) (x1 : Reg) (x2 : Reg) : Statement (.zcopy x0 x1 x2) := fun _ _ _ he => by cases he; exact ⟨rfl, rfl⟩
theorem zstride (x0 : Reg) (x1 : Reg) : Statement (.zstride x0 x1) := fun _ _ _ he => by cases he; exact ⟨rfl, rfl⟩
theorem zdone (x0 : Reg) : Statement (.zdone x0) := fun _ _ _ he => by cases he; exact ⟨rfl, rfl⟩
theorem zhalt : Statement .zhalt := fun _ _ _ he => by cases he; exact ⟨rfl, rfl⟩
theorem zjmpJ (x0 : BitVec 11) (x1 : BitVec 5) : Statement (.zjmpJ x0 x1) := fun _ _ _ he => by cases he; exact ⟨rfl, rfl⟩
theorem zjmpJL (x0 : BitVec 27) (x1 : BitVec 5) : Statement (.zjmpJL x0 x1) := fun _ _ _ he => by cases he; exact ⟨rfl, rfl⟩
theorem zbnzJ (x0 : Reg) (x1 : BitVec 11) (x2 : BitVec 5) : Statement (.zbnzJ x0 x1 x2) := fun _ _ _ he => by cases he; exact ⟨rfl, rfl⟩
theorem zbnzJL (x0 : Reg) (x1 : BitVec 27) (x2 : BitVec 5) : Statement (.zbnzJL x0 x1 x2) := fun _ _ _ he => by cases he; exact ⟨rfl, rfl⟩
theorem mcfg (x0 : BitVec 32) (x1 : Reg) : Statement (.mcfg x0 x1) := fun _ _ _ he => by cases he; exact ⟨rfl, rfl⟩
theorem mzero (x0 : Reg) (x1 : Reg) : Statement (.mzero x0 x1) := fun _ _ _ he => by cases he; exact ⟨rfl, rfl⟩
theorem mld (x0 : Reg) (x1 : Reg) (x2 : Reg) : Statement (.mld x0 x1 x2) := fun _ _ _ he => by cases he; exact ⟨rfl, rfl⟩
theorem mst (x0 : Fin 4) (x1 : Reg) (x2 : Reg) (x3 : Fin 4) (x4 : Bool) (x5 : Reg) : Statement (.mst x0 x1 x2 x3 x4 x5) := fun _ _ _ he => by cases he; exact ⟨rfl, rfl⟩
theorem mmac (x0 : Reg) (x1 : Reg) (x2 : Reg) (x3 : Reg) (x4 : Reg) : Statement (.mmac x0 x1 x2 x3 x4) := fun _ _ _ he => by cases he; exact ⟨rfl, rfl⟩
theorem mmacm (x0 : Reg) (x1 : Reg) (x2 : Reg) (x3 : Reg) (x4 : Reg) : Statement (.mmacm x0 x1 x2 x3 x4) := fun _ _ _ he => by cases he; exact ⟨rfl, rfl⟩
theorem mmacs (x0 : Reg) (x1 : Reg) (x2 : Reg) (x3 : Reg) (x4 : Reg) : Statement (.mmacs x0 x1 x2 x3 x4) := fun _ _ _ he => by cases he; exact ⟨rfl, rfl⟩
theorem mbin (x0 : Fin 4) (x1 : Reg) (x2 : Reg) (x3 : Reg) (x4 : Reg) (x5 : Reg) : Statement (.mbin x0 x1 x2 x3 x4 x5) := fun _ _ _ he => by cases he; exact ⟨rfl, rfl⟩
theorem mres (x0 : Reg) (x1 : Reg) : Statement (.mres x0 x1) := fun _ _ _ he => by cases he; exact ⟨rfl, rfl⟩
theorem mwait (x0 : Reg) (x1 : Reg) : Statement (.mwait x0 x1) := fun _ _ _ he => by cases he; exact ⟨rfl, rfl⟩
theorem mrdp (x0 : Reg) (x1 : Reg) : Statement (.mrdp x0 x1) := fun _ _ _ he => by cases he; exact ⟨rfl, rfl⟩
theorem mwrp (x0 : Reg) (x1 : Reg) : Statement (.mwrp x0 x1) := fun _ _ _ he => by cases he; exact ⟨rfl, rfl⟩
theorem mabort (x0 : Reg) (x1 : Reg) : Statement (.mabort x0 x1) := fun _ _ _ he => by cases he; exact ⟨rfl, rfl⟩
theorem mstat (x0 : Reg) (x1 : Reg) : Statement (.mstat x0 x1) := fun _ _ _ he => by cases he; exact ⟨rfl, rfl⟩
theorem msend (x0 : Reg) (x1 : Reg) (x2 : Reg) (x3 : Reg) : Statement (.msend x0 x1 x2 x3) := fun _ _ _ he => by cases he; exact ⟨rfl, rfl⟩
theorem msendr (x0 : Reg) (x1 : Reg) (x2 : Reg) (x3 : Reg) : Statement (.msendr x0 x1 x2 x3) := fun _ _ _ he => by cases he; exact ⟨rfl, rfl⟩
theorem mcast (x0 : Reg) (x1 : Reg) (x2 : Reg) (x3 : Reg) : Statement (.mcast x0 x1 x2 x3) := fun _ _ _ he => by cases he; exact ⟨rfl, rfl⟩
theorem mgset (x0 : Reg) (x1 : Reg) : Statement (.mgset x0 x1) := fun _ _ _ he => by cases he; exact ⟨rfl, rfl⟩
theorem mig (x0 : Reg) : Statement (.mig x0) := fun _ _ _ he => by cases he; exact ⟨rfl, rfl⟩
theorem mlat (x0 : Reg) : Statement (.mlat x0) := fun _ _ _ he => by cases he; exact ⟨rfl, rfl⟩
theorem mprobe (x0 : Reg) (x1 : Reg) : Statement (.mprobe x0 x1) := fun _ _ _ he => by cases he; exact ⟨rfl, rfl⟩
theorem mbufq (x0 : Reg) : Statement (.mbufq x0) := fun _ _ _ he => by cases he; exact ⟨rfl, rfl⟩
theorem mdrain : Statement .mdrain := fun _ _ _ he => by cases he; exact ⟨rfl, rfl⟩
theorem mpoll (x0 : Reg) : Statement (.mpoll x0) := fun _ _ _ he => by cases he; exact ⟨rfl, rfl⟩
theorem glaunch (x0 : Reg) (x1 : Reg) : Statement (.glaunch x0 x1) := fun _ _ _ he => by cases he; exact ⟨rfl, rfl⟩
theorem cwait (x0 : Reg) (x1 : Reg) (x2 : Reg) : Statement (.cwait x0 x1 x2) := fun _ _ _ he => by cases he; exact ⟨rfl, rfl⟩
theorem cancel (x0 : Reg) (x1 : Reg) (x2 : Reg) : Statement (.cancel x0 x1 x2) := fun _ _ _ he => by cases he; exact ⟨rfl, rfl⟩
theorem cread (x0 : Reg) (x1 : Reg) (x2 : Reg) : Statement (.cread x0 x1 x2) := fun _ _ _ he => by cases he; exact ⟨rfl, rfl⟩
theorem dqpush (x0 : Reg) : Statement (.dqpush x0) := fun _ _ _ he => by cases he; exact ⟨rfl, rfl⟩
theorem dqpop (x0 : Reg) : Statement (.dqpop x0) := fun _ _ _ he => by cases he; exact ⟨rfl, rfl⟩
theorem dqsteal (x0 : Reg) : Statement (.dqsteal x0) := fun _ _ _ he => by cases he; exact ⟨rfl, rfl⟩
theorem dqmask (x0 : Reg) : Statement (.dqmask x0) := fun _ _ _ he => by cases he; exact ⟨rfl, rfl⟩
theorem dqlen (x0 : Reg) : Statement (.dqlen x0) := fun _ _ _ he => by cases he; exact ⟨rfl, rfl⟩
theorem bgrd (x0 : Reg) : Statement (.bgrd x0) := fun _ _ _ he => by cases he; exact ⟨rfl, rfl⟩
theorem tsrd (x0 : Reg) : Statement (.tsrd x0) := fun _ _ _ he => by cases he; exact ⟨rfl, rfl⟩
theorem earlyok : Statement .earlyok := fun _ _ _ he => by cases he; exact ⟨rfl, rfl⟩
theorem lstat (x0 : Reg) (x1 : Reg) : Statement (.lstat x0 x1) := fun _ _ _ he => by cases he; exact ⟨rfl, rfl⟩
theorem cadd (x0 : Reg) (x1 : Reg) (x2 : Reg) : Statement (.cadd x0 x1 x2) := fun _ _ _ he => by cases he; exact ⟨rfl, rfl⟩
theorem ftrack (x0 : Reg) : Statement (.ftrack x0) := fun _ _ _ he => by cases he; exact ⟨rfl, rfl⟩
theorem funtrack (x0 : Reg) : Statement (.funtrack x0) := fun _ _ _ he => by cases he; exact ⟨rfl, rfl⟩
theorem fopen (x0 : Reg) (x1 : Reg) (x2 : Reg) (x3 : Reg) : Statement (.fopen x0 x1 x2 x3) := fun _ _ _ he => by cases he; exact ⟨rfl, rfl⟩
theorem fclose (x0 : Reg) : Statement (.fclose x0) := fun _ _ _ he => by cases he; exact ⟨rfl, rfl⟩
theorem fstat (x0 : Reg) (x1 : Reg) : Statement (.fstat x0 x1) := fun _ _ _ he => by cases he; exact ⟨rfl, rfl⟩
theorem falpha (x0 : Reg) (x1 : Reg) : Statement (.falpha x0 x1) := fun _ _ _ he => by cases he; exact ⟨rfl, rfl⟩
theorem clrpost (x0 : Reg) (x1 : Reg) (x2 : Reg) : Statement (.clrpost x0 x1 x2) := fun _ _ _ he => by cases he; exact ⟨rfl, rfl⟩
theorem clrrep (x0 : Reg) (x1 : Reg) : Statement (.clrrep x0 x1) := fun _ _ _ he => by cases he; exact ⟨rfl, rfl⟩
theorem drreq : Statement .drreq := fun _ _ _ he => by cases he; exact ⟨rfl, rfl⟩
theorem resq (x0 : Reg) (x1 : Reg) : Statement (.resq x0 x1) := fun _ _ _ he => by cases he; exact ⟨rfl, rfl⟩
theorem mfsr (x0 : Reg) (x1 : BitVec 12) : Statement (.mfsr x0 x1) := fun _ _ _ he => by
  cases he
  exact ⟨rfl, by simp [parse, parse39]⟩
theorem mtsr (x0 : Reg) (x1 : BitVec 12) : Statement (.mtsr x0 x1) := fun _ _ _ he => by
  cases he
  exact ⟨rfl, by simp [parse, parse39]⟩
theorem eret : Statement .eret := fun _ _ _ he => by cases he; exact ⟨rfl, rfl⟩
theorem ptfence : Statement .ptfence := fun _ _ _ he => by cases he; exact ⟨rfl, rfl⟩
theorem tlbinv (x0 : Reg) (x1 : Reg) : Statement (.tlbinv x0 x1) := fun _ _ _ he => by cases he; exact ⟨rfl, rfl⟩
theorem icinv (x0 : Reg) : Statement (.icinv x0) := fun _ _ _ he => by cases he; exact ⟨rfl, rfl⟩
theorem splinter (x0 : Reg) (x1 : Reg) : Statement (.splinter x0 x1) := fun _ _ _ he => by cases he; exact ⟨rfl, rfl⟩
theorem rgset (x0 : Reg) : Statement (.rgset x0) := fun _ _ _ he => by cases he; exact ⟨rfl, rfl⟩
theorem grant (x0 : Reg) (x1 : Reg) : Statement (.grant x0 x1) := fun _ _ _ he => by cases he; exact ⟨rfl, rfl⟩
theorem revoke (x0 : Reg) : Statement (.revoke x0) := fun _ _ _ he => by cases he; exact ⟨rfl, rfl⟩
theorem vfbind (x0 : Reg) (x1 : Reg) : Statement (.vfbind x0 x1) := fun _ _ _ he => by cases he; exact ⟨rfl, rfl⟩
theorem dhalt (x0 : Reg) : Statement (.dhalt x0) := fun _ _ _ he => by cases he; exact ⟨rfl, rfl⟩
theorem dstep (x0 : Reg) : Statement (.dstep x0) := fun _ _ _ he => by cases he; exact ⟨rfl, rfl⟩
theorem dresume (x0 : Reg) : Statement (.dresume x0) := fun _ _ _ he => by cases he; exact ⟨rfl, rfl⟩
theorem wsw (x0 : Reg) : Statement (.wsw x0) := fun _ _ _ he => by cases he; exact ⟨rfl, rfl⟩
theorem sealMem (x0 : Reg) (x1 : Reg) (x2 : Reg) : Statement (.sealMem x0 x1 x2) := fun _ _ _ he => by cases he; exact ⟨rfl, rfl⟩
theorem unsealMem (x0 : Reg) (x1 : Reg) (x2 : Reg) : Statement (.unsealMem x0 x1 x2) := fun _ _ _ he => by cases he; exact ⟨rfl, rfl⟩
theorem evsign (x0 : Reg) (x1 : Reg) (x2 : Reg) : Statement (.evsign x0 x1 x2) := fun _ _ _ he => by cases he; exact ⟨rfl, rfl⟩
theorem codeLineFetch (x0 : Agent) : Statement (.codeLineFetch x0) := fun _ _ _ he => nomatch he
theorem resume (x0 : Nat) (x1 : Nat) (x2 : Nat) : Statement (.resume x0 x1 x2) := fun _ _ _ he => nomatch he
theorem redirect (x0 : Nat) (x1 : Nat) (x2 : Nat) : Statement (.redirect x0 x1 x2) := fun _ _ _ he => nomatch he
theorem discard (x0 : Nat) (x1 : Nat) (x2 : Nat) : Statement (.discard x0 x1 x2) := fun _ _ _ he => nomatch he
theorem halt (x0 : Nat) (x1 : Nat) (x2 : Nat) : Statement (.halt x0 x1 x2) := fun _ _ _ he => nomatch he
theorem present (x0 : Nat) (x1 : Nat) (x2 : Nat) : Statement (.present x0 x1 x2) := fun _ _ _ he => nomatch he
theorem retry (x0 : Nat) (x1 : Nat) (x2 : Nat) (x3 : Nat) : Statement (.retry x0 x1 x2 x3) := fun _ _ _ he => nomatch he
theorem continue_ (x0 : Nat) (x1 : Nat) (x2 : Nat) (x3 : Nat) : Statement (.continue_ x0 x1 x2 x3) := fun _ _ _ he => nomatch he
theorem fail (x0 : Nat) (x1 : Nat) (x2 : Nat) (x3 : Nat) (x4 : Nat) : Statement (.fail x0 x1 x2 x3 x4) := fun _ _ _ he => nomatch he
theorem issueSlotTaken (x0 : Nat) : Statement (.issueSlotTaken x0) := fun _ _ _ he => nomatch he
theorem registerCacheFill (x0 : Nat) (x1 : Nat) (x2 : Nat) : Statement (.registerCacheFill x0 x1 x2) := fun _ _ _ he => nomatch he
theorem extensionImageFill (x0 : Nat) (x1 : Nat) : Statement (.extensionImageFill x0 x1) := fun _ _ _ he => nomatch he
theorem pauseExpiry (x0 : Nat) (x1 : Nat) : Statement (.pauseExpiry x0 x1) := fun _ _ _ he => nomatch he
theorem budget (x0 : Nat) (x1 : Nat) : Statement (.budget x0 x1) := fun _ _ _ he => nomatch he
theorem activationByMessage (x0 : Nat) : Statement (.activationByMessage x0) := fun _ _ _ he => nomatch he
theorem activationByHandOff (x0 : Nat) : Statement (.activationByHandOff x0) := fun _ _ _ he => nomatch he
theorem automaticSteal (x0 : Nat) : Statement (.automaticSteal x0) := fun _ _ _ he => nomatch he
theorem overflowReturn (x0 : Nat) : Statement (.overflowReturn x0) := fun _ _ _ he => nomatch he
theorem commit (x0 : Nat) : Statement (.commit x0) := fun _ _ _ he => nomatch he
theorem becomeSerialising (x0 : Nat) : Statement (.becomeSerialising x0) := fun _ _ _ he => nomatch he
theorem readSetRegistration (x0 : Nat) (x1 : Nat) : Statement (.readSetRegistration x0 x1) := fun _ _ _ he => nomatch he
theorem invalidation (x0 : Nat) (x1 : Nat) : Statement (.invalidation x0 x1) := fun _ _ _ he => nomatch he
theorem clusterWindowAccess (x0 : Nat) : Statement (.clusterWindowAccess x0) := fun _ _ _ he => nomatch he
theorem edgeMemoryAccess (x0 : Nat) : Statement (.edgeMemoryAccess x0) := fun _ _ _ he => nomatch he
theorem pageWalk (x0 : Nat) (x1 : Nat) (x2 : Nat) (x3 : Nat) : Statement (.pageWalk x0 x1 x2 x3) := fun _ _ _ he => nomatch he
theorem beatArrival (x0 : Nat) (x1 : Nat) (x2 : Nat) : Statement (.beatArrival x0 x1 x2) := fun _ _ _ he => nomatch he
theorem tableLoadComplete (x0 : Nat) (x1 : Nat) (x2 : Nat) : Statement (.tableLoadComplete x0 x1 x2) := fun _ _ _ he => nomatch he
theorem refetch (x0 : Nat) (x1 : Nat) (x2 : Nat) : Statement (.refetch x0 x1 x2) := fun _ _ _ he => nomatch he
theorem requestActivation (x0 : Nat) (x1 : Nat) : Statement (.requestActivation x0 x1) := fun _ _ _ he => nomatch he
theorem requestDone (x0 : Nat) (x1 : Nat) : Statement (.requestDone x0 x1) := fun _ _ _ he => nomatch he
theorem zlimit (x0 : Nat) (x1 : Nat) : Statement (.zlimit x0 x1) := fun _ _ _ he => nomatch he
theorem kpost (x0 : Nat) (x1 : Nat) (x2 : Nat) (x3 : Nat) : Statement (.kpost x0 x1 x2 x3) := fun _ _ _ he => nomatch he
theorem matrixOperationStart (x0 : Nat) : Statement (.matrixOperationStart x0) := fun _ _ _ he => nomatch he
theorem fold (x0 : Nat) : Statement (.fold x0) := fun _ _ _ he => nomatch he
theorem matrixOperationComplete (x0 : Nat) : Statement (.matrixOperationComplete x0) := fun _ _ _ he => nomatch he
theorem injection (x0 : Nat) : Statement (.injection x0) := fun _ _ _ he => nomatch he
theorem hop (x0 : Nat) : Statement (.hop x0) := fun _ _ _ he => nomatch he
theorem relay (x0 : Nat) : Statement (.relay x0) := fun _ _ _ he => nomatch he
theorem handleCacheUpdate (x0 : Nat) : Statement (.handleCacheUpdate x0) := fun _ _ _ he => nomatch he
theorem messageArrival (x0 : Nat) : Statement (.messageArrival x0) := fun _ _ _ he => nomatch he
theorem migrationArrival (x0 : Nat) : Statement (.migrationArrival x0) := fun _ _ _ he => nomatch he
theorem ack (x0 : Nat) : Statement (.ack x0) := fun _ _ _ he => nomatch he
theorem nackBusy (x0 : Nat) : Statement (.nackBusy x0) := fun _ _ _ he => nomatch he
theorem nackStale (x0 : Nat) : Statement (.nackStale x0) := fun _ _ _ he => nomatch he
theorem nackBadhandler (x0 : Nat) : Statement (.nackBadhandler x0) := fun _ _ _ he => nomatch he
theorem nackRefused (x0 : Nat) : Statement (.nackRefused x0) := fun _ _ _ he => nomatch he
theorem nackNopath (x0 : Nat) : Statement (.nackNopath x0) := fun _ _ _ he => nomatch he
theorem backoffExpiry (x0 : Site) (x1 : Nat) : Statement (.backoffExpiry x0 x1) := fun _ _ _ he => nomatch he
theorem poisonTail (x0 : Nat) : Statement (.poisonTail x0) := fun _ _ _ he => nomatch he
theorem launchPooled (x0 : Nat) : Statement (.launchPooled x0) := fun _ _ _ he => nomatch he
theorem placement (x0 : Nat) : Statement (.placement x0) := fun _ _ _ he => nomatch he
theorem counterComplete (x0 : Nat) (x1 : Nat) : Statement (.counterComplete x0 x1) := fun _ _ _ he => nomatch he
theorem deadline (x0 : Nat) : Statement (.deadline x0) := fun _ _ _ he => nomatch he
theorem ceilometerCheck (x0 : Nat) (x1 : Nat) : Statement (.ceilometerCheck x0 x1) := fun _ _ _ he => nomatch he
theorem sensorReading (x0 : Nat) (x1 : Nat) : Statement (.sensorReading x0 x1) := fun _ _ _ he => nomatch he
theorem rotation (x0 : Nat) : Statement (.rotation x0) := fun _ _ _ he => nomatch he
theorem calmingEnd (x0 : Nat) : Statement (.calmingEnd x0) := fun _ _ _ he => nomatch he
theorem moveAbandoned (x0 : Nat) : Statement (.moveAbandoned x0) := fun _ _ _ he => nomatch he
theorem drainingEnd (x0 : Nat) : Statement (.drainingEnd x0) := fun _ _ _ he => nomatch he
theorem copyingEnd (x0 : Nat) : Statement (.copyingEnd x0) := fun _ _ _ he => nomatch he
theorem switchingEnd (x0 : Nat) : Statement (.switchingEnd x0) := fun _ _ _ he => nomatch he
theorem stubRelease (x0 : Nat) (x1 : Nat) : Statement (.stubRelease x0 x1) := fun _ _ _ he => nomatch he
theorem backstop (x0 : Nat) : Statement (.backstop x0) := fun _ _ _ he => nomatch he
theorem eviction (x0 : Nat) : Statement (.eviction x0) := fun _ _ _ he => nomatch he
theorem cleared (x0 : Nat) : Statement (.cleared x0) := fun _ _ _ he => nomatch he
theorem restore (x0 : Nat) (x1 : Nat) : Statement (.restore x0 x1) := fun _ _ _ he => nomatch he
theorem blockRestored (x0 : Nat) : Statement (.blockRestored x0) := fun _ _ _ he => nomatch he
theorem sliceEnd (x0 : Nat) : Statement (.sliceEnd x0) := fun _ _ _ he => nomatch he
theorem faultQueueAppend (x0 : Nat) : Statement (.faultQueueAppend x0) := fun _ _ _ he => nomatch he
theorem heldRecordDelivery (x0 : Nat) : Statement (.heldRecordDelivery x0) := fun _ _ _ he => nomatch he
theorem qevent (x0 : Nat) (x1 : Nat) : Statement (.qevent x0 x1) := fun _ _ _ he => nomatch he
theorem rsmcmd (x0 : Nat) (x1 : Nat) (x2 : Nat) : Statement (.rsmcmd x0 x1 x2) := fun _ _ _ he => nomatch he
theorem mext (x0 : Nat) : Statement (.mext x0) := fun _ _ _ he => nomatch he
theorem controlSpaceWrite (x0 : Nat) (x1 : Nat) (x2 : Nat) (x3 : Nat) : Statement (.controlSpaceWrite x0 x1 x2 x3) := fun _ _ _ he => nomatch he
theorem regionRekey (x0 : Nat) (x1 : Nat) : Statement (.regionRekey x0 x1) := fun _ _ _ he => nomatch he
theorem sweepComplete (x0 : Nat) : Statement (.sweepComplete x0) := fun _ _ _ he => nomatch he
theorem checkpoint (x0 : Nat) (x1 : Nat) : Statement (.checkpoint x0 x1) := fun _ _ _ he => nomatch he
theorem checkpointComplete (x0 : Nat) : Statement (.checkpointComplete x0) := fun _ _ _ he => nomatch he
theorem slotRestore (x0 : Nat) (x1 : Nat) : Statement (.slotRestore x0 x1) := fun _ _ _ he => nomatch he
theorem restoreComplete (x0 : Nat) : Statement (.restoreComplete x0) := fun _ _ _ he => nomatch he
theorem erase (x0 : Nat) (x1 : Nat) : Statement (.erase x0 x1) := fun _ _ _ he => nomatch he
theorem cxlMemRead (x0 : Nat) (x1 : Nat) (x2 : Nat) : Statement (.cxlMemRead x0 x1 x2) := fun _ _ _ he => nomatch he
theorem cxlMemWrite (x0 : Nat) (x1 : Nat) (x2 : List (BitVec 8)) : Statement (.cxlMemWrite x0 x1 x2) := fun _ _ _ he => nomatch he
theorem dbell (x0 : Nat) (x1 : Nat) : Statement (.dbell x0 x1) := fun _ _ _ he => nomatch he
theorem apertureAccess (x0 : Nat) (x1 : Nat) (x2 : Bool) (x3 : List (BitVec 8)) : Statement (.apertureAccess x0 x1 x2 x3) := fun _ _ _ he => nomatch he
theorem collpost (x0 : Nat) : Statement (.collpost x0) := fun _ _ _ he => nomatch he
theorem collectiveResult (x0 : Nat) : Statement (.collectiveResult x0) := fun _ _ _ he => nomatch he
theorem timeout (x0 : Nat) : Statement (.timeout x0) := fun _ _ _ he => nomatch he
theorem linkdown (x0 : Nat) : Statement (.linkdown x0) := fun _ _ _ he => nomatch he
theorem getVersion (x0 : Nat) : Statement (.getVersion x0) := fun _ _ _ he => nomatch he
theorem getCapabilities (x0 : Nat) : Statement (.getCapabilities x0) := fun _ _ _ he => nomatch he
theorem negotiateAlgorithms (x0 : Nat) : Statement (.negotiateAlgorithms x0) := fun _ _ _ he => nomatch he
theorem getDigests (x0 : Nat) : Statement (.getDigests x0) := fun _ _ _ he => nomatch he
theorem getCertificate (x0 : Nat) : Statement (.getCertificate x0) := fun _ _ _ he => nomatch he
theorem challenge (x0 : Nat) (x1 : List (BitVec 8)) : Statement (.challenge x0 x1) := fun _ _ _ he => nomatch he
theorem getMeasurements (x0 : Nat) : Statement (.getMeasurements x0) := fun _ _ _ he => nomatch he
theorem doze : Statement .doze := fun _ _ _ he => nomatch he
theorem run : Statement .run := fun _ _ _ he => nomatch he
theorem powerApplied : Statement .powerApplied := fun _ _ _ he => nomatch he
theorem selfCalibration (x0 : Nat) : Statement (.selfCalibration x0) := fun _ _ _ he => nomatch he
theorem selfTest (x0 : List Nat) : Statement (.selfTest x0) := fun _ _ _ he => nomatch he
theorem routerTableWrite (x0 : List (Nat × Nat × BitVec 64)) : Statement (.routerTableWrite x0) := fun _ _ _ he => nomatch he
theorem initialisation (x0 : Nat) : Statement (.initialisation x0) := fun _ _ _ he => nomatch he
theorem powerOff : Statement .powerOff := fun _ _ _ he => nomatch he
theorem response (x0 : Nat) : Statement (.response x0) := fun _ _ _ he => nomatch he
theorem tlbInvalidation (x0 : Nat) : Statement (.tlbInvalidation x0) := fun _ _ _ he => nomatch he
theorem powerGated (x0 : Nat) : Statement (.powerGated x0) := fun _ _ _ he => nomatch he

end Sys2Proof.Laws.Fields
end

