-- ==== Sys2Proof/Tests/Slice0.lean ====
section
/-! SUPPORT. Tests: what WellFormed refuses, words of the spec's encoding tables and examples decoded, for every statement with hypotheses
a state that meets them, and single steps whose results come from the spec. -/

open Sys2Proof
open Sys2Proof.Machine
open Sys2Proof.Stated

namespace Sys2Proof.Tests

-- one theorem after another: a thread for each at once would not fit into the memory
set_option Elab.async false

/-! ## Ill-formed terms, one for each check of WellFormed -/

/-- No modifier but the one on source 1. -/
def negOne : FMods := { noMods with neg1 := true }

/-- Operand classes and immediates: g-only vector and stream fields, accumulators, mailboxes, movement registers, table names, codes, shift
and tag immediates, bit fields, control registers, amo and ldx sizes, the MCFG immediate. -/
theorem test_operands_refused :
    wf (.vclr 12) = false ∧ wf (.sunbind 11) = false ∧ wf (.mres 4 0) = false ∧ wf (.loopMbJ 8 0 1) = false ∧ wf (.zli 8 0) = false ∧
    wf (.itinv 4 0) = false ∧ wf (.fence 5) = false ∧ wf (.shlXI 0 0 64) = false ∧ wf (.ptagXI 0 0 1024) = false ∧ wf (.bext 0 0 60 4) = false ∧
    wf (.rdc 0 20) = false ∧ wf (.wrc 0 32) = false ∧ wf (.amoAdd 1 0 0 0 0 0) = false ∧ wf (.ldxS 3 0 0 0 0) = false ∧
    wf (.mcfg 0x08000000 0) = false ∧ wf (.mcfg 0x400 0) = false := by decide
/-- Formats and modifiers: sets A, F, I, the logical and code formats, the words, a modifier on an integer source, the unordered compare of
integers, RM of iev, the pairs of vcvt, the formats of mst, iev and mbin. -/
theorem test_formats_refused :
    wf (.vadd 6 0 1 2 noMods) = false ∧ wf (.vsqrt 3 0 1 noMods 0) = false ∧ wf (.vshl 0 0 1 2) = false ∧ wf (.vand 9 0 1 2) = false ∧
    wf (.vbcast 8 0 1) = false ∧ wf (.vins 1 0 1 0) = false ∧ wf (.vins 0 0 1 8) = false ∧ wf (.vadd 3 0 1 2 negOne) = false ∧
    wf (.vcmp 3 0 1 2 4 noMods) = false ∧ wf (.iev 0 0 1 0 { noMods with rm := 1 } 0) = false ∧ wf (.vcvt 1 1 0 1 noMods) = false ∧
    wf (.vcvt 8 0 0 1 noMods) = false ∧ wf (.mst 3 0 1 0 false 0) = false ∧ wf (.mst 0 0 1 1 false 0) = false ∧ wf (.iseg 3 0 1 0 0) = false ∧
    wf (.mbin 2 0 1 2 3 0) = false := by decide
/-- Register ranges of groups: a length code of 3, codes or values that pass v11, vdqnt.fp32 of 128 values. -/
theorem test_groups_refused :
    wf (.vqnt 8 0 1 0 6) = false ∧ wf (.vqnt 8 11 0 0 2) = false ∧ wf (.vqnt 8 0 9 0 0) = false ∧ wf (.vdqnt 0 0 1 0 4 noMods) = false ∧
    wf (.vqnt 6 0 1 0 0) = false := by decide

/-! ## Words of the encoding tables and of the spec's examples -/

/-- Scalar and scalar memory (R195, R196; the words of R84 and R85 written bit by bit): nop; ld.w g3,16(g4),la:2; st.d g2,-8(g15);
ldp.d g6,g7,g8,g9; add g8,g9; bnz g8 to slot 1; loop mb0 and loop g8; waitpred; yield. -/
theorem test_decode_scalar :
    decodeInstr 0b0000000000000000 0 = .ok .nop ∧ decodeInstr 0b0100101000110100 0b0010000000010000 = .ok (.ldWK 3 4 2 16) ∧
    decodeInstr 0x4F2F 0x0FF8 = .ok (.stDK 2 15 0 (BitVec.ofInt 12 (-8))) ∧ decodeInstr 0x9F68 0x70029003 = .ok (.ldp 6 7 8 9 0) ∧
    decodeInstr 0x0189 0 = .ok (.addHead 8 9) ∧ decodeInstr 0x5480 0x0001 = .ok (.bnzJ 8 0 1) ∧
    decodeInstr 0x5E01 0x0027 = .ok (.loopMbJ 0 1 7) ∧ decodeInstr 0x5E80 0x0024 = .ok (.loopGJ 8 1 4) ∧
    decodeInstr 0x9C12 0x40003002 = .ok (.sel 1 2 3 4) ∧ decodeInstr 0x00B0 0 = .ok .waitpred ∧ decodeInstr 0x0070 0 = .ok .yield := by decide
/-- Local memory (R179, R213, R219): lda.w g6,0(g9),wafer; stl.d g2,0(g3),field; spalloc g3,g4,g5; rlq g1,g2. -/
theorem test_decode_local :
    decodeInstr 0xAF69 0x10000002 = .ok (.lda 2 6 9 1 0) ∧ decodeInstr 0xAF23 0x20010003 = .ok (.stl 3 2 3 2 0) ∧
    decodeInstr 0xB034 0x00005000 = .ok (.spalloc 3 4 5) ∧ decodeInstr 0xB012 0x000A0000 = .ok (.rlq 1 2) ∧
    decodeInstr 0xAF23 0x30094002 = .ok (.amoCas 2 2 3 4 3 0) := by decide
/-- Vector (R234, R245, R247): vadd.fp32 v1,v2,s0; sbind.fp32 s0,g8; sunbind s0; vqnt.uq4 v4,s0,g5 asymmetric, 32 values; vst v4,64(g3);
vmul.fp32 with -, abs, scale and clamp (the worked code line of spec/02). -/
theorem test_decode_vector :
    decodeInstr 0xA012 0x0000C000 = .ok (.vadd 0 1 2 12 noMods) ∧ decodeInstr 0xAEC8 0x00000000 = .ok (.sbind 0 12 8) ∧
    decodeInstr 0xAEC0 0x00000001 = .ok (.sunbind 12) ∧ decodeInstr 0xA84C 0x00095001 = .ok (.vqnt 9 4 12 5 0) ∧
    decodeInstr 0x6D43 0x0040 = .ok (.vstK 4 3 0 64) ∧
    decodeInstr 0xA212 0x0F803090 = .ok (.vmul 0 1 2 3 { noMods with neg1 := true, abs2 := true, scale := 15, clamp := true }) ∧
    decodeInstr 0xA345 0x6842D000 = .ok (.vfma 2 4 5 13 6 { noMods with neg3 := true, clamp := true }) ∧
    decodeInstr 0xA345 0x6846D000 = .error .operand := by decide
/-- Interpolation, copy engine, movement programs (Tables 9.3 and 9.5, R273, the worked programs of spec/08 and spec/09). -/
theorem test_decode_engines :
    decodeInstr 0xB104 0x00000000 = .ok (.itld 0 4 0) ∧ decodeInstr 0xB110 0x00010002 = .ok (.iev 2 1 0 0 noMods 0) ∧
    decodeInstr 0xB13E 0x1F810080 = .ok (.iev 0 3 14 1 { noMods with neg1 := true, scale := 15, clamp := true } 0) ∧
    decodeInstr 0x7234 0x0200 = .ok (.zpost 3 4 2) ∧ decodeInstr 0x7250 0x0001 = .ok (.bseal 5) ∧
    decodeInstr 0x7205 0x6002 = .ok (.bwait 5 6) ∧ decodeInstr 0x7270 0x0003 = .ok (.zstat 7) ∧
    decodeInstr 0xF322 0x0000000800020000 = .ok (.zaddXI 2 2 8) ∧ decodeInstr 0xF355 0x0000000100030000 = .ok (.zsubXI 5 5 1) ∧
    decodeInstr 0xB304 0x00066000 = .ok (.zcopy 0 4 6) := by decide
/-- Matrix unit (R310, Table 10.13): mmac a1,g4,g5,g7,la:3; mst.bf16 a2,g6,clamp; mmacs a0,s1,s2,g9; mcfg; mzero a0; mwait a0; mres a0. -/
theorem test_decode_matrix :
    decodeInstr 0xB514 0x70045300 = .ok (.mmac 1 4 5 7 3) ∧ decodeInstr 0xB526 0x08030002 = .ok (.mst 2 2 6 0 true 0) ∧
    decodeInstr 0xB50D 0x9006E000 = .ok (.mmacs 0 13 14 9 0) ∧ decodeInstr 0xF500 0x0004002100000000 = .ok (.mcfg 0x00040021 0) ∧
    decodeInstr 0xB500 0x00010000 = .ok (.mzero 0 0) ∧ decodeInstr 0xB500 0x00090000 = .ok (.mwait 0 0) ∧
    decodeInstr 0xB500 0x00080000 = .ok (.mres 0 0) := by decide
/-- Jetstream, Task Flow, Forecast, residency (Tables 11.6, 12.10, 13.5, 14.9 and their examples). -/
theorem test_decode_fabric_and_tasks :
    decodeInstr 0xB634 0x60005000 = .ok (.msend 3 4 5 6) ∧ decodeInstr 0xB638 0x60015000 = .ok (.msendr 3 8 5 6) ∧
    decodeInstr 0xB7A3 0x00000000 = .ok (.glaunch 10 3) ∧ decodeInstr 0xB7DB 0x10010000 = .ok (.cwait 13 11 1) ∧
    decodeInstr 0xB8B9 0x7002A000 = .ok (.fopen 11 9 10 7) ∧ decodeInstr 0xB804 0x00000000 = .ok (.ftrack 4) ∧
    decodeInstr 0xB834 0x00085000 = .ok (.clrpost 3 4 5) ∧ decodeInstr 0xB854 0x000B0000 = .ok (.resq 5 4) := by decide
/-- Island and trust (Tables 15.1 and 16.6): mfsr g3,0x010; grant g4,g5; seal g3,g4,g5; an unallocated major; a form with an unused field. -/
theorem test_decode_island :
    decodeInstr 0xF930 0x0000001000000000 = .ok (.mfsr 3 0x010) ∧ decodeInstr 0xB904 0x00085000 = .ok (.grant 4 5) ∧
    decodeInstr 0xB934 0x00115000 = .ok (.sealMem 3 4 5) ∧ decodeInstr 0x3A00 0 = .error .unallocatedMajor ∧
    decodeInstr 0x0001 0 = .error .unusedField := by decide
/-- The code line of spec/02 that the spec prints in full: five instructions, legal; with three heads it is illegal. -/
def exampleLine : CodeLine :=
  ([0x2800, 0x4A34, 0x4156, 0xA212, 0x0189, 0x5480] ++ List.replicate 21 0 ++ [0x0001, 0x3090, 0x0F80, 0x7000, 0x2010] : List Half)
theorem test_code_line :
    lineLegal exampleLine = true ∧ (List.range 5).map (fun k => decodeSlot exampleLine (k + 1)) =
      [.ok (.ldWK 3 4 2 16), .ok (.addX 5 6 7), .ok (.vmul 0 1 2 3 { noMods with neg1 := true, abs2 := true, scale := 15, clamp := true }),
        .ok (.addHead 8 9), .ok (.bnzJ 8 0 1)] ∧ lineLegal (0x1800 :: exampleLine.drop 1) = false := by decide

/-! ## Small states -/

/-- An exception-free result that meets p. -/
def okAnd {ε α : Type} (x : Except ε α) (p : α → Bool) : Bool := match x with | .ok a => p a | .error _ => false
/-- An outcome that is the next state t. -/
def answers (o : Host.Outcome State Fault Refusal) (t : State) : Bool := match o with | .next u => u == t | _ => false
/-- An outcome that is a next state that meets p. -/
def nextAnd (o : Host.Outcome State Fault Refusal) (p : State → Bool) : Bool := match o with | .next u => p u | _ => false
/-- Sixteen general registers; 0 where the list ends. -/
def gs (l : List Word) : Vector Word 16 := Vector.ofFn fun k => l.getD k.val 0
/-- Registers at slot 1 of the first code line of the edge window. -/
def regs0 : Regs := { pc := 0x40000002 }
/-- That code line: 31 times nop. -/
def nops : Nat × Nat × Nat × CodeLine := (0, 0x1000000, 0, lineOf 0 0)
/-- Context 0 of tile 0 in slot 0, running task 5 of block 1. -/
def ctx0 (r : Regs) : Ctx := { state := .issuing, slot := some 0, regs := r, handle := 1, task := some 5, remain := 100 }
/-- Block 1 of launch 7 of tenant 0 on tile 0. -/
def block1 : Block := { tile := 0, launch := 7, tenant := 0 }
/-- Its task. -/
def task5 : Task := { launch := 7, handle := 1, tile := 0, ctx := 0 }
/-- Two allocations of block 1: bytes 0 to 255 private, 256 to 511 shared. -/
def allocs1 : List Alloc := [{ off := 0, size := 256, handle := 1, shared := false, swz := 0 }, { off := 256, size := 256, handle := 1, shared := true, swz := 0 }]
/-- Tile 0 with them. -/
def tile0 : Tile := { allocs := allocs1, icache := [nops], rclru := [(0, 0), (0, 1), (0, 2), (0, 3)] }
/-- A thread with these registers, at slot 1 of a line of nops. -/
def th (r : Regs) : State :=
  { ctxs := [((0, 0), ctx0 r)], blocks := [(1, block1)], tasks := [(5, task5)], launches := [(7, { tenant := 0, state := .running, blocks := [1] })]
    tiles := [(0, tile0)], cur := .thread 0 0, nextId := 10, wafer := { power := .run, ready := true } }
/-- A level-0 core of island 0 with these registers, translation off. -/
def co (r : Regs) : State :=
  { cores := [((0, 0), { regs := r, idle := false, icache := [nops] })], cur := .core 0 0, nextId := 10, wafer := { power := .run, ready := true } }
/-- Registers with g0 on from a list. -/
def rg (l : List Word) : Regs := { regs0 with g := gs l }

/-! ## Witnesses of the statements' hypotheses, most with the conclusion evaluated as well -/

/-- The windows used below: a load at 0x40000004 whose window writes g3. -/
def window3 : Window := { pc := 0x40000004, left := 2, writes := [.g 3], readsVec := [.v 1] }
/-- O2 to O4: a well-formed instruction with its word, a word with its instruction, a reserved major. -/
theorem witness_decoding :
    wf (.sel 1 2 3 4) = true ∧ encode (.sel 1 2 3 4) = some (0x9C12, 0x40003002) ∧ decodeInstr 0x9C12 0x40003002 = .ok (.sel 1 2 3 4) ∧
    0x3A ≤ 0x3F00 / 2 ^ 8 % 64 := by decide
/-- O5 to O7: the thread is picked at a cached legal line; with a wrong descriptor or an illegal head the other clauses' premises hold. -/
theorem witness_step :
    let s : State := { th regs0 with cycle := 1 }
    let u : State := { tick s with choices := [], cur := .thread 0 0 }
    Machine.pick (tick s) = some (.agent (.thread 0 0)) ∧ cachedLine? u (.thread 0 0) u.getPc.toNat = some (lineOf 0 0) ∧ lineLegal (lineOf 0 0) = true ∧
      u.getPc.toNat % 64 / 2 ≤ heads (lineOf 0 0) ∧ decodeSlot (lineOf 0 0) 1 = .ok .nop ∧ lookahead? u.regs (usesOf .nop) = none ∧
      nextAnd (step s) (fun v => v.getPc == 0x40000004) = true := by decide +kernel
theorem witness_bad_lines :
    lineLegal (0 :: (lineOf 0 0).drop 1) = false ∧ lineLegal (lineOf 0x3A00 0) = true ∧
    decodeSlot (lineOf 0x3A00 0) 1 = .error .unallocatedMajor := by decide
/-- O5, O7: a PC in the edge window, an instruction in a thread's profile and one that is not in a core's. -/
theorem witness_profile :
    let s : State := { co regs0 with cores := [((0, 0), { regs := regs0, idle := false, icache := [(0, 0x1000000, 0, lineOf 0x70 0)] })], cycle := 1 }
    let u : State := { tick s with choices := [], cur := .core 0 0 }
    let v : State := { u with retired := false }
    0x40000000 ≤ u.getPc.toNat ∧ u.getPc.toNat < 0x3FFE0000000000 ∧ legalFor .nop (.thread 0 0) = true ∧ legalFor .yield (.core 0 0) = false ∧
    decodeSlot (lineOf 0x70 0) 1 = .ok .yield ∧ answers (step s) (noteIssue u (raise v (illegalOp v))) = true := by decide +kernel
theorem witness_engine_step :
    Machine.pick (tick { State.reset with cycle := 1 }) = some (.engine .powerApplied) ∧ Machine.pick (tick { State.reset with due := [] }) = none := by decide +kernel
/-- O8: a read and a write of the window's register, a write of its vector source, and neither. -/
theorem witness_window :
    stepping { regs0 with windows := [window3] } = false ∧ RegName.g 3 ∈ (usesOf (.mov 1 3)).reads ∧ RegName.g 3 ∈ (usesOf (.mov 3 1)).writes ∧
    RegName.v 1 ∈ (usesOf (.vclr 1)).writes ∧ RegName.g 3 ∉ (usesOf (.mov 1 2)).reads ++ (usesOf (.mov 1 2)).writes ∧
    answers (issueInstr (.mov 1 3) (th { regs0 with windows := [window3] }))
      (raise (th { regs0 with windows := [window3] }) { code := 0x04, engine := 0, info := 0x40000004 }) = true := by decide +kernel
/-- O11: the thread's memory is canonical and its step a next state. -/
theorem witness_canonical : (th regs0).MemOk ∧ nextAnd (step (th regs0)) (fun u => Memory.wf u.mem) = true := by
  refine ⟨by unfold State.MemOk; decide, by decide +kernel⟩
/-- The thread of witness_window with matrix operations outstanding. -/
def windowed (q : List MatOp) : State := { th { regs0 with windows := [window3] } with tiles := [(0, { tile0 with matq := q })] }
/-- O8: a violation that waits for an older operation, one that does not, and an instruction that meets no window. -/
theorem witness_window_order :
    let busy := windowed [{ ctx := 0, task := some 5, req := 3, xm := 1, acc := 1 }]
    olderBusy (windowed []) = false ∧ olderBusy busy = true ∧ legalFor (.mov 1 3) (.thread 0 0) = true ∧
    answers (issueInstr (.mov 1 3) busy) { busy with retired := false } = true ∧
    nextAnd (issueInstr (.mov 1 2) (windowed [])) (fun u => u.getPc == 0x40000004 && u.regs.windows.map Window.left == [1]) = true := by decide +kernel
/-- O12, O13: 5 - 7, a division by zero, 2^63 + 2^63, in a thread and on a core. -/
theorem witness_scalar :
    intValue (th (rg [0, 5, 7])) (.subX 3 1 2) = some (3, 0xFFFFFFFFFFFFFFFE) ∧
    answers (exec (.subX 3 1 2) (th (rg [0, 5, 7]))) (((th (rg [0, 5, 7])).setG 3 0xFFFFFFFFFFFFFFFE).retire) = true ∧
    answers (exec (.div 3 1 0 0) (co (rg [0, 5, 7]))) (((co (rg [0, 5, 7])).setG 3 0xFFFFFFFFFFFFFFFF).retire) = true ∧
    answers (exec (.addHead 1 1) (th (rg [0, 0x8000000000000000]))) (((th (rg [0, 0x8000000000000000])).setG 1 0).retire) = true := by decide +kernel
/-- Registers inside one loop, and inside two whose bodies end at the same instruction. -/
def loop1 (n : Word) : Regs := { regs0 with status := 0x10, lcnt0 := n, ltop0 := 0x40000002, llast0 := 0x40000006 }
def loop2 (n m : Word) : Regs := { loop1 n with status := 0x20, lcnt1 := m, ltop1 := 0x40000004, llast1 := 0x40000006 }
/-- O14: every clause: in a trap, no loop, before the end, at the end with counts of 2 and 1, both loops ending. -/
theorem witness_loop_end :
    intrap { regs0 with status := 0x40 } = true ∧ ldepth regs0 = 0 ∧ ldepth (loop1 2) = 1 ∧ intrap (loop1 2) = false ∧ ldepth (loop2 2 1) = 2 ∧
    (successor (loop1 2) 0x40000004 0x40000006).pc = 0x40000006 ∧ (successor (loop1 2) 0x40000006 0x40000008).pc = 0x40000002 ∧
    ldepth (successor (loop1 1) 0x40000006 0x40000008) = 0 ∧ (successor (loop2 2 2) 0x40000006 0x40000008).pc = 0x40000004 ∧
    (successor (loop2 2 1) 0x40000006 0x40000008).pc = 0x40000002 ∧ ldepth (successor (loop2 1 1) 0x40000006 0x40000008) = 0 ∧
    successor { loop2 2 1 with llast0 := 0x40000008 } 0x40000006 0x40000008 =
      { loop2 2 1 with llast0 := 0x40000008, lcnt1 := 0, ltop1 := 0, llast1 := 0, status := 0x10, pc := 0x40000008 } := by decide +kernel
/-- O15: in the line, and in its last slot 31. -/
theorem witness_next :
    cachedLine? (th regs0) (.thread 0 0) 0x40000002 = some (lineOf 0 0) ∧ nextPc (th regs0) (.thread 0 0) 0x40000002 = 0x40000004 ∧
    nextPc (th regs0) (.thread 0 0) 0x4000003E = 0x40000042 ∧ ((th regs0).retire).getPc = 0x40000004 := by decide +kernel
/-- O15: the thread has no operation outstanding. -/
theorem witness_no_operation : ((th regs0).ctx 0 0).succ = none := by decide
/-- A movement program at the same line. -/
def zreq0 : ZReq := { uid := 9, handle := 1, state := .active, started := true, zc := some 0, isProgram := true, pc := 0x40000002 }
/-- Movement context 0 of tile 0 with that request. -/
def zy (r : ZReq) : State := { th regs0 with tiles := [(0, { tile0 with zreqs := [r] })], cur := .zephyr 0 0 }
/-- O16, O17: targets in the line of nops: taken and not, thread, core and movement program; a call; a jump and a return by register. -/
theorem witness_branches :
    let s := th (rg [1, 1, 0x40000006])
    okAnd (checkTarget s s.cur s.getPc (target s.getPc 0 3)) (fun _ => true) = true ∧ branchOf s (.beqJ 0 1 0 3) = some (true, 0, 3) ∧
    answers (exec (.beqJ 0 1 0 3) s) (s.jump 0x40000006 true) = true ∧ branchOf s (.bneJL 0 1 0 3) = some (false, 0, 3) ∧
    answers (exec (.bneJL 0 1 0 3) s) s.retire = true ∧ answers (exec (.brJ 0 3) (co regs0)) ((co regs0).jump 0x40000006 true) = true ∧
    jumpOf zreq0 (.zjmpJ 0 3) = some (true, 0, 3) ∧ answers (exec (.zjmpJ 0 3) (zy zreq0)) ((zy zreq0).jump 0x40000006 false) = true ∧
    answers (exec (.zbnzJ 0 0 3) (zy zreq0)) (zy zreq0).retire = true ∧
    answers (exec (.callJ 0 3) s) ((s.setG 14 0x40000004).jump 0x40000006 false) = true ∧
    answers (exec (.jr 2) s) (s.jump 0x40000006 true) = true ∧
    answers (exec .ret (th { regs0 with g := (gs []).set 14 0x40000006 })) ((th { regs0 with g := (gs []).set 14 0x40000006 }).jump 0x40000006 true) = true := by
  decide +kernel
/-- O16: what a transfer leaves of the levels: inside the innermost one, inside the outer one only, outside both, and in a trap. -/
theorem witness_transfer :
    let t (r : Regs) (T : Nat) := transfer r T true
    transfer (loop2 2 1) 0x40000008 false = { loop2 2 1 with pc := 0x40000008 } ∧ t { loop2 2 1 with status := 0x60 } 0x40000008 = { loop2 2 1 with status := 0x60, pc := 0x40000008 } ∧
    t (loop1 2) 0x40000006 = { loop1 2 with pc := 0x40000006 } ∧ ldepth (t (loop1 2) 0x40000008) = 0 ∧ (t (loop1 2) 0x40000008).lcnt0 = 0 ∧
    t (loop2 2 1) 0x40000004 = { loop2 2 1 with pc := 0x40000004 } ∧ ldepth (t (loop2 2 1) 0x40000002) = 1 ∧ (t (loop2 2 1) 0x40000002).lcnt0 = 2 ∧
    ldepth (t (loop2 2 1) 0x40000008) = 0 := by decide +kernel
/-- O18: outside the edge window, odd, slot 0, past the heads. -/
theorem witness_bad_target :
    let s := th (rg [0, 0x3FFFFFFE, 0x40000003, 0x40000000])
    cachedLine? (th regs0) (.thread 0 0) 0x40000002 = some (lineOf 0 0) ∧ heads (lineOf 0x4000 0) = 30 ∧ heads (lineOf 0x4000 0) < 0x4000003E % 64 / 2 ∧
    answers (exec (.jr 1) s) (raise s { code := 0x03, engine := 0, info := 0x3FFFFFFE, pc := some s.getPc }) = true ∧
    answers (exec (.jr 2) s) (raise s { code := 0x03, engine := 0, info := 0x40000003, pc := some s.getPc }) = true ∧
    answers (exec (.callr 3) s) (raise s { code := 0x03, engine := 0, info := 0x40000000, pc := some s.getPc }) = true := by decide +kernel
/-- O18: the edges of the window; a branch and tret to an odd target; a target on a line that nothing gives; loop to itself, to a loop, past the outer
loop's end, to an illegal line. -/
theorem witness_bad_transfers :
    let bad (s : State) (T : Word) (o : Host.Outcome State Fault Refusal) := answers o (raise s { code := 0x03, engine := 0, info := T, pc := some s.getPc })
    let h (r : Regs) : State := th { r with status := 0x40 }
    let l (x : CodeLine) (n : Nat) (r : Regs) : State := (th r).setTile 0 { tile0 with icache := [nops, (0, 0x1000000 + n, 0, x)] }
    let illegal : CodeLine := 0x1800 :: exampleLine.drop 1
    bad (th (rg [0, 0x3FFFFFFE])) 0x3FFFFFFE (exec (.jr 1) (th (rg [0, 0x3FFFFFFE]))) = true ∧
    bad (th (rg [0, 0x3FFE0000000002])) 0x3FFE0000000002 (exec (.callr 1) (th (rg [0, 0x3FFE0000000002]))) = true ∧
    branchOf (th regs0) (.brJ 0 0) = some (true, 0, 0) ∧ bad (th regs0) 0x40000000 (exec (.brJ 0 0) (th regs0)) = true ∧
    intrap (h { regs0 with trpc := 0x40000003 }).regs = true ∧
    bad (h { regs0 with trpc := 0x40000003 }) 0x40000003 (exec .tret (h { regs0 with trpc := 0x40000003 })) = true ∧
    (let s := th (rg [0, 0x60000000002])
     match readCodeLine s s.cur 0x60000000002 with
     | .error f => answers (exec (.jr 1) s) (raise s { xTrap f .exec 0x60000000002 with addr := 0x60000000002, pc := some s.getPc })
     | .ok _ => false) = true ∧
    (let loops (s : State) (o : Host.Outcome State Fault Refusal) (T : Word) := answers o (raise s { code := 0x03, engine := 0, info := T })
     loops (th (rg [3])) (exec (.loopGJ 0 0 1) (th (rg [3]))) 0x40000002 = true ∧
     ldepth (loop1 2) = 1 ∧ loops (th { loop1 2 with g := gs [3] }) (exec (.loopGJ 0 0 4) (th { loop1 2 with g := gs [3] })) 0x40000008 = true ∧
     lineLegal illegal = false ∧ okAnd (checkTarget (l illegal 1 (rg [3])) (.thread 0 0) 0x40000002 0x40000042) (fun x => x == illegal) = true ∧
     loops (l illegal 1 (rg [3])) (exec (.loopGJ 0 1 1) (l illegal 1 (rg [3]))) 0x40000042 = true ∧
     namesLoop (lineOf 0x5E80 0) 0x40000042 = true ∧
     loops (l (lineOf 0x5E80 0) 1 (rg [3])) (exec (.loopGJ 0 1 1) (l (lineOf 0x5E80 0) 1 (rg [3]))) 0x40000042 = true) := by decide +kernel
/-- O19: depth 2 traps, a count of 3 and a count of 0, from a general and a mailbox register, the inner loop ending with the outer one. -/
theorem witness_loops :
    let s := th (rg [3])
    loopOf s (.loopGJ 0 0 4) = some (3, 0, 4) ∧ okAnd (checkTarget s s.cur s.getPc 0x40000008) (fun l => lineLegal l && !namesLoop l 0x40000008) = true ∧
    nextAnd (exec (.loopGJ 0 0 4) s) (fun u => u.regs.lcnt0 == 3 && u.regs.llast0 == 0x40000008 && u.regs.ltop0 == 0x40000004) = true ∧
    nextAnd (exec (.loopMbJ 0 0 4) s) (fun u => u.getPc == 0x4000000A && ldepth u.regs == 0) = true ∧
    answers (exec (.loopGJ 0 0 4) (th (loop2 1 1))) (raise (th (loop2 1 1)) { code := 0x06, engine := 0 }) = true ∧
    (∃ r, r = { loop1 2 with llast0 := 0x40000008 } ∧ ldepth r = 1 ∧ 0x40000008 ≤ r.llast0.toNat ∧
      nextAnd (exec (.loopGJ 0 0 4) (th r)) (fun u => u.getPc == 0x40000002 && u.regs.lcnt0 == 1) = true) := by
  refine ⟨by decide +kernel, by decide +kernel, by decide +kernel, by decide +kernel, by decide +kernel, _, rfl, by decide +kernel⟩
/-- O20: a pause of 0 and of 5, a system call in a thread and on a core, tret in a trap with a valid TRPC and outside one. -/
theorem witness_nop_to_tret :
    let r : Regs := { regs0 with status := 0x40, trpc := 0x40000008 }
    answers (exec (.fence 2) (th regs0)) (th regs0).retire = true ∧ answers (exec (.pause 0) (co regs0)) (co regs0).retire = true ∧
    nextAnd (exec (.pause 5) (th regs0)) (fun u => (u.ctx 0 0).pause == 5 && u.due == [.pauseExpiry 0 0]) = true ∧
    nextAnd (exec (.pause 5) (co regs0)) (fun u => (u.core 0 0).pause == 6) = true ∧
    answers (exec (.sys 7) (th regs0)) (raise (th regs0).retire { code := 0x08, engine := 0, info := 7, pc := some 0x40000004 }) = true ∧
    answers (exec (.sys 7) (co regs0)) (raise (co regs0).retire { code := 0x08, engine := 0, info := 7, pc := some 0x40000004 }) = true ∧
    intrap (th r).regs = true ∧ nextAnd (exec .tret (th r)) (fun u => u.getPc == 0x40000008 && intrap u.regs == false) = true ∧
    answers (exec .tret (th regs0)) (raise (th regs0) { code := 0x07, engine := 0 }) = true := by decide +kernel
/-- O21: number 5, a mailbox register, the unassigned numbers 20, 23 and 32, and a core. -/
theorem witness_control_reads :
    let s := th { rg [] with qflags := 3, fpstat := 9 }
    (s.block? 1).isSome = true ∧ nextAnd (exec (.rdc 2 5) s) (fun u => u.getG 2 == 3) = true ∧
    nextAnd (exec (.rdc 2 31) s) (fun u => u.getG 2 == 0) = true ∧ answers (exec (.rdc 2 20) s) (raise s (illegalOp s)) = true ∧
    answers (exec (.rdc 2 23) s) (raise s (illegalOp s)) = true ∧ answers (exec (.rdc 2 32) s) (raise s (illegalOp s)) = true ∧
    nextAnd (exec (.rdc 2 4) (co { regs0 with fpstat := 9 })) (fun u => u.getG 2 == 9) = true := by decide +kernel
/-- O22: STATUS keeps what wrc does not write, FPSTAT clears by ones, TVEC takes bits [53:0], a read-only number, an unassigned one. -/
theorem witness_control_writes :
    let s := th { rg [0xFFFFFFFFFFFFFFFF] with fpstat := 0x1F, status := 0x8000 }
    nextAnd (exec (.wrc 0 0) s) (fun u => u.regs.status == 0x100) = true ∧ nextAnd (exec (.wrc 0 4) s) (fun u => u.regs.fpstat == 0) = true ∧
    nextAnd (exec (.wrc 0 7) s) (fun u => u.regs.tvec == 0x3FFFFFFFFFFFFF) = true ∧ answers (exec (.wrc 0 19) s) s.retire = true ∧
    answers (exec (.wrc 0 22) s) (raise s (illegalOp s)) = true := by decide +kernel
/-- O21: what waits for the thread's matrix operations. -/
theorem witness_control_waits :
    let s (xm : Nat) := windowed [{ ctx := 0, task := some 5, req := 3, xm := xm, acc := 1 }]
    (th regs0).tile 0 = tile0 ∧ tile0.matq = [] ∧ answers (exec (.rdc 1 4) (s 1)) (s 1) = true ∧ answers (exec (.rdc 1 6) (s 4)) (s 4) = true ∧
    nextAnd (exec (.rdc 1 6) (s 1)) (fun u => u.getPc == 0x40000004) = true := by decide +kernel
/-- A thread whose private allocation holds bytes 1, 2, 0x83, 4 at offset 0x20, and whose g1 points there. -/
def thm (l : List Word) : State :=
  writePhys (th (rg (0 :: 0x20 :: l))) (spadBase 0 + 0x20) [1, 2, 0x83, 4]
/-- A core with the same bytes at edge address 0x40000020, the address in g1. -/
def com (l : List Word) : State :=
  writePhys (co (rg (0 :: 0x40000020 :: l))) 0x40000020 [1, 2, 0x83, 4]
/-- O23, O25: a load of each kind and a store, private bytes of the block's scratchpad, little-endian, and the negative offset. -/
theorem witness_load_store :
    let s := thm [2, 0x1122334455667788]
    loadOf s (.ldWK 5 1 0 0) = some (5, 0x20, 4, false) ∧ autoBlock s 0x20 = none ∧ okAnd (loadBytes s 0x20 4) (fun r => r.1 == [1, 2, 0x83, 4] && r.2.mem == s.mem) = true ∧
    nextAnd (exec (.ldWK 5 1 0 0) s) (fun u => u.getG 5 == 0x04830201 && u.getPc == 0x40000004) = true ∧
    nextAnd (exec (.ldxS 0 5 1 2 0) s) (fun u => u.getG 5 == 0xFFFFFFFFFFFFFF83 && u.mem == s.mem) = true ∧
    storeOf s (.stHK 3 1 0 (-16)) = some (0x10, [0x88, 0x77]) ∧
    nextAnd (exec (.stHK 3 1 0 (-16)) s) (fun u => readPhys u (spadBase 0 + 0x0F) 4 == [0, 0x88, 0x77, 0]) = true ∧
    nextAnd (exec (.ldp 5 6 1 0 0) s) (fun u => u.getG 5 == 0x04830201 && u.getG 6 == 0) = true ∧
    allocAt s 0 1 0x20 4 = some { off := 0, size := 256, handle := 1, shared := false, swz := 0 } ∧ (s.tile 0).locks = [] := by decide +kernel
/-- O25: a shared allocation: the store is buffered and memory stays, the task that holds the line in its read set reads its own byte. -/
theorem witness_shared :
    let s := th (rg [7, 0x100])
    let k : Task := { task5 with reads := [{ line := .spad 1 0x100, ver := 0 }] }
    allocAt s 0 1 0x100 1 = some { off := 256, size := 256, handle := 1, shared := true, swz := 0 } ∧ bufferEntries task5 + 1 ≤ 256 ∧
    okAnd (storeBytes s 0x100 [7]) (fun u => u.mem == s.mem && (u.task? 5).map Task.stores == some [(.spad 1 0x100, 7)]) = true ∧
    okAnd (loadBytes (s.setTask 5 { k with stores := [(.spad 1 0x100, 7)] }) 0x100 2) (fun r => r.1 == [7, 0]) = true := by decide +kernel
/-- O24: a core's load and store at a physical edge address. -/
theorem witness_core_access :
    let s := com []
    physicalCore (s.core 0 0) = true ∧ ptrOk 0x40000020 = true ∧ physListed s 0x40000020 = true ∧ rekeyBlocked s 0x40000020 = false ∧
    (match headWay s (senderOf s (.core 0 0)) (siteTile (.island 0)) (.phys 0x40000020) with | .ok u => u == s | .error _ => false) = true ∧
    Memory.wf s.mem = true ∧ (tableBytes s 0x40000020).all (fun x => x / 16 != 0x40000020 / 16) = true ∧
    loadBytes s 0x40000020 3 = .ok ([1, 2, 0x83], s) ∧
    okAnd (storeBytes s 0x40000021 [9]) (fun u => readPhys u 0x40000020 4 == [1, 9, 0x83, 4]) = true := by decide +kernel
/-- O26: lda, stl and amo.add and amo.cas on private bytes; a word operand in a register of wider value. -/
theorem witness_atomics :
    let s := thm [0xF00000001]
    okAnd (checkNow s (curReq s) .atomic 0x20 4) (fun r => r.1.length == 1) = true ∧
    nextAnd (exec (.lda 2 5 1 1 0) s) (fun u => u.getG 5 == 0x04830201) = true ∧
    nextAnd (exec (.stl 1 2 1 0 0) s) (fun u => readPhys u (spadBase 0 + 0x20) 4 == [1, 0, 0x83, 4]) = true ∧
    nextAnd (exec (.amoAdd 2 5 1 2 0 0) s) (fun u => u.getG 5 == 0x04830201 && readPhys u (spadBase 0 + 0x20) 4 == [2, 2, 0x83, 4]) = true ∧
    nextAnd (exec (.amoCas 2 5 1 2 0 0) (s.setG 5 0x04830201)) (fun u => u.getG 5 == 0x04830201 && readPhys u (spadBase 0 + 0x20) 4 == [1, 0, 0, 0]) = true ∧
    nextAnd (exec (.amoCas 2 5 1 2 0 0) s) (fun u => u.getG 5 == 0x04830201 && readPhys u (spadBase 0 + 0x20) 4 == [1, 2, 0x83, 4]) = true := by decide +kernel
/-- O27: a bad tag, the hole between the windows at its first byte, an access that no allocation holds. -/
theorem witness_access_traps :
    let s := th (rg [0, 0x1FFFF, 0x200, 0xFC00000000000000])
    let trap (n : Nat) (p : Word) := check s (curReq s) .read p n
    ptrOk 0x1FFFF = true ∧ (segments 0x1FFFF 2).any (fun g => inHole g.1) = true ∧ ptrOk 0xFC00000000000000 = false ∧
    answers (exec (.ldHK 5 1 0 0) s) (raise s { code := 0x10, engine := 1, addr := 0x1FFFF }) = true ∧
    answers (exec (.ldHK 5 3 0 0) s) (raise s { code := 0x14, engine := 1, addr := 0xFC00000000000000 }) = true ∧
    trap 1 0x200 = .error { code := 0x11, engine := 1, addr := 0x200 } ∧
    answers (exec (.stBK 0 2 0 0) s) (takeTrap s 0 0 { code := 0x11, engine := 1, addr := 0x200 }) = true := by decide +kernel
/-- Task 5 with a data-cache block of edge block 0x1000000 that is dirty, g1 its address. -/
def dblock0 : DBlock :=
  { vblock := 0x1000000, tenant := 0, world := true, pblock := 0x1000000, bytes := List.replicate 64 5, sides := List.replicate 4 { z := false }, wrote := [0, 1, 2, 3], tp := true, dirty := true }
def thd (l : List DBlock) (g : List Word) : State := { th (rg g) with tiles := [(0, { tile0 with dcache := l })] }
/-- O28: each status of spalloc (0 bytes, 131,073 bytes, attribute 16, quota, no space), an allocation at its boundary sizes; spfree by a task;
the tag table with a free slot and with another block's. -/
theorem witness_allocator :
    let a (g : List Word) (p : State → Bool) := nextAnd (exec (.spalloc 3 1 2) (th (rg (0 :: g)))) p
    let full : State := { th (rg [0, 256, 0]) with tiles := [(0, { tile0 with allocs := [{ off := 0, size := 131072, handle := 2, shared := false, swz := 0 }] })] }
    let tagged : State := { th (rg [0, 7, 9]) with tiles := [(0, { tile0 with tags := [(9, ⟨7, 2⟩)] })] }
    a [0, 0] (fun u => u.getG 3 == 0x8000000000000003) = true ∧ a [131073, 0] (fun u => u.getG 3 == 0x8000000000000003) = true ∧
    a [256, 16] (fun u => u.getG 3 == 0x8000000000000004) = true ∧ a [4096, 15] (fun u => u.getG 3 == 0x8000000000000002) = true ∧
    a [1, 8] (fun u => u.getG 3 == 512 && (u.tile 0).allocs.head? == some { off := 512, size := 256, handle := 1, shared := true, swz := 0, made := some 5 }) = true ∧
    nextAnd (exec (.spalloc 3 1 2) full) (fun u => u.getG 3 == 0x8000000000000001) = true ∧
    nextAnd (exec (.spfree 1) (th (rg [0, 256]))) (fun u => (u.tile 0).allocs == [{ off := 0, size := 256, handle := 1, shared := false, swz := 0 }, { off := 256, size := 256, handle := 1, shared := true, swz := 0, dying := true, freer := some 5 }]) = true ∧
    nextAnd (exec (.spfree 1) (let s := th (rg [0, 256]); s.setCtx 0 0 { s.ctx 0 0 with task := none })) (fun u => (u.tile 0).allocs.length == 1) = true ∧
    nextAnd (exec (.spq 3) (th (rg []))) (fun u => u.getG 3 == 2048) = true ∧
    nextAnd (exec (.tset 1 2) (th (rg [0, 7, 9]))) (fun u => (u.tile 0).tags == [(9, ⟨7, 1⟩)]) = true ∧
    nextAnd (exec (.tset 1 2) tagged) (fun u => (u.tile 0).tags == [(9, ⟨7, 2⟩)]) = true ∧
    nextAnd (exec (.tlk 3 1) tagged) (fun u => u.getG 3 == 0xFFFF) = true ∧ nextAnd (exec (.tclr 2) tagged) (fun u => (u.tile 0).tags.length == 1) = true := by
  decide +kernel
/-- O29: no block, a dirty block dropped and written back; a record written by a core and read back; a record buffered by a task, whose read of
it shows the buffered image. -/
theorem witness_caches_and_records :
    let s := thd [dblock0] [0, 0x40000000, 0x40]
    cacheAt (th (rg [])) 0x40000000 = none ∧ cacheAt s 0x40000000 = some (0, dblock0) ∧ answers (exec (.dcwb 0) (th (rg []))) (th (rg [])).retire = true ∧
    nextAnd (exec (.dcinv 1) s) (fun u => (u.tile 0).dcache.isEmpty && u.mem.isEmpty) = true ∧
    nextAnd (exec (.dcwb 1) s) (fun u => memRead u.mem 0x4000003F == 5 && ((u.tile 0).dcache.map fun b => (b.bytes == dblock0.bytes && !b.dirty)) == [true]) = true ∧
    coreRecord (com [3]) 0 0 3 = .ok (0, 3) ∧ okAnd (loadBytes (com [3]) 0x40000000 64) (fun r => r.1.length == 64) = true ∧
    nextAnd (exec (.lrwr 2 1) ((com [3]).setG 1 0x40000000)) (fun u => recVersion (layoutRecord u 0 3) == 1) = true ∧
    okAnd (memLoad (th (rg [3, 0x40])) (threadReq (th (rg [3, 0x40])) 0 0) false 0x40 64) (fun r => r.1.length == 64 && bufferEntries task5 + 4 ≤ 256) = true ∧
    nextAnd (exec (.lrwr 0 1) (th (rg [3, 0x40]))) (fun u => (u.task? 5).map (fun k => k.recs.length) == some 1) = true ∧
    nextAnd (exec (.lrrd 0 1) (th (rg [3, 0x40]))) (fun u => u.getPc == 0x40000004) = true := by decide +kernel
/-- O29: dcinv of a core whose shared cache holds another block. -/
theorem witness_core_cache : cacheAt (com []) 0x40000020 = none ∧ nextAnd (exec (.dcinv 1) (com [])) (fun u => u.retired && u.getPc == 0x40000004) = true := by
  decide +kernel
/-- A thread with vector registers from v0 on, all live, and a stream s0 of two beats, both prefetched. -/
def stream0 (l : List (Vec × Option (Nat × Nat × Word × Word))) : Stream :=
  { bound := true, pattern := toBytes 8 0 ++ toBytes 8 0x0001000100000010 ++ List.replicate 16 0, total := 2, ahead := l, req := 3 }
def thv (g : List Word) (l : List Vec) (m : Stream) : State :=
  let s := th (rg g)
  s.setCtx 0 0 { s.ctx 0 0 with vec := { v := Vector.ofFn fun k => l.getD k.val 0, vlive := 0xFFF, s := (Vector.replicate 4 ({} : Stream)).set 0 m } }
/-- O30: registers as operands, an unbound and a bound stream, a result. -/
theorem witness_operands :
    let s := thv [] [1, 2] (stream0 [(7, none), (8, none)])
    operands s 0 0 [1, 0] 1 = .ok ([[2], [1]], s) ∧ takeBeats s 0 0 1 1 = .error (.trap (illegalOp s)) ∧
    (streamOf (s.ctx 0 0).vec 0).bound = true ∧ 2 ≤ (streamOf (s.ctx 0 0).vec 0).remain ∧
    okAnd (takeBeats s 0 0 0 2) (fun r => r.1 == [7, 8] && (streamOf (r.2.ctx 0 0).vec 0).pos == 2) = true ∧
    readV ((putResult s 0 0 { at_ := 11, regs := [9], fp := 1 }).ctx 0 0).vec 11 = 9 := by decide +kernel
/-- 1.0 and 2.0 in FP32, 0x7FFFFFFF and 1 in INT32, in lane 0. -/
def vone : Vec := 0x3F800000
/-- O31: 1 + 2 = 3, int32 wrap and clamp, 1/0 with its flag, an unordered compare, a shift by the width, the root of 4, fma 1·2+1. -/
theorem witness_lanes :
    let s := thv [] [0, vone, 0x40000000, 0x7FFFFFFF, 1, 0x7FC00000, 32] {}
    let got (i : Instr) (x : Nat) := nextAnd (exec i s) (fun u => (lane (readV (u.ctx 0 0).vec 9) 32 0) == x)
    laneOf (.vadd 0 9 1 2 noMods) ≠ none ∧ (s.ctx 0 0).extResident = true ∧ got (.vadd 0 9 1 2 noMods) 0x40400000 = true ∧
    got (.vadd 3 9 3 4 noMods) 0x80000000 = true ∧ got (.vadd 3 9 3 4 { noMods with clamp := true }) 0x7FFFFFFF = true ∧
    got (.vdiv 0 9 1 0 noMods 0) 0x7F800000 = true ∧ nextAnd (exec (.vdiv 0 9 1 0 noMods 0) s) (fun u => u.regs.fpstat != 0) = true ∧
    got (.vcmp 0 9 5 1 4 noMods) 0xFFFFFFFF = true ∧ got (.vshl 3 9 4 6) 0 = true ∧ got (.vfma 0 9 1 2 1 noMods) 0x40400000 = true ∧
    got (.vsub 0 9 1 2 { noMods with neg2 := true }) 0x40400000 = true := by decide +kernel
/-- O32: a bitwise and, a permutation with an index out of range, a broadcast, vins and vext at word 7, vclr, a reduction, a conversion of 1.0 to
bf16, and a group of 32 values quantised and back. -/
theorem witness_whole_registers :
    let s := thv [0x80000001] [0, vone, 0x40000000, 0x0F, 8] {}
    let got (i : Instr) (p : VecState → Bool) := nextAnd (exec i s) (fun u => p (u.ctx 0 0).vec)
    okAnd (operands s 0 0 [1, 2] 1) (fun r => r.1 == [[vone], [0x40000000]]) = true ∧
    got (.vand 10 9 3 4) (fun v => readV v 9 == 8) = true ∧ got (.vperm 0 9 1 4 noMods) (fun v => lane (readV v 9) 32 0 == 0) = true ∧
    got (.vbcast 3 9 0) (fun v => lane (readV v 9) 32 7 == 0x80000001) = true ∧ got (.vins 3 9 0 7) (fun v => lane (readV v 9) 32 7 == 0x80000001) = true ∧
    nextAnd (exec (.vext 3 5 9 7) (thv [] [0, 0, 0, 0, 0, 0, 0, 0, 0, 0x80000001 <<< 224] {})) (fun u => u.getG 5 == 0xFFFFFFFF80000001) = true ∧
    got (.vclr 1) (fun v => readV v 1 == 0) = true ∧ got (.vredadd 0 9 1 noMods) (fun v => readV v 9 == vone) = true ∧
    got (.vcvt 2 0 9 1 noMods) (fun v => readV v 9 == 0x3F80) = true ∧ okAnd (operands s 0 0 [0] 4) (fun r => r.1.length == 1) = true ∧
    got (.vqnt 8 9 0 5 0) (fun v => fieldN v.vlive 9 9 == 1) = true ∧ okAnd (operands s 0 0 [3] 1) (fun _ => true) = true ∧
    got (.vdqnt 0 8 3 0 0 noMods) (fun v => fieldN v.vlive 11 11 == 1) = true := by decide +kernel
/-- O33: loads and stores of registers; a binding of 16 elements of the private allocation; sadv within and past the stream, unbound; sstat. -/
theorem witness_vector_memory :
    let p : List Byte := toBytes 8 0x1400000000000000 ++ toBytes 8 0x0000000100010010 ++ toBytes 4 4 ++ List.replicate 12 0
    let s := writePhys (thv [0x40, 0, 3] [5] (stream0 [])) (spadBase 0 + 0x40) p
    okAnd (loadBytes s 0x40 32) (fun r => r.1 == p) = true ∧ nextAnd (exec (.vldK 9 0 0 0) s) (fun u => lane (readV (u.ctx 0 0).vec 9) 32 3 == 0x00000001) = true ∧
    nextAnd (exec (.vstK 0 1 0 0) s) (fun u => readPhys u (spadBase 0) 2 == [5, 0]) = true ∧
    patternOk p 0 = true ∧ patternWindow (patternOf p) = none ∧
    nextAnd (exec (.sbind 0 13 0) s) (fun u => (streamOf (u.ctx 0 0).vec 1).bound && (streamOf (u.ctx 0 0).vec 1).total == 2 &&
      u.due.contains (.beatArrival 0 0 1)) = true ∧
    nextAnd (exec (.sunbind 12) s) (fun u => !(streamOf (u.ctx 0 0).vec 0).bound) = true ∧
    nextAnd (exec (.sadv 12 1) s) (fun u => (streamOf (u.ctx 0 0).vec 0).pos == 0) = true ∧
    nextAnd (exec (.sadv 12 2) s) (fun u => (streamOf (u.ctx 0 0).vec 0).ended) = true ∧
    answers (exec (.sadv 13 1) s) (raise s (illegalOp s)) = true ∧ nextAnd (exec (.sstat 4 12) s) (fun u => u.getG 4 == 0x8000000000000002) = true := by
  decide +kernel
/-- A loaded table of degree 0 over [0, 1): its one coefficient is 2.0. -/
def table0 : List Byte := List.replicate 64 0 ++ toBytes 4 0x40000000
def ibuf0 : IBuffer := { handle := 1, name := 0, loading := false, image := table0, addr := 0, req := 3 }
/-- A thread with it as name 0. -/
def thi (g : List Word) : State :=
  let s := thv g [0] {}
  { s with tiles := [(0, { tile0 with ibufs := [ibuf0] })], blocks := [(1, { block1 with itabs := [(0, (0, 0))] })] }
/-- O34: itld with a bad tag, misaligned and begun; iev and iseg on a loaded name, and on an empty one; itinv, itq. -/
theorem witness_interpolation :
    let s := thi [0xFC00000000000000, 0x20, 0x40]
    answers (exec (.itld 1 0 0) s) (raise (emptyName s 1 1) { code := 0x14, engine := 3, addr := 0xFC00000000000000 }) = true ∧
    answers (exec (.itld 1 1 0) s) (raise (emptyName s 1 1) { code := 0x18, engine := 3, addr := 0x20, info := 0x103 }) = true ∧
    (claimBuffer (s.tile 0).ibufs 1 3).isSome = true ∧
    nextAnd (exec (.itld 3 2 0) s) (fun u => (u.ctx 0 0).awaiting == some 10 && u.due == [.tableLoadComplete 0 1 3] && u.getPc == s.getPc) = true ∧
    ibuf? s 0 1 0 = some ibuf0 ∧ (tableSource? s 1 0).isSome = true ∧
    nextAnd (exec (.iev 0 9 0 0 noMods 0) s) (fun u => lane (readV (u.ctx 0 0).vec 9) 32 7 == 0x40000000) = true ∧
    nextAnd (exec (.iseg 0 9 0 0 0) s) (fun u => lane (readV (u.ctx 0 0).vec 9) 32 7 == 0) = true ∧
    ibuf? s 0 1 2 = none ∧ tableSource? s 1 2 = none ∧ answers (exec (.iseg 0 9 0 2 0) s) (raise s { code := 0x18, engine := 3, info := 0x201 }) = true ∧
    nextAnd (exec (.itinv 0 0) s) (fun u => tableSource? u 1 0 == none) = true ∧ nextAnd (exec (.itq 5 0 0) s) (fun _ => true) = true := by
  decide +kernel
/-- O34: a name whose load has not completed, and one whose buffer was taken for another. -/
theorem witness_refetch :
    let busy := (thi []).setTile 0 { tile0 with ibufs := [{ ibuf0 with loading := true }] }
    let gone := (thi []).setTile 0 tile0
    nameBusy busy 0 1 0 = true ∧ answers (exec (.iev 0 9 0 0 noMods 0) busy) busy = true ∧ nameBusy gone 0 1 0 = false ∧ tableSource? gone 1 0 = some (0, 0) ∧
    ibuf? gone 0 1 0 = none ∧ (claimBuffer (gone.tile 0).ibufs 1 0).isSome = true ∧
    nextAnd (exec (.iseg 0 9 0 0 0) gone) (fun u => (u.ctx 0 0).awaiting == some 10 && u.due == [.refetch 0 1 0] && u.getPc == 0x40000002) = true := by decide +kernel
/-- O34: a name whose load the thread itself has in flight: itld, itinv and itq wait; another name's do not. -/
theorem witness_own_load :
    let busy := (thi [0x40]).setTile 0 { tile0 with ibufs := [{ ibuf0 with loading := true, ctx := some 0 }] }
    ownLoad busy 0 0 1 0 = true ∧ nameLoading busy 1 0 = true ∧ ownLoad busy 0 0 1 1 = false ∧ ownLoad (thi []) 0 0 1 0 = false ∧ nameLoading (thi []) 1 0 = false ∧
    answers (exec (.itld 0 0 0) busy) busy = true ∧ answers (exec (.itinv 0 0) busy) busy = true ∧ answers (exec (.itq 5 0 0) busy) busy = true := by decide +kernel
/-- A direct descriptor: len bytes from src to dst, one row. -/
def desc0 (dst src len : Nat) : List Byte := toBytes 64 (dst * 2 ^ 64 + src * 2 ^ 128 + len * 2 ^ 192 + 2 ^ 224)
/-- A thread with a descriptor at offset 0x40 of its private allocation, g0 its address, and a task. -/
def thz (k : Task) (d : List Byte) (g : List Word) : State := (writePhys (th (rg (0x40 :: g))) (spadBase 0 + 0x40) d).setTask 5 k
/-- O35: zpost of a bad descriptor, of a range in the hole, of one that spans windows, with 255 posted, with a full queue, and accepted; bseal
at both ends; bwait of an open batch, of one that is sealed and done, and of one with a failed request. -/
theorem witness_copy_engine :
    let ok := desc0 0 0x80 16
    let post (k : Task) (d : List Byte) (p : State → Bool) := nextAnd (exec (.zpost 3 0 0) (thz k d [])) p
    let s := thz task5 ok []
    okAnd (readDesc s (threadReq s 0 0) 0x40) (fun r => r.1 == ok && descOk r.1 false && (rangesTrap r.2 (threadReq s 0 0) [(0x80, 16), (0, 16)]).isNone) = true ∧
    post task5 (desc0 0 0x80 0) (fun u => u.getG 3 == 0x8000000000000003) = true ∧
    answers (exec (.zpost 3 0 0) (thz task5 (desc0 0x20000 0x80 16) [])) (raise (thz task5 (desc0 0x20000 0x80 16) []) { code := 0x10, engine := 5, addr := 0x20000 }) = true ∧
    post task5 (desc0 0x3FFFFFFFFFFFF8 0x80 16) (fun u => (u.ctx 0 0).state == .trapped) = true ∧
    post { task5 with zcount := 255 } ok (fun u => u.getG 3 == 0x8000000000000002) = true ∧
    post task5 ok (fun u => u.getG 3 == 0 && (u.tile 0).zreqs.length == 1 && (u.task? 5).map Task.zcount == some 1) = true ∧
    nextAnd (exec (.bseal 3) s) (fun u => u.getG 3 == 0 && (u.task? 5).map Task.zopen == some 1) = true ∧
    answers (exec (.bseal 3) (s.setTask 5 { task5 with zopen := 0xFFFFFFFF })) (raise (s.setTask 5 { task5 with zopen := 0xFFFFFFFF })
      { code := 0x19, engine := 5, info := 0xFFFFFFFF }) = true ∧
    answers (exec (.bwait 1 1) s) (raise s { code := 0x19, engine := 5, info := 0 }) = true ∧
    nextAnd (exec (.bwait 1 2) (thz { task5 with zopen := 1 } ok [0, 1])) (fun u => u.getPc == 0x40000004) = true ∧
    nextAnd (exec (.bwait 1 1) (thz { task5 with zopen := 1, zfailed := [(256, 7)] } ok [])) (fun u => u.getPc == 0x40000004) = true ∧
    answers (exec (.bwait 1 1) (thz { task5 with zopen := 1, zfailed := [(3, 7)] } ok [])) (raise (thz { task5 with zopen := 1 } ok [])
      { code := 0x1A, engine := 5, info := 0x70000000003 }) = true ∧ nextAnd (exec (.zstat 3) s) (fun u => u.getG 3 == 0x0000200000000000) = true := by decide +kernel
/-- O35: a range that spans two windows, and a full queue. -/
theorem witness_copy_engine_statuses :
    let two := desc0 0x3FFFFFFFFFFFF0 0x80 16
    spansWindows (0x3FFDFFFFFFFFF8, 16) = true ∧ spansWindows (0x80, 16) = false ∧ two.length = 64 ∧
    (let s := thz task5 (desc0 0 0x80 16) []
     let full := s.setTile 0 { s.tile 0 with zreqs := List.replicate 32 zreq0 }
     nextAnd (exec (.zpost 3 0 0) full) (fun u => u.getG 3 == 0x8000000000000001)) = true := by decide +kernel
/-- O35: a zpost that holds its queue entry already, and one whose destination is shared, of a serialising task. -/
theorem witness_posting :
    let held := let s := thz task5 [] []; s.setCtx 0 0 { s.ctx 0 0 with posting := desc0 0 0x80 16 }
    let shared := thz { task5 with serial := true } (desc0 0x100 0x80 16) []
    nextAnd (exec (.zpost 3 0 0) held) (fun u => u.getG 3 == 0 && (u.ctx 0 0).posting == [] && (u.tile 0).zreqs.length == 1) = true ∧
    (dstRange (desc0 0x100 0x80 16)).toList.any (reachesShared shared (threadReq shared 0 0)) = true ∧
    okAnd (settle shared (threadReq shared 0 0)) (fun v => (v.task? 5).isSome) = true ∧
    nextAnd (exec (.zpost 3 0 0) shared) (fun u => (u.tile 0).zreqs.length == 1) = true := by decide +kernel
/-- A movement program whose declared ranges are the first 256 bytes, with registers. -/
def zprog (z : List Word) : ZReq :=
  { zreq0 with desc := toBytes 64 (1 + 256 * 2 ^ 192 + 256 * 2 ^ 224), z := Vector.ofFn fun k => z.getD k.val 0 }
/-- O36: registers, a load and a store, a copy of 4 bytes in 2 rows, of 0 bytes and of too many, strides, zdone, zhalt. -/
theorem witness_movement :
    let z := zprog [0x10, 0x20, 4, 0x1000000, 2, 0x0000000800000004]
    let s := writePhys (zy z) (spadBase 0 + 0x20) [1, 2, 3, 4, 5, 6, 7, 8]
    let reg (i : Instr) (k : Nat) (v : Word) := nextAnd (exec i s) (fun u => (u.zreqOf? 0 0).any fun r => r.z.toList.getD k 0 == v && r.pc == 0x40000004)
    s.zreqOf? 0 0 = some z ∧ zvalue z (.zaddXD 6 0 2) = some (6, 0x14) ∧ reg (.zaddXD 6 0 2) 6 0x14 = true ∧ reg (.zli 6 (-1)) 6 0xFFFFFFFFFFFFFFFF = true ∧
    reg (.zsubXI 6 2 5) 6 0x3FFFFFFFFFFFFF = true ∧ reg (.zld 6 1 7) 6 0x0807060504030201 = true ∧
    nextAnd (exec (.zst 0 1 7) s) (fun u => readPhys u (spadBase 0 + 0x20) 2 == [0x10, 0]) = true ∧
    nextAnd (exec (.zcopy 0 1 2) s) (fun u => readPhys u (spadBase 0 + 0x10) 5 == [1, 2, 3, 4, 0]) = true ∧
    nextAnd (exec (.zcopy 0 1 7) s) (fun u => u.getPc == 0x40000004) = true ∧
    answers (exec (.zcopy 0 1 3) s) (takeCopyFault s 0 z { code := 0x34, engine := 5 }) = true ∧
    answers (exec (.zstride 7 5) s) (takeCopyFault s 0 z { code := 0x34, engine := 5 }) = true ∧
    nextAnd (exec (.zstride 4 5) s) (fun u => (u.zreqOf? 0 0).any fun r => r.zrows == 2 && r.sstride == 4 && r.dstride == 8) = true ∧
    nextAnd (exec (.zdone 2) s) (fun u => (u.zreqOf? 0 0).any fun r => r.state == .draining && r.status == 4) = true ∧
    (let r : ZReq := { z with succ := some 0x40000004 }
     answers (exec .zhalt s) (takeCopyFault (s.setZreq 0 r) 0 r { code := 0x32, engine := 5 }) = true) := by decide +kernel
/-- O37: a page fault again on one page, RF 3 going back to 1, and another code. -/
theorem witness_copy_fault :
    let r : ZReq := { zreq0 with rf := 3, faultPage := some (0x40000010, 4096) }
    zreq? (zy r) 0 9 = some r ∧ plainRoutes (zy r) = true ∧ cleanRouters (zy r) = true ∧
    (zreq? (takeCopyFault (zy r) 0 r { code := 0x16, addr := 0x40000000 }) 0 9).map (fun q => (q.faultCode, q.rf)) = some (0x30, 1) ∧
    (zreq? (takeCopyFault (zy r) 0 r { code := 0x16, addr := 0x40001000 }) 0 9).map (fun q => (q.faultCode, q.rf)) = some (0x16, 0) ∧
    (zreq? (takeCopyFault (zy r) 0 r { code := 0x34 }) 0 9).map (fun q => (q.faultCode, q.rf, q.fseq)) = some (0x34, 0, 1) := by decide +kernel
/-- A thread with matrix state. -/
def thx (g : List Word) (m : MatState) (q : List MatOp) : State :=
  let s := th (rg g)
  { s.setCtx 0 0 { s.ctx 0 0 with mat := m } with tiles := [(0, { tile0 with matq := q })] }
/-- Accumulator 1 live as FP32 with 1.0 in its corner. -/
def acc1 : MatState := { a := (Vector.replicate 4 ({} : Acc)).set 1 { live := true, mode := 1, cells := [(0, 0x3F800000)] } }
/-- An mmac of one step of 1 x 1 on FP16 panels at offset 0, begun. -/
def mop : MatOp :=
  { ctx := 0, task := some 5, req := 3, xm := 4, acc := 1, aPtr := 0x1800000000000000, bPtr := 0x1800000000000000, aFmt := 6, bFmt := 6, k := 32
    stepk := 32, lds := 1, begun := true }
/-- O38: mcfg, mwait, the MPROG and status moves, mabort of an operation that has not begun, mzero, mres, mld of an FP32 address, mst, an mmac of
FP16 panels with K = 32, and one with K = 0 on a live accumulator. -/
theorem witness_matrix :
    let s := thx [0x1800000000000000, 32, 0, 0x1400000000000000] acc1 []
    (s.ctx 0 0).matResident = true ∧ (List.range 4).all (resident s 0 0) = true ∧ nextAnd (exec (.mcfg 0x00040021 0) s) (fun u => (u.ctx 0 0).mat.mcfg == 0x00040021) = true ∧
    accNamed s 0 0 0 = false ∧ answers (exec (.mwait 0 0) s) s.retire = true ∧ answers (exec (.mrdp 5 0) s) (s.setG 5 0).retire = true ∧
    nextAnd (exec (.mwrp 1 0) s) (fun u => u.regs.mprog == 32) = true ∧ answers (exec (.mstat 5 0) s) (s.setG 5 (mstatWord s 0 0)).retire = true ∧
    nextAnd (exec (.mabort 1 0) (thx [] acc1 [{ mop with xm := 3, begun := false }])) (fun u => (u.tile 0).matq == []) = true ∧
    nextAnd (exec (.mzero 0 0) s) (fun u => (u.tile 0).matq.length == 1 && u.due == [.matrixOperationStart 0]) = true ∧
    nextAnd (exec (.mres 1 0) s) (fun u => (u.tile 0).matq.length == 1) = true ∧
    ptrFmt 0x1400000000000000 = 5 ∧ nextAnd (exec (.mld 2 3 0) s) (fun u => ((u.tile 0).matq.map fun o => o.retired && o.rows.length == 1) == [true] && u.getPc == 0x40000004) = true ∧
    mstFmtOk 5 0 1 = true ∧ nextAnd (exec (.mst 0 1 3 0 false 0) s) (fun u => ((u.tile 0).matq.map fun o => o.retired && o.xm == 3) == [true] && u.getPc == 0x40000004) = true ∧
    nextAnd (exec (.mabort 1 0) (thx [] acc1 [mop])) (fun u => (u.tile 0).matq == [] && u.regs.mprog == 0x8000004100000000) = true ∧
    answers (exec (.mwait 1 0) (thx [] acc1 [mop])) (thx [] acc1 [mop]) = true ∧ accBusy (thx [] acc1 [mop]) 0 0 = true ∧
    accumulateOf (.mmac 1 0 0 1 0) = some (4, 1, 0, 0, 1, 0) ∧
    okAnd (panelsOf s 0 0 4 0 0) (fun p => accChecks s 0 0 4 1 p.1 p.2 32 == .ok 1 && accChecks s 0 0 4 1 p.1 p.2 0 == .ok 1) = true ∧
    nextAnd (exec (.mmac 1 0 0 1 0) s) (fun u => (u.tile 0).matq == [{ mop with req := 10, begun := false }]) = true ∧
    (accOf (s.ctx 0 0) 1).live = true ∧ nextAnd (exec (.mmac 1 0 0 2 0) s) (fun u => u.regs.mprog == 0 && u.getPc == 0x40000004) = true := by decide +kernel
/-- O38: mbin and mmacs past their checks: on an N cluster, and with two bound record streams. -/
theorem witness_matrix_forms :
    modeOf false 7 12 0 12 0 = some 3 ∧ isWCluster 1 = false ∧ modeOf false 6 10 5 11 5 = some 0 ∧ modeOf true 5 10 5 6 0 = some 2 ∧
    mmacmOk (th regs0) 0 0 0x1BFFFE0000020000 = true := by decide +kernel
/-- O39: one step of 1.0 times 1.0 folded into 1.0 where the panels hold 32 values of which one is 1.0: 2.0; and the binary mode on 64 equal bits. -/
theorem witness_fold :
    let half : List Byte := [0, 0x3C] ++ List.replicate 62 0
    let s := writePhys (thx [] acc1 [{ mop with retired := true }]) (spadBase 0) [0, 0x3C]
    let full : MatOp := { mop with retired := true, kfetch := 32, parts := [(half, half)] }
    let b : MatOp := { mop with xm := 7, aFmt := 12, bFmt := 12, aPtr := 0x3000000000000000, bPtr := 0x3000000000000000, k := 64, stepk := 64, acc := 0, retired := true, kfetch := 64, parts := [(List.replicate 8 0, List.replicate 8 0)] }
    okAnd (fetchPart s 0 mop mop.aPtr 6 1) (fun r => r.1.length == 64) = true ∧ resident s 0 0 2 = true ∧
    nextAnd (exec (.fold 0) s) (fun u => ((u.tile 0).matq.map fun o => (o.kfetch == 32 && o.parts == [(half, half)])) == [true] && u.due == [.fold 0]) = true ∧
    nextAnd (exec (.fold 0) (thx [] acc1 [full]))
      (fun u => mget (accOf (u.ctx 0 0) 1).cells 0 0 == 0x40000000 && u.due == [.matrixOperationComplete 0]) = true ∧
    nextAnd (exec (.fold 0) (thx [] {} [b])) (fun u => mget (accOf (u.ctx 0 0) 0).cells 0 0 == 64) = true := by decide +kernel
/-- Two blocks of launch 7: block 1 on tile 0 and block 2 on tile 1; the thread's image lies where image traffic may go (POT entries at 0x1000). -/
def block2 : Block := { block1 with tile := 1, index := 1 }
def thj (g : List Word) : State :=
  let s := th (rg g)
  { s with blocks := [(1, block1), (2, block2)], launches := [(7, { tenant := 0, state := .running, blocks := [1, 2] })] }
/-- A state whose page ownership table gives kind-2 pages to tenant 0 in page 16, where context 0 has its image. -/
def withImage (s : State) : State :=
  let x := s.ctx 0 0
  { s.setCtx 0 0 { x with img := 0x10000, mimg := 0xC800 } with mem := [(0x1040, 0x00), (0x1043, 0xE0)], wafer := { s.wafer with potbase := 0x1000 } }
/-- The serialising task 5. -/
def serial5 : Task := { task5 with serial := true }
/-- The destinations that a send has found. -/
def dests? (d : SendTo) : Option (List Nat) := match d with | .dests l => some l | _ => none
/-- O40: sends of 1,025 bytes, to a handler outside the code window, to a stale handle, and of 4 bytes to block 2; of a core too; with a full
send buffer. -/
theorem witness_sends :
    let s := (thj [4, 2, 0x20, 0x40000002, 1025, 0x20, 3]).setTask 5 serial5
    let q := curReq s
    reserved? s = none ∧ dests? (sendHandle s q 2) = some [2] ∧ destRefused s q 2 = false ∧ freeSend? s (siteOf s.cur) = some 0 ∧
    answers (exec (.msend 4 1 2 3) s) (s.setG 4 0x8000000000000003).retire = true ∧
    answers (exec (.msend 0 1 2 5) s) (s.setG 0 0x8000000000000006).retire = true ∧
    nextAnd (exec (.msend 0 6 2 3) s) (fun u => u.regs.trcause == 0x612 || (u.ctx 0 0).state == .trapped) = true ∧
    okAnd (settle s q) (fun v => okAnd (readPayload v q 0x20 4) (fun r => r.1 == [0, 0, 0, 0])) = true ∧
    nextAnd (exec (.msend 0 1 2 3) s) (fun u => u.getG 0 == 0 && ((u.tile 0).sends.map Prod.fst == [0]) && u.due == [.injection 0]) = true ∧
    nextAnd (exec (.msend 0 1 2 3) (s.setTile 0 { s.tile 0 with sends := (List.range 8).map fun k => (k, {}) })) (fun u => u.getG 0 == 0x8000000000000001) = true := by
  decide +kernel
/-- O40: a refused destination (the other world's block), a route, a group of two. -/
theorem witness_send_forms :
    let s : State := { thj [4, 3, 0x20, 0x40000002] with blocks := [(1, block1), (2, block2), (3, { block1 with tile := 2, tenant := 4096 })] }
    dests? (sendHandle s (curReq s) 3) = some [3] ∧ destRefused s (curReq s) 3 = true ∧
    answers (exec (.msend 0 1 2 3) s) (raise s { code := 0x17, engine := 6, info := 3 }) = true ∧
    dests? (sendGroup { s with blocks := [(1, { block1 with groups := [(0, [1, 2])] }), (2, block2)] } 0) = some [1, 2] ∧
    (∃ w, sendGroup s 0 = .status w) := by
  refine ⟨by decide +kernel, by decide +kernel, by decide +kernel, by decide +kernel, _, rfl⟩
/-- O41: a migration home, to a block of the same tile, to another tile with the image in place; a group; the queries. -/
theorem witness_migration :
    let s := withImage ((thj [0x100, 0x3FFE0000000000 + 2 * 2 ^ 17, 2, 3, 0x3FFE0000000000 + 2 ^ 17]).setTask 5 serial5)
    mayMigrate s 0 0 = true ∧ answers (exec (.mig 0) s) s.retire = true ∧ answers (exec (.mig 4) s) s.retire = true ∧
    threadBusy s 0 0 = false ∧ (liveBlock? s 2).any (fun b => !sendRefused s (threadReq s 0 0) b) = true ∧
    okAnd (settle s (threadReq s 0 0)) (fun v => (switchOut v 0 0).2.isNone && freeSend? v (.tile 0) == some 0) = true ∧
    nextAnd (exec (.mig 1) s) (fun u => (u.ctx 0 0).state == .held && (u.tile 0).sends.map (fun p => p.2.pend) == [[2]]) = true ∧
    nextAnd (exec (.mlat 5) s) (fun u => u.getG 5 == 0) = true ∧ nextAnd (exec (.mbufq 5) s) (fun u => u.getG 5 == 0x80000) = true ∧
    pendingSends s = 0 ∧ answers (exec .mdrain s) s.retire = true ∧ nextAnd (exec (.mprobe 5 3) s) (fun u => u.getG 5 == 0x8000000000000001) = true ∧
    nextAnd (exec (.mprobe 5 2) s) (fun u => u.getG 5 == 1) = true ∧ nextAnd (exec (.mpoll 5) s) (fun u => u.getG 5 == 0) = true := by decide +kernel
/-- O41: members 1 and 2 at offset 0x20, little-endian doubles ended by none, taken as group 1; a refused destination for mprobe. -/
theorem witness_groups :
    let s := writePhys (thj [1, 0x20]) (spadBase 0 + 0x20) (toBytes 8 2 ++ toBytes 8 1 ++ toBytes 8 2)
    okAnd (readMembers s (curReq s) 0x20) (fun r => r.1 == some [1, 2]) = true ∧
    nextAnd (exec (.mgset 0 1) s) (fun u => (u.block? 1).map Block.groups == some [(1, [1, 2])]) = true := by decide +kernel
/-- O42: after reset every router is present and has no detours. -/
theorem witness_paths :
    (∀ t, t < 256 * 192 → routerPresent State.reset t = true ∧ (State.reset.router t).detours = []) ∧
    pathHops State.reset 6 { at_ := 0 } (tileAt 3 2) = some 5 := by
  refine ⟨fun t h => ?_, by decide +kernel⟩
  simp [routerPresent, State.router, mget, mget?, State.reset, h]
/-- A launch descriptor: handler 0x40000002, one thread, a W tile of cluster 0. -/
def launchDesc : List Byte := toBytes 64 (0x40000002 + 2 ^ 352 + 2 ^ 368)
/-- A core with that descriptor at 0x40000040 and the handler in its job's table; a thread likewise, its launch on another island. -/
def cow (g : List Word) : State := { writePhys (co (rg g)) 0x40000040 launchDesc with counters := [((4, 0), { handlers := [0x40000002] })] }
def thl (g : List Word) : State :=
  { writePhys ((th (rg g)).setTask 5 serial5) (spadBase 0 + 0x40) launchDesc with
    counters := [((4, 0), { handlers := [0x40000002] }), ((2, 9), { refs := 2, raised := true })]
    launches := [(7, { tenant := 0, island := 1, state := .running, blocks := [1] }), (8, { tenant := 0, island := 1, state := .complete, passed := 70000 }),
      (9, { tenant := 0, island := 1, state := .cancelled }), (11, { tenant := 0, island := 1, state := .held })] }
/-- O43: a launch accepted from a thread and a core, one refused for THREADS = 0 and one for its handler. -/
theorem witness_launch :
    hasRight (cow [0x40000040]) 0 0 6 = true ∧ captured (thl [0x40]) = [] ∧
    okAnd (launchReads (thl [0x40]) (curReq (thl [0x40])) 0x40) (fun r => r.1.take 64 == launchDesc && curReq r.2 == curReq (thl [0x40]) &&
      okAnd (unitChecks r.2 (launcherOf r.2 0) 0x40 0 launchDesc (r.1.drop 192)) (fun _ => true) && okAnd (settle r.2 (curReq r.2)) fun v => v.cur == .thread 0 0) = true ∧
    islandChecks (thl [0x40]) (launcherOf (thl [0x40]) 0) launchDesc = none ∧
    nextAnd (exec (.glaunch 5 0) (thl [0x40])) (fun u => u.getG 5 == 1 && (u.launch? 1).any (fun x => x.state == .pooled) && u.due.contains (.placement 1)) = true ∧
    nextAnd (exec (.glaunch 5 0) (cow [0x40000040])) (fun u => u.getG 5 == 1) = true ∧
    nextAnd (exec (.glaunch 5 0) { thl [0x40] with counters := [] }) (fun u => u.getG 5 == 0x8000000000000006) = true ∧
    nextAnd (exec (.glaunch 5 1) (thl [0x40, 0x80])) (fun u => u.getG 5 == 0x8000000000000004) = true := by decide +kernel
/-- O43: cwait of no unit, of its own launch, of another tenant's from a core, of a complete one, and resumed; cread; cancel of an ended and a held
launch; lstat with PASSED saturated; cadd of -2 to a count of 2, and at both ends of its range. -/
theorem witness_counters :
    let s := thl [0x40, 8, 7, 99, 9, 11, 0xFFFFFFFFFFFFFFFE, 65535]
    waitsOn? s = none ∧ unitState? s 1 99 = none ∧ nextAnd (exec (.cwait 10 3 1) s) (fun u => u.getG 10 == 0x8000000000000001) = true ∧
    unitSelf s 1 7 = true ∧ nextAnd (exec (.cwait 10 2 1) s) (fun u => u.getG 10 == 0x8000000000000002) = true ∧
    unitSelf s 1 8 = false ∧ unitReach s 1 8 = true ∧ endedResult s 1 8 = some 0 ∧ nextAnd (exec (.cwait 10 1 1) s) (fun u => u.getG 10 == 0) = true ∧
    nextAnd (exec (.cwait 10 4 1) s) (fun u => u.getG 10 == 1) = true ∧ nextAnd (exec (.cwait 10 5 1) (setWaits s (some (1, 9)))) (fun u => u.getG 10 == 1) = true ∧
    nextAnd (exec (.cread 10 1 1) s) (fun u => u.getG 10 == 0x6000000000000000) = true ∧ taintHolds s = false ∧
    nextAnd (exec (.cancel 10 3 1) s) (fun u => u.getG 10 == 0x8000000000000001) = true ∧ nextAnd (exec (.cancel 10 1 1) s) (fun u => u.getG 10 == 1) = true ∧
    stillRuns (cancelUnit s 1 11) (some 5) = true ∧ nextAnd (exec (.cancel 10 5 1) s) (fun u => u.getG 10 == 0) = true ∧
    nextAnd (exec (.lstat 10 3) s) (fun u => u.getG 10 == 0) = true ∧ nextAnd (exec (.lstat 10 1) s) (fun u => u.getG 10 == 0x600000000000FFFF) = true ∧
    unitCount s 2 9 = 2 ∧ unitReach s 2 9 = true ∧ seenState s 2 9 = 2 ∧
    nextAnd (exec (.cadd 4 6 2) s) (fun u => u.due == [.counterComplete 2 9]) = true ∧ nextAnd (exec (.cadd 4 7 2) s) (fun u => unitCount u 2 9 == 65537) = true := by
  decide +kernel
/-- O43: a foreign unit: a slice tenant's launch seen by a core of another partition. -/
theorem witness_foreign_unit :
    let c : Core := { regs := rg [7], idle := false, icache := [(8192, nops.2)], cstatus := 0x200001 }
    let s : State := { co regs0 with cores := [((0, 0), c)], launches := [(7, { tenant := 4096, state := .running })] }
    unitReach s 1 7 = false ∧ (unitState? s 1 7).isSome = true ∧ nextAnd (exec (.cwait 10 0 1) s) (fun u => u.getG 10 == 0x8000000000000003) = true ∧
    nextAnd (exec (.cancel 10 0 1) s) (fun u => u.getG 10 == 0x8000000000000003) = true := by decide +kernel
/-- O43: cancel by a task that waits for an instance, and of the launch of the thread itself. -/
theorem witness_cancel_ends :
    let s := thl [7]
    let i : FInstance := { cluster := 0, record := 2, version := 3, shape := [], forecast := [], tolerance := [] }
    let t : State := { s.setTask 5 { serial5 with taint := [4] } with insts := [(4, i)] }
    taintHolds t = true ∧ answers (exec (.cancel 10 0 1) t) t = true ∧
    unitState? s 1 7 = some 2 ∧ unitReach s 1 7 = true ∧ taintHolds s = false ∧ stillRuns (cancelUnit s 1 7) (some 5) = false ∧
    answers (exec (.cancel 10 0 1) s) (cancelUnit s 1 7) = true := by decide +kernel
/-- A deque entry of block 1 with the registered handler. -/
def entry3 : DequeEntry := { id := 3, handle := 1, launch := 7, stamp := 4, pc := 0x40000002, arg := 6 }
/-- A thread whose tile holds it. -/
def thq (g : List Word) (l : List DequeEntry) : State :=
  let s := thl g
  s.setTile 0 { s.tile 0 with deque := l }
/-- O44: a push of (0x40000002, 6); dqpop with an entry and with none; dqsteal finds none, and finds one of block 2 on the next tile. -/
theorem witness_deques :
    let s := writePhys (thq [0x20] []) (spadBase 0 + 0x20) (toBytes 8 0x40000002 ++ toBytes 8 6)
    okAnd (memLoad s (threadReq s 0 0) false 0x20 16) (fun r => handlerKnown r.2 (curLaunch r.2) (fromBytes (r.1.take 8)) && r.2.cur == s.cur) = true ∧
    nextAnd (exec (.dqpush 0) s) (fun u => (u.tile 0).deque.map (fun e => (e.pc, e.arg, e.stamp, e.handle)) == [(0x40000002, 6, 1, 1)]) = true ∧
    matrixBusy (thq [] [entry3]) 0 0 = false ∧ ((thq [] [entry3]).tile 0).deque.find? (takeable 1) = some entry3 ∧ taintAllows (thq [] [entry3]) entry3 = true ∧
    nextBuffer (thq [] [entry3]) 0 5 serial5 = true ∧
    nextAnd (exec (.dqpop 5) (thq [] [entry3])) (fun u => u.getG 0 == 6 && u.getPc == 0x40000004 && (u.tile 0).deque == [] && (u.ctx 0 0).task != some 5) = true ∧
    nextAnd (exec (.dqpop 5) s) (fun u => u.getG 5 == 0x8000000000000001) = true ∧ nextAnd (exec (.dqsteal 5) s) (fun u => u.getG 5 == 0x8000000000000002) = true ∧
    stealFrom { (s.setBlock 1 { block1 with stealMask := 2 }) with tiles := [(0, s.tile 0), (1, { deque := [{ entry3 with handle := 2 }] })] } 1 =
      some { entry3 with handle := 2 } := by decide +kernel
/-- O44: the mask, the length, the budget, the stamp, earlyok first and again, yield of a thread and of a guest, waitpred without PRED and after it. -/
theorem witness_task_ends :
    let s := thq [0x12345] [entry3]
    nextAnd (exec (.dqmask 0) s) (fun u => (u.block? 1).map Block.stealMask == some 0x2345) = true ∧ nextAnd (exec (.dqlen 5) s) (fun u => u.getG 5 == 1) = true ∧
    nextAnd (exec (.bgrd 5) s) (fun u => u.getG 5 == 100) = true ∧ nextAnd (exec (.tsrd 5) s) (fun u => u.getG 5 == 0) = true ∧
    answers (exec .earlyok s) s.retire = true ∧ hasSuccessor s 7 = false ∧
    (let v : State := s.setLaunch 8 { tenant := 0, desc := toBytes 64 (7 * 2 ^ 384) }
     hasSuccessor v 7 = true ∧ nextAnd (exec .earlyok v) (fun u => (u.block? 1).map Block.early == some true && (u.launch? 7).map Launch.marked == some 1)) = true ∧
    nextAnd (exec .earlyok (s.setBlock 1 { block1 with early := true })) (fun u => (u.launch? 7).map Launch.marked == some 0) = true ∧
    nextAnd (exec .yield s) (fun u => (u.ctx 0 0).state == .dormant && u.due.contains (.commit 5)) = true ∧
    nextAnd (exec .yield (s.setCtx 0 0 { s.ctx 0 0 with guest := true })) (fun u => (u.ctx 0 0).state == .free) = true ∧
    (s.launch? (curLaunch s)).map predOf = some 0 ∧ answers (exec .waitpred s) s.retire = true ∧
    (let p := s.setLaunch 7 { tenant := 0, state := .running, desc := toBytes 64 (8 * 2 ^ 384) }
     (p.launch? 7).map predOf = some 8 ∧ answers (exec .waitpred p) (dropStale p 0).retire = true) := by decide +kernel
/-- O44: yield with the vector state to leave behind, and waitpred of a predecessor that runs. -/
theorem witness_waits :
    let s := thq [] []
    let p := (s.setLaunch 7 { tenant := 0, state := .running, desc := toBytes 64 (8 * 2 ^ 384) }).setLaunch 8 { tenant := 0, state := .running }
    matrixBusy s 0 0 = false ∧ (vectorLeave s 0 0).2 = none ∧ (p.launch? (curLaunch p)).map predOf = some 8 ∧ answers (exec .waitpred p) p = true := by decide +kernel
/-- A layout record of version 3, tracked or not, of one FP32 element at offset 0x80. -/
def rec3 (tracked : Nat) : List Byte :=
  toBytes 64 (0x1400000000000080 + 2 ^ 64 + 2 ^ 80 + 2 ^ 168 + 5 * 2 ^ 192 + 3 * 2 ^ 256 + tracked * 2 ^ 288)
/-- A thread in a cluster whose record 2 it is. -/
def thf (t : Nat) (f : Map Nat Forecast) (g : List Word) : State :=
  { th (rg (2 :: g)) with clusters := [(0, { records := [(2, rec3 t)], forecasts := f })] }
/-- O45: ftrack, funtrack with no instance and with one, fclose, fstat, falpha, fopen of a misaligned and of a bad tolerance record. -/
theorem witness_forecast :
    tracked (thf 0 [] []) 0 2 = false ∧ tracked (thf 1 [] []) 0 2 = true ∧ answers (exec (.ftrack 0) (thf 1 [] [])) (thf 1 [] []).retire = true ∧
    nextAnd (exec (.ftrack 0) (thf 0 [] [])) (fun u => tracked u 0 2 && (forecastOf u 0 2).alpha == 2) = true ∧
    answers (exec (.funtrack 0) (thf 0 [] [])) (thf 0 [] []).retire = true ∧ nextAnd (exec (.funtrack 0) (thf 1 [(2, { hits := 3 })] [])) (fun u => !tracked u 0 2) = true ∧
    nextAnd (exec (.funtrack 0) (thf 1 [(2, { inst := some 4 })] [])) (fun u => !tracked u 0 2) = true ∧
    answers (exec (.fclose 0) (thf 1 [] [])) (thf 1 [] []).retire = true ∧ nextAnd (exec (.falpha 5 0) (thf 1 [] [])) (fun u => u.getG 5 == 0x3F800000) = true ∧
    nextAnd (exec (.fstat 5 0) (thf 0 [] [])) (fun _ => true) = true ∧
    nextAnd (exec (.fopen 5 0 1 2) (thf 1 [] [3, 0x20])) (fun u => u.getG 5 == 0x8000000000000004) = true ∧
    okAnd (memLoad (thf 1 [] [3, 0x40]) (threadReq (thf 1 [] [3, 0x40]) 0 0) false 0x40 64) (fun r => tolOk r.1 && r.2.getG 0 == 2) = true ∧
    tolOk (toBytes 64 (2 * 2 ^ 160)) = false := by decide +kernel
/-- O45: fopen of an untracked record of another version, of versions two ahead and two behind, of this version (the element copied), and of the next
version as a forecast. -/
theorem witness_fopen :
    let s (t : Nat) (f : Map Nat Forecast) (v : Word) := writePhys (thf t f [v, 0x40]) (spadBase 0 + 0x80) [1, 2, 3, 4]
    let open_ (t : Nat) (f : Map Nat Forecast) (v : Word) (p : State → Bool) := nextAnd (exec (.fopen 5 0 1 2) (s t f v)) p
    forecastable (rec3 1) = true ∧ destOk (s 1 [] 3) 0 1 0 4 = true ∧ okAnd (fopenTurn (s 1 [] 3) 0 0 0 4 (some (rec3 1))) (fun u => u == s 1 [] 3) = true ∧
    okAnd (fopenTurn (s 1 [] 3) 0 0 0 4 none) (fun u => u == s 1 [] 3) = true ∧
    okAnd (recordRead (s 1 [] 3) (some 5) 0 2) (fun r => r.1 == rec3 1 && okAnd (readElements r.2 (threadReq r.2 0 0) r.1) fun l => l.1 == [0x04030201]) = true ∧
    open_ 0 [] 4 (fun u => u.getG 5 == 0x8000000000000005) = true ∧ open_ 1 [] 5 (fun u => u.getG 5 == 0x8000000000000003) = true ∧
    open_ 1 [] 1 (fun u => u.getG 5 == 0x8000000000000002) = true ∧
    open_ 1 [] 3 (fun u => u.getG 5 == 0 && readPhys u (spadBase 0) 5 == [1, 2, 3, 4, 0]) = true ∧
    noForecast (s 1 [] 4) 0 {} 5 task5 = false ∧
    open_ 1 [(2, { h := 1, p1 := some (rec3 1) })] 4 (fun u => u.getG 5 == 1 && u.insts.length == 1 && (u.task? 5).any (fun k => k.taint.length == 1)) = true := by
  decide +kernel
/-- O45: funtrack of a record whose instance another task awaits, and one whose instance the thread's own task awaits. -/
theorem witness_funtrack :
    let i : FInstance := { cluster := 0, record := 2, version := 3, shape := rec3 1, forecast := [], tolerance := [] }
    let s (t : List Nat) : State := { (thf 1 [(2, { inst := some 4 })] []).setTask 5 { task5 with taint := t } with insts := [(4, i)] }
    let u (t : List Nat) : State := failInstance (setTracked (s t) 0 2 false {}) 4
    tracked (s []) 0 2 = true ∧ stillRuns (u []) (some 5) = true ∧ answers (exec (.funtrack 0) (s [])) (u []).retire = true ∧
    stillRuns (u [4]) (some 5) = false ∧ answers (exec (.funtrack 0) (s [4])) (u [4]) = true := by decide +kernel
/-- O46: a fourth success and a failure, at both ends of alpha. -/
theorem witness_alpha :
    (afterCheck { run := 3, alpha := 1 } true).alpha = 2 ∧ (afterCheck { run := 3, alpha := 2 } true).alpha = 2 ∧ (afterCheck { run := 2 } true).run = 3 ∧
    (afterCheck { run := 2, alpha := 0 } false).alpha = 0 ∧ (afterCheck { alpha := 2 } false).alpha = 1 := by decide
/-! ## Residency -/

/-- O47: drreq with DRCTL bit 0 clear, with a coolest tile and an idle cluster, with a move under way; calm outside and inside Calming. -/
theorem witness_drift_requests :
    let s (c : Cluster) : State := { th regs0 with clusters := [(0, c)], cycle := 9 }
    bitOf (({ drctl := 2 } : Cluster)).drctl 0 = false ∧ answers (exec .drreq (s { drctl := 2 })) (s { drctl := 2 }).retire = true ∧
    coolest (s {}) ((clusterTiles (s {}) 0).filter fun u => u != 0) = some 1 ∧ clearing (s {}) 0 = false ∧
    nextAnd (exec .drreq (s {})) (fun u => u.cluster 0 == { drift := .calming, driftS := 0, driftT := 1, driftSince := 9 } &&
      u.due.contains (.calmingEnd 0) && u.due.contains (.moveAbandoned 0) && u.mem == []) = true ∧
    nextAnd (exec .drreq (s { drift := .calming })) (fun u => u.cluster 0 == { drift := .calming, drstat := 65536 }) = true ∧
    calmingTile (s {}).retire 0 = false ∧ answers (exec .calm (s {})) (s {}).retire = true ∧
    nextAnd (exec .calm (s { drift := .calming })) (fun u => (u.ctx 0 0).calm) = true := by decide +kernel
/-- O47: resq of no block, of one of another cluster, of an evicted one and of one at rest, from a thread and from a core. -/
theorem witness_resq :
    let s : State := { th (rg [9, 4096, 2, 1]) with
      blocks := [(1, { block1 with moves := 3 }), (2, { block1 with evicted := true, moves := 5 }), (4096, { block1 with tile := 4 })], tiles := [(0, { tile0 with temp := 200 })] }
    let c : State := { co (rg [1, 0x10000]) with blocks := [(1, block1), (0x10000, { block1 with tile := 64 })] }
    nextAnd (exec (.resq 5 0) s) (fun u => u.getG 5 == 0x8000000000000001) = true ∧ nextAnd (exec (.resq 5 1) s) (fun u => u.getG 5 == 0x8000000000000002) = true ∧
    nextAnd (exec (.resq 5 2) s) (fun u => u.getG 5 == 0x50C00) = true ∧ movingTile s 0 = false ∧
    nextAnd (exec (.resq 5 3) s) (fun u => u.getG 5 == 0xC8000030000) = true ∧ homeIsland 0x10 ≠ 0 ∧
    nextAnd (exec (.resq 5 0) c) (fun u => u.getG 5 == 0) = true ∧ nextAnd (exec (.resq 5 1) c) (fun u => u.getG 5 == 0x8000000000000002) = true := by decide +kernel
/-- A core with g0 to g3: a region descriptor of cluster 0, the deadline of 60,000 cycles, a bad address and a bad descriptor; g4 one too wide. -/
def clp (l : Map Nat Block) (x : Map Nat Clearance) : State :=
  { writePhys (co (rg [0x40000040, 60000, 1, 0x40000080, 0x400000C0, 2 ^ 32])) 0x40000080 (toBytes 64 (2 ^ 130) ++ toBytes 64 (100 * 2 ^ 16)) with blocks := l, clearances := x }
/-- A posting of cluster 0 by core 0 of island 0. -/
def clr1 : Clearance := { tenant := 0, rect := 0, deadline := 60000, backstop := 0, report := 0, tag := 0, written := [1] }
/-- O47: every refusal of clrpost in the order of its checks, an accepted posting, and clrrep of a known and an unknown posting. -/
theorem witness_clrpost :
    let s := clp [] []
    hasRight s 0 0 4 = true ∧ nextAnd (exec (.clrpost 8 2 1) s) (fun u => u.getG 8 == 0x8000000000000004) = true ∧
    nextAnd (exec (.clrpost 8 0 5) s) (fun u => u.getG 8 == 0x8000000000000004) = true ∧
    okAnd (coreLoad s (coreReq s 0 0) 0x40000040 64) (fun r => r.2 == s && !badRegion r.1 && fromViewRect s 0 (recFld r.1 31 0) == 0 && regionRect s 0 == some waferRect &&
      rectInside 0 waferRect && leastDeadline s 0 == 60000 && regionBlocks s 0 == []) = true ∧
    nextAnd (exec (.clrpost 8 3 1) s) (fun u => u.getG 8 == 0x8000000000000004) = true ∧ nextAnd (exec (.clrpost 8 4 1) s) (fun u => u.getG 8 == 0x8000000000000005) = true ∧
    nextAnd (exec (.clrpost 8 0 2) s) (fun u => u.getG 8 == 0x8000000000000001) = true ∧
    nextAnd (exec (.clrpost 8 0 1) (clp [] [(4, clr1)])) (fun u => u.getG 8 == 0x8000000000000002) = true ∧
    nextAnd (exec (.clrpost 8 0 1) (clp [(1, block1)] [])) (fun u => u.getG 8 == 0x8000000000000003) = true ∧
    nextAnd (exec (.clrpost 8 0 1) s) (fun u => u.getG 8 == 11 && u.due == [.backstop 11, .cleared 11] &&
      (mget? u.clearances 11).any fun x => x.deadline == 60000 && x.core == (0, 0) && !x.done && x.blocks == []) = true ∧
    laterPostings (clp [] [(60000, clr1)]) 0 clr1 = 0 ∧ presides 0 clr1.tenant = true ∧
    nextAnd (exec (.clrrep 8 1) (clp [] [(60000, clr1)])) (fun u => u.getG 8 == 0x2000000000010000) = true ∧
    nextAnd (exec (.clrrep 8 1) s) (fun u => u.getG 8 == 0x8000000000000001) = true := by decide +kernel
/-! ## Islands -/

/-- A core's registers beside its general ones. -/
def coreWith (s : State) (f : Core → Core) : State := s.setCore 0 0 (f (s.core 0 0))
/-- O48 to O51: a core at level 0 meets what the privileged instructions ask. -/
theorem witness_privileged : Stated.Privileged (co regs0) 0 0 2 none ∧ Stated.Privileged (co regs0) 0 0 1 (some 1) ∧ Stated.Privileged (co regs0) 0 0 2 (some 3) :=
  ⟨⟨rfl, by decide +kernel, by simp⟩, ⟨rfl, by decide +kernel, by decide +kernel⟩, ⟨rfl, by decide +kernel, by decide +kernel⟩⟩
/-- O51: no instruction of the core is waiting under rights that it has been granted. -/
theorem witness_not_granted : ((co regs0).core 0 0).granted = false := by decide +kernel
/-- O48: COREID and an unassigned number read; CSTATUS, EPC, LGRAPH and RSMTGT written with all ones; RSMCMD. -/
theorem witness_supervisor :
    let s := co (rg [0xFFFFFFFFFFFFFFFF])
    nextAnd (exec (.mfsr 5 0x011) (co (rg [5]))) (fun u => u.getG 5 == 0) = true ∧ nextAnd (exec (.mfsr 5 0x005) (coreWith s fun c => { c with sscr0 := 9 })) (fun u => u.getG 5 == 9) = true ∧
    answers (exec (.mfsr 5 0x007) s) (raise s { illegalOp s with engine := 10 }) = true ∧ answers (exec (.mtsr 5 0x023) s) (raise s { illegalOp s with engine := 10 }) = true ∧
    nextAnd (exec (.mtsr 0 0) s) (fun u => (u.core 0 0).cstatus == 0x00FFFFFF0000007C) = true ∧
    nextAnd (exec (.mtsr 0 0) (coreWith s fun c => { c with cstatus := 2 })) (fun u => (u.core 0 0).cstatus == 0x00FFFFFF0000003E) = true ∧
    nextAnd (exec (.mtsr 0 1) s) (fun u => (u.core 0 0).epc == 0x3FFFFFFFFFFFFF) = true ∧ nextAnd (exec (.mtsr 0 0x013) s) (fun u => (u.core 0 0).lgraph == 0xFFFFFFFF) = true ∧
    nextAnd (exec (.mtsr 0 0x020) s) (fun u => (u.core 0 0).rsmtgt == 0x3FFFFFFF) = true ∧
    nextAnd (exec (.mtsr 0 0x022) s) (fun u => u.due == [.rsmcmd 0 0 0x1FFFFFF]) = true ∧ nextAnd (exec (.mtsr 0 0x002) s) (fun u => (u.core 0 0).ecause == 0) = true := by
  decide +kernel
/-- O49: eret to EPC in the same tenant, to EPC 0 and to tenant 4096 at level 1; ptfence. -/
theorem witness_eret :
    let s (e : Word) (cs : Word) : State := coreWith (co regs0) fun c => { c with epc := e, cstatus := cs }
    coreLevel ((s 0 0).core 0 0) ≤ 0 ∧ presides 0 0 = true ∧ levelOf 0 = 0 ∧ nextAnd (exec .eret (s 0 0)) (fun u => (u.core 0 0).idle) = true ∧
    okAnd (checkTarget (coreAs (s 0x40000006 0x20) 0 0 0) (.core 0 0) 0x40000002 0x40000006) (fun _ => true) = true ∧
    nextAnd (exec .eret (s 0x40000006 0x20)) (fun u => u.getPc == 0x40000006 && (u.core 0 0).cstatus == 0xB0) = true ∧
    nextAnd (exec .eret (s 0 0x0000100000000004)) (fun u => coreLevel (u.core 0 0) == 1 && coreTenant (u.core 0 0) == 4096) = true ∧
    (s 0 0).invals = [] ∧ superseded (s 0 0) = false ∧ answers (exec .ptfence (s 0 0)) (s 0 0).retire = true := by decide +kernel
/-- O49: tlbinv in its three modes and icinv. -/
theorem witness_invalidations :
    let s := co (rg [0x40000000, 0, 1, 2])
    let sent (o : Host.Outcome State Fault Refusal) (v : Inval) : Bool := nextAnd o fun u => u.invals == [(10, (0, 0), v)] && u.due == [.tlbInvalidation 10]
    sent (exec (.tlbinv 0 1) s) (.page 0 0x40000000) = true ∧ sent (exec (.tlbinv 0 2) s) (.work 0) = true ∧ sent (exec (.tlbinv 0 3) s) (.frame 0x40000000) = true ∧
    (match agentTranslate s (.core 0 0) .read 0x40000000 with | .ok r => r.1 == 0x40000000 && r.2.2 == s | .error _ => false) = true ∧
    sent (exec (.icinv 0) s) (.code 0x40000000) = true := by decide +kernel
/-- A core with a level-1 leaf of address 0 at 0x40003000, the page 0x40002000 listed as a table page of the secure world. -/
def splitter : State :=
  let s := co (rg [0x40003000, 0x40002005])
  writePhys { s with mem := [(0x10100B, 0xF0)], wafer := { s.wafer with potbase := 0x1000 } } 0x40003000 (toBytes 8 3)
set_option maxRecDepth 20000 in
/-- O49: a splinter, and its entries for that leaf. -/
theorem witness_splinter :
    ownsStage 0 1 = true ∧ okAnd (checkNow splitter (coreReq splitter 0 0) .write 0x40003000 8) (fun r =>
      fromBytes (r.1.flatMap (coreReadPlace r.2 (coreReq splitter 0 0))) == 3 && meetPlaces r.2 (coreReq splitter 0 0) r.1 == splitter) = true ∧
    (match splinterPlace splitter 0 0 0x40002000 with | .ok r => r == 0x40002000 | .error _ => false) = true ∧
    tablePageOk splitter 0x40002000 (stageOwner 0 1) (worldOf splitter 0) = true ∧
    splinterEntry 3 (2 ^ 12) 1 = 0x1003 ∧ splinterEntry 3 (2 ^ 12) 511 = 0x1FF003 ∧ nextAnd (exec (.splinter 0 1) splitter) (fun u => u.retired) = true := by
  decide +kernel
/-- O49: a region given to partition 1 and taken away, with the tiles of its cluster quiet; grant, revoke, vfbind both ways. -/
theorem witness_regions :
    let s := co (rg [0x0000100000080008, 0x0000100000080009, 0x1001000, 0x300000000, 5, 0x1000, 0])
    regionBusy s 4096 [0x80008] = false ∧ rectAllowed s 0 0x80008 = true ∧ fromViewRect s 0 0x80008 = 0x80008 ∧
    okAnd (changeWorlds s (s.setTenant 4096 { rect := some 0x80008 }) (rectClusters 0x80008).dedup) (fun _ => true) = true ∧
    nextAnd (exec (.rgset 0) s) (fun u => (u.tenant 4096).rect == some 0x80008) = true ∧
    nextAnd (exec (.rgset 1) (s.setTenant 4096 { rect := some 0x80008 })) (fun u => (u.tenant 4096).rect == none) = true ∧
    nextAnd (exec (.grant 2 3) s) (fun u => (u.tenant 4096).grants == [(1, { rect := 0, vc0 := true, vc2 := true })]) = true ∧
    nextAnd (exec (.revoke 2) (s.setTenant 4096 { grants := [(1, { rect := 0, vc0 := true, vc2 := true })] })) (fun u => (u.tenant 4096).grants == []) = true ∧
    hostBusy s 5 = false ∧ nextAnd (exec (.vfbind 4 5) s) (fun u => u.vfs == [(5, 4096)]) = true ∧ nextAnd (exec (.vfbind 4 6) { s with vfs := [(5, 4096)] }) (fun u => u.vfs == []) = true := by
  decide +kernel
/-- A core in debug state 2 with g0 naming thread 0 of block 1, whose context 0 of tile 0 is in a state. -/
def dbg (x : Ctx) : State :=
  { co (rg [1, 2 ^ 40]) with ctxs := [((0, 0), { x with handle := 1, matResident := false })], blocks := [(1, block1)], tiles := [(0, tile0)], wafer := { power := .run, ready := true, dstate := 2 } }
/-- O50: dhalt, dresume and dstep of contexts in each state, the end of a step, and a bad operand. -/
theorem witness_debug :
    okAnd (debugTarget (dbg { state := .halted }) 0 0 0) (fun p => p == (0, 0)) = true ∧ movingTile (dbg {}) 0 = false ∧
    answers (exec (.dhalt 0) (dbg { state := .halted })) (dbg { state := .halted }).retire = true ∧
    nextAnd (exec (.dhalt 0) (dbg { state := .dormant })) (fun u => (u.ctx 0 0).marked && u.retired) = true ∧
    nextAnd (exec (.dhalt 0) (dbg { state := .trapped })) (fun u => (u.ctx 0 0).marked && !u.retired) = true ∧
    answers (exec (.dhalt 0) (dbg { state := .queued })) (setGranted (haltContext (dbg { state := .queued }) 0 0) 0 0 true) = true ∧ ((haltContext (dbg { state := .queued }) 0 0).ctx 0 0).state = .halted ∧
    (boundary (dbg { state := .issuing, slot := some 0 }) 0 0).isSome = true ∧
    nextAnd (exec (.dresume 0) (dbg { state := .halted })) (fun u => (u.ctx 0 0).state == .queued && u.retired) = true ∧
    nextAnd (exec (.dresume 0) (dbg { state := .dormant, marked := true })) (fun u => !(u.ctx 0 0).marked) = true ∧
    answers (exec (.dstep 0) (dbg { state := .queued })) (raise (dbg { state := .queued }) { code := 0x22, engine := 10, info := 9 }) = true ∧
    (match debugTarget (dbg {}) 0 0 1 with | .error (.trap r) => r.code == 0x22 && r.info == 1 | _ => false) = true ∧
    (let w (x : Ctx) := coreWith (dbg x) fun c => { c with waiting := true }
     stepEnded (w { state := .halted }) 0 0 0 = true ∧ nextAnd (exec (.dstep 0) (w { state := .halted })) (fun u => !(u.core 0 0).waiting && u.retired) = true ∧
     stepEnded (w { state := .queued }) 0 0 0 = false ∧ answers (exec (.dstep 0) (w { state := .queued })) (setGranted (w { state := .queued }) 0 0 true) = true) := by decide +kernel
/-- O50: dhalt and dstep while the block's tile moves, and dhalt of a context that waits after its calm. -/
theorem witness_debug_waits :
    let m (x : Ctx) : State := { dbg x with clusters := [(0, { drift := .draining, driftT := 1 })] }
    let c (x : Ctx) : State := { dbg x with clusters := [(0, { drift := .calming, driftT := 1 })] }
    movingTile (m {}) 0 = true ∧ answers (exec (.dhalt 0) (m { state := .queued })) (setGranted (m { state := .queued }) 0 0 true) = true ∧
    answers (exec (.dstep 0) (m { state := .halted })) (setGranted (m { state := .halted }) 0 0 true) = true ∧
    movingTile (c {}) 0 = false ∧
    nextAnd (exec (.dhalt 0) (c { state := .issuing, slot := some 0, calm := true })) (fun u => (u.ctx 0 0).state == .queued && (u.ctx 0 0).calm && (u.core 0 0).granted) = true := by
  decide +kernel
/-- O51: eret and wsw of a core at level 2, tlbinv at level 1 without its right, a privileged instruction of a thread, tret of a core. -/
theorem witness_privilege :
    let s (cs : Word) := coreWith (co regs0) fun c => { c with cstatus := cs }
    coreLevel ((s 3).core 0 0) = 3 ∧ answers (exec .eret (s 3)) (takeException (s 3) 0 0 { code := 0x05, engine := 10, info := 2 }) = true ∧
    coreLevel ((s 1).core 0 0) = 1 ∧ answers (exec (.wsw 0) (s 1)) (takeException (s 1) 0 0 { code := 0x05, engine := 11, info := 16 }) = true ∧
    hasRight (s 0x100001) 0 4096 0 = false ∧ answers (exec (.tlbinv 0 1) (s 0x100001)) (takeException (s 0x100001) 0 0 { code := 0x22, engine := 10, info := 3 }) = true ∧
    answers (exec .eret (th regs0)) (takeTrap (th regs0) 0 0 (illegalOp (th regs0))) = true ∧
    answers (exec .tret (co regs0)) (takeException (co regs0) 0 0 (illegalOp (co regs0))) = true := by decide +kernel
/-! ## Trust -/

/-- The header of an object of tenant 0 for l bytes, and an object with it and its MAC. -/
def header0 (l : Nat) : List Byte := sealHeader 0 true 0 l (List.replicate 32 0)
def object0 (l : Nat) (r : List Byte) : List Byte := header0 l ++ hmacSm3 (sealMac true 0 0) (header0 l) ++ r
theorem sm3_length (m : List Byte) : (sm3 m).length = 32 := by simp [sm3, beBytes, toBytes]
theorem object0_take (l : Nat) (r : List Byte) : (object0 l r).take 96 = header0 l ++ hmacSm3 (sealMac true 0 0) (header0 l) := by
  have : (header0 l ++ hmacSm3 (sealMac true 0 0) (header0 l)).length = 96 := by simp [header0, hmacSm3, sm3_length, sealHeader, toBytes]
  rw [object0, List.take_left' this]
theorem header0_ok (l : Nat) : sealHeaderOk 0 true 0 (header0 l ++ hmacSm3 (sealMac true 0 0) (header0 l)) = true := by
  have hl : (header0 l).length = 64 := by simp [header0, sealHeader, toBytes]
  have h0 : leAt (header0 l ++ hmacSm3 (sealMac true 0 0) (header0 l)) 0 4 = 0x00015EA1 := by simp [header0, sealHeader, leAt, toBytes, fromBytes]
  have h4 : leAt (header0 l ++ hmacSm3 (sealMac true 0 0) (header0 l)) 4 4 = 2 ^ 31 := by simp [header0, sealHeader, leAt, toBytes, fromBytes, boolNat]
  have h8 : leAt (header0 l ++ hmacSm3 (sealMac true 0 0) (header0 l)) 8 4 = 0 := by simp [header0, sealHeader, leAt, toBytes, fromBytes]
  rw [sealHeaderOk, h0, h4, h8, List.take_left' hl, List.drop_left' hl]
  simp [boolNat]
/-- An object of no bytes opens; one of a byte whose MAC is another does not. -/
theorem object0_opens : openObject 0 true 0 (object0 0 []) = some ([], none) := by
  have h : leAt (header0 0 ++ hmacSm3 (sealMac true 0 0) (header0 0)) 16 8 = 0 := by simp [header0, sealHeader, leAt, toBytes, fromBytes]
  simp only [openObject, object0_take, header0_ok, h]
  rfl
theorem incremented_ne (m : List Byte) (h : m ≠ []) : m ≠ m.map (· + 1) := by
  cases m with
  | nil => exact absurd rfl h
  | cons x l =>
    intro e
    have h1 : ∀ y : Byte, y ≠ y + 1 := by decide +kernel
    exact h1 x (List.cons.inj e).1
theorem object0_bad : ∃ r, openObject 0 true 0 (object0 1 r) = some ([], some 0) := by
  have h : leAt (header0 1 ++ hmacSm3 (sealMac true 0 0) (header0 1)) 16 8 = 1 := by simp [header0, sealHeader, leAt, toBytes, fromBytes]
  have hl : (header0 1 ++ hmacSm3 (sealMac true 0 0) (header0 1)).length = 96 := by simp [header0, hmacSm3, sm3_length, sealHeader, toBytes]
  obtain ⟨m, hm⟩ : ∃ m, m = chunkMac (sealMac true 0 0) ((header0 1 ++ hmacSm3 (sealMac true 0 0) (header0 1)).drop 64) [0] 0 1 := ⟨_, rfl⟩
  have hm' : m.length = 32 := by simp [hm, chunkMac, hmacSm3, sm3_length]
  refine ⟨0 :: m.map (· + 1), ?_⟩
  have hd : (object0 1 (0 :: m.map (· + 1))).drop 96 = 0 :: m.map (· + 1) := by rw [object0, List.drop_left' hl]
  have ht : (m.map (· + 1)).take 32 = m.map (· + 1) := List.take_of_length_le (by simp [hm'])
  have e1 : min 65536 (1 - 65536 * 0) = 1 := by norm_num
  have e2 : chunkCount 1 = 1 := by norm_num [chunkCount]
  simp only [openObject, object0_take, header0_ok, h, hd, e2, openChunks, e1, List.drop_succ_cons, List.drop_zero, ht, List.take_succ_cons, List.take_zero, ← hm]
  rw [if_neg (by decide), if_pos (incremented_ne m (by rintro rfl; simp at hm'))]
/-- A core with a header of 96 bytes at 0x40000000. -/
def boxed (h : List Byte) : State :=
  let s := co (rg [0, 0x40000000, 0x40001000])
  { s with
    mem := (List.range 96).map fun k => (0x40000000 + k, h.getD k 0)
    lines := (List.range 6).map fun k => (0x4000000 + k, { z := false }) }
/-- The lines of an access to it. -/
def boxPlaces : List Place := (List.range 6).map fun k => physPlace (coreReq (boxed []) 0 0) (0x40000000 + 16 * k) (0x40000000 + 16 * k) 16 false
theorem boxed_check (h : List Byte) : checkNow (boxed h) (coreReq (boxed h) 0 0) .read 0x40000000 96 = .ok (boxPlaces, boxed h) := by with_unfolding_all rfl
theorem memRead_listed (h : List Byte) : ∀ n b k a, k < n →
    memRead ((List.range' b n).map fun k => (a + k, h.getD k 0)) (a + (b + k)) = h.getD (b + k) 0 := by
  intro n
  induction n with
  | zero => intro b k a hk; omega
  | succ n ih =>
    intro b k a hk
    rw [List.range'_succ, List.map_cons, memRead]
    split
    · next e => have : k = 0 := by omega
                subst this; rfl
    · next e =>
      obtain ⟨j, rfl⟩ : ∃ j, k = j + 1 := ⟨k - 1, by omega⟩
      have := ih (b + 1) j a (by omega)
      rwa [show b + 1 + j = b + (j + 1) by omega] at this
theorem memRead_below (h : List Byte) (a x : Nat) (hx : x < a) : ∀ n b, memRead ((List.range' b n).map fun k => (a + k, h.getD k 0)) x = 0 := by
  intro n
  induction n with
  | zero => intro b; rfl
  | succ n ih => intro b; rw [List.range'_succ, List.map_cons, memRead, if_neg (by omega), ih]
/-- Does a state hold these bytes as that core's does. -/
def Boxes (s : State) (h : List Byte) : Prop := s.mem = (boxed h).mem ∧ s.lines = (boxed h).lines ∧ s.wafer = (boxed h).wafer
theorem boxed_raw {s : State} {h : List Byte} (hs : Boxes s h) : ∀ n x, x + n < 0x40000000 → rawLe s x n = 0 := by
  intro n
  induction n with
  | zero => intro x _; rfl
  | succ n ih =>
    intro x hx
    have := memRead_below h 0x40000000 x (by omega) 96 0
    rw [← List.range_eq_range'] at this
    have hb : rawByte s x = 0 := by
      unfold rawByte
      split
      · rfl
      · rw [hs.1]; exact this
    simp only [rawLe, ih (x + 1) (by omega), hb]
    rfl
theorem boxed_byte {s : State} {h : List Byte} (hs : Boxes s h) (k : Nat) (hk : k < 96) : readByte s (0x40000000 + k) = h.getD k 0 := by
  have hm : s.meta_ (0x40000000 + k) = { z := false } := by
    simp only [State.meta_, hs.2.1]
    rw [show (0x40000000 + k) / 16 = 0x4000000 + k / 16 by omega]
    have : k / 16 < 6 := by omega
    generalize k / 16 = j at *
    interval_cases j <;> rfl
  have hk' : keyAt s (0x40000000 + k) false = {} := by
    have h1 : 0x40000000 + k < edgeEnd := by unfold edgeEnd; omega
    have hp : s.wafer.potbase = 0 ∧ s.wafer.rgtbase = 0 := ⟨by rw [hs.2.2]; rfl, by rw [hs.2.2]; rfl⟩
    simp only [keyAt, potEntry, h1, if_true, hp, show (0x40000000 + k) / 4096 = 0x40000 by omega, show (0x40000000 + k) / 2 ^ 21 = 0x200 by omega]
    rw [boxed_raw hs _ _ (by decide), boxed_raw hs _ _ (by decide)]
    rfl
  have ha : inAperture (0x40000000 + k) = false := by simp [inAperture]; omega
  simp only [readByte, decipher, hm, hk', ha, LineMeta.bad, hs.1]
  have := memRead_listed h 96 0 k 0x40000000 hk
  simpa [boxed, List.range_eq_range'] using this
/-- It is read back. -/
theorem boxed_load (h : List Byte) :
    coreLoad (boxed h) (coreReq (boxed h) 0 0) 0x40000000 96 = .ok ((List.range 96).map (fun k => h.getD k 0), boxed h) := by
  have hr : ∀ p ∈ boxPlaces, coreReadPlace (boxed h) (coreReq (boxed h) 0 0) p = (List.range 16).map fun k => h.getD (p.va - 0x40000000 + k) 0 := by
    simp only [boxPlaces, List.mem_map, List.mem_range, physPlace]
    rintro p ⟨k, hk, rfl⟩
    have hc : inControl (0x40000000 + 16 * k) = false := by interval_cases k <;> decide
    simp only [coreReadPlace, hc, readPhys]
    refine List.map_congr_left fun j hj => ?_
    have hj := List.mem_range.mp hj
    rw [show 0x40000000 + 16 * k + j = 0x40000000 + (16 * k + j) by omega, boxed_byte ⟨rfl, rfl, rfl⟩ _ (by omega), show 0x40000000 + 16 * k - 0x40000000 + j = 16 * k + j by omega]
  have he : boxPlaces.flatMap (coreReadPlace (boxed h) (coreReq (boxed h) 0 0)) = (List.range 96).map fun k => h.getD k 0 := by
    rw [List.flatMap_congr hr]; rfl
  have hs : meetPlaces (boxed h) (coreReq (boxed h) 0 0) boxPlaces = boxed h := by
    have h1 : soundLines (boxed h) = true := rfl
    have h2 : ∀ p ∈ boxPlaces, meetPlace (coreReq (boxed h) 0 0) (boxed h) p = boxed h := by
      simp only [boxPlaces, List.mem_map, List.mem_range, physPlace]
      rintro p ⟨k, hk, rfl⟩
      simp [meetPlace, meetAt, h1]
    generalize boxPlaces = l at h2
    induction l with
    | nil => rfl
    | cons p l ih =>
      rw [meetPlaces, List.foldl_cons, h2 p (by simp)]
      exact ih fun q hq => h2 q (by simp [hq])
  simp only [coreLoad, boxed_check, he, hs]
/-- A header of tenant 0 for one byte, with its MAC. -/
def sealed1 : List Byte := header0 1 ++ hmacSm3 (sealMac true 0 0) (header0 1)
/-- O52: a header that passes, for a capacity of 0. -/
theorem witness_sealed : ∃ h u, Stated.Privileged (boxed sealed1) 0 0 2 none ∧ coreLoad (boxed sealed1) (coreReq (boxed sealed1) 0 0) 0x40000000 96 = .ok (h, u) ∧
    sealHeaderOk 0 (worldOf u 0) u.wafer.dstate h = true ∧ 0 < leAt h 16 8 ∧ rangesOverlap 0x40000000 96 0x40001000 0 = false := by
  have hl : sealed1.length = 96 := by simp [sealed1, header0, hmacSm3, sm3_length, sealHeader, toBytes]
  have he : (List.range 96).map (fun k => sealed1.getD k 0) = sealed1 := by
    apply List.ext_getElem
    · simp [hl]
    · intro k h1 h2; simp [List.getD_eq_getElem?_getD, List.getElem?_eq_getElem h2]
  refine ⟨sealed1, boxed sealed1, ⟨rfl, ?_, by simp⟩, he ▸ boxed_load sealed1, ?_, ?_, by decide⟩
  · show fld _ 1 0 ≤ 2
    decide
  · exact header0_ok 1
  · simp [sealed1, header0, sealHeader, leAt, toBytes, fromBytes]
/-- O52: wsw with a reserved bit, for tenant 0, for a partition with a block, and done. -/
theorem witness_wsw :
    let s := co (rg [1, 0, 0x1000, 0x8000000000001000])
    let trapped (o : Host.Outcome State Fault Refusal) (s : State) (n : Word) : Bool := answers o (raise s { code := 0x24, engine := 11, info := n })
    trapped (exec (.wsw 0) s) s 1 = true ∧ trapped (exec (.wsw 1) s) s 5 = true ∧
    partitionBusy { s with blocks := [(1, { block1 with tenant := 4097 })] } 4096 [] = true ∧
    trapped (exec (.wsw 2) { s with blocks := [(1, { block1 with tenant := 4097 })] }) { s with blocks := [(1, { block1 with tenant := 4097 })] } 3 = true ∧
    partitionBusy s 4096 [] = false ∧ okAnd (changeWorlds s (s.setTenant 4096 { secure := true }) []) (fun _ => true) = true ∧
    nextAnd (exec (.wsw 3) s) (fun u => (u.tenant 4096).secure) = true := by decide +kernel
/-- O52: a seal of 16 bytes, an unseal of a header of zeros. -/
theorem witness_seal :
    let s := co (rg [16, 0x40000000, 0x40001000, 0])
    rangesOverlap 0x40000000 16 0x40001000 (sealedLength 16) = false ∧ presides 0 0 = true ∧
    (match sealRun (coreReq s 0 0) 0x40000000 0x40001000 0 16 s with | .ok _ => true | .error _ => false) = true ∧
    nextAnd (exec (.sealMem 0 1 2) s) (fun u => u.getG 0 == 144) = true ∧ okAnd (coreLoad s (coreReq s 0 0) 0x40000000 96) (fun r => !sealHeaderOk 0 true 0 r.1) = true ∧
    (match unsealRun (coreReq s 0 0) 0x40000000 0x40001000 0 16 (List.replicate 96 0) s with | .ok r => r.1 == 0x8000000000000001 | .error _ => false) = true ∧
    nextAnd (exec (.unsealMem 0 1 2) s) (fun u => u.getG 0 == 0x8000000000000001) = true := by decide +kernel
/-- A core with g0 naming physical function 0, g1 the nonce and g2 the record. -/
def signer : State := co (rg [0, 0x40000000, 0x40001000])
theorem signed_length (d n f : Nat) (b : List Byte) : (signed d n f b).length = 64 := by simp [signed, toBytes]
theorem evidence_length (u : State) (user : List Byte) : (evidence u 0 user).1.length = 288 := by
  simp [evidence, evidenceHead, digest32, functionDigest, sm3_length, signed_length, toBytes]
/-- O52: evsign, and a nonce of 32 bytes. -/
theorem witness_evsign :
    (∃ user u w, coreLoad signer (coreReq signer 0 0) 0x40000000 32 = .ok (user, u) ∧ presides 0 (mget signer.vfs 0 0) = true ∧
      coreStore (evidence u 0 user).2 (coreReq signer 0 0) 0x40001000 (evidence u 0 user).1 = .ok w) ∧ (List.replicate 32 (0 : Byte)).length = 32 := by
  refine ⟨?_, by simp⟩
  have hl : okAnd (coreLoad signer (coreReq signer 0 0) 0x40000000 32) (fun r => r.2 == signer) = true := by decide +kernel
  cases h : coreLoad signer (coreReq signer 0 0) 0x40000000 32 with
  | error e => rw [h] at hl; simp [okAnd] at hl
  | ok r =>
    obtain ⟨user, u⟩ := r
    rw [h] at hl
    obtain rfl : u = signer := by simpa [okAnd] using hl
    have hc : okAnd (checkNow { signer with freeCtr := signer.freeCtr + 1 } (coreReq signer 0 0) .write 0x40001000 288) (fun r => !writesWait r.2 (coreReq signer 0 0) r.1) = true := by
      decide +kernel
    have he : (evidence signer 0 user).2 = { signer with freeCtr := signer.freeCtr + 1 } := rfl
    cases hx : checkNow { signer with freeCtr := signer.freeCtr + 1 } (coreReq signer 0 0) .write 0x40001000 288 with
    | error e => rw [hx] at hc; simp [okAnd] at hc
    | ok r =>
      rw [hx] at hc
      simp only [okAnd, Bool.not_eq_true'] at hc
      refine ⟨user, signer, coreWriteAll r.2 (coreReq signer 0 0) r.1 (evidence signer 0 user).1, rfl, by decide +kernel, ?_⟩
      rw [he, coreStore, evidence_length, hx]
      simp [hc]
/-! ## Traps and exceptions -/

/-- O53: a trap whose image lines can be written back, from INTRAP: what is recorded and what is sent. -/
theorem witness_trap_entry :
    let s := withImage (th { rg [7] with status := 0x40 })
    let tr : Trap := { code := 0x18, engine := 7, addr := 5, info := 3 }
    let s1 := s.setCtx 0 0 { leaveSlot (s.ctx 0 0) with regs := recordTrap (s.ctx 0 0).regs tr, state := .trapped, dirty := (s.ctx 0 0).dirty ∪ [2, 3] }
    stepping (s.ctx 0 0).regs = false ∧ (switchOut s1 0 0).2 = none ∧ plainRoutes (switchOut s1 0 0).1 = true ∧ cleanRouters (switchOut s1 0 0).1 = true ∧ (recordTrap (s.ctx 0 0).regs tr).trcause = 0x10718 ∧
    ((raise s tr).ctx 0 0).state = .trapped ∧ ((raise s tr).ctx 0 0).slot = none ∧ (raise s tr).due.contains (.faultQueueAppend 0) = true ∧
    ((raise s tr).island 0).inFlight.map (fun m => (m.kind, m.tenant, m.body.take 8)) = [(1, 0, toBytes 8 0x10718)] := by decide +kernel
/-- O53: lines 2 and 3 resident, and the same trap where they are not. -/
theorem witness_trap_lines :
    let s := withImage (th (rg [7]))
    let n := s.setTile 0 { tile0 with rclru := [] }
    resident s 0 0 2 = true ∧ resident s 0 0 3 = true ∧ resident n 0 0 3 = false ∧ resident (ensureTrapLines n 0 0) 0 0 3 = true ∧
    ((raise n { code := 0x18, engine := 7 }).ctx 0 0).state = .trapped := by decide +kernel
/-- Records of tenants 0 and 4096 with HVEC 0x40000006. -/
def hvec (l : List Nat) : Map Nat (List Byte) := l.map fun k => (k, toBytes 64 (0x40000006 * 2 ^ 192 + k * (4096 * 2 ^ 416 + 2 ^ 447)))
/-- O54: an exception of an idle core and of a running one into tenant 0, into tenant 4096, past 4096 without a record, and with no handler. -/
theorem witness_core_exception :
    let s (l : List Nat) (f : Core → Core) : State := (coreWith (co regs0) f).setIsland 0 { records := hvec l }
    handlerOf (s [0] id) 0 0 3 0 = some (0, 0x40000006) ∧
    (let u := enterException (s [0] fun c => { c with cstatus := 0x10 }) 0 0 0 0xA16 1 2 0x40000002
     (u.core 0 0).regs.pc = 0x40000006 ∧ (u.core 0 0).epc = 0x40000002 ∧ (u.core 0 0).ecause = 0xA16 ∧ (u.core 0 0).cstatus = 0xA0) ∧
    ((enterException (s [0] fun c => { c with idle := true }) 0 0 0 1 0 0 5).core 0 0).epc = 0 ∧
    (let c (c : Core) := { c with icache := [(4096, nops.2)], cstatus := 0x100001 }
     handlerOf (s [0, 1] c) 0 0 3 4096 = some (4096, 0x40000006) ∧ coreLevel ((enterException (s [0, 1] c) 0 0 4096 1 0 0 5).core 0 0) = 1) ∧
    recordValid (s [0] id) 0 4096 = false ∧ handlerOf (s [0] id) 0 0 3 4096 = some (0, 0x40000006) ∧
    handlerOf (s [] id) 0 0 3 0 = none ∧ ((enterException (s [] id) 0 0 0 1 0 0 5).core 0 0).stopped = true := by decide +kernel
/-! ## Steps of contexts -/

/-- A thread with its context changed, its image where image traffic may go. -/
def thw (f : Ctx → Ctx) : State := let s := withImage (th regs0); s.setCtx 0 0 (f (s.ctx 0 0))
/-- The same where it may not. -/
def thn (f : Ctx → Ctx) : State := let s := th regs0; s.setCtx 0 0 (f (s.ctx 0 0))
/-- O55: a line fetched by a core, and a fetch from an address that is not listed. -/
theorem witness_fetch :
    let s (pc : Word) := coreWith (co regs0) fun c => { c with icache := [], regs := { c.regs with pc := pc } }
    fetches (s 0x40000002) (.core 0 0) = true ∧
    (match readCodeLine (s 0x40000002) (.core 0 0) 0x40000002 with | .ok (l, some _, u) => l.length == 32 && u == s 0x40000002 | _ => false) = true ∧
    nextAnd (exec (.codeLineFetch (.core 0 0)) (s 0x40000002)) (fun u => (cachedLine? u (.core 0 0) 0x40000002).isSome) = true ∧
    (match readCodeLine (s 0x60000000002) (.core 0 0) 0x60000000002 with | .ok _ => false | .error (.hole _) => true | .error _ => false) = true ∧
    nextAnd (exec (.codeLineFetch (.core 0 0)) (s 0x60000000002)) (fun u => (u.core 0 0).ecause == 0x13) = true := by decide +kernel
/-- O55: a slot taken, image lines filled or not, a pause over, BUDGET. -/
theorem witness_slots :
    let q := thn fun x => { x with state := .queued, slot := none }
    freeSlot? q 0 = some 0 ∧ nextQueued? q 0 = some 0 ∧ nextAnd (exec (.issueSlotTaken 0) q) (fun u => (u.ctx 0 0).state == .issuing && (u.ctx 0 0).slot == some 0) = true ∧
    (let s := (thw id).setTile 0 { tile0 with rclru := [] }
     okAnd (fillLine s 0 0 1) (fun _ => true) = true ∧ nextAnd (exec (.registerCacheFill 0 0 1) s) (fun u => resident u 0 0 1) = true) ∧
    (let s := (thn id).setTile 0 { tile0 with rclru := [] }
     okAnd (fillLine s 0 0 1) (fun _ => true) = false ∧ nextAnd (exec (.registerCacheFill 0 0 1) s) (fun u => (u.ctx 0 0).regs.trcause % 256 == 0x09) = true) ∧
    (let e (x : Ctx) : Ctx := { x with vec := { vlive := 1 }, extResident := false, matResident := false, vimg := 0x10000, mimg := 0xC000 }
     okAnd (fillVector (thw e) 0 0) (fun u => okAnd (fillMatrix u 0 0) fun _ => true) = true ∧
     nextAnd (exec (.extensionImageFill 0 0) (thw e)) (fun u => (u.ctx 0 0).extResident && (u.ctx 0 0).matResident) = true ∧
     okAnd (fillVector (thn e) 0 0) (fun _ => true) = false ∧ nextAnd (exec (.extensionImageFill 0 0) (thn e)) (fun u => (u.ctx 0 0).state == .trapped) = true) ∧
    nextAnd (exec (.pauseExpiry 0 0) { thn (fun x => { x with pause := 5 }) with cycle := 5 }) (fun u => (u.ctx 0 0).pause == 0) = true ∧
    (let s := thn fun x => { x with remain := 0 }
     budgetDue s 0 0 = true ∧ (boundary s 0 0).isSome = true ∧ nextAnd (exec (.budget 0 0) s) (fun u => (u.ctx 0 0).regs.trcause % 256 == 0x20 || (u.ctx 0 0).state == .trapped) = true) := by
  decide +kernel
/-- O55: the bounds of the edge window, and the checkpoint half of an image that no restart asks for. -/
theorem witness_fills :
    let s := thw fun x => { x with vec := { vlive := 1 }, extResident := false, matResident := false, vimg := 0x10000, mimg := 0xC000 }
    0x40000000 ≤ (0x40000002 : Word).toNat ∧ (0x60000000002 : Word).toNat < 0x3FFE0000000000 ∧
    okAnd (fillVector s 0 0) (fun u => okAnd (reloadMatrix u 0 0) fun v => okAnd (fillMatrix v 0 0) fun _ => true) = true := by decide +kernel
/-- O55: a fetch whose head has a path, and one whose edge router is absent. -/
theorem witness_lost_heads :
    let c := co { regs0 with pc := 0x40000042 }
    let d := edgeRouterOf 0x40000040
    let cut : State := { c with wafer := { c.wafer with tables := [(fieldOf d, { absentTiles := [d] })] } }
    let way (s : State) : Option Bool := match readCodeLine s (.core 0 0) 0x40000042 with
      | .ok (_, some l, u) => some (edgeHead u (siteTile (.island 0)) (senderOf u (.core 0 0)) (l * 64)).2
      | _ => none
    fetches c (.core 0 0) = true ∧ way c = some true ∧ way cut = some false ∧ nextAnd (exec (.codeLineFetch (.core 0 0)) cut) (fun u => (u.core 0 0).lost) = true := by
  decide +kernel
/-- O55: the packets for a Trapped context, for one Set aside by a handover, for one in another state. -/
theorem witness_packets :
    let z (x : Ctx) : Ctx := { leaveSlot x with state := .trapped, regs := { x.regs with trpc := 0x40000008, tvec := 0x40000006, trcause := 0x18 } }
    let s := thw z
    let n := thw fun x => let y := z x; { y with regs := { y.regs with trcause := 0x10018 } }
    let h := thw fun x => let y := z x; { y with state := .setAside, why := .handover }
    packetWaits s 1 = false ∧ presides 0 (blockTenant s 1) = true ∧ threadAt? s 1 0 = some (0, 0) ∧ okAnd (takeUp s 0 0) (fun u => redirectAllowed u 0 0) = true ∧
    nextAnd (exec (.resume 0 1 0) s) (fun u => (u.ctx 0 0).state == .queued && (u.ctx 0 0).regs.pc == 0x40000008) = true ∧
    nextAnd (exec (.redirect 0 1 0) s) (fun u => (u.ctx 0 0).regs.pc == 0x40000006 && (u.ctx 0 0).regs.status == 0x40) = true ∧
    nextAnd (exec (.redirect 0 1 0) n) (fun u => (u.ctx 0 0).state == .trapped && (u.ctx 0 0).regs.trcause == 0x10003) = true ∧
    nextAnd (exec (.halt 0 1 0) s) (fun u => (u.ctx 0 0).state == .halted && (u.ctx 0 0).regs.pc == 0x40000008) = true ∧
    nextAnd (exec (.discard 0 1 0) s) (fun u => (u.ctx 0 0).state == .dormant) = true ∧ nextAnd (exec (.discard 0 1 0) h) (fun u => (u.ctx 0 0).state == .dormant) = true ∧
    nextAnd (exec (.present 0 1 0) h) (fun u => (u.ctx 0 0).state == .queued && (u.ctx 0 0).regs.pc == 0x40000008) = true ∧
    answers (exec (.resume 0 1 0) h) h = true ∧ answers (exec (.halt 0 1 0) h) h = true ∧ answers (exec (.present 0 1 0) s) s = true := by decide +kernel
/-! ## Steps of tasks and engines -/

/-- A tile with a Dormant context 0 of block 1 and no task; g its deque, m its inbox. -/
def quiet (g : List DequeEntry) (m : List InboxEntry) : State :=
  let s := thn fun x => { leaveSlot x with state := .dormant, task := none, matResident := false }
  { s with tasks := [], tiles := [(0, { tile0 with deque := g, inbox := m })] }
/-- O56: an activation by message, by hand-off and by a steal; an overflow entry returned. -/
theorem witness_activations :
    let e : InboxEntry := { handle := 1, launch := 7, stamp := some 3, act := { pc := 0x40000002, g0 := 9 }, payload := none }
    inboxNext? (quiet [] [e]) 0 = some (e, 0) ∧
    nextAnd (exec (.activationByMessage 0) (quiet [] [e])) (fun u => (u.tile 0).inbox == [] && (u.ctx 0 0).regs.g.toList.getD 0 0 == 9 && (u.tasks.map fun p => p.2.stamp) == [3]) = true ∧
    handOff? (quiet [entry3] []) 0 = some (entry3, 0) ∧ entry3.restart = none ∧
    nextAnd (exec (.activationByHandOff 0) (quiet [entry3] [])) (fun u => (u.tile 0).deque == [] && (u.ctx 0 0).regs.pc == 0x40000002 && (u.ctx 0 0).regs.g.toList.getD 0 0 == 6) = true ∧
    (let s := { (quiet [] []).setBlock 1 { block1 with stealMask := 2 } with tiles := [(0, tile0), (1, { deque := [{ entry3 with handle := 2 }] })] }
     (steals? s 1).map (fun p => p.2.1) = some 0 ∧ nextAnd (exec (.automaticSteal 1) s) (fun u => (u.tile 1).deque == [] && (u.ctx 0 0).regs.pc == 0x40000002) = true) ∧
    (let s := (quiet [] []).setIsland 0 { overflow := [{ entry3 with handle := 2 }] }
     returnNext? s 0 = some ({ entry3 with handle := 2 }, 0, 1) ∧ nextAnd (exec (.overflowReturn 0) s) (fun u => (u.tile 0).deque == [entry3] && (u.island 0).overflow == []) = true) := by
  decide +kernel
/-- O56: COMMIT of an ended task that may and that may not, BECOME_SERIALISING, both ends of READ_SET_REGISTRATION. -/
theorem witness_task_steps :
    let s (x : Task) : State := { th regs0 with tasks := [(5, x), (6, { task5 with stamp := 2 })] }
    let done : Task := { task5 with phase := .ended, stores := [(.phys 0x40000000, 7)] }
    let rd : Task := { task5 with reads := [{ line := .phys 0x40000000, ver := 0, acked := false }, { line := .phys 0x40000010, ver := 0, missed := true }] }
    canCommit (s done) 5 done = true ∧ nextAnd (exec (.commit 5) (s done)) (fun u => readPhys u 0x40000000 1 == [7] && u.task? 5 == none) = true ∧
    canCommit (s { done with stamp := 3 }) 5 { done with stamp := 3 } = false ∧
    answers (exec (.commit 5) (s { done with stamp := 3 })) ((s { done with stamp := 3 }).addDueOnce (.commit 5)) = true ∧
    canCommit (s { task5 with wantsSerial := true }) 5 { task5 with wantsSerial := true } = true ∧
    (let v := endInterval (s { task5 with wantsSerial := true }) 5 { task5 with wantsSerial := true }
     v.2 = none ∧ (v.1.task? 5).isSome = true) ∧
    nextAnd (exec (.becomeSerialising 5) (s { task5 with wantsSerial := true })) (fun u => (u.task? 5).map Task.serial == some true) = true ∧
    nextAnd (exec (.readSetRegistration 5 0x4000000) (s rd)) (fun u => (u.task? 5).map (fun x => x.reads.map ReadEntry.acked) == some [true, true]) = true ∧
    nextAnd (exec (.readSetRegistration 5 0x4000001) (s rd)) (fun u => (u.task? 5).map (fun x => x.reads) == some []) = true := by decide +kernel
/-- O56: the commit of an interval with a store and a record write: what it needs, and what it leaves in memory. -/
theorem witness_commit_memory :
    let done : Task := { task5 with phase := .ended, stores := [(.phys 0x40000000, 7), (.phys 0x40000000, 9)], recs := [⟨0, 3, rec3 0⟩] }
    let s : State := writePhys { th regs0 with tasks := [(5, done)] } 0x40000000 [1, 2]
    canCommit s 5 done = true ∧ Memory.wf s.mem = true ∧ plainRoutes s = true ∧ cleanRouters s = true ∧ soundLines s = true ∧
    s.tiles.all (fun p => p.2.dcache == []) = true ∧
    abortedBy s 5 7 0 (storeLines done.stores ++ done.recs.map fun w => Loc.record w.cluster w.record) = [] ∧
    edgeEnd > 0x40000000 ∧ (s.meta_ 0x40000000).ver ≠ 0xFFFF ∧
    (tableBytes s 0x40000000 ++ tableBytes s 0x40000001).all (fun x => x / 16 != 0x40000000 / 16) = true ∧
    nextAnd (exec (.commit 5) s) (fun u => readPhys u 0x40000000 2 == [7, 2] && recVersion (layoutRecord u 0 3) == 1 && recVersion (layoutRecord u 0 4) == 0) = true := by
  decide +kernel
/-- O56: INVALIDATION, PAGE_WALK, BEAT_ARRIVAL, a table loaded by itld and fetched again. -/
theorem witness_memory_steps :
    nextAnd (exec (.invalidation 0 3) (thd [{ dblock0 with pblock := 3, tp := false }] [])) (fun u => (u.tile 0).dcache == []) = true ∧
    (let s : State := { th regs0 with mem := [(0x100003, 0xD0)] }
     (match tileTranslate s 0 0 .tile .read 0x40000000 with | .ok r => r.1 == 0x40000000 | .error _ => false) = true ∧
     nextAnd (exec (.pageWalk 0 0 0x40000000 0) s) (fun u => !(u.cluster 0).tlb.isEmpty) = true) ∧
    (let s := thv [] [] (stream0 [])
     beatWanted s 0 0 0 = true ∧ rangesClear s 3 = true ∧ (match fetchBeat s 0 0 (stream0 []) 0 with | .ok _ => true | .error _ => false) = true ∧
     nextAnd (exec (.beatArrival 0 0 0) s) (fun u => (streamOf (u.ctx 0 0).vec 0).ahead.length == 1) = true) ∧
    (let zs : List Byte := List.replicate 80 0
     let b (re w : Bool) : IBuffer :=
       { handle := 1, name := 0, loading := true, image := if w then zs else [], addr := 0x40, req := 3, refetch := re, ctx := some 0, whole := w, tried := w }
     let s (re w : Bool) :=
       let s := (thn fun x => { x with awaiting := some 3 }).setBlock 1 { block1 with itabs := if re then [(0, (0x40, 0))] else [] }
       s.setTile 0 { tile0 with ibufs := [b re w] }
     loadOf? (s true false) 0 1 0 true = some (b true false) ∧ loadOf? (s false true) 0 1 0 false = some (b false true) ∧
     loadAwaited (s true false) 0 (b true false) = some 0 ∧ rangesClear (s true false) 3 = true ∧ loadHeld (s false true) 0 (b false true) = false ∧
     okAnd (readHeader (s true false) 0 0 (b true false)) (fun r => okAnd (readSegments r.2 0 0 r.1) fun q => q.1.image.length == 80) = true ∧
     nextAnd (exec (.refetch 0 1 0) (s true false)) (fun u => (u.ctx 0 0).awaiting == none && (u.tile 0).ibufs.map IBuffer.loading == [false]) = true ∧
     nextAnd (exec (.refetch 0 1 0) (s true true)) (fun u => (u.ctx 0 0).awaiting == none && (u.tile 0).ibufs.map IBuffer.loading == [false]) = true ∧
     nextAnd (exec (.tableLoadComplete 0 1 0) (s false false)) (fun u => u.getPc == 0x40000004 && (u.tile 0).ibufs.map IBuffer.whole == [true]) = true ∧
     nextAnd (exec (.tableLoadComplete 0 1 0) (s false true)) (fun u => (u.block? 1).map Block.itabs == some [(0, (0x40, 0))]) = true) := by decide +kernel
/-- O56: a copy request activated, ended and over its limit; its answers when Faulted; a kernel posting. -/
theorem witness_copy_steps :
    let r : ZReq := { uid := 9, handle := 1, desc := desc0 0 0x80 16 }
    let p : ZReq := { zreq0 with desc := toBytes 64 (1 + 2 ^ 16) ++ List.replicate 64 0, activeFor := 1025 }
    let f (code : Nat) : ZReq := { zreq0 with state := .faulted, zc := none, faultCode := code, fseq := 2, succ := some 0x40000004 }
    let d : ZReq := { r with state := .faulted, fseq := 2 }
    zreq? (zy r) 0 9 = some r ∧ mayActivate (zy r) 0 r = true ∧ freeZc (zy r) 0 = some 0 ∧
    nextAnd (exec (.requestActivation 0 9) (zy r)) (fun u => (zreq? u 0 9).map ZReq.state == some .draining) = true ∧
    nextAnd (exec (.requestDone 0 9) (zy { r with state := .draining })) (fun u => (u.tile 0).zreqs == []) = true ∧
    overLimit (zy p) p = true ∧ nextAnd (exec (.zlimit 0 9) (zy p)) (fun u => (zreq? u 0 9).map ZReq.faultCode == some 0x33) = true ∧
    answered? (zy (f 0x16)) 0 1 0 2 = some (0, f 0x16) ∧ freeZc (zy (f 0x16)) 0 = some 0 ∧
    nextAnd (exec (.retry 0 1 0 2) (zy (f 0x16))) (fun u => (zreq? u 0 9).map (fun q => (q.state, q.pc)) == some (.active, 0x40000002)) = true ∧
    nextAnd (exec (.continue_ 0 1 0 2) (zy (f 0x16))) (fun u => (zreq? u 0 9).map (fun q => (q.state, q.pc)) == some (.active, 0x40000002)) = true ∧
    nextAnd (exec (.continue_ 0 1 0 2) (zy (f 0x32))) (fun u => (zreq? u 0 9).map (fun q => (q.state, q.pc)) == some (.active, 0x40000004)) = true ∧
    answered? (zy d) 0 1 0 2 = some (0, d) ∧ nextAnd (exec (.retry 0 1 0 2) (zy d)) (fun u => (zreq? u 0 9).map ZReq.state == some .draining) = true ∧
    nextAnd (exec (.fail 0 1 0 2 5) (zy d)) (fun u => (u.tile 0).zreqs == []) = true ∧
    (let s := writePhys (co regs0) 0x40000040 (toBytes 64 (fromBytes (desc0 0 0x80 16) + 32))
     zKind (readPhys s 0x40000040 64) = 0 ∧ descOk (readPhys s 0x40000040 64) true = true ∧ recFld (readPhys s 0x40000040 64) 5 5 = 1 ∧
     nextAnd (exec (.kpost 0 0 0 0x40000040) s) (fun u => (u.tile 0).zreqs.map (fun q => (q.uid, q.phys)) == [(10, true)]) = true) := by decide +kernel
/-- O56: a matrix operation begun and completed; a Held launch pooled, a Pooled one placed, its end, its deadline; a phase's end; a check. -/
theorem witness_engine_steps :
    (let s (m : MatOp) := thx [] {} [m]
     rangesClear (s mop) 3 = true ∧ okAnd (claimAcc (s mop) 0 0 1) (fun _ => true) = true ∧
     nextAnd (exec (.matrixOperationStart 0) (s { mop with begun := false, retired := true })) (fun u => (u.tile 0).matq.map MatOp.begun == [true]) = true ∧
     nextAnd (exec (.matrixOperationStart 0) (s { mop with xm := 1, begun := false, retired := true }))
       (fun u => (accOf (u.ctx 0 0) 1).live && u.due == [.matrixOperationComplete 0]) = true ∧
     nextAnd (exec (.matrixOperationComplete 0) (s { mop with finished := true, retired := true })) (fun u => (u.tile 0).matq == []) = true) ∧
    (let x : Launch := { tenant := 0, state := .pooled, desc := launchDesc, raised := true }
     let s (x : Launch) : State := { quiet [] [] with launches := [(7, x), (8, { tenant := 0, state := .complete })], blocks := [], ctxs := [] }
     let held : Launch := { x with state := .held, desc := toBytes 64 (8 * 2 ^ 384) }
     (predOf held = 8 → mayPool (s held) held = true) ∧ nextAnd (exec (.launchPooled 7) (s held)) (fun u => (u.launch? 7).map Launch.state == some .pooled) = true ∧
     nextPlaced (s x) 0 = some 7 ∧ nextAnd (exec (.placement 7) (s x)) (fun u => (u.launch? 7).map Launch.state == some .running) = true ∧
     x.ended = false ∧ launchCount (s x) 7 = 0 ∧ nextAnd (exec (.counterComplete 1 7) (s x)) (fun u => (u.launch? 7).map Launch.state == some .complete) = true) ∧
    (let s : State := { co regs0 with counters := [((2, 9), { raised := true })] }
     unitCount s 2 9 = 0 ∧ nextAnd (exec (.counterComplete 2 9) s) (fun u => (unitState? u 2 9).isSome && (mget? u.counters (2, 9)).any (fun k => k.state == .complete)) = true) ∧
    (let i : FInstance := { cluster := 0, record := 2, version := 3, shape := rec3 1, forecast := [0, 0, 0, 0], tolerance := List.replicate 64 0, committed := some (rec3 1) }
     let s : State := { thf 1 [(2, { inst := some 4 })] [] with insts := [(4, i)] }
     toCheck? s 0 2 = some (4, i, rec3 1) ∧ nextAnd (exec (.ceilometerCheck 0 2) s) (fun u => u.insts == []) = true) := by decide +kernel
/-! ## Steps of the fabric -/

/-- Blocks 1 and 2 on tiles 0 and 1, packet 3. -/
def fab (p : Packet) : State := { thj [] with packets := [{ p with id := 3 }], counters := [((4, 0), { handlers := [0x40000002] })] }
/-- A state with an error in the line of an address: correctable 1, uncorrectable 2. -/
def erring (s : State) (pa k : Nat) : State := { s with lines := mset s.lines (pa / 16) { s.meta_ pa with ecc := k } }
/-- The packets of a next state, as kind, place, destination and bytes. -/
def sent (o : Host.Outcome State Fault Refusal) (l : List (PacketKind × Nat × Nat × List Byte)) : Bool :=
  match o with | .next u => (u.packets.map fun p => (p.kind, p.at_, p.dst, p.bytes)) == l | _ => false
/-- O57: a cluster-window read and write, edge reads with no error, a corrected and an uncorrectable one, a write, a response. -/
theorem witness_requests :
    let c (w : Bool) : Packet := { id := 0, kind := .request, vc := 0, at_ := 1, dst := 1, srcTile := 0, dhandle := 2, loc := .spad 2 0, write := w, bytes := [7, 8], len := 2, waiter := some (0, 0) }
    let e (w : Bool) : Packet := { c w with dhandle := 0, loc := .phys 0x40000000 }
    let s (p : Packet) (k : Nat) : State := erring (writePhys (fab p) 0x40000000 [5, 6]) 0x40000000 k
    sent (exec (.clusterWindowAccess 3) (fab (c false))) [(.response, 1, 0, [0, 0])] = true ∧ nextAnd (exec (.clusterWindowAccess 3) (fab (c true))) (fun u => readPhys u (spadBase 1) 2 == [7, 8]) = true ∧
    sent (exec (.edgeMemoryAccess 3) (s (e false) 0)) [(.response, 1, 0, [5, 6])] = true ∧ sent (exec (.edgeMemoryAccess 3) (s (e false) 1)) [(.response, 1, 0, [5, 6])] = true ∧
    sent (exec (.edgeMemoryAccess 3) (s (e false) 2)) [(.response, 1, 0, [0, 0])] = true ∧ nextAnd (exec (.edgeMemoryAccess 3) (s (e true) 0)) (fun u => readPhys u 0x40000000 2 == [7, 8]) = true ∧
    nextAnd (exec (.response 3) (let s := fab { c false with kind := .response, at_ := 0, dst := 0 }; s.setCtx 0 0 { s.ctx 0 0 with awaiting := some 3 })) (fun u => (u.ctx 0 0).awaiting == none && u.packets == []) = true := by
  decide +kernel
/-- O57: a hop that arrives, one to be relayed, one to an absent tile, one refused at a region's edge, one that goes on east; the relay, the cache
update, the poison tail. -/
theorem witness_hops :
    let p : Packet := { id := 3, at_ := 0, dst := 5, dhandle := 2, src := 1, srcTile := 0, launch := 7 }
    let gone (s : State) : State := { s with wafer := { s.wafer with tables := [(0, { absentTiles := [1] })] } }
    let s := fab { p with at_ := 1, dst := 1 }
    turn s { at_ := 1 } 1 = .arrive ∧ nextAnd (exec (.hop 3) s) (fun u => u.due == [.messageArrival 3]) = true ∧
    turn s { at_ := 0, detour := true, relay := true } 5 = .relay ∧ nextAnd (exec (.hop 3) (fab { p with detour := true, relay := true })) (fun u => u.due == [.relay 3]) = true ∧
    turn (gone s) { at_ := 0 } 5 = .noPath ∧ sent (exec (.hop 3) (gone (fab p))) [(.nackNoPath, 0, 0, [])] = true ∧
    turn s { at_ := 3 } 5 = .next { at_ := 4, port := 3 } ∧
    (let r := (fab { p with at_ := 3, region := 4096 }).setTenant 4096 { rect := some 0 }
     hopRefused r { p with at_ := 3, region := 4096 } 4 = true ∧ sent (exec (.hop 3) r) [(.nackRefused, 3, 0, [])] = true) ∧
    hopRefused s p 1 = false ∧ sent (exec (.hop 3) (fab p)) [(.head, 1, 5, [])] = true ∧
    nextAnd (exec (.relay 3) (fab { p with detour := true, relay := true })) (fun u => u.packets.map (fun q => (q.relayed, q.relayPos, q.detour)) == [(true, 0, false)]) = true ∧
    nextAnd (exec (.handleCacheUpdate 3) (fab { p with report := 9 })) (fun u => (u.tile 0).hcache == [(2, 9)]) = true ∧
    nextAnd (exec (.poisonTail 3) (fab p)) (fun u => u.packets == [] && (u.island 0).inFlight.length == 1) = true := by decide +kernel
/-- O57: an edge access at a router without an edge link, a response that nothing waits for, tables that cannot be cleaned, a full relay. -/
theorem witness_stuck :
    let p : Packet := { id := 3, kind := .request, vc := 0, at_ := 5000, dst := 5000, loc := .phys 0x40000000, len := 2 }
    let h : Packet := { id := 3, at_ := 0, dst := 5, dhandle := 2, src := 1 }
    let full (p : Packet) : State := { fab p with packets := [{ p with id := 3 }, { h with id := 4, inRelay := some 0 }, { h with id := 5, inRelay := some 0 }] }
    let end_ : Packet := { h with detour := true, relay := true }
    let bad : State := let s := (fab h).setRouter 0 { bad := [3] }; { s with wafer := { s.wafer with tables := [(0, { absentTiles := [1, 256] })] } }
    edgeLinked 1 (emmOf 0x40000000) = true ∧ edgeLinked 5000 (emmOf 0x40000000) = false ∧ sent (exec (.edgeMemoryAccess 3) (fab p)) [] = true ∧
    sent (exec (.response 3) (fab { p with kind := .response })) [] = true ∧
    relayFree (fab end_) end_ = true ∧ relayFree (full end_) end_ = false ∧ nextAnd (exec (.relay 3) (full end_)) (fun u => u.due == [.relay 3] || u.due == [.hop 3]) = true ∧
    relayWaits (full end_) end_ = true ∧ nextAnd (exec (.hop 3) (full end_)) (fun u => u.due == [.hop 3] && u.packets.length == 3) = true ∧
    tablesStuck bad h = true ∧ nextAnd (exec (.hop 3) bad) (fun u => u.due == [.hop 3] && u.packets.map Packet.at_ == [0]) = true ∧
    tablesStuck (fab h) h = false ∧ relayWaits (fab h) h = false ∧ laneWaits (fab h) h = false ∧
    (let lane : State := { fab h with packets := [{ h with id := 3 }, { h with id := 4, at_ := 1, port := 3, payload := List.replicate 192 0 }] }
     turn lane { at_ := 0 } 5 = .next { at_ := 1, port := 3 } ∧ laneWaits lane h = true ∧ nextAnd (exec (.hop 3) lane) (fun u => u.due == [.hop 3] && u.packets.map Packet.at_ == [0, 1]) = true) := by decide +kernel
/-- O57: a message without and with a payload, and a migration, accepted. -/
theorem witness_arrivals :
    let p : Packet := { id := 3, at_ := 1, dst := 1, dhandle := 2, src := 1, srcTile := 0, launch := 7, stamp := 4, handler := 0x40000002 }
    let s := fab p
    (liveBlock? s 2).any (fun b => !b.evicted && !movingTile s b.tile && b.tile == 1 && !otherWorld s p b && handlerKnown s b.launch 0x40000002) = true ∧
    nextAnd (exec (.messageArrival 3) s) (fun u => (u.tile 1).inbox.map (fun e => (e.handle, e.stamp)) == [(2, some 5)] && (u.packets.map Packet.kind) == [.ack]) = true ∧
    (allocate s 1 2 4096 256 false 0).isSome = true ∧
    nextAnd (exec (.messageArrival 3) (fab { p with payload := [9] })) (fun u => (u.tile 1).inbox.length == 1 && (u.tile 1).allocs.length == 1) = true ∧
    (let h := fab { p with mkind := 1 }
     let h := h.setCtx 0 0 { h.ctx 0 0 with state := .held }
     (h.tasks.find? fun q => q.2.phase == .running && (let y := h.ctx q.2.tile q.2.ctx; y.state == .held && senderOf h (.thread q.2.tile q.2.ctx) == 1 && y.task == some q.1)) = some (5, task5) ∧
     freeContext? h 1 = some 0 ∧ bufferFree h 1 = true ∧ nextAnd (exec (.migrationArrival 3) h) (fun u => (u.ctx 1 0).guest && (u.ctx 1 0).task == some 5 && (u.ctx 0 0).state == .dormant) = true) := by
  decide +kernel
/-- O57: every answer to an entry in flight, an injection, a backoff that expires, a power-gated tile. -/
theorem witness_answers :
    let e : SendEntry := { state := .inFlight, src := 1, seq := 9, out := [2], ctx := 0, task := some 5, sentAt := 1 }
    let s (k : PacketKind) (e : SendEntry) : State := let s : State := { fab { id := 3, kind := k, at_ := 0, dst := 0, src := 1, srcTile := 1, seq := 9, member := 2, report := 3 } with cycle := 21 }; s.setTile 0 { s.tile 0 with sends := [(4, e)] }
    answeredEntry? (s .ack e) { id := 3, at_ := 0, src := 1, seq := 9, member := 2 } = some (4, e) ∧
    nextAnd (exec (.ack 3) (s .ack e)) (fun u => (u.tile 0).sends == [] && (u.ctx 0 0).latency == 0x300000014) = true ∧
    nextAnd (exec (.nackBusy 3) (s .nackBusy e)) (fun u => (u.tile 0).sends.map (fun q => (q.2.state, q.2.pend, q.2.wakeAt)) == [(.backoff, [2], 85)]) = true ∧
    nextAnd (exec (.nackStale 3) (s .nackStale e)) (fun u => (u.tile 0).sends == [] && (u.ctx 0 0).dropped == 1) = true ∧
    nextAnd (exec (.nackBadhandler 3) (s .ack e)) (fun u => (u.ctx 0 0).dropped == 1) = true ∧
    nextAnd (exec (.nackNopath 3) (let s := s .ack { e with kind := 1 }; s.setCtx 0 0 { s.ctx 0 0 with state := .held })) (fun u => (u.ctx 0 0).state == .trapped && (u.tile 0).sends == []) = true ∧
    (injectable? (s .ack { e with state := .ready, pend := [2], out := [] }) (.tile 0)).isSome = true ∧
    nextAnd (exec (.injection 0) (s .ack { e with state := .ready, pend := [2], out := [] })) (fun u => u.packets.length == 2 && (u.tile 0).sends.map (fun q => q.2.out) == [[2]]) = true ∧
    nextAnd (exec (.backoffExpiry (.tile 0) 4) (s .ack { e with state := .backoff })) (fun u => (u.tile 0).sends.map (fun q => q.2.state) == [.ready]) = true ∧
    (let g := let s := fab { id := 3, at_ := 0, dst := 1, src := 1, seq := 9 }; s.setTile 0 { s.tile 0 with sends := [(4, e), (5, { e with seq := 8 })] }
     nextAnd (exec (.powerGated 0) g) (fun u => u.packets.map (fun q => q.poison) == [true] && (u.tile 0).sends.map Prod.fst == [5]) = true) := by decide +kernel
/-! ## Steps of residency and the islands -/

/-- A quiet tile in cluster 0 with this cluster state. -/
def drf (c : Cluster) : State := { quiet [] [] with clusters := [(0, c)] }
/-- O58: a reading; a rotation; the ends of Calming, Draining, Copying and Switching; a move abandoned; a stub released. -/
theorem witness_drift_steps :
    tilePresent (drf {}) 0 = true ∧ nextAnd (exec (.sensorReading 0 300) (drf {})) (fun u => (u.tile 0).temp == 300) = true ∧
    (let s : State := { drf {} with cycle := 6000000, tiles := [(1, { temp := 100 })] }
     rotationReady s 0 = true ∧ hottest s (clusterTiles s 0) = some 1 ∧ coolest s (clusterTiles s 0) = some 0 ∧
     nextAnd (exec (.rotation 0) s) (fun u => (u.cluster 0).drift == .calming && (u.cluster 0).driftS == 1 && (u.cluster 0).driftT == 0) = true) ∧
    (let s (p : DriftPhase) : State := { drf { drift := p, driftT := 1 } with cycle := 300000 }
     calmReady (s .calming) 0 = true ∧ (writeBackAll (s .calming) (moveContexts (s .calming) 0)).2 = true ∧
     nextAnd (exec (.calmingEnd 0) (s .calming)) (fun u => (u.cluster 0).drift == .draining && (u.router 0).stubs == [(1, 1)]) = true ∧
     waitPassed (s .calming) 0 = true ∧ nextAnd (exec (.moveAbandoned 0) (s .calming)) (fun u => u.cluster 0 == { drift := .idle, driftT := 1, drstat := 2 ^ 32 }) = true ∧
     drained (s .draining) 0 = true ∧ nextAnd (exec (.drainingEnd 0) (s .draining)) (fun u => (u.cluster 0).drift == .copying) = true ∧
     nextAnd (exec (.copyingEnd 0) (s .copying)) (fun u => (u.block? 1).map (fun b => (b.tile, b.index, b.moves)) == some (1, 0, 1) && (u.cluster 0).drift == .switching) = true ∧
     switched (s .switching) 0 = true ∧ nextAnd (exec (.switchingEnd 0) (s .switching)) (fun u => (u.cluster 0).drift == .idle && (u.cluster 0).drstat == 2 ^ 48) = true) ∧
    (let s := { drf {} with cycle := 4096 }.setRouter 0 { stubs := [(2, 1)] }
     stubIdle s 0 2 = true ∧ nextAnd (exec (.stubRelease 0 2) s) (fun u => (u.router 0).stubs == []) = true) := by decide +kernel
/-- O58: a reading that asks for a move, the same under the trip temperature passed, one that does not ask; a move whose contexts cannot be saved. -/
theorem witness_readings :
    let hot := (drf {}).setTile 0 { tile0 with thermal := true }
    let s (p : DriftPhase) : State :=
      let s : State := { drf { drift := p, driftT := 1 } with cycle := 300000 }
      s.setCtx 0 0 { s.ctx 0 0 with dirty := [2] }
    bitOf (({} : Cluster)).drctl 1 = true ∧ 4 * fld (({} : Cluster)).drctl 47 40 = 380 ∧
    nextAnd (exec (.sensorReading 0 400) (drf {})) (fun u => (u.tile 0).thermal && (u.cluster 0).drift == .calming && !u.due.contains .doze) = true ∧
    nextAnd (exec (.sensorReading 0 500) (drf {})) (fun u => (u.cluster 0).drift == .calming && u.due.contains .doze) = true ∧
    nextAnd (exec (.sensorReading 0 365) hot) (fun u => (u.tile 0).thermal && (u.cluster 0).drift == .idle) = true ∧
    nextAnd (exec (.sensorReading 0 500) hot) (fun u => (u.cluster 0).drift == .idle && u.due.contains .doze) = true ∧
    calmReady (s .calming) 0 = true ∧ drained (s .draining) 0 = true ∧ (writeBackAll (s .draining) (moveContexts (s .draining) 0)).2 = false ∧
    nextAnd (exec (.calmingEnd 0) (s .calming)) (fun u => (u.cluster 0).drift == .idle) = true ∧
    nextAnd (exec (.drainingEnd 0) (s .draining)) (fun u => (u.cluster 0).drift == .idle) = true := by decide +kernel
/-- O58: BACKSTOP with a task that is late, CLEARED with a block that has gone, what EVICTION needs, RESTORE and BLOCK_RESTORED, SLICE_END. -/
theorem witness_clearance_steps :
    (let s : State := { th regs0 with clearances := [(4, { clr1 with decisions := [⟨5, 1, 0, 0, .run, 0, 0⟩] })] }
     nextAnd (exec (.backstop 4) s) (fun u => (mget? u.clearances 4).any (fun x => x.decisions.map Decision.choice == [.runLate]) && (u.task? 5).map Task.phase == some .requeued) = true) ∧
    (let x : Clearance := { clr1 with blocks := [(1, 7)] }
     let s := clp [] [(4, x)]
     vacant s x = true ∧ nextAnd (exec (.cleared 4) s) (fun u => (mget? u.clearances 4).any (fun x => x.done) && (u.island 0).inFlight.length == 1) = true) ∧
    (let s : State := { quiet [] [] with clearances := [(4, clr1)] }
     evictable s 1 = true ∧ (settleBlock s 0 (blockContexts s 0 1)).isSome = true ∧ postingOf s 0 = some (4, clr1)) ∧
    (let b (f : Option Frozen) : Block := { block1 with evicted := f.isSome, frozen := f }
     let s (f : Option Frozen) : State := { quiet [] [] with blocks := [(1, b f)] }
     answers (exec (.restore 0 1) (s (some {}))) ((s (some {})).addDueOnce (.blockRestored 1)) = true ∧ nextAnd (exec (.restore 0 1) ((s none).setCluster 0 { restore := 2 ^ 63 })) (fun u => (u.cluster 0).restore == 0) = true ∧
     restoreTile (s (some {})) 1 (b (some {})) = some 0 ∧ clearing (s (some {})) 0 = false ∧ readSystem (s (some {})) 0 0 0 0 = some ([], s (some {})) ∧ objectRestores (s (some {})) (b (some {})) [] = false ∧
     answers (exec (.blockRestored 1) (s (some {}))) (restoreEnds (s (some {})) 0) = true) ∧
    (let s : State := drf { sltab := #v[0x8000000000000010, 0x8000100000000010, 0, 0, 0, 0, 0, 0] }
     let s : State := { s with ctxs := [] }
     sliceOver s 0 = true ∧ movingTile s 0 = false ∧ (sliceBoundary s 0 (tenantContexts s 0 0)).isSome = true ∧ keptCanCommit s [] = true ∧
     nextAnd (exec (.sliceEnd 0) s) (fun u => (u.tile 0).sliceCur == 1) = true) := by decide +kernel
/-- A block of tenant 4096, which has no tables, evicted with one byte in its eviction area. -/
def lost : Block := { block1 with tenant := 4096, evicted := true, frozen := some {}, sealed_ := [0] }
def lostIn : State := { quiet [] [] with blocks := [(1, lost)] }
/-- O58: an area that cannot be read back. -/
theorem witness_restore_fails : restoreTile lostIn 1 lost = some 0 ∧ clearing lostIn 0 = false ∧
    readSystem lostIn 0 4096 lost.area lost.sealed_.length = none := by decide +kernel
/-- Block 1, Evicted, its object in its eviction area, whose page the cluster's TLB holds. -/
def sealedBlock (h : List Byte) : Block := { block1 with evicted := true, frozen := some {}, sealed_ := h, area := 0x40000000 }
def areaPage : TlbEntry :=
  { tenant := 0, world := true, page := 0x40000000, size := 4096, out := 0x40000000, r := true, w := true, x := false, tp := false, kind := 2 }
def storedIn (h : List Byte) : State :=
  { boxed h with blocks := [(1, sealedBlock h)], clusters := [(0, { tlb := [areaPage] })] }
theorem stored_bytes (h : List Byte) (a n : Nat) (ha : a + n ≤ 96) :
    readPhys (storedIn h) (0x40000000 + a) n = (List.range n).map fun k => h.getD (a + k) 0 :=
  List.map_congr_left fun k hk => by
    have := List.mem_range.mp hk
    rw [show 0x40000000 + a + k = 0x40000000 + (a + k) by omega]
    exact boxed_byte (s := storedIn h) (h := h) ⟨rfl, rfl, rfl⟩ (a + k) (by omega)
theorem stored_read {h : List Byte} (hl : h.length = 96) :
    readSystem (storedIn h) 0 0 (sealedBlock h).area (sealedBlock h).sealed_.length = some (h, storedIn h) := by
  have h1 : ∀ va, 0x40000000 ≤ va → va < 0x40001000 → tileTranslate (storedIn h) 0 0 .image .read va = .ok (va, false, storedIn h) := by
    intro va h1 h2
    have hf : tlbFind? (storedIn h) 0 0 va = some areaPage := by simp [tlbFind?, storedIn, State.cluster, mget, mget?, areaPage, worldOf, h1]; omega
    have hv : tlbServes areaPage .image .read = true := by decide
    have hp : areaPage.out + (va - areaPage.page) = va := by simp only [areaPage]; omega
    have ht : areaPage.tp = false := rfl
    simp only [tileTranslate, hf, hv, if_true, hp, ht]
  have hs (s : Nat) (n : Nat) : meetAt (storedIn h) s n = storedIn h := by simp [meetAt, show soundLines (storedIn h) = true from rfl]
  have h2 := h1 0x40000000 (by omega) (by omega)
  have h3 := h1 0x40000040 (by omega) (by omega)
  have ha : (sealedBlock h).area = 0x40000000 := rfl
  have he : (sealedBlock h).sealed_ = h := rfl
  have hr : List.range ((96 + 63) / 64) = [0, 1] := by decide
  simp only [readSystem, ha, he, hl, hr, List.foldl_cons, List.foldl_nil]
  norm_num [h2, h3, hs]
  have b1 := stored_bytes h 0 64 (by omega)
  have b2 := stored_bytes h 64 32 (by omega)
  rw [show (1073741824 : Nat) = 0x40000000 + 0 by omega, show (1073741888 : Nat) = 0x40000000 + 64 by omega, b1, b2]
  apply List.ext_getElem
  · simp [hl]
  · intro k k1 k2
    simp only [List.getElem_append, List.getElem_map, List.getElem_range, List.length_map, List.length_range]
    split
    · simp [List.getD_eq_getElem?_getD, List.getElem?_eq_getElem k2]
    · next hk => simp [show 64 + (k - 64) = k by omega, List.getD_eq_getElem?_getD, List.getElem?_eq_getElem k2]
theorem stored_restores {h : List Byte} (ho : openObject 0 true 0 h = some ([], none)) : objectRestores (storedIn h) (sealedBlock h) h = true := by
  have e1 : (sealedBlock h).tenant = 0 := rfl
  have e2 : worldOf (storedIn h) 0 = true := rfl
  have e3 : (storedIn h).wafer.dstate = 0 := rfl
  have e4 : (sealedBlock h).sealed_ = h := rfl
  simp only [objectRestores, e1, e2, e3, e4, ho, beq_self_eq_true]
/-- O58: a block that is restored: its object is read back and opens. -/
theorem witness_restored : ∃ h, readSystem (storedIn h) 0 0 (sealedBlock h).area (sealedBlock h).sealed_.length = some (h, storedIn h) ∧
    objectRestores (storedIn h) (sealedBlock h) h = true ∧ restoreTile (storedIn h) 1 (sealedBlock h) = some 0 ∧ clearing (storedIn h) 0 = false := by
  have hl : (object0 0 []).length = 96 := by simp [object0, header0, hmacSm3, sm3_length, sealHeader, toBytes]
  have hr : ∀ h, restoreTile (storedIn h) 1 (sealedBlock h) = some 0 ∧ clearing (storedIn h) 0 = false := fun h => ⟨rfl, rfl⟩
  have h := object0_opens
  generalize object0 0 [] = o at hl h
  exact ⟨o, stored_read hl, stored_restores h, hr o⟩
/-- A record of tenant 0 with its queue of 16 records at 0x10000; tail one past the head when q. -/
def queued0 (q : Bool) : Map Nat (List Byte) := [(0, toBytes 64 (0x10000 * 2 ^ 256 + 4 * 2 ^ 352 + (if q then 2 ^ 336 else 0)))]
/-- O58: a record appended to its tenant's queue, a held one delivered, QEVENT, RSMCMD, an invalidation. -/
theorem witness_island_steps :
    let r : FaultRecord := { tenant := 0, kind := 1, work := 0, body := [9] }
    let s (x : Island) : State := { (withImage (th regs0)).setIsland 0 { x with records := queued0 false } with cores := (co regs0).cores }
    queueRoom (s {}) 0 0 = true ∧ queuePlace (s {}) 0 0 = some [(0x10000, 64)] ∧
    nextAnd (exec (.faultQueueAppend 0) (s { inFlight := [r] })) (fun u => queueTail (agentRecord u 0 0) == 1 && readPhys u 0x10000 9 == [1, 0, 0, 0, 0, 0, 0, 0, 9]) = true ∧
    heldReady (s { held := [r] }) 0 = true ∧ nextAnd (exec (.heldRecordDelivery 0) (s { held := [r] })) (fun u => (u.island 0).held == [] && queueTail (agentRecord u 0 0) == 1) = true ∧
    (let c := (coreWith (co regs0) fun c => { c with cstatus := 0x10 }).setIsland 0 { records := queued0 true }
     queueEmpty c 0 0 = false ∧ qeventReady c 0 0 = some 0 ∧ nextAnd (exec (.qevent 0 0) c) (fun u => (u.core 0 0).ecause == 0xA23 && (u.core 0 0).einfo == 1) = true) ∧
    (let c := coreWith (co regs0) fun c => { c with rsmtgt := 0x3000001 }
     resumePacket 0 (fromViewHandle c 0 1) 3 0 0 = some (.resume 0 1 3) ∧ nextAnd (exec (.rsmcmd 0 0 0) c) (fun u => u.due == [.resume 0 1 3]) = true) ∧
    (let c : State := { co regs0 with invals := [(3, ((0, 0), .code 0x0))], tiles := [(0, tile0)] }
     nextAnd (exec (.tlbInvalidation 3) c) (fun u => u.invals == [] && (u.tile 0).icache == []) = true) := by decide +kernel
/-! ## Steps of trust, the edge and the host -/

/-- Partition 1's pages 2 (its one table, which points at itself and ends in a 1 GiB leaf at address 0) and 3 (data), both exported; its record
and last-level leaf at island 0; virtual function 0 bound to it. -/
def hosted : State :=
  let line : LineMeta := { z := false, key := { owner := 1 } }
  { co regs0 with
    mem := [(0x100A, 1), (0x100B, 0xB0), (0x100E, 1), (0x100F, 0x90), (0x1806, 0xC0), (0x1807, 0xFF), (0x2000, 1), (0x2001, 0x20), (0x2800, 0xF),
      (0x3000, 5), (0x3001, 6)]
    lines := [(0x200, line), (0x280, line), (0x300, line)], vfs := [(0, 4096)]
    islands := [(0, { records := [(1, toBytes 64 (0x2000 + 0x2000 * 2 ^ 128 + 4096 * 2 ^ 416 + 2 ^ 447))], lltlb := [(1, 0, 0x1F)] })]
    wafer := { power := .run, ready := true, potbase := 0x1000, exptbase := 0x1800 } }
/-- O59: a walk of stage 1 and the last-level TLB under a host read and a write; a physical function refused; DBELL; an access of module 3. -/
theorem witness_host :
    let say (o : Host.Outcome State Fault Refusal) (l : List HostReply) : Bool := nextAnd o fun u => u.replies == l
    hostWindow hosted 0 0x3000 2 false = some [(0x3000, 2)] ∧ say (exec (.cxlMemRead 0 0x3000 2) hosted) [{ fn := 0, code := 0, bytes := [5, 6] }] = true ∧
    hostWindow hosted 128 0x3000 2 false = none ∧ say (exec (.cxlMemRead 128 0x3000 2) hosted) [{ fn := 128, code := 1, bytes := [] }] = true ∧
    hostWindow hosted 0 0x3000 1 true = some [(0x3000, 1)] ∧ rekeyBlocked hosted 0x3000 = false ∧ nextAnd (exec (.cxlMemWrite 0 0x3000 [9]) hosted) (fun u => readPhys u 0x3000 2 == [9, 6]) = true ∧
    hostWindow hosted 1 0 1 true = none ∧ answers (exec (.cxlMemWrite 1 0 [9]) hosted) hosted = true ∧
    nextAnd (exec (.dbell 0 7) hosted) (fun u => (u.island 0).inFlight.map (fun r => (r.tenant, r.kind)) == [(4096, (eventRecord 0 5 []).kind)]) = true ∧
    say (exec (.cxlMemRead 0 (2 ^ 40) 9) hosted) [{ fn := 0, code := 0, bytes := [0, 0, 0, 0, 0, 0, 0, 0x80, 0] }] = true ∧
    say (exec (.cxlMemRead 0 (2 ^ 40 + 65535) 1) hosted) [{ fn := 0, code := 0, bytes := [0] }] = true ∧
    answers (exec (.dbell 0 7) State.reset) State.reset = true ∧ State.reset.wafer.ready = false ∧
    exportAllows hosted 3 0x3000 = true ∧ exportAllows hosted 3 0x2000 = false ∧ say (exec (.apertureAccess 3 0x2000 false [0]) hosted) [{ fn := 259, code := 2, bytes := [] }] = true ∧
    say (exec (.apertureAccess 3 0x3000 false [0, 0]) hosted) [{ fn := 259, code := 0, bytes := [5, 6] }] = true ∧
    nextAnd (exec (.apertureAccess 3 0x3000 true [9]) hosted) (fun u => readPhys u 0x3000 2 == [9, 6]) = true := by decide +kernel
/-- O59: MKERN locked and not, a control-space write out of reach, a sweep begun and one to complete with another of its region due. -/
theorem witness_edge_steps :
    answers (exec (.mext 5) { co regs0 with wafer := { mlock := true } }) { co regs0 with wafer := { mlock := true } } = true ∧ (co regs0).wafer.mlock = false ∧
    controlReach (co regs0) 4096 (controlAt 0xF000000000000) = false ∧ answers (exec (.controlSpaceWrite 4096 0xF000000000000 8 1) (co regs0)) (co regs0) = true ∧
    nextAnd (exec (.regionRekey 2 1) (co regs0)) (fun u => u.wafer.sweeps == [{ region := 2, epoch := true }] && u.due == [.sweepComplete 2]) = true ∧
    (let w : Sweep := { region := 2, epoch := true, swept := true }
     ({ co regs0 with wafer := { sweeps := [w] } } : State).wafer.sweeps.find? (fun w => w.region == 2) = some w ∧
     nextAnd (exec (.sweepComplete 2) { co regs0 with wafer := { sweeps := [w, { w with epoch := false }] } })
       (fun u => u.wafer.sweeps == [{ w with epoch := false }] && u.due.contains (.sweepComplete 2)) = true) := by decide +kernel
/-- O59: the reserve tier. -/
theorem witness_reserve :
    (let s (x : Edge) := (writePhys (co regs0) 0x40 [7]).setEdge 0 x
     let r : Reserve := { object := [] }
     nextAnd (exec (.checkpoint 0 0) (s { slot0 := 2 ^ 63 })) (fun u => u.edge 0 == { ecstat := 4, op := some (0, false) } && u.due == [.checkpointComplete 0]) = true ∧
     nextAnd (exec (.checkpointComplete 0) (s { op := some (0, false) })) (fun u => (u.edge 0).store0.isSome && bitOf (u.edge 0).slot0 63 && (u.edge 0).ecstat == 8) = true ∧
     nextAnd (exec (.slotRestore 0 0) (s {})) (fun u => (u.edge 0).op == some (0, true)) = true ∧
     nextAnd (exec (.restoreComplete 0) (s { op := some (0, true) })) (fun u => (u.edge 0).ecstat == 12) = true ∧
     slotStore { op := some (0, true), store0 := some r, slot0 := 2 ^ 63 } 0 = some r ∧ bitOf (2 ^ 63) 63 = true ∧ openObject 0 (worldOf (s {}) 0) 0 [] = none ∧
     nextAnd (exec (.restoreComplete 0) (s { op := some (0, true), store0 := some r, slot0 := 2 ^ 63 })) (fun u => (u.edge 0).ecstat == 12) = true ∧
     nextAnd (exec (.erase 0 0) (s { slot0 := 2 ^ 63, store0 := some r })) (fun u => u.edge 0 == {}) = true) := by decide +kernel
/-- A core on a module whose slot 0 of edge position 0 holds an object, a restore of it under way. -/
def restoring (o : List Byte) : State := { co regs0 with edges := [(0, { op := some (0, true), store0 := some { object := o }, slot0 := 0x8000000000000000 })] }
/-- O59: a slot whose object opens, and one whose first chunk has a bad MAC; an uncorrectable error met by the checkpoint. -/
theorem witness_slot_restores :
    (∃ o b, openObject 0 (worldOf (restoring o) 0) (restoring o).wafer.dstate o = some (b, none)) ∧
    (∃ o b i, openObject 0 (worldOf (restoring o) 0) (restoring o).wafer.dstate o = some (b, some i)) ∧
    (∀ o, bitOf (slotWord ((restoring o).edge 0) 0) 63 = true ∧ slotStore ((restoring o).edge 0) 0 = some { object := o } ∧ ((restoring o).edge 0).op = some (0, true)) ∧
    inEmm 0 0x40 = true ∧ ((meetEmm (erring (writePhys (co regs0) 0x40 [7]) 0x40 2) 0).meta_ 0x40).poisoned = true := by
  obtain ⟨r, hr⟩ := object0_bad
  exact ⟨⟨_, _, object0_opens⟩, ⟨_, _, _, hr⟩, fun o => ⟨by show bitOf 0x8000000000000000 63 = true; decide, rfl, rfl⟩, by decide +kernel, by decide +kernel⟩
/-- O59: a sweep of block 1's scratchpad. -/
theorem witness_scratch_sweep :
    let w : Sweep := { region := edgeEnd / 2 ^ 21 + 1, epoch := true }
    let s : State := { th regs0 with wafer := { power := .run, ready := true, sweeps := [w] } }
    (s.block? (w.region - edgeEnd / 2 ^ 21)).isSome = true ∧ block1.evicted = false ∧
    nextAnd (exec (.sweepComplete w.region) s) (fun u => u.wafer.sweeps == [] && (u.cluster 0).placement == (s.cluster 0).placement + 1) = true := by decide +kernel
/-- A collective of one FP32 element at 0x80, its result at 0xC0; the descriptor bytes. -/
def collDesc : List Byte := toBytes 64 (1 + 3 * 2 ^ 16 + 7 * 2 ^ 32 + 0x80 * 2 ^ 64 + 0xC0 * 2 ^ 128 + 0xC0 * 2 ^ 192)
/-- Collective 7 under way, CKGEN g. -/
def colling (g : Nat) (m : Word) : State :=
  let s := writePhys (co regs0) 0x100 [2]
  { s with wafer := { s.wafer with members := m, colltmo := 10, colls := [{ tag := 7, desc := collDesc, contrib := [0, 0, 0, 0], kgen := g, started := 0, mac := [] }] }, cycle := 9 }
/-- O59: a malformed descriptor and a good one; a domain with no other member; before and at the timeout; the link down. -/
theorem witness_collectives :
    collOk (readPhys (writePhys (co regs0) 0x40 (toBytes 64 (0x200 * 2 ^ 192))) 0x40 64) = false ∧
    nextAnd (exec (.collpost 0x40) (writePhys (co regs0) 0x40 (toBytes 64 (0x200 * 2 ^ 192)))) (fun u => readPhys u 0x200 8 == toBytes 8 0x8000000000000001) = true ∧
    (let s := writePhys (co regs0) 0x40 collDesc
     collOk (readPhys s 0x40 64) = true ∧ nextAnd (exec (.collpost 0x40) s) (fun u => u.wafer.colls.map Collective.tag == [7] && u.due == [.collectiveResult 7, .timeout 7]) = true) ∧
    (collective? (colling 0 0x200) 7).isSome = true ∧ otherMembers (colling 0 0x200) = [] ∧ keysAgree (colling 0 0x200) { tag := 7, desc := collDesc, contrib := [0, 0, 0, 0], kgen := 0, started := 0, mac := [] } = true ∧
    nextAnd (exec (.collectiveResult 7) (colling 0 0x200)) (fun u => u.wafer.colls == []) = true ∧
    answers (exec (.timeout 7) (colling 0 0x200)) ((colling 0 0x200).addDueOnce (.timeout 7)) = true ∧
    (let late : State := { colling 0 0x200 with cycle := 10 }
     0 + late.wafer.colltmo.toNat ≤ late.cycle ∧ answers (exec (.collectiveResult 7) late) late = true ∧
     nextAnd (exec (.timeout 7) late) (fun u => u.wafer.colls == [] && readPhys u 0xC0 8 == toBytes 8 0x800000000000000B) = true) ∧
    nextAnd (exec (.linkdown 7) (colling 0 0x200)) (fun u => u.wafer.colls == [] && readPhys u 0xC0 8 == toBytes 8 0x800000000000000A) = true := by decide +kernel
/-- O59: module 1 is a member and answers under another key generation. -/
theorem witness_other_generation (x : Collective) (h : x.tag = 7) (hk : x.kgen = otherKgen (co regs0) 7 1 + 1) :
    keysAgree (colling x.kgen 0x100) x = false := by
  have h1 : 1 ∈ otherMembers (colling x.kgen 0x100) := by
    have : ∀ g, otherMembers (colling g 0x100) = otherMembers (colling 0 0x100) := fun _ => rfl
    rw [this]
    decide +kernel
  have h2 : otherKgen (colling x.kgen 0x100) 7 1 = otherKgen (co regs0) 7 1 := rfl
  have h3 : (otherKgen (colling x.kgen 0x100) x.tag 1 == x.kgen) = false := by
    rw [h, h2, hk]
    simp
  exact List.all_eq_false.mpr ⟨1, h1, by rw [h3]; simp⟩
/-- Collective 7 with this TYPE, module 1 the one other member. -/
def typed (b : Byte) : State :=
  let s := colling 0 0x100
  { s with wafer := { s.wafer with colls := [{ tag := 7, desc := [1, 0, b] ++ collDesc.drop 3, contrib := [0, 0, 0, 0], kgen := otherKgen s 7 1 + 1, started := 0, mac := [] }] } }
theorem members_of_colls (s : State) (l : List Collective) : otherMembers { s with wafer := { s.wafer with colls := l } } = otherMembers s := rfl
theorem one_member : otherMembers (colling 0 0x100) = [1] := by decide +kernel
theorem typed_members (b : Byte) : otherMembers (typed b) = [1] := (members_of_colls _ _).trans one_member
theorem typed_type : ∀ b : Byte, recFld ([1, 0, b] ++ collDesc.drop 3) 23 16 = b.toNat := by decide +kernel
/-- O59: the other module posts the same TYPE under another key generation, or another TYPE. -/
theorem witness_other_type :
    (∃ b x, collective? (typed b) 7 = some x ∧ (∀ m ∈ otherMembers (typed b), otherType (typed b) 7 m = recFld x.desc 23 16) ∧
      keysAgree (typed b) x = false) ∧
    (∃ b x, collective? (typed b) 7 = some x ∧ otherMembers (typed b) ≠ [] ∧
      ∃ ty, ty ≠ recFld x.desc 23 16 ∧ ∀ m ∈ otherMembers (typed b), otherType (typed b) 7 m = ty) := by
  refine ⟨⟨Config.contribution 1 7 260 0, _, rfl, ?_, List.all_eq_false.mpr ⟨1, ?_, ?_⟩⟩, ⟨Config.contribution 1 7 260 0 + 1, _, rfl, ?_, otherType (typed 0) 7 1, ?_, ?_⟩⟩ <;>
    simp only [typed_members, typed_type, List.mem_singleton, forall_eq, ne_eq, List.cons_ne_nil, not_false_eq_true]
  · rfl
  · have h2 : otherKgen (typed (Config.contribution 1 7 260 0)) 7 1 = otherKgen (colling 0 0x100) 7 1 := rfl
    simp [h2]
  · show ¬ (Config.contribution 1 7 260 0).toNat = (Config.contribution 1 7 260 0 + 1).toNat
    intro h
    have h := BitVec.eq_of_toNat_eq h
    revert h
    generalize Config.contribution 1 7 260 0 = b
    revert b
    decide +kernel
  · rfl
/-- O60: Doze, its end, power with a good and a bad image, each later stage, power off. -/
theorem witness_power :
    let w (x : Wafer) : State := { co regs0 with wafer := x }
    let at_ (k : Nat) := w { power := .boot, stage := k }
    dozeReady (co regs0) = true ∧ nextAnd (exec .doze (co regs0)) (fun u => u.wafer.power == .doze && u.wafer.pwrctl == 1) = true ∧
    nextAnd (exec .run (w { power := .doze, pwrctl := 1 })) (fun u => u.wafer.power == .run && u.wafer.pwrctl == 0) = true ∧
    nextAnd (exec .powerApplied (w {})) (fun u => u.wafer.stage == 1 && u.wafer.error == 0 && u.due == [.selfCalibration 0]) = true ∧
    nextAnd (exec .powerApplied (w { boot := { signed := false } })) (fun u => u.wafer.error == 2) = true ∧
    stageDue (at_ 1) 2 = true ∧ nextAnd (exec (.selfCalibration 0) (at_ 1)) (fun u => u.wafer.stage == 2 && u.due.contains (.selfTest [])) = true ∧
    nextAnd (exec (.selfCalibration 3) (at_ 1)) (fun u => u.wafer.error == 3) = true ∧
    stageDue (at_ 2) 3 = true ∧ nextAnd (exec (.selfTest [33]) (at_ 2)) (fun u => u.wafer.stage == 3 && u.wafer.retiredSites == [(0, 1, 1)]) = true ∧
    stageDue (at_ 3) 4 = true ∧ nextAnd (exec (.routerTableWrite []) (at_ 3)) (fun u => u.wafer.stage == 4 && u.due.contains (.initialisation 0)) = true ∧
    stageDue (at_ 4) 5 = true ∧ nextAnd (exec (.initialisation 0) (at_ 4)) (fun u => u.wafer.stage == 5 && u.wafer.ready && u.wafer.power == .run) = true ∧
    nextAnd (exec (.initialisation 5) (at_ 4)) (fun u => u.wafer.error == 5 && !u.wafer.ready) = true ∧
    nextAnd (exec .powerOff (w { power := .run, ready := true, fuses := [(true, true)] })) (fun u => u.wafer.fuses == [(true, true)] && u.wafer.power == .off) = true := by
  decide +kernel

/-- O60: a pair left half blown by a power failure, completed before the image is checked, and one that cannot be blown; an image older than ARBCNT;
an image that asks for two pairs, its fuses blown one a step, A before B; one of them dead. -/
theorem witness_fuses :
    let w (x : Wafer) : State := { co regs0 with wafer := x }
    let half : List (Bool × Bool) := [(true, true), (true, false)]
    let two : List (Bool × Bool) := [(true, true), (true, true)]
    let asks : BootImage := { version := 2, minimum := 2 }
    let rom (x : Wafer) : State := w { x with power := .boot }
    let fuses (o : Host.Outcome State Fault Refusal) (l : List (Bool × Bool)) (a : Bool) : Bool :=
      nextAnd o fun u => u.wafer.fuses.take 2 == l && u.wafer.accepted == a && u.wafer.stage == 0 && u.due == [.powerApplied]
    unblown? half 2 = some (1, true) ∧ unblown? two 2 = none ∧ unblown? [] 2 = some (0, false) ∧ arbCount (w { fuses := half }) = 2 ∧
    fuses (exec .powerApplied (w { fuses := half })) two false = true ∧
    nextAnd (exec .powerApplied (w { fuses := half, deadFuses := [3] })) (fun u => u.wafer.error == 1 && u.wafer.stage == 1) = true ∧
    nextAnd (exec .powerApplied (rom { fuses := two })) (fun u => u.wafer.error == 2 && u.wafer.stage == 1) = true ∧
    fuses (exec .powerApplied (w { boot := asks })) [(true, false), (false, false)] true = true ∧
    fuses (exec .powerApplied (rom { boot := asks, fuses := half, accepted := true })) two true = true ∧
    nextAnd (exec .powerApplied (rom { boot := asks, accepted := true, deadFuses := [0] })) (fun u => u.wafer.error == 1) = true ∧
    nextAnd (exec .powerApplied (rom { boot := asks, fuses := two, accepted := true })) (fun u => u.wafer.error == 0 && u.wafer.stage == 1) = true := by
  decide +kernel
/-- O60: a retirement record with its MAC, and with another. -/
theorem witness_record : (∃ w : Wafer, recordMac w = w.retireMac) ∧ ∃ w : Wafer, recordMac w ≠ w.retireMac := by
  have h (m : List Byte) : recordMac { retireMac := m } = recordMac {} := rfl
  have hl : (recordMac {}).length = 32 := sm3_length _
  refine ⟨⟨{ retireMac := recordMac {} }, h _⟩, ⟨{ retireMac := [] }, fun e => ?_⟩⟩
  rw [← h [], e] at hl
  exact absurd hl (by decide)
end Sys2Proof.Tests
end

section
/-! PROOFS, scope: a field or a bit of a double after it is written (R12), and the control registers (R13, R132, Table 5.1). -/

namespace Sys2Proof.Machine

/-! ## Fields and bits of a double -/

/-- A number's w bits from bit lo exchanged for v: the parts above and below them, put together with v. -/
theorem field_replaced (n lo w v : Nat) :
    n - n / 2 ^ lo % 2 ^ w * 2 ^ lo + v * 2 ^ lo = 2 ^ lo * (2 ^ w * (n / 2 ^ lo / 2 ^ w) + v) + n % 2 ^ lo := by
  have h := Nat.div_add_mod n (2 ^ lo)
  have h' := Nat.div_add_mod (n / 2 ^ lo) (2 ^ w)
  generalize n / 2 ^ lo / 2 ^ w = top at *
  generalize n / 2 ^ lo % 2 ^ w = mid at *
  rw [← h'] at h
  rw [Nat.mul_comm mid, Nat.mul_comm v, Nat.mul_add]
  rw [Nat.mul_add] at h
  omega

/-- A field written: its bits are the value's, the others stay. -/
theorem bitOf_setFld (x : Word) {hi lo : Nat} (v j : Nat) (h : lo ≤ hi) :
    bitOf (setFld x hi lo v) j = if lo ≤ j ∧ j ≤ hi then decide (j < 64) && v.testBit (j - lo) else bitOf x j := by
  have hlow : x.toNat % 2 ^ lo < 2 ^ lo := Nat.mod_lt _ (Nat.two_pow_pos _)
  have hmid : v % 2 ^ (hi + 1 - lo) < 2 ^ (hi + 1 - lo) := Nat.mod_lt _ (Nat.two_pow_pos _)
  have hbit : bitOf x j = (decide (j < 64) && x.toNat.testBit j) := by
    rw [bitOf, ← BitVec.getLsbD_ofNat, BitVec.ofNat_toNat, BitVec.setWidth_eq]
  rw [hbit]
  simp only [bitOf, setFld, fld, fieldN, field_replaced, BitVec.getLsbD_ofNat, Nat.testBit_two_pow_mul_add _ hlow,
    Nat.testBit_two_pow_mul_add _ hmid, Nat.testBit_mod_two_pow, Nat.testBit_div_two_pow]
  by_cases h1 : j < lo
  · simp [h1, show ¬ lo ≤ j by omega]
  · by_cases h2 : j ≤ hi
    · simp [h1, h2, show lo ≤ j by omega, show j - lo < hi + 1 - lo by omega]
    · simp [h1, h2, show ¬ j - lo < hi + 1 - lo by omega, show j - lo - (hi + 1 - lo) + (hi + 1 - lo) + lo = j by omega]

/-- A bit written reads as written, the others stay. -/
theorem bitOf_setBit (x : Word) {k : Nat} (b : Bool) (j : Nat) (h : k < 64) : bitOf (setBit x k b) j = if j = k then b else bitOf x j := by
  rw [setBit, bitOf_setFld x _ _ (le_refl k)]
  by_cases hj : j = k
  · subst hj; cases b <;> simp [h, boolNat]
  · simp [hj, show ¬ (k ≤ j ∧ j ≤ k) by omega]

/-- A W1C write clears the bits of the mask that the value sets. -/
theorem bitOf_w1c (old v mask : Word) (k : Nat) : bitOf (w1c old v mask) k = (bitOf old k && !(bitOf v k && bitOf mask k)) := by
  by_cases h : k < 64
  · simp [bitOf, w1c, h]
  · simp [bitOf, w1c, BitVec.getLsbD_of_ge old k (by omega)]

/-! ## wrc (R132, R157) -/

/-- Table 5.2: what wrc makes of STATUS, bit by bit. -/
theorem bitOf_statusWrite (old v : Word) (k : Nat) : bitOf (statusWrite old v) k =
    if k = 8 then bitOf v 8 else if k = 15 then bitOf old 15 && !bitOf v 15 else bitOf old k := by
  unfold statusWrite
  dsimp only
  split
  next h =>
    rw [bitOf_setBit _ _ _ (by decide), bitOf_setBit _ _ _ (by decide), h]
    grind
  next h =>
    rw [bitOf_setBit _ _ _ (by decide)]
    grind

/-- Without a matrix operation of the thread no control register is busy. -/
theorem ctlBusy_of_idle {s : State} {t c : Nat} (h : ∀ o ∈ (s.tile t).matq, o.ctx ≠ c) (n : Nat) : ctlBusy s t c n = false := by
  rw [ctlBusy, List.any_eq_false]
  intro o ho
  simp [h o ho]

theorem exec_wrc (a : Reg) (n : BitVec 16) (s : State) : exec (.wrc a n) s = runInstr profBoth s (wrcBody a n.toNat) := rfl

/-- wrc on a thread for which the number is not busy writes what ctlWrite says. -/
theorem exec_wrc_written {s : State} {t c : Nat} (hc : s.cur = .thread t c) (a : Reg) (n : BitVec 16) (hb : ctlBusy s t c n.toNat = false)
    {r : Regs} {d : List Nat} (h : ctlWrite s.regs n.toNat (s.getG a) = some (r, d)) : exec (.wrc a n) s = .next (s.setRegs d r).retire :=
  runInstr_ok (profBoth_allows _ (by simp [hc])) (by simp [wrcBody, hc, hb, h])

/-- And traps ILLEGALOP for a number that ctlWrite does not know. -/
theorem exec_wrc_unassigned {s : State} {t c : Nat} (hc : s.cur = .thread t c) (a : Reg) (n : BitVec 16) (hb : ctlBusy s t c n.toNat = false)
    (h : ctlWrite s.regs n.toNat (s.getG a) = none) : exec (.wrc a n) s = .next (raise s (illegalOp s)) := by
  rw [exec_wrc, runInstr_error (st := .trap (illegalOp s)) (profBoth_allows _ (by simp [hc])) (by simp [wrcBody, hc, hb, h])]
  simp

/-- The read-only numbers of Table 5.1. -/
theorem ctlWrite_readOnly (r : Regs) (v : Word) :
    ∀ n ∈ [1, 2, 3, 8, 10, 11, 14, 15, 16, 17, 18, 19, 24, 25, 26, 27, 28, 29, 30, 31], ctlWrite r n v = some (r, []) := by
  simp [ctlWrite]

/-- The numbers that Table 5.1 does not assign. -/
theorem ctlWrite_unassigned (r : Regs) (v : Word) {n : Nat} (h : (20 ≤ n ∧ n < 24) ∨ 32 ≤ n) : ctlWrite r n v = none := by
  unfold ctlWrite
  split
  case h_9 => exact if_neg (by omega)
  all_goals omega

end Sys2Proof.Machine

namespace Sys2Proof.Proofs
open Sys2Proof.Machine

/-- Settles O9: every part of the reset state is an empty list or a record of default fields (R15, R538). -/
theorem resetState : Obligations.ResetState := by
  unfold Obligations.ResetState
  have hcluster : ∀ n, State.reset.cluster n = {} := fun _ => rfl
  have hregs : ∀ a, State.reset.regsOf a = {} := fun a => by cases a <;> rfl
  refine ⟨rfl, rfl, rfl, rfl, fun _ _ => ⟨rfl, rfl⟩, fun _ _ => rfl, fun _ => rfl, fun _ => rfl, fun _ => rfl,
    fun n => ?_, rfl, fun a => ?_⟩
  · rw [hcluster]; decide
  · rw [hregs]; exact ⟨rfl, rfl, fun r => Vector.getElem_replicate _⟩

/-- Settles O22: what ctlWrite gives for each number, with no matrix operation of the thread to wait for. -/
theorem controlRegisterWrites : Obligations.ControlRegisterWrites := by
  unfold Obligations.ControlRegisterWrites
  intro s t c a hc hidle
  have written {n : BitVec 16} {r : Regs} {d : List Nat} := exec_wrc_written (r := r) (d := d) hc a n (ctlBusy_of_idle hidle _)
  refine ⟨⟨_, written rfl, ?_, ?_, fun k h8 h15 => ?_⟩, ⟨_, written rfl, bitOf_w1c _ _ _⟩, ⟨_, written rfl, bitOf_w1c _ _ _⟩,
    written rfl, written rfl, written rfl, written rfl, written rfl,
    fun n hn => written (ctlWrite_readOnly _ _ _ hn),
    fun n hn => exec_wrc_unassigned hc a n (ctlBusy_of_idle hidle _) (ctlWrite_unassigned _ _ hn)⟩
  · simp [bitOf_statusWrite]
  · simp [bitOf_statusWrite]
  · simp [bitOf_statusWrite, h8, h15]

end Sys2Proof.Proofs
end

section
/-! PROOFS, scope: bytes of memory after a write, what the plaintext of a byte rests on (R185 to R187), and an island core's accesses at physical
addresses (R35, R172, R194). -/

namespace Sys2Proof.Machine

/-! ## Bytes after a write -/

/-- A byte that is not written stays. -/
theorem memRead_memWrites_outside (bs : List Byte) : ∀ (m : List Host.Cell) (a q : Nat), q < a ∨ a + bs.length ≤ q →
    memRead (memWrites m a bs) q = memRead m q := by
  induction bs with
  | nil => intro m a q _; rfl
  | cons v r ih =>
    intro m a q h
    rw [List.length_cons] at h
    rw [memWrites, ih _ _ _ (by omega), memRead_memWrite_other _ _ _ _ (by omega)]

/-- A byte that is written reads as written, in canonical memory. -/
theorem memRead_memWrites_inside (bs : List Byte) : ∀ (m : List Host.Cell) (a i : Nat), Memory.wf m = true → i < bs.length →
    memRead (memWrites m a bs) (a + i) = bs.getD i 0 := by
  induction bs with
  | nil => intro m a i _ h; simp at h
  | cons v r ih =>
    intro m a i hm h
    rw [memWrites]
    cases i with
    | zero => rw [memRead_memWrites_outside _ _ _ _ (by omega), Nat.add_zero, memRead_memWrite_same _ _ _ hm, List.getD_cons_zero]
    | succ i =>
      rw [List.length_cons] at h
      rw [show a + (i + 1) = a + 1 + i by omega, ih _ _ _ (memWrite_wf _ _ _ hm) (by omega), List.getD_cons_succ]

theorem rawLe_congr {s u : State} : ∀ (n x : Nat), (∀ i < n, rawByte u (x + i) = rawByte s (x + i)) → rawLe u x n = rawLe s x n := by
  intro n
  induction n with
  | zero => intro x _; rfl
  | succ n ih =>
    intro x h
    have htail := ih (x + 1) fun i hi => by rw [show x + 1 + i = x + (i + 1) by omega]; exact h (i + 1) (by omega)
    rw [rawLe, rawLe, htail, show rawByte u x = rawByte s x from h 0 (by omega)]

/-! ## What the plaintext of a byte rests on -/

/-- Edge memory lies below the apertures. -/
theorem inAperture_edge {pa : Nat} (h : pa < edgeEnd) : inAperture pa = false := by
  unfold edgeEnd at h
  simp only [inAperture, Bool.and_eq_false_iff, decide_eq_false_iff_not]
  omega
/-- So does the line of an edge address. -/
theorem edge_line {pa q : Nat} (h : pa < edgeEnd) (hq : q / 16 = pa / 16) : q < edgeEnd := by
  unfold edgeEnd at *
  omega

/-- Two states in which the keys and the aperture rest on the same words: the table bases, the debug state and the cycle, the owners of
scratchpads, their blocks and worlds (R185, R504, R535). -/
structure KeysAlike (s u : State) : Prop where
  wafer : u.wafer = s.wafer
  cycle : u.cycle = s.cycle
  blocks : u.blocks = s.blocks
  tenants : u.tenants = s.tenants
  allocs : ∀ t, (u.tile t).allocs = (s.tile t).allocs

/-- Do two states hold the same stored byte and side bits at an address. -/
def SameAt (s u : State) (q : Nat) : Prop := u.meta_ q = s.meta_ q ∧ memRead u.mem q = memRead s.mem q

theorem SameAt.rawByte {s u : State} {q : Nat} (h : SameAt s u q) : rawByte u q = rawByte s q := by
  rw [Machine.rawByte, Machine.rawByte, h.1, h.2]

/-- An allocation's owner is read off the allocations. -/
theorem KeysAlike.spadOwner {s u : State} (h : KeysAlike s u) (q : Nat) : spadOwner u q = spadOwner s q := by
  simp only [Machine.spadOwner, h.allocs]

/-- A word of the tables that decide an address's key and aperture entry, when their bytes are the same. -/
theorem rawLe_table {s u : State} {q base len : Nat} (hsame : ∀ x ∈ Stated.tableBytes s q, SameAt s u x)
    (h : ∀ i < len, base + i ∈ Stated.tableBytes s q) : rawLe u base len = rawLe s base len :=
  rawLe_congr len base fun i hi => (hsame _ (h i hi)).rawByte

theorem potEntry_congr {s u : State} {q : Nat} (h : KeysAlike s u) (hsame : ∀ x ∈ Stated.tableBytes s q, SameAt s u x) :
    potEntry u q = potEntry s q := by
  rw [potEntry, potEntry, h.wafer]
  refine rawLe_table hsame fun i hi => ?_
  simp only [Stated.tableBytes, List.mem_append, List.mem_map, List.mem_range]
  exact .inl (.inl ⟨i, hi, rfl⟩)

theorem apertureEntry_congr {s u : State} {q : Nat} (h : KeysAlike s u) (hsame : ∀ x ∈ Stated.tableBytes s q, SameAt s u x) :
    apertureEntry u q = apertureEntry s q := by
  rw [apertureEntry, apertureEntry, h.wafer]
  refine rawLe_table hsame fun i hi => ?_
  simp only [Stated.tableBytes, List.mem_append, List.mem_map, List.mem_range]
  exact .inr ⟨i, hi, rfl⟩

theorem generation_congr {s u : State} {q : Nat} (hsame : ∀ x ∈ Stated.tableBytes s q, SameAt s u x) (ep : Bool) :
    rawLe u (s.wafer.rgtbase.toNat + 8 * (q / 2 ^ 21) + (if ep then 4 else 0)) 4 =
      rawLe s (s.wafer.rgtbase.toNat + 8 * (q / 2 ^ 21) + (if ep then 4 else 0)) 4 := by
  refine rawLe_table hsame fun i hi => ?_
  simp only [Stated.tableBytes, List.mem_append, List.mem_map, List.mem_range]
  refine .inl (.inr ⟨(if ep then 4 else 0) + i, by split <;> omega, by omega⟩)

/-- The key of an address rests on its table bytes and on what KeysAlike names. -/
theorem keyAt_congr {s u : State} {q : Nat} (h : KeysAlike s u) (hsame : ∀ x ∈ Stated.tableBytes s q, SameAt s u x) (ep : Bool) :
    keyAt u q ep = keyAt s q ep := by
  have hworld : worldOf u = worldOf s := by funext t; simp only [worldOf, State.tenant, h.tenants]
  have hblock : u.block? = s.block? := by funext b; simp only [State.block?, h.blocks]
  rw [keyAt, keyAt, potEntry_congr h hsame, h.wafer, generation_congr hsame, h.spadOwner, hworld, hblock]

/-- So does the plaintext of a byte, with the byte as it is stored. -/
theorem readByte_congr {s u : State} {q : Nat} (h : KeysAlike s u) (hsame : ∀ x ∈ Stated.tableBytes s q, SameAt s u x) (hq : SameAt s u q) :
    readByte u q = readByte s q := by
  have hremote : remoteOf u q = remoteOf s q := by rw [remoteOf, remoteOf, apertureEntry_congr h hsame]
  simp only [readByte, remoteByte, decipher, streamByte, hremote, keyAt_congr h hsame, hq.1, hq.2, h.wafer, h.cycle]

/-- The bytes of an edge line are under one key. -/
theorem keyAt_line {s : State} {pa q : Nat} (h : pa < edgeEnd) (hq : q / 16 = pa / 16) (ep : Bool) : keyAt s q ep = keyAt s pa ep := by
  rw [keyAt, keyAt, if_pos h, if_pos (edge_line h hq), potEntry, potEntry, show q / 4096 = pa / 4096 by omega, show q / 2 ^ 21 = pa / 2 ^ 21 by omega]

theorem tableBytes_line {s : State} {pa q : Nat} (h : pa < edgeEnd) (hq : q / 16 = pa / 16) : Stated.tableBytes s q = Stated.tableBytes s pa := by
  have : pa < 2 ^ 50 := by unfold edgeEnd at h; omega
  simp only [Stated.tableBytes, show q / 4096 = pa / 4096 by omega, show q / 2 ^ 21 = pa / 2 ^ 21 by omega,
    show q - 2 ^ 50 = pa - 2 ^ 50 by omega]

/-! ## A line written (R186, R187) -/

theorem readPhys_length (s : State) (pa n : Nat) : (readPhys s pa n).length = n := by rw [readPhys, List.length_map, List.length_range]

/-- Memory as a write of a line finds it: as it is, or with the plaintext of the whole line where that goes under another key or was none. -/
def lineBase (s : State) (pa : Nat) : List Host.Cell :=
  if !(s.meta_ pa).z && !(s.meta_ pa).bad && (s.meta_ pa).key == keyAt s pa (s.meta_ pa).ep then s.mem
  else memWrites s.mem (pa / 16 * 16) (readPhys s (pa / 16 * 16) 16)

/-- The tiles with other contents of their data caches. -/
def withDcaches (f : Nat × Tile → List DBlock) (l : Map Nat Tile) : Map Nat Tile := l.map fun p => (p.1, { p.2 with dcache := f p })

/-- A state with bytes of one line written, other steps due, and other contents of the data caches. -/
def lineWritten (s : State) (pa : Nat) (bs : List Byte) (due : List Instr) (cached : Nat × Tile → List DBlock) : State :=
  { s with
    mem := memWrites (lineBase s pa) pa bs
    lines := mset s.lines (pa / 16) (sideWritten s pa (s.meta_ pa))
    due := due
    tiles := withDcaches cached s.tiles }

theorem addDueOnce_eq (s : State) (i : Instr) : ∃ d, s.addDueOnce i = { s with due := d } := by
  unfold State.addDueOnce
  split
  · exact ⟨s.due, rfl⟩
  · exact ⟨_, rfl⟩

theorem noteWrap_eq (s : State) (pa : Nat) (m : LineMeta) : ∃ d, noteWrap s pa m = { s with due := d } := by
  unfold noteWrap
  split
  · exact addDueOnce_eq _ _
  · exact ⟨s.due, rfl⟩

theorem foldl_addDueOnce_eq {α : Type} (f : α → Instr) (l : List α) (s : State) :
    ∃ d, l.foldl (fun s x => s.addDueOnce (f x)) s = { s with due := d } :=
  foldl_keeps (fun u : State => ∃ d, u = { s with due := d }) _ (fun u x h => by
    obtain ⟨d, rfl⟩ := h
    exact addDueOnce_eq _ _) l s ⟨s.due, rfl⟩

/-- The copies of a written line change in the data caches, and invalidations become due; nothing else. -/
theorem spreadInvalidations_eq (s : State) (own pa launch stamp : Nat) : ∃ d f, spreadInvalidations s own pa launch stamp =
    { s with due := d, tiles := withDcaches f s.tiles } :=
  (foldl_addDueOnce_eq (fun t => .invalidation t (pa / 64)) _ _).imp fun _ hd => ⟨_, hd⟩

/-- Bytes inside one line are written as one line. -/
theorem writePhys_line {s : State} {pa : Nat} {bs : List Byte} (h : bs ≠ []) (hlen : pa % 16 + bs.length ≤ 16) :
    writePhys s pa bs = writeLine s pa bs := by
  obtain ⟨b, r, rfl⟩ := List.exists_cons_of_ne_nil h
  rw [writePhys, List.length_cons, writePhysFuel, if_neg h]
  dsimp only
  rw [List.take_of_length_le (by omega), List.drop_of_length_le (by omega)]
  cases r.length <;> rfl

/-- What a write of an edge line does to the state. -/
theorem writeLine_spread (s : State) (pa own launch stamp : Nat) (bs : List Byte) :
    ∃ d f, spreadInvalidations (writeLine s pa bs) own pa launch stamp = lineWritten s pa bs d f := by
  obtain ⟨d, f, h⟩ := spreadInvalidations_eq (writeLine s pa bs) own pa launch stamp
  obtain ⟨d', h'⟩ := noteWrap_eq { s with mem := memWrites (lineBase s pa) pa bs,
                                          lines := mset s.lines (pa / 16) (sideWritten s pa (s.meta_ pa)) } pa (s.meta_ pa)
  have hw : writeLine s pa bs = _ := h'
  exact ⟨d, f, by rw [h, hw]; rfl⟩

/-- A change of the data caches leaves the allocations. -/
theorem allocs_withDcaches (f : Nat × Tile → List DBlock) (t : Nat) (l : Map Nat Tile) :
    (mget (withDcaches f l) {} t).allocs = (mget l {} t).allocs := by
  induction l with
  | nil => rfl
  | cons p r ih =>
    by_cases h : p.1 = t
    · simp [withDcaches, mget, mget?, h]
    · simpa [withDcaches, mget, mget?, h] using ih

/-! ## Memory and its plaintext after that -/

section
variable {s : State} {pa : Nat} {bs : List Byte} {d : List Instr} {f : Nat × Tile → List DBlock} {q : Nat}

@[simp] theorem lineWritten_mem : (lineWritten s pa bs d f).mem = memWrites (lineBase s pa) pa bs := rfl

theorem lineWritten_keysAlike : KeysAlike s (lineWritten s pa bs d f) where
  wafer := rfl
  cycle := rfl
  blocks := rfl
  tenants := rfl
  allocs t := allocs_withDcaches f t s.tiles

theorem lineWritten_meta_same (hq : q / 16 = pa / 16) : (lineWritten s pa bs d f).meta_ q = sideWritten s pa (s.meta_ pa) := by
  simp only [State.meta_, lineWritten, mget, hq, mget?_mset_same, Option.getD_some]

theorem lineWritten_meta_other (hq : q / 16 ≠ pa / 16) : (lineWritten s pa bs d f).meta_ q = s.meta_ q := by
  simp only [State.meta_, lineWritten, mget, mget?_mset_other _ _ hq]

theorem lineBase_wf (h : Memory.wf s.mem = true) : Memory.wf (lineBase s pa) = true := by
  unfold lineBase
  split
  · exact h
  · exact memWrites_wf _ _ _ h

theorem memRead_lineBase_other (hq : q / 16 ≠ pa / 16) : memRead (lineBase s pa) q = memRead s.mem q := by
  unfold lineBase
  split
  · rfl
  · exact memRead_memWrites_outside _ _ _ _ (by rw [readPhys_length]; omega)

/-- Where the line keeps its key memory holds the plaintext already. -/
theorem readByte_kept (hpa : pa < edgeEnd) (hq : q / 16 = pa / 16)
    (h : (!(s.meta_ pa).z && !(s.meta_ pa).bad && (s.meta_ pa).key == keyAt s pa (s.meta_ pa).ep) = true) : readByte s q = memRead s.mem q := by
  have ha := inAperture_edge (edge_line hpa hq)
  have hm : s.meta_ q = s.meta_ pa := by rw [State.meta_, State.meta_, hq]
  simp only [Bool.and_eq_true, Bool.not_eq_true', beq_iff_eq] at h
  obtain ⟨⟨hz, hbad⟩, hkey⟩ := h
  simp [readByte, ha, decipher, hm, hz, hbad, hkey, keyAt_line hpa hq]

/-- Memory as a write of an edge line finds it holds the line's plaintext. -/
theorem memRead_lineBase_line (hs : Memory.wf s.mem = true) (hpa : pa < edgeEnd) (hq : q / 16 = pa / 16) :
    memRead (lineBase s pa) q = readByte s q := by
  unfold lineBase
  split
  next h => exact (readByte_kept hpa hq h).symm
  next h =>
    obtain ⟨i, rfl⟩ : ∃ i, q = pa / 16 * 16 + i := ⟨q - pa / 16 * 16, by omega⟩
    have hi : i < 16 := by omega
    rw [memRead_memWrites_inside _ _ _ _ hs (by rwa [readPhys_length])]
    simp [readPhys, hi]

/-- A byte outside the written line is stored as before. -/
theorem lineWritten_sameAt (hlen : pa % 16 + bs.length ≤ 16) (hq : q / 16 ≠ pa / 16) : SameAt s (lineWritten s pa bs d f) q :=
  ⟨lineWritten_meta_other hq, (memRead_memWrites_outside bs _ pa q (by omega)).trans (memRead_lineBase_other hq)⟩

/-- With the tables apart from the written line every byte outside it reads as before. -/
theorem readByte_lineWritten_other (hlen : pa % 16 + bs.length ≤ 16) (hq : q / 16 ≠ pa / 16) (htab : Stated.TablesApart s pa q) :
    readByte (lineWritten s pa bs d f) q = readByte s q :=
  readByte_congr lineWritten_keysAlike (fun x hx => lineWritten_sameAt hlen (htab x hx)) (lineWritten_sameAt hlen hq)

/-- And the written line reads as memory holds it: it is under the key that deciphers it. -/
theorem readByte_lineWritten_line (hlen : pa % 16 + bs.length ≤ 16) (hpa : pa < edgeEnd) (hq : q / 16 = pa / 16)
    (htab : Stated.TablesApart s pa q) : readByte (lineWritten s pa bs d f) q = memRead (memWrites (lineBase s pa) pa bs) q := by
  have ha := inAperture_edge (edge_line hpa hq)
  have hkey (ep : Bool) : keyAt (lineWritten s pa bs d f) q ep = keyAt s pa ep := by
    rw [keyAt_congr lineWritten_keysAlike fun x hx => lineWritten_sameAt hlen (htab x hx), keyAt_line hpa hq]
  simp [readByte, ha, decipher, lineWritten_meta_same hq, hkey, sideWritten, LineMeta.bad]

/-- The bytes written read as written. -/
theorem readByte_lineWritten_inside (hs : Memory.wf s.mem = true) (hlen : pa % 16 + bs.length ≤ 16) (hpa : pa < edgeEnd)
    (htab : Stated.TablesApart s pa pa) {m : Nat} (hm : m < bs.length) : readByte (lineWritten s pa bs d f) (pa + m) = bs.getD m 0 := by
  have hq : (pa + m) / 16 = pa / 16 := by omega
  have htab' : Stated.TablesApart s pa (pa + m) := by rwa [Stated.TablesApart, tableBytes_line hpa hq]
  rw [readByte_lineWritten_line hlen hpa hq htab', memRead_memWrites_inside _ _ _ _ (lineBase_wf hs) hm]

/-- Every other byte reads as before, in the line and out of it. -/
theorem readByte_lineWritten_outside (hs : Memory.wf s.mem = true) (hlen : pa % 16 + bs.length ≤ 16) (hpa : pa < edgeEnd)
    (htab : Stated.TablesApart s pa q) (hq : q < pa ∨ pa + bs.length ≤ q) : readByte (lineWritten s pa bs d f) q = readByte s q := by
  by_cases hl : q / 16 = pa / 16
  · rw [readByte_lineWritten_line hlen hpa hl htab, memRead_memWrites_outside _ _ _ _ hq, memRead_lineBase_line hs hpa hl]
  · exact readByte_lineWritten_other hlen hl htab
end

/-! ## A physical access of an island core inside one line (R35, R172, R194) -/

/-- Bytes inside one line are one part. -/
theorem segments_line {a n : Nat} (hn : 0 < n) (hlen : a % 16 + n ≤ 16) : segments a n = [(a, n)] := by
  obtain ⟨m, rfl⟩ : ∃ m, n = m + 1 := ⟨n - 1, by omega⟩
  rw [segments, segmentsFuel, if_neg (by omega), show min (m + 1) (16 - a % 16) = m + 1 by omega]
  dsimp only
  rw [Nat.sub_self]
  cases m <;> rfl

/-- Edge memory from 0x40000000 on lies in the edge window (Table 1.5). -/
theorem window_edge {a : Nat} (hlo : 0x40000000 ≤ a) (hhi : a < edgeEnd) : inLocal a = false ∧ inHole a = false ∧ inCluster a = false := by
  unfold edgeEnd at hhi
  simp only [inLocal, inHole, inCluster, Bool.and_eq_false_iff, decide_eq_false_iff_not]
  omega

/-- The place of n bytes at a physical address, as a core's access has it. -/
def corePlace (q : Req) (pa n : Nat) : Place := physPlace q pa pa n false

section
variable {s : State} {q : Req} {pa n : Nat}

@[simp] theorem corePlace_loc : (corePlace q pa n).loc = .phys pa := rfl
@[simp] theorem corePlace_len : (corePlace q pa n).len = n := rfl
@[simp] theorem corePlace_tp : (corePlace q pa n).tp = false := rfl

/-- No head to edge memory waits for a Drift move. -/
theorem headHeld_edge (h : pa < edgeEnd) : headHeld s q (corePlace q pa n) = false := by
  have hspad : ¬ spadBase 0 ≤ pa := by unfold edgeEnd at h; unfold spadBase; omega
  simp [headHeld, hspad]

/-- Edge memory is no control space. -/
theorem inControl_edge (h : pa < edgeEnd) : inControl pa = false := by
  unfold edgeEnd at h
  simp only [inControl, decide_eq_false_iff_not]
  omega

/-- A head to a physical address that its way lets through arrives in the same state. -/
theorem sendHead_phys (h : headWay s (senderOf s q.agent) q.site (.phys pa) = .ok s) : sendHead s q (corePlace q pa n) = .ok s := by
  simp [sendHead, h, correctCache]

/-- A core's access to a page of its own is not served by a tile. -/
theorem servedNow_corePlace : servedNow s q (corePlace q pa n) = false := by simp [servedNow]

/-- R194 for a core that issues physical addresses: an access inside one line of listed edge memory passes with one place. -/
theorem check_physical {p : Word} (hcore : q.core = true) (hphys : q.phys = true) (hp : ptrOk p = true) (hlo : 0x40000000 ≤ addrOf p)
    (hhi : addrOf p < edgeEnd) (hlist : physListed s (addrOf p) = true) (hn : 0 < n) (hlen : addrOf p % 16 + n ≤ 16) (acc : AccKind) :
    check s q acc p n = .ok ([corePlace q (addrOf p) n], s) := by
  obtain ⟨hlocal, hhole, hcluster⟩ := window_edge hlo hhi
  have hmod : addrOf p % 0x10000000000000 = addrOf p := Nat.mod_eq_of_lt (by unfold edgeEnd at hhi; omega)
  have hshut : apertureShut s acc (addrOf p) = false := by simp [apertureShut, inAperture_edge hhi]
  have hplace : placeOf s q acc p (addrOf p) n = .ok (corePlace q (addrOf p) n, s) := by
    simp [placeOf, hlocal, hcluster, edgePlace, hphys, hmod, hshut, hlist, corePlace]
  simp [check, resolve, hp, segments_line hn hlen, hhole, placesOf, hplace, lockHit, hcore]

/-- So it does with its head, which reaches its home. -/
theorem checkNow_of_check {p : Word} {acc : AccKind} (hpa : pa < edgeEnd) (hc : check s q acc p n = .ok ([corePlace q pa n], s))
    (hway : headWay s (senderOf s q.agent) q.site (.phys pa) = .ok s) : checkNow s q acc p n = .ok ([corePlace q pa n], s) := by
  simp [checkNow, hc, headHeld_edge hpa, sendHeads, servedNow_corePlace, sendHead_phys hway]

/-- The core's load reads the bytes at the address, and meets the line's error. -/
theorem coreLoad_edge {p : Word} (hpa : pa < edgeEnd) (hc : checkNow s q .read p n = .ok ([corePlace q pa n], s)) :
    coreLoad s q p n = .ok (readPhys s pa n, meetAt s pa n) := by
  simp [coreLoad, hc, coreReadPlace, inControl_edge hpa, meetPlaces, meetPlace]

/-- A core without a task writes an edge line at its home, whose cached copies become stale. -/
theorem writeHome_edge {bs : List Byte} (hpa : pa < edgeEnd) (hcore : q.core = true) (htask : q.task = none) (hkey : rekeyBlocked s pa = false) :
    writeHome s q (corePlace q pa n) bs = spreadInvalidations (writePhys s pa bs) (2 ^ 16) pa 0 0 := by
  simp [writeHome, dropBuffered, htask, awaitPlace, placeBlocked, physOf, hkey, hpa, flushOwn, hcore, Req.task?]

/-- The core's store writes the line, when no rekey holds it. -/
theorem coreStore_edge {p : Word} {bs : List Byte} {i k : Nat} (hpa : pa < edgeEnd) (hagent : q.agent = .core i k) (hcore : q.core = true)
    (htask : q.task = none) (hway : headWay s (senderOf s q.agent) q.site (.phys pa) = .ok s) (hkey : rekeyBlocked s pa = false)
    (hc : checkNow s q .write p bs.length = .ok ([corePlace q pa bs.length], s)) :
    coreStore s q p bs = .ok (spreadInvalidations (writePhys s pa bs) (2 ^ 16) pa 0 0) := by
  have hfree : writesWait s q [corePlace q pa bs.length] = false := by
    simp [writesWait, placeBlocked, physOf, hkey, headHeld_edge hpa]
  have hwrite : coreWritePlace s q (corePlace q pa bs.length) bs = spreadInvalidations (writePhys s pa bs) (2 ^ 16) pa 0 0 := by
    simp [coreWritePlace, hagent, inControl_edge hpa, writeNow, servedNow_corePlace, sendHead_phys hway, writeHome_edge hpa hcore htask hkey]
  simp [coreStore, hc, hfree, coreWriteAll, hwrite]
end
end Sys2Proof.Machine

namespace Sys2Proof.Proofs
open Sys2Proof.Machine

/-- Settles O24: the access is one place, its head arrives, and the store is one line written, which lineWritten describes. -/
theorem physicalCoreAccess : Obligations.PhysicalCoreAccess := by
  unfold Obligations.PhysicalCoreAccess
  intro s j k p hmem hcur hphys hp pa hlo hhi hlist hway
  have hreq : curReq s = coreReq s j k := by simp [curReq, hcur]
  have hcheck (acc : AccKind) {n : Nat} (hn : 0 < n) (hlen : pa % 16 + n ≤ 16) :
      checkNow s (coreReq s j k) acc p n = .ok ([corePlace (coreReq s j k) pa n], s) :=
    checkNow_of_check hhi (check_physical rfl hphys hp hlo hhi hlist hn hlen acc) hway
  refine ⟨fun n hn hlen => ?_, fun bs hne hlen hkey htab => ?_⟩
  · rw [loadBytes, hreq]
    exact coreLoad_edge hhi (hcheck .read hn hlen)
  · obtain ⟨d, f, hu⟩ := writeLine_spread s pa (2 ^ 16) 0 0 bs
    refine ⟨lineWritten s pa bs d f, ?_, fun m hm => readByte_lineWritten_inside hmem hlen hhi htab hm,
      fun q hq htabq => readByte_lineWritten_outside hmem hlen hhi htabq hq, rfl, rfl, rfl, rfl, rfl⟩
    rw [storeBytes, hreq, ← hu, ← writePhys_line hne hlen]
    exact coreStore_edge hhi rfl rfl rfl hway hkey (hcheck .write (List.length_pos_iff.mpr hne) hlen)

end Sys2Proof.Proofs
end

section
/-! PROOFS, scope: a thread's access to the scratchpad of its own block (R31, R171, R172, R194, R200, R216). -/

namespace Sys2Proof.Machine

/-- The place of n bytes at a pointer into a block's own scratchpad, as an access through the local window has it (R31). -/
def ownPlace (b : Block) (h : Nat) (al : Alloc) (p : Word) (n : Nat) : Place := spadPlace b h al (addrOf p) (addrOf p) n

section
variable {s : State} {q : Req} {b : Block} {h : Nat} {al : Alloc} {p : Word} {n : Nat}

@[simp] theorem ownPlace_loc : (ownPlace b h al p n).loc = .spad h (addrOf p) := rfl
@[simp] theorem ownPlace_len : (ownPlace b h al p n).len = n := rfl
@[simp] theorem ownPlace_shared : (ownPlace b h al p n).shared = al.shared := rfl
@[simp] theorem ownPlace_tp : (ownPlace b h al p n).tp = false := rfl
@[simp] theorem ownPlace_edge : (ownPlace b h al p n).edge = false := rfl
@[simp] theorem ownPlace_lockTile : (ownPlace b h al p n).lockTile = b.tile := rfl

/-- The local window (Table 1.5). -/
theorem window_local {a : Nat} (h : a < 0x20000) : inLocal a = true ∧ inHole a = false := by
  simp only [inLocal, inHole, Bool.and_eq_false_iff, decide_eq_true_eq, decide_eq_false_iff_not]
  omega

/-- R194 for a tile's agent: an access inside one line of a live allocation of its own block that meets no range lock passes with one place. -/
theorem check_local (hcore : q.core = false) (hb : s.block? q.handle = some b) (hp : ptrOk p = true) (ha : addrOf p < 0x20000) (hn : 0 < n)
    (hlen : addrOf p % 16 + n ≤ 16) (hal : allocAt s b.tile q.handle (addrOf p) n = some al) (hlocks : (s.tile b.tile).locks = []) (acc : AccKind) :
    check s q acc p n = .ok ([ownPlace b q.handle al p n], s) := by
  obtain ⟨hlocal, hhole⟩ := window_local ha
  have hplace : placeOf s q acc p (addrOf p) n = .ok (ownPlace b q.handle al p n, s) := by
    simp [placeOf, hlocal, localPlace, hcore, hb, hal, ownPlace, Except.map]
  simp [check, resolve, hp, segments_line hn hlen, hhole, placesOf, hplace, lockHit, hlocks]

/-- No head leaves the tile of the block: there is none to wait for a Drift move. -/
theorem headHeld_own (hcore : q.core = false) (hb : s.block? h = some b) (ht : b.tile = q.tile) : headHeld s q (ownPlace b h al p n) = false := by
  simp [headHeld, hb, hcore, ht]
/-- None is dropped on the way, and no handle cache is corrected. -/
theorem sendHead_own (hb : s.block? h = some b) (ht : b.tile = q.site) : sendHead s q (ownPlace b h al p n) = .ok s := by
  have hcache : correctCache s q.site (.spad h (addrOf p)) = s := by
    by_cases hi : isIslandSlot (clusterOf q.site) = true <;> simp [correctCache, hb, siteAt, hi, ht]
  simp [sendHead, headWay, homeRouter?, hb, ht, hcache]

/-! ## Loads -/

/-- A read of a place of the own block is that of its home, the tile's scratchpad. -/
theorem readPlace_own (hcore : q.core = false) (hb : s.block? h = some b) (ht : b.tile = q.tile) (hsite : b.tile = q.site) :
    readPlace s q false (ownPlace b h al p n) = readHome s q false (ownPlace b h al p n) := by
  simp [readPlace, servedHere, headHeld_own hcore hb ht, sendHead_own hb hsite]

/-- The home's bytes of a place of the own block (R172): those of the tile's scratchpad, no cache between. -/
theorem homeCopy_own (hb : s.block? h = some b) : homeCopy s q false (ownPlace b h al p n) =
    (readPhys s (spadBase b.tile + addrOf p) n, versionAt s (.spad h (addrOf p)), false, false, s) := by
  simp [homeCopy, physOf, hb]

/-- A place that is not shared reads as the scratchpad with the task's own buffered bytes, and changes nothing. -/
theorem readHome_private {kid : Nat} {x : Task} (hb : s.block? h = some b) (htask : q.task = some kid) (hx : s.task? kid = some x)
    (hal : al.shared = false) : readHome s q false (ownPlace b h al p n) =
      .ok ((readPhys s (spadBase b.tile + addrOf p) n).mapIdx fun k v => (storedAt x.stores (.spad h (addrOf p + k))).getD v, s) := by
  simp [readHome, htask, Req.task?, hx, hal, homeCopy_own hb, Loc.add]

/-- Where no task is parked, no store of another task is seen. -/
theorem suppliers_none (hpark : s.tasks.all (fun q => !q.2.parked) = true) (launch stamp : Nat) : suppliers s launch stamp = [] := by
  have hnone : (s.tasks.filter fun p => p.2.parked && p.2.launch == launch && decide (p.2.stamp < stamp)) = [] := by
    rw [List.filter_eq_nil_iff]
    intro e he
    have := List.all_eq_true.mp hpark e he
    simp_all
  simp [suppliers, hnone]

/-- A read-set entry changes no byte. -/
@[simp] theorem addRead_mem (s : State) (kid : Nat) (k : Task) (l : Loc) (ver : Nat) (missed fromCache : Bool) (part : Nat × Nat × List Nat) :
    (addRead s kid k l ver missed fromCache part).mem = s.mem := by
  unfold addRead
  split
  · rfl
  · dsimp only
    split
    · split <;> simp
    · simp

/-- Without suppliers a byte is the home's, and comes from no task. -/
theorem forwarded_nil (x : Loc) (v : Byte) : forwarded [] x v = (v, none) := rfl

/-- The state in which a read has its line in the task's read set, when no other task supplied a byte of it (R201). -/
def readNoted (s : State) (kid : Nat) (x : Task) (l : Loc) (n : Nat) : State :=
  addRead (s.setTask kid x) kid x (lineLoc l) (versionAt s l) false false (l.inLine, n, [])
@[simp] theorem readNoted_mem (s : State) (kid : Nat) (x : Task) (l : Loc) (n : Nat) : (readNoted s kid x l n).mem = s.mem := by
  rw [readNoted, addRead_mem, State.setTask_mem]

/-- A shared place whose line needs no new read-set entry, with no task parked: the same bytes, and the read noted. -/
theorem readHome_shared {kid : Nat} {x : Task} (hb : s.block? h = some b) (htask : q.task = some kid) (hx : s.task? kid = some x)
    (hal : al.shared = true) (hset : x.serial = true ∨ x.reads.any (fun e => e.line == lineLoc (.spad h (addrOf p))) = true)
    (hpark : s.tasks.all (fun q => !q.2.parked) = true) (hfrom : x.readFrom = []) (htaint : x.taint.length ≤ 4) :
    readHome s q false (ownPlace b h al p n) =
      .ok ((readPhys s (spadBase b.tile + addrOf p) n).mapIdx fun k v => (storedAt x.stores (.spad h (addrOf p + k))).getD v,
        readNoted s kid x (.spad h (addrOf p)) n) := by
  have hroom : (!x.serial && !(x.reads.any fun e => e.line == lineLoc (.spad h (addrOf p)))) = false := by
    rcases hset with hs | hr
    · rw [hs]; rfl
    · rw [hr, Bool.not_true, Bool.and_false]
  have hsrc (bs : List Byte) : (bs.mapIdx fun _ v => (v, (none : Option Nat))).filterMap Prod.snd = [] := by
    simp [List.mapIdx_eq_zipIdx_map]
  have hcount : ¬ 4 < sourceCount s x := by simpa [sourceCount, hfrom] using htaint
  simp [readHome, htask, Req.task?, hx, hal, readShared, hroom, suppliers_none hpark, hsrc, homeCopy_own hb, hcount, forwarded_nil,
    List.mapIdx_mapIdx, Function.comp_def, Loc.add, readNoted]

/-- A load of one place that its checks pass is the read of that place. -/
theorem loadBytes_one {t c : Nat} {y : Place} (hcur : s.cur = .thread t c) (hc : check s (threadReq s t c) .read p n = .ok ([y], s))
    {bs : List Byte} {u : State} (hr : readPlace s (threadReq s t c) false y = .ok (bs, u)) : loadBytes s p n = .ok (bs, u) := by
  have hcore : (threadReq s t c).core = false := rfl
  simp [loadBytes, curReq, hcur, hcore, memLoad, hc, readPlaces, hr]

/-! ## Stores -/

/-- A wrap of VER makes an event due and changes no side bits. -/
@[simp] theorem noteWrap_lines (s : State) (pa : Nat) (m : LineMeta) : (noteWrap s pa m).lines = s.lines := by
  obtain ⟨d, hd⟩ := noteWrap_eq s pa m
  rw [hd]

/-- What a write of a line makes of memory and side bits does not rest on the tasks. -/
theorem writeLine_tasks (s : State) (T : Map Nat Task) (pa : Nat) (bs : List Byte) :
    (writeLine { s with tasks := T } pa bs).mem = (writeLine s pa bs).mem ∧
    (writeLine { s with tasks := T } pa bs).lines = (writeLine s pa bs).lines := by
  simp only [writeLine, noteWrap_mem, noteWrap_lines]
  exact ⟨rfl, rfl⟩

/-- An immediate write changes no more than the buffered bytes of its own task before it (R172). -/
theorem dropBuffered_eq (s : State) (q : Req) (x : Place) (n : Nat) : ∃ T, dropBuffered s q x n = { s with tasks := T } := by
  unfold dropBuffered
  split
  · dsimp only
    split
    · exact ⟨_, rfl⟩
    · exact ⟨s.tasks, rfl⟩
  · exact ⟨s.tasks, rfl⟩
/-- And notes a line that is not shared in its own task alone (R447). -/
theorem notePrivate_eq (s : State) (q : Req) (x : Place) : ∃ T, notePrivate s q x = { s with tasks := T } := by
  unfold notePrivate
  split
  · split
    · exact ⟨s.tasks, rfl⟩
    · exact ⟨_, rfl⟩
  · exact ⟨s.tasks, rfl⟩

/-- A place of the own block that no rekey holds is written as its line of the tile's scratchpad, whatever the tasks then hold. -/
theorem writeHome_own {bs : List Byte} (hb : s.block? h = some b) (hkey : rekeyBlocked s (spadBase b.tile + addrOf p) = false) :
    ∃ T, writeHome s q (ownPlace b h al p n) bs = writePhys { s with tasks := T } (spadBase b.tile + addrOf p) bs := by
  obtain ⟨T, hT⟩ := dropBuffered_eq s q (ownPlace b h al p n) bs.length
  obtain ⟨U, hU⟩ := notePrivate_eq { s with tasks := T } q (ownPlace b h al p n)
  have hphys (V : Map Nat Task) : physOf { s with tasks := V } (.spad h (addrOf p)) = spadBase b.tile + addrOf p := by
    have hb' : ({ s with tasks := V } : State).block? h = some b := hb
    simp [physOf, hb']
  have hfree : awaitPlace { s with tasks := T } q (ownPlace b h al p n) = { s with tasks := T } := by
    have hkey' : rekeyBlocked { s with tasks := T } (spadBase b.tile + addrOf p) = false := hkey
    simp [awaitPlace, placeBlocked, hphys, hkey']
  exact ⟨U, by simp [writeHome, hT, hfree, hU, hphys]⟩

/-- A store to one place of the own block that is not shared and that no rekey holds writes the scratchpad at once. -/
theorem storeBytes_private {t c kid : Nat} {x : Task} {bs : List Byte} (hcur : s.cur = .thread t c) (htask : (s.ctx t c).task = some kid)
    (hx : s.task? kid = some x) (hb : s.block? h = some b) (ht : b.tile = t) (hal : al.shared = false)
    (hc : check s (threadReq s t c) .write p bs.length = .ok ([ownPlace b h al p bs.length], s))
    (hkey : rekeyBlocked s (spadBase b.tile + addrOf p) = false) :
    ∃ T, storeBytes s p bs = .ok (writePhys { s with tasks := T } (spadBase b.tile + addrOf p) bs) := by
  obtain ⟨T, hT⟩ := writeHome_own (q := threadReq s t c) (al := al) (n := bs.length) (bs := bs) hb hkey
  have hcore : (threadReq s t c).core = false := rfl
  have hq : (threadReq s t c).task = some kid := htask
  have hfree : writesWait s (threadReq s t c) [ownPlace b h al p bs.length] = false := by
    simp [writesWait, placeBlocked, physOf, hb, hkey, headHeld_own hcore hb ht]
  have hwrite : writeNow s (threadReq s t c) (ownPlace b h al p bs.length) bs = writePhys { s with tasks := T } (spadBase b.tile + addrOf p) bs := by
    simp [writeNow, servedNow, sendHead_own (q := threadReq s t c) hb ht, hT]
  have hfull : bufferFull x [] = false := rfl
  refine ⟨T, ?_⟩
  simp [storeBytes, curReq, hcur, hcore, memStore, hc, hal, hq, Req.task?, hx, hfree, hfull, storePlaces, hwrite]

/-- A store to one shared place with room in the store buffer enters its bytes there, and does nothing else. -/
theorem storeBytes_shared {t c kid : Nat} {x : Task} {y : Place} {bs : List Byte} (hcur : s.cur = .thread t c)
    (htask : (s.ctx t c).task = some kid) (hx : s.task? kid = some x) (hc : check s (threadReq s t c) .write p bs.length = .ok ([y], s))
    (hlen : y.len = bs.length) (hsh : y.shared = true) (hroom : bufferEntries x + 1 ≤ 256) :
    storeBytes s p bs = .ok (s.setTask kid (bufferBytes x (threadReq s t c).tenant y bs)) := by
  have hcore : (threadReq s t c).core = false := rfl
  have hq : (threadReq s t c).task = some kid := htask
  have hfull : bufferFull x [y] = false := by
    have hnew : ([lineLoc y.loc].dedup.filter fun l => !(storeLines x.stores).contains l).length ≤ 1 := List.length_filter_le ..
    simp only [bufferFull, List.map_cons, List.map_nil, Bool.and_eq_false_iff, decide_eq_false_iff_not]
    omega
  simp [storeBytes, curReq, hcur, hcore, memStore, hc, hsh, hq, Req.task?, hx, writesWait, hfull, storePlaces, hlen]
end
end Sys2Proof.Machine

namespace Sys2Proof.Proofs
open Sys2Proof.Machine

/-- Settles O25: the access is one place of the thread's own block, whose head leaves no tile; each path of Table 6.1 then has its lemma. -/
theorem scratchpadAccess : Obligations.ScratchpadAccess := by
  unfold Obligations.ScratchpadAccess
  intro s t c kid n p b al x hcur htask hx hb htile hp ha hn hlen hal h pa loc hlocks
  subst htile
  have hcheck := check_local (q := threadReq s b.tile c) rfl hb hp ha hn hlen hal hlocks
  have hread := readPlace_own (q := threadReq s b.tile c) (al := al) (p := p) (n := n) rfl hb rfl rfl
  refine ⟨fun hpriv => loadBytes_one hcur (hcheck .read) (hread.trans (readHome_private hb htask hx hpriv)),
    fun hsh hset hpark hfrom htaint => ⟨_, loadBytes_one hcur (hcheck .read)
      (hread.trans (readHome_shared hb htask hx hsh hset hpark hfrom htaint)), readNoted_mem ..⟩, ?_, ?_⟩
  · rintro bs rfl hsh hroom
    exact ⟨_, _, storeBytes_shared hcur htask hx (hcheck .write) rfl hsh hroom, rfl, rfl, mget?_mset_same .., rfl⟩
  · rintro bs rfl hpriv hkey
    obtain ⟨T, hT⟩ := storeBytes_private hcur htask hx hb rfl hpriv (hcheck .write) hkey
    have hline : (spadBase b.tile + addrOf p) % 16 + bs.length ≤ 16 := by unfold spadBase; omega
    have hw (u : State) := writePhys_line (s := u) (List.length_pos_iff.mp hn) hline
    obtain ⟨hmem, hlines⟩ := writeLine_tasks s T (spadBase b.tile + addrOf p) bs
    refine ⟨_, hT, ?_, ?_⟩
    · rw [hw, hmem, ← hw]
    · rw [hw, hlines, ← hw]

end Sys2Proof.Proofs
end

section
/-! PROOFS, scope: the steps of packets on the fabric (R33, R335 to R364, R525): what each does by the case it meets. -/

namespace Sys2Proof.Machine

/-! ## A step on a packet -/

section
variable {s : State} {n : Nat} {p : Packet}

/-- A step on a packet that still exists is its body. -/
theorem onPacket_some (h : packet? s n = some p) (f : Packet → State → State) : onPacket n s f = f p s := by simp [onPacket, h]

theorem exec_hop (h : packet? s n = some p) : exec (.hop n) s = .next (hopBody p s) := congrArg Host.Outcome.next (onPacket_some h _)
theorem exec_relay (h : packet? s n = some p) : exec (.relay n) s = .next (relayBody p s) := congrArg Host.Outcome.next (onPacket_some h _)
theorem exec_response (h : packet? s n = some p) : exec (.response n) s = .next (responseBody p s) :=
  congrArg Host.Outcome.next (onPacket_some h _)
theorem exec_clusterWindowAccess (h : packet? s n = some p) : exec (.clusterWindowAccess n) s = .next (clusterAccessBody p s) :=
  congrArg Host.Outcome.next (onPacket_some h _)
theorem exec_edgeMemoryAccess (h : packet? s n = some p) : exec (.edgeMemoryAccess n) s = .next (edgeAccessBody p s) :=
  congrArg Host.Outcome.next (onPacket_some h _)
theorem exec_messageArrival (h : packet? s n = some p) : exec (.messageArrival n) s = .next (messageBody p s) :=
  congrArg Host.Outcome.next (onPacket_some h _)
theorem exec_migrationArrival (h : packet? s n = some p) : exec (.migrationArrival n) s = .next (migrationBody p s) :=
  congrArg Host.Outcome.next (onPacket_some h _)
theorem exec_handleCacheUpdate (h : packet? s n = some p) :
    exec (.handleCacheUpdate n) s = .next (cacheHandle (dropPacket s p) p.at_ p.dhandle p.report) :=
  congrArg Host.Outcome.next (onPacket_some h _)
theorem exec_poisonTail (h : packet? s n = some p) :
    exec (.poisonTail n) s = .next (fabricFault (dropPacket s p) p.at_ 0x40 (regionTenant s (clusterOf p.at_)) p) :=
  congrArg Host.Outcome.next (onPacket_some h _)

/-! ## HOP and RELAY (R335, R336, R339, R341, R346, R350) -/

/-- A head that waits at its router stays there. -/
theorem hopBody_waits (h : hopWaits s p = true) : hopBody p s = (cleanTables s p).addDue (.hop p.id) := by simp [hopBody, h]

/-- One that does not wait is delivered where it has arrived. -/
theorem hopBody_arrive (h : hopWaits s p = false) (ht : turnOf (cleanTables s p) p = .arrive) : hopBody p s = deliver (cleanTables s p) p := by
  simp [hopBody, h, ht]
/-- At the end of its legs it is taken into a relay buffer. -/
theorem hopBody_relay (h : hopWaits s p = false) (ht : turnOf (cleanTables s p) p = .relay) :
    hopBody p s = (cleanTables s p).addDue (.relay p.id) := by
  simp [hopBody, h, ht]
/-- Where its way ends it is dropped. -/
theorem hopBody_noPath (h : hopWaits s p = false) (ht : turnOf (cleanTables s p) p = .noPath) :
    hopBody p s = dropNoPath (cleanTables s p) p := by
  simp [hopBody, h, ht]
/-- So it is at a boundary that its region may not cross. -/
theorem hopBody_refused {c : Course} (h : hopWaits s p = false) (ht : turnOf (cleanTables s p) p = .next c)
    (hr : hopRefused (cleanTables s p) p c.at_ = true) : hopBody p s = dropRefused (cleanTables s p) p := by
  simp [hopBody, h, ht, hr]
/-- Else it goes on to the next router. -/
theorem hopBody_next {c : Course} (h : hopWaits s p = false) (ht : turnOf (cleanTables s p) p = .next c)
    (hr : hopRefused (cleanTables s p) p c.at_ = false) :
    hopBody p s = (setPacket (cleanTables s p) { p with at_ := c.at_, port := c.port, detour := c.detour, legs := c.legs, relay := c.relay,
                                                        inRelay := none, hops := p.hops + 1 }).addDue (.hop p.id) := by
  simp [hopBody, h, ht, hr]

/-- A free relay buffer takes the head in and injects it again on the base lane, marked relayed when it is a message's. -/
theorem relayBody_free (h : relayFree s p = true) :
    let q : Packet := { p with detour := false, legs := [], relay := false, inRelay := some p.at_, port := 4 }
    relayBody p s = (setPacket s (if p.kind = .head then { q with relayed := true, relayPos := p.at_ } else q)).addDue (.hop p.id) := by
  simp [relayBody, h]
/-- Without one the head waits. -/
theorem relayBody_full (h : relayFree s p = false) : relayBody p s = s.addDue (.hop p.id) := by simp [relayBody, h]

/-! ## Requests and responses (R33, R349, R525) -/

/-- A request to a live block is served and answered. -/
theorem clusterAccessBody_live {b : Block} (hb : liveBlock? s p.dhandle = some b) : clusterAccessBody p s =
    if p.write = true then respond (putPhys s (physOf s p.loc) p.bytes) p [] else respond s p (readPhys s (physOf s p.loc) p.len) := by
  simp [clusterAccessBody, hb]

/-- A request at a router with no link to its controller is dropped. -/
theorem edgeAccessBody_unlinked {pa : Nat} (hk : p.kind = .request) (hl : p.loc = .phys pa) (h : edgeLinked p.at_ (emmOf pa) = false) :
    edgeAccessBody p s = dropPacket s p := by
  simp [edgeAccessBody, hk, hl, h]
/-- At a router with that link it is served and answered. -/
theorem edgeAccessBody_linked {pa : Nat} (hk : p.kind = .request) (hl : p.loc = .phys pa) (h : edgeLinked p.at_ (emmOf pa) = true) :
    edgeAccessBody p s = if p.write = true then respond (spreadInvalidations (putPhys s pa p.bytes) p.srcTile pa 0 0) p []
      else respond (meetAt s pa p.len) p (readPhys s pa p.len) := by
  simp [edgeAccessBody, hk, hl, h]

/-! ## Arrivals (R357, R364) -/

/-- A head whose block is here and stays here is not sent on. -/
theorem not_moving_or_elsewhere {b : Block} (hm : movingTile s b.tile = false) (ht : b.tile = p.at_) : ¬ (movingTile s b.tile = true ∨ b.tile ≠ p.at_) := by
  rw [hm, not_or, not_not]
  exact ⟨Bool.false_ne_true, ht⟩

/-- Is a message acceptable at the tile of its block: it passes the checks of R357, and the inbox has room. -/
structure Acceptable (s : State) (p : Packet) (b : Block) : Prop where
  live : liveBlock? s p.dhandle = some b
  resident : b.evicted = false
  still : movingTile s b.tile = false
  here : b.tile = p.at_
  world : otherWorld s p b = false
  handler : handlerKnown s b.launch (addrOf p.handler) = true
  room : (s.tile b.tile).inbox.length < 16

/-- An acceptable message without a payload is accepted. -/
theorem messageBody_bare {b : Block} (h : Acceptable s p b) (hp : p.payload = []) : messageBody p s = acceptMessage s p b none := by
  simp [messageBody, h.live, h.resident, not_moving_or_elsewhere h.still h.here, h.world, h.handler, Nat.not_le.mpr h.room, hp]
/-- One with a payload is accepted in the allocation it gets. -/
theorem messageBody_payload {b : Block} {o : Nat} {u : State} (h : Acceptable s p b) (hp : p.payload ≠ [])
    (ha : allocate s b.tile p.dhandle b.quota (max 256 p.payload.length) false (((s.launch? b.launch).map fun l => recFld l.desc 379 377).getD 0) =
      some (o, u)) : messageBody p s = acceptMessage u p b (some o) := by
  cases hl : s.launch? b.launch <;> rw [hl] at ha <;>
    simp only [Option.map_none, Option.map_some, Option.getD_none, Option.getD_some] at ha <;>
    simp [messageBody, h.live, h.resident, not_moving_or_elsewhere h.still h.here, h.world, h.handler, Nat.not_le.mpr h.room, hp, hl, ha]

/-- A migrating thread that its source holds is accepted when a context and a store buffer are free. -/
theorem migrationBody_acceptable {b : Block} {k c : Nat} {x : Task} (hb : liveBlock? s p.dhandle = some b) (he : b.evicted = false)
    (hm : movingTile s b.tile = false) (ht : b.tile = p.at_) (hc : clearing s b.tile = false)
    (hx : (s.tasks.find? fun q => q.2.phase == .running && (let y := s.ctx q.2.tile q.2.ctx
      y.state == .held && senderOf s (.thread q.2.tile q.2.ctx) == p.src && y.task == some q.1)) = some (k, x))
    (hfree : freeContext? s b.tile = some c) (hbuf : bufferFree s b.tile = true) :
    migrationBody p s = acceptMigration s p b.tile c k x := by
  have hlive : ¬ (b.evicted = true ∨ clearing s b.tile = true) := by simp [he, hc]
  simp only [migrationBody, hb, if_neg hlive, if_neg (not_moving_or_elsewhere hm ht), hx, hfree, hbuf, if_true]

@[simp] theorem noteRaised_tile (s : State) (l t : Nat) : (noteRaised s l).tile t = s.tile t := by
  unfold noteRaised
  split <;> rfl
@[simp] theorem answerHead_tile (s : State) (p : Packet) (k : PacketKind) (t : Nat) : (answerHead s p k).tile t = s.tile t := rfl
@[simp] theorem dropPacket_tile (s : State) (p : Packet) (t : Nat) : (dropPacket s p).tile t = s.tile t := rfl

@[simp] theorem State.tile_fresh (s : State) (t : Nat) : s.fresh.2.tile t = s.tile t := rfl

/-- An accepted message without a payload is one entry more in the inbox. -/
theorem acceptMessage_inbox (b : Block) : ((acceptMessage s p b none).tile b.tile).inbox.length = (s.tile b.tile).inbox.length + 1 := by
  simp [acceptMessage]

/-! ## Answers (R351, R359, Table 11.5) -/

/-- A step on an answer whose entry is still listed is its body, the answer gone. -/
theorem onAnswer_some {k : Nat} {e : SendEntry} (h : packet? s n = some p) (he : answeredEntry? (dropPacket s p) p = some (k, e))
    (f : Site → Nat → SendEntry → Packet → State → State) : onAnswer n s f = f (siteAt p.at_) k e p (dropPacket s p) := by
  simp [onAnswer, onPacket_some h, he]

/-- An entry in backoff is Ready again. -/
theorem backoffBody_backoff {x : Site} {k : Nat} {e : SendEntry} (h : mget? (sendsOf s x) k = some e) (he : e.state = .backoff) :
    backoffBody s x k = putSend s x k { e with state := .ready } := by
  simp [backoffBody, h, he]
end

/-! ## Injection (R351) -/

@[simp] theorem setSends_packets (s : State) (x : Site) (m : Map Nat SendEntry) : (setSends s x m).packets = s.packets := by cases x <;> rfl
@[simp] theorem setSends_mem (s : State) (x : Site) (m : Map Nat SendEntry) : (setSends s x m).mem = s.mem := by cases x <;> rfl

/-- Heads launched one after another are as many packets more, and change no byte of memory. -/
theorem foldl_launchPacket {α : Type} (f : State → α → Packet) (l : List α) : ∀ s : State,
    (l.foldl (fun s h => launchPacket s (f s h)) s).packets.length = s.packets.length + l.length ∧
    (l.foldl (fun s h => launchPacket s (f s h)) s).mem = s.mem := by
  induction l with
  | nil => intro s; exact ⟨rfl, rfl⟩
  | cons h r ih =>
    intro s
    obtain ⟨hlen, hmem⟩ := ih (launchPacket s (f s h))
    refine ⟨hlen.trans ?_, hmem⟩
    simp [launchPacket, State.fresh]
    omega

/-- A stopped tile's buffer keeps the entries whose heads its router is not injecting (R361). -/
theorem powerGatedBody_sends (s : State) (t : Nat) : ((powerGatedBody s t).tile t).gated = true ∧
    ((powerGatedBody s t).tile t).sends = (s.tile t).sends.filter fun e =>
      !((s.packets.filter fun p => p.kind == .head && p.srcTile == t && p.at_ == t && p.hops == 0).map fun p => (p.src, p.seq)).contains
        (e.2.src, e.2.seq) := by
  have h : (powerGatedBody s t).tile t = _ := State.tile_setTile_same s t _
  rw [h]
  exact ⟨rfl, rfl⟩

end Sys2Proof.Machine

namespace Sys2Proof.Proofs
open Sys2Proof.Machine

/-- Settles O57: a packet's step is its body, and each body has a lemma for the case that the clause names. -/
theorem fabricSteps : Obligations.FabricSteps := by
  unfold Obligations.FabricSteps
  refine ⟨fun s n p hp => ⟨fun b hb => ?_, fun pa hk hl h => ?_, fun pa hk hl h => ?_, ⟨fun t c hw => ?_, fun hw => ?_⟩, fun hw => ?_,
    fun hstuck hrelay hlane => ?_, ⟨fun h => ?_, fun h => ?_⟩, exec_handleCacheUpdate hp, exec_poisonTail hp,
    fun b hb he hm ht => ⟨fun hw hh hroom => ?_, fun k x c hc hx hfree hbuf => ?_⟩, fun k e he => ?_⟩,
    fun s t k e he => ?_, fun s x k e hk he => congrArg Host.Outcome.next (backoffBody_backoff hk he), fun s t => ?_⟩
  · rw [exec_clusterWindowAccess hp, clusterAccessBody_live hb]
  · rw [exec_edgeMemoryAccess hp, edgeAccessBody_unlinked hk hl h]
  · rw [exec_edgeMemoryAccess hp, edgeAccessBody_linked hk hl h]
  · simp [exec_response hp, responseBody, hw]
  · simp [exec_response hp, responseBody, hw]
  · rw [exec_hop hp, hopBody_waits]
    simpa [hopWaits, or_assoc] using hw
  · have hmoves : hopWaits s p = false := by simp [hopWaits, hstuck, hrelay, hlane]
    rw [exec_hop hp]
    exact ⟨fun hr => by rw [hopBody_arrive hmoves hr], fun hr => by rw [hopBody_relay hmoves hr], fun hr => by rw [hopBody_noPath hmoves hr],
      fun c hr hc => by rw [hopBody_refused hmoves hr hc], fun c hr hc => by rw [hopBody_next hmoves hr hc]⟩
  · rw [exec_relay hp, relayBody_free h]
  · rw [exec_relay hp, relayBody_full h]
  · have hacc : Acceptable s p b := ⟨hb, he, hm, ht, hw, hh, hroom⟩
    rw [exec_messageArrival hp]
    exact ⟨fun hpay => ⟨by rw [messageBody_bare hacc hpay], acceptMessage_inbox b⟩, fun o u hpay ha => by rw [messageBody_payload hacc hpay ha]⟩
  · rw [exec_migrationArrival hp, migrationBody_acceptable hb he hm ht hc hx hfree hbuf]
  · have hans (f : Site → Nat → SendEntry → Packet → State → State) :
        (.next (onAnswer n s f) : Host.Outcome State Fault Refusal) = .next (f (siteAt p.at_) k e p (dropPacket s p)) := by
      rw [onAnswer_some hp he]
    exact ⟨hans _, hans _, hans _, hans _, hans _, hans _⟩
  · obtain ⟨hlen, hmem⟩ := foldl_launchPacket (fun s h => headOf s (siteAt t) e h) e.pend (setSends s (siteAt t)
      (mset (sendsOf s (siteAt t)) k { e with state := .inFlight, out := e.out ++ e.pend, pend := [], sentAt := s.cycle }))
    refine ⟨congrArg Host.Outcome.next (by simp [injectBody, he]), ?_, ?_⟩
    · simpa using hlen
    · simpa using hmem
  · obtain ⟨hgated, hsends⟩ := powerGatedBody_sends s t
    refine ⟨_, rfl, hgated, rfl, fun e he => ?_⟩
    rw [hsends]
    simp [he]

end Sys2Proof.Proofs
end

section
/-! PROOFS, scope: power states and the bring-up (R21, R339, R510 to R512, R527, R538, R539). -/

namespace Sys2Proof.Machine

/-! ## Fuses (R512) -/

/-- Pair k of the fuses; a pair that is not listed is unblown. -/
def fusePair (f : List (Bool × Bool)) (k : Nat) : Bool × Bool := f.getD k (false, false)
/-- The unblown fuse of pair k that is blown first: A, then B; none of a whole pair. -/
def unblownOf (f : List (Bool × Bool)) (k : Nat) : Option (Nat × Bool) :=
  if !(fusePair f k).1 then some (k, false) else if !(fusePair f k).2 then some (k, true) else none

theorem unblown?_eq (f : List (Bool × Bool)) (n : Nat) : unblown? f n = (List.range n).findSome? (unblownOf f) := rfl

/-- A whole pair gives none. -/
theorem unblownOf_none {f : List (Bool × Bool)} {k : Nat} : unblownOf f k = none ↔ fusePair f k = (true, true) := by
  rcases h : fusePair f k with ⟨_ | _, _ | _⟩ <;> simp [unblownOf, h]
/-- A pair that is not whole gives A where that is unblown, B where only that is. -/
theorem unblownOf_some {f : List (Bool × Bool)} {i k : Nat} {b : Bool} : unblownOf f i = some (k, b) ↔
    i = k ∧ (if b then fusePair f k = (true, false) else (fusePair f k).1 = false) := by
  by_cases hik : i = k
  · subst hik
    rcases h : fusePair f i with ⟨_ | _, _ | _⟩ <;> cases b <;> simp [unblownOf, h]
  · unfold unblownOf
    split
    · simp [hik]
    · split <;> simp [hik]

/-- The first number below n with a value is one below which all have none. -/
theorem findSome?_range {α : Type} (g : Nat → Option α) (v : α) (n : Nat) :
    (List.range n).findSome? g = some v ↔ ∃ k, k < n ∧ g k = some v ∧ ∀ j < k, g j = none := by
  induction n with
  | zero => simp
  | succ n ih =>
    have hnone : (List.range n).findSome? g = none ↔ ∀ j < n, g j = none := by simp [List.findSome?_eq_none_iff]
    rw [List.range_succ, List.findSome?_append, Option.or_eq_some_iff, ih, hnone]
    simp only [List.findSome?_singleton]
    constructor
    · rintro (⟨k, hk, hv, hbelow⟩ | ⟨hbelow, hv⟩)
      · exact ⟨k, by omega, hv, hbelow⟩
      · exact ⟨n, by omega, hv, hbelow⟩
    · rintro ⟨k, hk, hv, hbelow⟩
      rcases Nat.lt_succ_iff_lt_or_eq.mp hk with hlt | rfl
      · exact .inl ⟨k, hlt, hv, hbelow⟩
      · exact .inr ⟨hbelow, hv⟩

/-- The fuse that is blown next is the first unblown one: the pairs before it are whole. -/
theorem unblown?_some (f : List (Bool × Bool)) (n k : Nat) (b : Bool) : unblown? f n = some (k, b) ↔
    k < n ∧ (∀ j, j < k → fusePair f j = (true, true)) ∧ (if b then fusePair f k = (true, false) else (fusePair f k).1 = false) := by
  simp only [unblown?_eq, findSome?_range, unblownOf_some, unblownOf_none]
  constructor
  · rintro ⟨i, hi, ⟨rfl, hb⟩, hbelow⟩
    exact ⟨hi, hbelow, hb⟩
  · rintro ⟨hk, hbelow, hb⟩
    exact ⟨k, hk, ⟨rfl, hb⟩, hbelow⟩

/-- Unblown pairs written out at the end are as those not listed. -/
theorem fusePair_padded (f : List (Bool × Bool)) (m k : Nat) : fusePair (f ++ List.replicate m (false, false)) k = fusePair f k := by
  by_cases h : k < f.length
  · exact List.getD_append _ _ _ _ h
  · simp [fusePair, List.getElem?_append_right (Nat.not_lt.mp h), List.getElem?_eq_none (Nat.not_lt.mp h)]

/-- A blown fuse is blown in its pair. -/
theorem fusePair_withFuse_same (f : List (Bool × Bool)) {k : Nat} (b : Bool) (h : k < 128) :
    fusePair (withFuse f k b) k = if b then ((fusePair f k).1, true) else (true, (fusePair f k).2) := by
  have hpad := fusePair_padded f (128 - f.length) k
  have hlen : k < (f ++ List.replicate (128 - f.length) (false, false)).length := by
    rw [List.length_append, List.length_replicate]
    omega
  rw [← hpad]
  simp only [fusePair, withFuse, List.getD_eq_getElem?_getD, List.getElem?_set_self hlen, Option.getD_some]
/-- Every other pair stays. -/
theorem fusePair_withFuse_other (f : List (Bool × Bool)) {j k : Nat} (b : Bool) (h : j ≠ k) :
    fusePair (withFuse f k b) j = fusePair f j := by
  rw [← fusePair_padded f (128 - f.length) j]
  simp only [fusePair, withFuse, List.getD_eq_getElem?_getD, List.getElem?_set_ne h.symm]

/-! ## The boot ROM (R510, R512, R538 stage 1) -/

section
variable {s u : State}

/-- POWER_APPLIED runs the boot ROM: from its beginning without power, else from where it is while stage 1 is not reached. -/
theorem exec_powerApplied (h : (s.wafer.power = .off ∧ u = romBegins s) ∨ (s.wafer.power = .boot ∧ s.wafer.stage = 0 ∧ u = s)) :
    exec .powerApplied s = .next (romRuns u) := by
  have hbody : exec .powerApplied s = .next (bootBody s) := rfl
  rcases h with ⟨hp, rfl⟩ | ⟨hp, h0, rfl⟩
  · rw [hbody, bootBody, hp]
  · rw [hbody, bootBody, hp, h0, if_pos rfl]
/-- The boot ROM begins without touching memory. -/
theorem romStart_mem (h : (s.wafer.power = .off ∧ u = romBegins s) ∨ (s.wafer.power = .boot ∧ s.wafer.stage = 0 ∧ u = s)) : u.mem = s.mem := by
  rcases h with ⟨-, rfl⟩ | ⟨-, -, rfl⟩ <;> rfl

/-- The boot ROM's state with its image accepted or not yet. -/
def withAccepted (u : State) (a : Bool) : State := { u with wafer := { u.wafer with accepted := a } }
theorem withAccepted_mem (u : State) (a : Bool) : (withAccepted u a).mem = u.mem := rfl
/-- A state is that with its own mark of acceptance. -/
theorem withAccepted_self {a : Bool} (h : u.wafer.accepted = a) : withAccepted u a = u := by subst h; rfl

/-- The pairs that the boot ROM completes before it checks the image. -/
def countGoal (u : State) : Nat := min 128 (arbCount u)
/-- And after it: those that the image asks for too. -/
def imageGoal (u : State) : Nat := max (countGoal u) (min 128 u.wafer.boot.minimum)

/-- The image accepted, already or now: every pair below the counter whole, its signature good, its version not below the counter. -/
def Accepts (u : State) : Prop :=
  u.wafer.accepted = true ∨ (unblown? u.wafer.fuses (countGoal u) = none ∧ u.wafer.boot.signed = true ∧ countGoal u ≤ u.wafer.boot.version)

/-- Before the image is accepted the pairs to blow whole are those below the counter. -/
theorem fuseGoal_checking (h : u.wafer.accepted = false) : fuseGoal u = countGoal u := by simp [fuseGoal, h, countGoal]
/-- Once the image is accepted they are those that it asks for too. -/
theorem fuseGoal_accepted : fuseGoal (withAccepted u true) = imageGoal u := rfl

/-- Before the image is checked the next unblown fuse below the counter is blown. -/
theorem romRuns_completes {p : Nat × Bool} (ha : u.wafer.accepted = false) (hp : unblown? u.wafer.fuses (countGoal u) = some p) :
    romRuns u = blowFuse (withAccepted u false) p := by
  simp [withAccepted_self ha, romRuns, ha, fuseGoal_checking ha, hp]
/-- A bad image is refused. -/
theorem romRuns_refuses (ha : u.wafer.accepted = false) (hp : unblown? u.wafer.fuses (countGoal u) = none)
    (hbad : u.wafer.boot.signed = false ∨ u.wafer.boot.version < countGoal u) :
    romRuns u = reachStage (withAccepted u false) 1 2 id := by
  have hrefused : imageRefused u = true := by simpa [imageRefused, countGoal] using hbad
  simp [withAccepted_self ha, romRuns, ha, fuseGoal_checking ha, hp, hrefused]
/-- With its image accepted the boot ROM raises the counter. -/
theorem romRuns_accepts (h : Accepts u) : romRuns u = romRaises (withAccepted u true) := by
  cases ha : u.wafer.accepted with
  | true => rw [withAccepted_self ha, romRuns, if_pos ha]
  | false =>
    obtain h | ⟨hp, hsigned, hversion⟩ := h
    · rw [ha] at h; cases h
    · have hgood : imageRefused u = false := by
        simp only [imageRefused, hsigned, Bool.not_true, Bool.false_or, decide_eq_false_iff_not]
        exact Nat.not_lt.mpr hversion
      simp [romRuns, ha, fuseGoal_checking ha, hp, hgood, withAccepted]
/-- It raises it fuse by fuse. -/
theorem romRuns_raises {p : Nat × Bool} (h : Accepts u) (hp : unblown? u.wafer.fuses (imageGoal u) = some p) :
    romRuns u = blowFuse (withAccepted u true) p := by
  rw [← fuseGoal_accepted] at hp
  rw [romRuns_accepts h, romRaises, show unblown? (withAccepted u true).wafer.fuses _ = _ from hp]
/-- And ends when every pair is whole. -/
theorem romRuns_ends (h : Accepts u) (hp : unblown? u.wafer.fuses (imageGoal u) = none) : romRuns u = romEnds (withAccepted u true) := by
  rw [← fuseGoal_accepted] at hp
  rw [romRuns_accepts h, romRaises, show unblown? (withAccepted u true).wafer.fuses _ = _ from hp]

/-- Is a fuse one that cannot be blown. -/
def DeadFuse (u : State) (p : Nat × Bool) : Prop := u.wafer.deadFuses.contains (2 * p.1 + boolNat p.2) = true

/-- A fuse that can be blown is, and the ROM runs on. -/
theorem blowFuse_live {p : Nat × Bool} (h : ¬ DeadFuse u p) : blowFuse u p =
    ({ u with wafer := { u.wafer with fuses := withFuse u.wafer.fuses p.1 p.2 } } : State).addDueOnce .powerApplied := if_neg h
/-- One that cannot ends stage 1 with ERROR 1. -/
theorem blowFuse_dead {p : Nat × Bool} (h : DeadFuse u p) : blowFuse u p = reachStage u 1 1 id := if_pos h

/-- Where the boot ROM ends, stage 1 is reached without an error and DSTATE is fixed for the fresh nonce. -/
theorem romEnds_spec (u : State) : (romEnds u).wafer.stage = 1 ∧ (romEnds u).wafer.error = 0 ∧
    (romEnds u).wafer.dstate = bootDebug u.wafer.boot (randomBytes u).1 ∧ (romEnds u).wafer.fuses = u.wafer.fuses ∧
    Instr.selfCalibration 0 ∈ (romEnds u).due ∧ (romEnds u).mem = u.mem := by
  simp only [romEnds, reachStage, if_true, State.addDueOnce_wafer, State.addDueOnce_mem]
  exact ⟨trivial, trivial, rfl, rfl, State.mem_addDueOnce .., rfl⟩

/-- A retirement record whose MAC holds is kept. -/
theorem romBegins_kept (h : recordMac s.wafer = s.wafer.retireMac) :
    (romBegins s).wafer.retire = s.wafer.retire ∧ (romBegins s).wafer.retiredSites = s.wafer.retiredSites := by
  simp [romBegins, h]
/-- One whose MAC fails is dropped (R511). -/
theorem romBegins_dropped (h : recordMac s.wafer ≠ s.wafer.retireMac) :
    (romBegins s).wafer.retire = [] ∧ (romBegins s).wafer.retiredSites = [] := by
  simp [romBegins, h]
end

/-! ## The later stages (R538) -/

/-- A stage reached without an error goes on. -/
theorem reachStage_ok (s : State) (n : Nat) (next : State → State) :
    reachStage s n 0 next = next { s with wafer := { s.wafer with stage := n, error := 0 } } := rfl
/-- One reached with an error does not. -/
theorem reachStage_error (s : State) (n : Nat) {e : Nat} (h : e ≠ 0) (next : State → State) :
    reachStage s n e next = { s with wafer := { s.wafer with stage := n, error := e } } := if_neg h

@[simp] theorem setAllEdges_wafer (s : State) (bit : Nat) : (setAllEdges s bit).wafer = s.wafer :=
  foldl_keeps (fun u : State => u.wafer = s.wafer) _ (fun u e h => by rw [State.setEdge_wafer]; exact h) _ s rfl
@[simp] theorem setAllEdges_mem (s : State) (bit : Nat) : (setAllEdges s bit).mem = s.mem :=
  foldl_keeps (fun u : State => u.mem = s.mem) _ (fun u e h => by rw [State.setEdge_mem]; exact h) _ s rfl
@[simp] theorem setAllEdges_lines (s : State) (bit : Nat) : (setAllEdges s bit).lines = s.lines :=
  foldl_keeps (fun u : State => u.lines = s.lines) _ (fun u e h => by rw [State.setEdge_lines]; exact h) _ s rfl

section
variable {s : State}

theorem exec_selfCalibration (h : stageDue s 2 = true) (e : Nat) :
    exec (.selfCalibration e) s = .next (reachStage s 2 e fun s => (setAllEdges s 0).addDueOnce (.selfTest [])) :=
  congrArg Host.Outcome.next (if_pos h)
theorem exec_selfTest (h : stageDue s 3 = true) (l : List Nat) : exec (.selfTest l) s = .next
    (let w := (l.filter fun x => decide (x < 52224)).foldl retireSite s.wafer
     reachStage { s with wafer := { w with retireMac := recordMac w } } 3 0 fun s => s.addDueOnce (.routerTableWrite [])) :=
  congrArg Host.Outcome.next (if_pos h)
theorem exec_routerTableWrite (h : stageDue s 4 = true) (l : List (Nat × Nat × BitVec 64)) : exec (.routerTableWrite l) s =
    .next (reachStage (l.foldl writeDetour (writeTables s)) 4 0 fun s => s.addDueOnce (.initialisation 0)) :=
  congrArg Host.Outcome.next (if_pos h)
/-- The state that INITIALISATION leaves when it succeeds: no byte but zero, INIT, W48READY. -/
def initialised (s : State) : State :=
  let u := setAllEdges { s with mem := [], lines := [] } 1
  { u with wafer := { u.wafer with ready := true, power := .run } }
theorem exec_initialisation (h : stageDue s 5 = true) (e : Nat) : exec (.initialisation e) s = .next (reachStage s 5 e initialised) :=
  congrArg Host.Outcome.next (if_pos h)
end

/-- The site that a bit of the retired-site bitmap names: field, row, column (R511). -/
def siteOfBit (x : Nat) : Nat × Nat × Nat := (x / 1088, x % 1088 / 32, x % 32)

/-- A failing site is retired, whatever the spare rows of its field still cover. -/
theorem retireSite_sites (w : Wafer) (x : Nat) : (retireSite w x).retiredSites = siteOfBit x :: w.retiredSites := by
  unfold retireSite
  dsimp only
  split
  · rfl
  split
  · rfl
  split
  · rfl
  split
  · rfl
  split <;> rfl
/-- So are all of a list. -/
theorem retireSites_sites (l : List Nat) : ∀ w : Wafer, (l.foldl retireSite w).retiredSites = (l.map siteOfBit).reverse ++ w.retiredSites := by
  induction l with
  | nil => intro w; rfl
  | cons x r ih => intro w; simp [ih, retireSite_sites]

/-- Tables just written have no word with an error. -/
theorem cleanRouters_writeTables (s : State) : cleanRouters (writeTables s) = true := by simp [cleanRouters, writeTables]

/-! ## Power off (R527, Table 16.5) -/

/-- A listed value changed is the value of the changed list. -/
theorem mget?_mapped {κ α : Type} [DecidableEq κ] (f : α → α) (m : Map κ α) (k : κ) :
    mget? (m.map fun p => (p.1, f p.2)) k = (mget? m k).map f := by
  induction m with
  | nil => rfl
  | cons p r ih => by_cases h : p.1 = k <;> simp [mget?, h, ih]

/-- Each controller, listed or not, after power is off. -/
theorem mget_keptEdges (m : Map Nat Edge) (e : Nat) : mget (m.map fun p => (p.1, keptEdge p.2)) {} e = keptEdge (mget m {} e) := by
  rw [mget, mget, mget?_mapped]
  cases mget? m e <;> rfl
/-- A controller without power keeps the slots of its reserve tier. -/
theorem slotStore_keptEdge (x : Edge) (k : Nat) : slotStore (keptEdge x) k = slotStore x k := rfl
end Sys2Proof.Machine

namespace Sys2Proof.Proofs
open Sys2Proof.Machine

/-- Settles O60: the fuses, the boot ROM, the later stages and power off, each by its lemmas. -/
theorem powerAndBringUp : Obligations.PowerAndBringUp := by
  unfold Obligations.PowerAndBringUp
  refine ⟨fun s h => congrArg Host.Outcome.next (if_pos h), fun s => ⟨_, rfl, rfl, rfl, rfl, by simp [leaveDoze], rfl, rfl⟩,
    fun f n k b => ⟨unblown?_some f n k b, fun hk => ⟨fusePair_withFuse_same f b hk, fun j hj => fusePair_withFuse_other f b hj⟩⟩,
    ?_, fun s => ⟨rfl, rfl, rfl, romBegins_kept, romBegins_dropped⟩, fun s e h => ⟨_, exec_selfCalibration h e, ?_⟩,
    fun s l h => ⟨_, exec_selfTest h l, ?_⟩, fun s l h => ⟨exec_routerTableWrite h l, rfl, cleanRouters_writeTables s⟩,
    fun s e h => ⟨_, exec_initialisation h e, ?_⟩, fun s => ⟨_, rfl, ?_⟩⟩
  · intro s u h b n top dead blown fails accepts
    rw [exec_powerApplied h]
    refine ⟨fun p ha hp => ?_, fun ha hp hbad => ?_, fun p hacc hp => ?_, fun hacc hp => ?_⟩
    · rw [romRuns_completes ha hp]
      exact ⟨fun hd => congrArg Host.Outcome.next (blowFuse_live hd), fun hd => congrArg Host.Outcome.next (blowFuse_dead hd)⟩
    · rw [romRuns_refuses ha hp hbad]
      rfl
    · rw [romRuns_raises hacc hp]
      exact ⟨fun hd => congrArg Host.Outcome.next (blowFuse_live hd), fun hd => congrArg Host.Outcome.next (blowFuse_dead hd)⟩
    · obtain ⟨hstage, herror, hdstate, hfuses, hdue, hmem⟩ := romEnds_spec (withAccepted u true)
      exact ⟨_, congrArg Host.Outcome.next (romRuns_ends hacc hp), hstage, herror, hdstate, hfuses, hdue,
        hmem.trans ((withAccepted_mem u true).trans (romStart_mem h))⟩
  · by_cases he : e = 0
    · subst he
      simp [reachStage_ok, State.mem_addDueOnce]
    · simp [reachStage_error _ _ he, he]
  · simp only [reachStage_ok, State.addDueOnce_wafer]
    exact ⟨trivial, trivial, retireSites_sites _ _, rfl, State.mem_addDueOnce ..⟩
  · by_cases he : e = 0
    · subst he
      simp [reachStage_ok, initialised]
    · simp [reachStage_error _ _ he, he]
  · refine ⟨rfl, rfl, rfl, rfl, rfl, rfl, rfl, rfl, rfl, fun t c => rfl, fun e => ?_⟩
    have hedge := mget_keptEdges s.edges e
    exact ⟨(congrArg (slotStore · 0) hedge).trans (slotStore_keptEdge _ 0), (congrArg (slotStore · 1) hedge).trans (slotStore_keptEdge _ 1)⟩

end Sys2Proof.Proofs
end

section
/-! PROOFS, decoding: fields packed as they were unpacked, what a word that decodes gives, the unallocated majors (R53, R67, Tables 2.2 to 2.4). -/

namespace Sys2Proof

/-! ## Fields packed as they were unpacked -/

@[simp] theorem flagNat_field1 (n k : Nat) : flagNat (field1 n k) = n / 2 ^ k % 2 := by
  rcases Nat.mod_two_eq_zero_or_one (n / 2 ^ k) with h | h <;> simp [flagNat, field1, h]

/-- Table 2.2: the four fields fill a head. -/
theorem packHead_unpackHead {n : Nat} (h : n < 2 ^ 16) : packHead (unpackHead n) = n := by
  simp only [packHead, unpackHead, field2, field4, field6]
  omega

/-- The fields of an X tail fill its half-word. -/
theorem packX_unpackX (n : Nat) : packX (unpackX n) = n % 2 ^ 16 := by
  simp only [packX, unpackX, field2, field4, flagNat_field1]
  omega

/-- So do those of the upper half of an XD tail. -/
theorem packU_unpackU (n : Nat) : packU (unpackU n) = n % 2 ^ 16 := by
  simp only [packU, unpackU, field4, field5, flagNat_field1]
  omega

/-- Bits of a tail of each layout (Table 2.4). -/
def Layout.bits : Layout → Nat
  | .none => 0
  | .x | .k | .j | .i16 => 16
  | .xd | .kl | .jl | .i32 => 32
  | .xi | .i64 => 64

/-- Table 2.4: the fields of each layout fill its tail. -/
theorem packTail_unpackTail {n : Nat} {l : Layout} (h : n < 2 ^ l.bits) : packTail (unpackTail n l) = n := by
  cases l <;>
    simp only [Layout.bits] at h <;>
    simp only [unpackTail, packTail, packX_unpackX, packU_unpackU, field4, BitVec.toNat_ofNat] <;>
    omega

/-- A major gives each tail length a layout of that length (R53). -/
theorem layoutOf_bits {m : Nat} {c : Fin 4} {l : Layout} (h : layoutOf m c = some l) : l.bits = 16 * tailUnits c.val := by
  unfold layoutOf at h
  split at h <;> fin_cases c <;> cases h <;> rfl

/-! ## What a word that decodes gives -/

/-- The decoder's checks (R78): the major lists the tail length, and the fields are those of a well-formed instruction. -/
theorem decodeInstr_ok {h t : Nat} {i : Instr} (hd : decodeInstr h t = .ok i) :
    ∃ l, layoutOf (unpackHead h).major.val (unpackHead h).tlen = some l ∧ wf i = true ∧ encFields i = some (unpackHead h, unpackTail t l) := by
  unfold decodeInstr at hd
  dsimp only at hd
  split at hd
  · cases hd
  · split at hd
    · cases hd
    · split at hd
      · split at hd
        · cases hd
          exact ⟨_, ‹_›, ‹_›, ‹_›⟩
        · cases hd
      · cases hd

/-- No major from 0x3A on has a layout (R97). -/
theorem layoutOf_reserved {m : Nat} (h : 0x3A ≤ m) (c : Fin 4) : layoutOf m c = none := by
  unfold layoutOf
  split
  case h_59 => rfl
  all_goals omega

end Sys2Proof

namespace Sys2Proof.Proofs
open Sys2Proof

/-- Settles O3: the encoding that the decoder compares with packs to the word it came from. -/
theorem decodedIsCanonical : Obligations.DecodedIsCanonical := by
  unfold Obligations.DecodedIsCanonical
  intro h t i hh ht hd
  obtain ⟨l, hl, hwf, henc⟩ := decodeInstr_ok hd
  have htlen : (unpackHead h).tlen.val = h / 2 ^ 14 := by
    simp only [unpackHead, field2]
    omega
  rw [← htlen, ← layoutOf_bits hl] at ht
  exact ⟨hwf, by rw [encode, henc, Option.map_some, packHead_unpackHead hh, packTail_unpackTail ht]⟩

/-- Settles O4: the decoder meets the missing layout first. -/
theorem reservedMajorsRefused : Obligations.ReservedMajorsRefused := by
  unfold Obligations.ReservedMajorsRefused
  intro h t hm
  have hm : 0x3A ≤ (unpackHead h).major.val := hm
  simp only [decodeInstr, layoutOf_reserved hm, if_pos hm]

end Sys2Proof.Proofs
end

section
/-! PROOFS, issue: what an agent finds at its PC and what the step does with it (R47, R60, R61, R66, R67). -/

namespace Sys2Proof.Machine

/-! ## A step of an agent -/

/-- The step of the agent picked is the issue of what it finds at its PC, and the selectors' bookkeeping. -/
theorem step_agent {s : State} {a : Agent} (h : pick (tick s) = some (.agent a)) :
    step s = issueAgent { tick s with choices := s.choices.tail, cur := a } := by
  simp only [step, stepOnce]
  rw [h]
  rfl

/-- With its code line cached an agent finds there what the line's slot holds. -/
theorem fetch_cached {s : State} {l : CodeLine} (hlo : 0x40000000 ≤ s.getPc.toNat) (hhi : s.getPc.toNat < 0x3FFE0000000000)
    (hl : cachedLine? s s.cur s.getPc.toNat = some l) : fetch s = fetchAt l s.getPc.toNat := by
  have hwin : inEdgeWindow s.getPc.toNat = true := by simp [inEdgeWindow, hlo, hhi]
  simp only [fetch, hwin, hl]
  rfl

theorem fetchAt_illegalLine {l : CodeLine} (h : lineLegal l = false) (pc : Nat) : fetchAt l pc = .illegalLine := if_pos h

/-- A PC that names a head of a legal line finds what its slot decodes to. -/
theorem fetchAt_head {l : CodeLine} {pc : Nat} {i : Instr} (h : lineLegal l = true) (heven : pc % 2 = 0) (hslot : pc % 64 / 2 ≠ 0)
    (hheads : pc % 64 / 2 ≤ heads l) (hd : decodeSlot l (pc % 64 / 2) = .ok i) : fetchAt l pc = .instr i := by
  have hhead : ¬ (pc % 2 = 1 ∨ pc % 64 / 2 = 0 ∨ heads l < pc % 64 / 2) := by omega
  simp only [fetchAt, h, if_neg hhead, hd]
  rfl

/-- An encoding that the decoder refuses is illegal (R67). -/
theorem fetchAt_refused {l : CodeLine} {pc : Nat} {e : DecodeError} (h : lineLegal l = true) (hd : decodeSlot l (pc % 64 / 2) = .error e) :
    fetchAt l pc = .illegalOp := by
  simp only [fetchAt, h, hd]
  exact ite_self _

/-! ## The issue of an instruction -/

theorem issueInstr_illegal {i : Instr} {s : State} (h : legalFor i s.cur = false) : issueInstr i s = .next (raise s (illegalOp s)) := if_pos h

/-- An instruction of the profile that violates no open window runs. -/
theorem issueInstr_runs {i : Instr} {s : State} (h : legalFor i s.cur = true) (hw : lookahead? s.regs (usesOf i) = none) :
    issueInstr i s = runIssued i s := by simp [issueInstr, h, hw]

/-- One that violates a window traps, or waits for older operations (R61). -/
theorem issueInstr_lookahead {i : Instr} {s : State} {tr : Trap} (h : legalFor i s.cur = true) (hw : lookahead? s.regs (usesOf i) = some tr) :
    issueInstr i s = .next (if olderBusy s then { s with retired := false } else raise s tr) := by simp [issueInstr, h, hw]

/-- What violates a window, register by register (R60). -/
theorem violates_iff (w : Window) (u : Uses) : violates w u = true ↔
    (∃ x, x ∈ w.writes ∧ (x ∈ u.reads ∨ x ∈ u.written)) ∨ ∃ x, x ∈ w.readsVec ∧ x ∈ u.written := by
  simp only [violates, Bool.or_eq_true, List.any_eq_true, List.contains_iff_mem]
  grind

/-- A violated window gives the trap of one that is violated; where none is, nothing is (R61). -/
theorem lookahead?_violated {r : Regs} {u : Uses} (hstep : stepping r = false) (h : ∃ w ∈ r.windows, violates w u = true) :
    ∃ w ∈ r.windows, violates w u = true ∧ lookahead? r u = some { code := 0x04, engine := 0, info := w.pc } := by
  obtain ⟨w, hw⟩ := Option.isSome_iff_exists.1 (List.find?_isSome.2 h)
  exact ⟨w, List.mem_of_find?_eq_some hw, List.find?_some (p := fun w => violates w u) hw, by simp [lookahead?, hstep, hw, engScalar]⟩
theorem lookahead?_clear {r : Regs} {u : Uses} (h : ∀ w ∈ r.windows, violates w u = false) : lookahead? r u = none := by
  have hnone : (r.windows.find? fun w => violates w u) = none := List.find?_eq_none.2 fun w hw => by simp [h w hw]
  simp [lookahead?, hnone]

end Sys2Proof.Machine

namespace Sys2Proof.Proofs
open Sys2Proof.Machine

/-- Settles O5: the fetch finds i, and its issue runs it. -/
theorem stepRunsDecodedInstruction : Obligations.StepRunsDecodedInstruction := by
  unfold Obligations.StepRunsDecodedInstruction
  intro s u a l i hpick hu hlo hhi hl hline heven hslot hheads hdec hprof hwin
  subst hu
  let v : State := { tick s with choices := s.choices.tail, cur := a, retired := false }
  have hfetch : fetch v = .instr i := (fetch_cached hlo hhi hl).trans (fetchAt_head hline heven hslot hheads hdec)
  have hissue : issue v = runIssued i v := by
    rw [issue, hfetch]
    exact issueInstr_runs hprof hwin
  rw [step_agent hpick, issueAgent]
  refine (congrArg _ hissue).trans ?_
  simp only [runIssued]
  cases exec i _ <;> rfl

/-- Settles O7: the fetch finds the illegal line or encoding, or the issue an instruction outside the profile. -/
theorem badLinesAndEncodingsTrap : Obligations.BadLinesAndEncodingsTrap := by
  unfold Obligations.BadLinesAndEncodingsTrap
  intro s u v a l hpick hu hv hlo hhi hl
  have hstep : step s = mapNext (noteIssue u) (issue v) := by rw [step_agent hpick, hv, hu]; rfl
  have hfetch : fetch v = fetchAt l u.getPc.toNat := by subst hv hu; exact fetch_cached hlo hhi hl
  refine ⟨fun hline => ?_, fun e hline hdec => ?_, fun i hline heven hslot hheads hdec hprof => ?_⟩
  · rw [hstep, issue, hfetch, fetchAt_illegalLine hline]
    rfl
  · rw [hstep, issue, hfetch, fetchAt_refused hline hdec]
    rfl
  · have hcur : v.cur = a := by rw [hv, hu]
    rw [hstep, issue, hfetch, fetchAt_head hline heven hslot hheads hdec]
    exact congrArg _ (issueInstr_illegal (hcur ▸ hprof))

/-- Settles O8: the statement's three cases are those of a violated window. -/
theorem openWindowTraps : Obligations.OpenWindowTraps := by
  unfold Obligations.OpenWindowTraps
  intro s i r u wr bad hstep hprof
  have hbad (w : Window) : violates w u = true ↔ bad w := violates_iff w u
  refine ⟨fun ⟨w, hw, hwbad⟩ => ?_, fun hnone => ?_⟩
  · obtain ⟨w', hw', hv, hlook⟩ := lookahead?_violated hstep ⟨w, hw, (hbad w).2 hwbad⟩
    refine ⟨fun hidle => ⟨w', hw', (hbad w').1 hv, ?_⟩, fun hbusy => ?_⟩
    · rw [issueInstr_lookahead hprof hlook, hidle]
      rfl
    · rw [issueInstr_lookahead hprof hlook, hbusy]
      rfl
  · exact issueInstr_runs hprof (lookahead?_clear fun w hw => Bool.eq_false_iff.2 fun h => hnone w hw ((hbad w).1 h))

end Sys2Proof.Proofs
end

section
/-! PROOFS, scalar frame: what the fall-through leaves of an agent's registers and of the machine (R47, R64, R152, R167). -/

namespace Sys2Proof.Machine

/-! ## Registers that the loop-end action leaves -/

/-- Registers alike but for the PC, the loop levels and LDEPTH. -/
structure LoopAlike (r q : Regs) : Prop where
  g : q.g = r.g
  fpstat : q.fpstat = r.fpstat
  qflags : q.qflags = r.qflags
  mprog : q.mprog = r.mprog
  tvec : q.tvec = r.tvec
  trcause : q.trcause = r.trcause
  trpc : q.trpc = r.trpc
  traddr : q.traddr = r.traddr
  trinfo : q.trinfo = r.trinfo
  status : ∀ k, k < 4 ∨ 5 < k → bitOf q.status k = bitOf r.status k

namespace LoopAlike

theorem refl (r : Regs) : LoopAlike r r := ⟨rfl, rfl, rfl, rfl, rfl, rfl, rfl, rfl, rfl, fun _ _ => rfl⟩

theorem trans {r q p : Regs} (h : LoopAlike r q) (h' : LoopAlike q p) : LoopAlike r p :=
  ⟨h'.g.trans h.g, h'.fpstat.trans h.fpstat, h'.qflags.trans h.qflags, h'.mprog.trans h.mprog, h'.tvec.trans h.tvec,
    h'.trcause.trans h.trcause, h'.trpc.trans h.trpc, h'.traddr.trans h.traddr, h'.trinfo.trans h.trinfo,
    fun k hk => (h'.status k hk).trans (h.status k hk)⟩

theorem withPc (r : Regs) (n : Word) : LoopAlike r { r with pc := n } := ⟨rfl, rfl, rfl, rfl, rfl, rfl, rfl, rfl, rfl, fun _ _ => rfl⟩

theorem popLevel (r : Regs) (j : Nat) : LoopAlike r (popLevel r j) := by
  have hstatus : ∀ k, k < 4 ∨ 5 < k → bitOf (setFld r.status 5 4 j) k = bitOf r.status k := fun k hk => by
    rw [bitOf_setFld _ _ _ (by decide), if_neg (by omega)]
  unfold Machine.popLevel
  split <;> exact ⟨rfl, rfl, rfl, rfl, rfl, rfl, rfl, rfl, rfl, hstatus⟩

theorem countDown (r : Regs) (j : Nat) : LoopAlike r (countDown r j) := by
  unfold Machine.countDown
  split <;> exact ⟨rfl, rfl, rfl, rfl, rfl, rfl, rfl, rfl, rfl, fun _ _ => rfl⟩

theorem loopEnd (a : Word) : ∀ (n : Nat) (r : Regs), LoopAlike r (loopEnd a n r)
  | 0, r => refl r
  | n + 1, r => by
    unfold Machine.loopEnd
    split
    · split
      · exact (countDown r n).trans (withPc _ _)
      · exact (popLevel r n).trans (loopEnd a n _)
    · exact refl r

theorem successor (r : Regs) (a n : Word) : LoopAlike r (successor r a n) := by
  unfold Machine.successor
  dsimp only
  split
  · exact withPc r n
  · exact (withPc r n).trans (loopEnd a _ _)

end LoopAlike

/-! ## What a result and the fall-through leave of the machine -/

theorem threadOrCore_cases {s : State} (h : Stated.ThreadOrCore s) : (∃ t c, s.cur = .thread t c) ∨ ∃ i k, s.cur = .core i k := by
  cases hc : s.cur with
  | thread t c => exact .inl ⟨t, c, rfl⟩
  | core i k => exact .inr ⟨i, k, rfl⟩
  | zephyr t z => exact absurd hc (h t z)

theorem State.setRegs_thread {s : State} {t c : Nat} (h : s.cur = .thread t c) (d : List Nat) (r : Regs) :
    s.setRegs d r = s.setCtx t c { s.ctx t c with regs := r, dirty := (s.ctx t c).dirty ∪ d } := by rw [State.setRegs, h]; rfl
theorem State.setRegs_core {s : State} {i k : Nat} (h : s.cur = .core i k) (d : List Nat) (r : Regs) :
    s.setRegs d r = s.setCore i k { s.core i k with regs := r } := by rw [State.setRegs, h]; rfl

/-- Contexts x and cores y are those of a state but for the agent whose turn it is. -/
def OwnChanged (s : State) (x : Map (Nat × Nat) Ctx) (y : Map (Nat × Nat) Core) : Prop :=
  (∀ q, (∀ c k, s.cur = .thread c k → q ≠ (c, k)) → mget x {} q = mget s.ctxs {} q) ∧
    ∀ q, (∀ j k, s.cur = .core j k → q ≠ (j, k)) → mget y {} q = mget s.cores {} q

/-- Registers written: of a thread or core nothing but its own context or core. -/
theorem State.setRegs_eq {s : State} (h : Stated.ThreadOrCore s) (d : List Nat) (r : Regs) :
    ∃ x y, s.setRegs d r = { s with ctxs := x, cores := y } ∧ OwnChanged s x y := by
  have hother {κ α : Type} [DecidableEq κ] (m : Map κ α) (z v : α) {q p : κ} (hq : q ≠ p) : mget (mset m p v) z q = mget m z q := by
    rw [mget, mget, mget?_mset_other _ _ hq]
  obtain ⟨t, c, hc⟩ | ⟨i, k, hc⟩ := threadOrCore_cases h
  · exact ⟨_, _, State.setRegs_thread hc d r, fun q hq => hother _ _ _ (hq t c hc), fun _ _ => rfl⟩
  · exact ⟨_, _, State.setRegs_core hc d r, fun _ _ => rfl, fun q hq => hother _ _ _ (hq i k hc)⟩

/-- So does a result with the fall-through. -/
theorem alu_eq {s : State} (h : Stated.ThreadOrCore s) (a : Reg) (v : Word) :
    ∃ x y, alu a v s = { s with ctxs := x, cores := y, retired := true } ∧ OwnChanged s x y := by
  have hset : (s.setG a v).cur = s.cur := State.setG_cur ..
  obtain ⟨r, hr⟩ : ∃ r, alu a v s = { (s.setG a v).setRegs [2, 3] r with retired := true } := ⟨_, rfl⟩
  obtain ⟨x, y, hxy, hx, hy⟩ := State.setRegs_eq h [a.val / 8] { s.regs with g := s.regs.g.set a v }
  obtain ⟨x', y', hxy', hx', hy'⟩ := State.setRegs_eq (s := s.setG a v) (by simpa only [Stated.ThreadOrCore, hset] using h) [2, 3] r
  rw [hset] at hx' hy'
  have hg : s.setG a v = { s with ctxs := x, cores := y } := hxy
  rw [hg] at hx' hy' hxy'
  exact ⟨x', y', by rw [hr, hg, hxy'], fun q hq => (hx' q hq).trans (hx q hq), fun q hq => (hy' q hq).trans (hy q hq)⟩

/-- The registers after a result and the fall-through. -/
theorem alu_regs {s : State} (h : Stated.ThreadOrCore s) (a : Reg) (v : Word) :
    LoopAlike { s.regs with g := s.regs.g.set a v } (alu a v s).regs := by
  have h' : Stated.ThreadOrCore (s.setG a v) := by simpa [Stated.ThreadOrCore] using h
  have hset : (s.setG a v).regs = { s.regs with g := s.regs.g.set a v } := State.regs_setRegs h _ _
  have hret : (alu a v s).regs = successor (s.setG a v).regs _ _ := State.regs_setRegs h' [2, 3] _
  rw [hret, hset]
  exact LoopAlike.successor _ _ _

/-- Each instruction of intValue writes a value of the registers to its destination and falls through. -/
theorem exec_intValue {s : State} {i : Instr} {a : Reg} {v : Word} (h : Stated.intValue s i = some (a, v)) :
    ∃ f, exec i s = execAlu a f s := by
  unfold Stated.intValue at h
  split at h <;> cases h <;> (delta exec; exact ⟨_, rfl⟩)

end Sys2Proof.Machine

namespace Sys2Proof.Proofs
open Sys2Proof.Machine

/-- Settles O13: such an instruction is a result and the fall-through, whose frames are alu_regs and alu_eq. -/
theorem scalarFrame : Obligations.ScalarFrame := by
  unfold Obligations.ScalarFrame
  intro s t i a v hc hi ht
  obtain ⟨f, hf⟩ := exec_intValue hi
  rw [hf, execAlu_next hc] at ht
  cases ht
  obtain ⟨_, hfpstat, hqflags, hmprog, htvec, htrcause, htrpc, htraddr, htrinfo, hstatus⟩ := alu_regs hc a (f s)
  refine ⟨fun r hr => alu_getG_other hc _ hr, hfpstat, hqflags, hmprog, htvec, htrcause, htrpc, htraddr, htrinfo, hstatus, ?_⟩
  obtain ⟨x, y, heq, hctx, hcore⟩ := alu_eq hc a (f s)
  rw [heq]
  exact ⟨fun _ => rfl, fun _ => rfl, ⟨x, y, rfl⟩, hctx, hcore⟩

end Sys2Proof.Proofs
end

section
/-! PROOFS, transfers: the fall-through address, the target of a branch, what a taken transfer does, and a target that cannot be read
(R47, R48, R55, R158, R168). -/

namespace Sys2Proof.Machine

/-! ## NEXT (R47) -/

/-- The address that a fall-through takes is that of the code line cached, when no outstanding instruction has kept its own. -/
theorem nextPc_cached {s : State} {a : Agent} {n : Nat} {l : CodeLine} (hkept : keptNext s a = none) (hl : cachedLine? s a n = some l) :
    nextPc s a n = nextOn l n % 2 ^ 54 := by
  simp only [nextPc, hkept, readCodeLine, hl]

theorem keptNext_none {s : State} {a : Agent} (h : ∀ t c, a = .thread t c → (s.ctx t c).succ = none) : keptNext s a = none := by
  cases a with
  | thread t c => exact h t c rfl
  | _ => rfl

theorem State.regs_retire {s : State} (h : Stated.ThreadOrCore s) :
    s.retire.regs = successor s.regs s.regs.pc (w64 (nextPc s s.cur s.regs.pc.toNat)) := State.regs_setRegs h [2, 3] _

/-- Outside any loop the fall-through is all (R167). -/
theorem successor_noLoop {r : Regs} (h : ldepth r = 0) (a n : Word) : successor r a n = { r with pc := n } := by
  have h' : ldepth { r with pc := n } = 0 := h
  unfold successor
  dsimp only
  rw [h']
  exact ite_self _

/-! ## What a taken transfer does to the registers (R168) -/

/-- A transfer that pops, outside a trap handler. -/
theorem transfer_pops {r : Regs} (h : intrap r = false) (t : Nat) : transfer r t true = popOutside t (ldepth r) { r with pc := w64 t } := by
  have h' : intrap { r with pc := w64 t } = false := h
  unfold transfer
  dsimp only
  rw [h']
  rfl

theorem transfer_intrap {r : Regs} (h : intrap r = true) (t : Nat) : transfer r t true = { r with pc := w64 t } := by
  have h' : intrap { r with pc := w64 t } = true := h
  unfold transfer
  dsimp only
  rw [h']
  rfl

theorem transfer_noLoop {r : Regs} (h : ldepth r = 0) (t : Nat) : transfer r t true = { r with pc := w64 t } := by
  cases hi : intrap r with
  | true => exact transfer_intrap hi t
  | false => rw [transfer_pops hi, h]; rfl

theorem popOutside_inside {t j : Nat} {r : Regs} (h : (ltop r j).toNat ≤ t ∧ t ≤ (llast r j).toNat) : popOutside t (j + 1) r = r := if_pos h
theorem popOutside_outside {t j : Nat} {r : Regs} (h : ¬ ((ltop r j).toNat ≤ t ∧ t ≤ (llast r j).toNat)) :
    popOutside t (j + 1) r = popOutside t j (popLevel r j) := if_neg h

theorem State.regs_jump {s : State} (h : Stated.ThreadOrCore s) (t : Nat) (p : Bool) : (s.jump t p).regs = transfer s.regs t p :=
  State.regs_setRegs h [2, 3] _

/-! ## Instructions that transfer control -/

theorem runInstr_congr {p : Profile} {s : State} {f g : State → Except Stop State} (h : f s = g s) : runInstr p s f = runInstr p s g := by
  simp only [runInstr, h]

/-- R55, in natural numbers. -/
theorem jTarget_eq (pc : Word) (l : Int) (k : Nat) : jTarget pc l k = Stated.target pc l k := by
  simp only [jTarget, Stated.target, addrOf]
  push_cast
  rfl

/-- A transfer whose target R48 accepts. -/
theorem takeTransfer_valid {s : State} {t : Nat} (h : Stated.ValidTarget s t) (link pops : Bool) :
    takeTransfer t link pops s =
      .ok ((if link then s.setG 14 (w64 (nextPc s s.cur s.getPc.toNat)) else s).jump t pops) := by
  obtain ⟨l, hl⟩ := h
  simp only [takeTransfer, hl]

/-- Every branch tests the condition of branchOf and has its target. -/
theorem exec_branchOf {s : State} {i : Instr} {b : Bool} {l : Int} {k : Nat} (h : Stated.branchOf s i = some (b, l, k)) :
    ∃ cond, exec i s = execBranch cond l k s ∧ cond s = b := by
  unfold Stated.branchOf at h
  split at h <;> cases h <;> (delta exec; exact ⟨_, rfl, by simp [BitVec.slt, BitVec.sle, BitVec.ult, BitVec.ule, bne, beq_eq_decide]⟩)

/-- Every jump of a movement program tests the condition of jumpOf and has its target. -/
theorem exec_jumpOf {s : State} {i : Instr} {r : ZReq} {b : Bool} {l : Int} {k : Nat} (h : Stated.jumpOf r i = some (b, l, k)) :
    ∃ cond, exec i s = execZjump cond l k s ∧ cond r = b := by
  unfold Stated.jumpOf at h
  split at h <;> cases h <;> (delta exec; exact ⟨_, rfl, by simp [zreg, bne, beq_eq_decide]⟩)

/-- A branch that is not taken falls through; one that is taken is the transfer. -/
theorem execBranch_eq {s : State} {cond : State → Bool} {b : Bool} (h : cond s = b) (l : Int) (k : Nat) :
    execBranch cond l k s =
      runInstr profBoth s fun s => if b then takeTransfer (Stated.target s.getPc l k) false true s else .ok s.retire :=
  runInstr_congr (by rw [h, branchIf, jTarget_eq])

/-- So it is of a movement program's jump, which pops nothing. -/
theorem execZjump_eq {s : State} {t z : Nat} {r : ZReq} {cond : ZReq → Bool} {b : Bool} (hc : s.cur = .zephyr t z)
    (hr : s.zreqOf? t z = some r) (h : cond r = b) (l : Int) (k : Nat) :
    execZjump cond l k s =
      runInstr zprogram s fun s => if b then takeTransfer (Stated.target s.getPc l k) false false s else .ok s.retire :=
  runInstr_congr (by simp only [zephyrBody, hc, hr, h, jTarget_eq])

end Sys2Proof.Machine

namespace Sys2Proof.Proofs
open Sys2Proof.Machine

/-- Settles O15: the line cached gives NEXT, and outside any loop retirement moves the PC there. -/
theorem nextOnCodeLine : Obligations.NextOnCodeLine := by
  unfold Obligations.NextOnCodeLine
  intro s l hl hsucc n
  have hnext : nextPc s s.cur s.getPc.toNat = n % 2 ^ 54 := nextPc_cached (keptNext_none hsucc) hl
  refine ⟨hnext, fun hc hdepth => ?_⟩
  rw [State.getPc, State.regs_retire hc, successor_noLoop hdepth]
  exact congrArg w64 hnext

/-- Settles O16: the pops by depth, then each branch as branchIf and each jump of a program as a transfer. -/
theorem branchesTransfer : Obligations.BranchesTransfer := by
  unfold Obligations.BranchesTransfer
  refine ⟨?_,
    fun s T pops hc => ⟨rfl, State.regs_jump hc T pops, State.jump_mem ..⟩, fun s i b l k hc hb => ?_, fun s i t z r b l k hc hr hb => ?_⟩
  · intro r T q p0 p1 p10 in0 in1
    refine ⟨rfl, fun h => transfer_intrap h T, fun h => transfer_noLoop h T, fun hi hd => ?_, fun hi hd => ?_⟩
    · rw [transfer_pops hi, hd]
      exact ⟨fun h => popOutside_inside h, fun h => popOutside_outside h⟩
    · rw [transfer_pops hi, hd]
      exact ⟨fun h => popOutside_inside h, fun h1 h0 => (popOutside_outside h1).trans (popOutside_inside h0),
        fun h1 h0 => (popOutside_outside h1).trans (popOutside_outside h0)⟩
  · obtain ⟨cond, hexec, hcond⟩ := exec_branchOf hb
    rw [hexec, execBranch_eq hcond]
    have hprof := profBoth_allows _ hc
    exact ⟨fun h => runInstr_ok hprof (if_neg (by rw [h]; decide)),
      fun h hv => runInstr_ok hprof ((if_pos h).trans (takeTransfer_valid hv false true))⟩
  · obtain ⟨cond, hexec, hcond⟩ := exec_jumpOf (s := s) hb
    rw [hexec, execZjump_eq hc hr hcond]
    have hprof : zprogram.allows s.cur = true := by rw [hc]; rfl
    exact ⟨fun h => runInstr_ok hprof (if_neg (by rw [h]; decide)),
      fun h hv => runInstr_ok hprof ((if_pos h).trans (takeTransfer_valid hv false false))⟩

end Sys2Proof.Proofs
end

section
/-! PROOFS, a transfer to a hole: the trap that a transfer of an island core takes when its target lies in no listed memory (R35, R48, R136). -/

namespace Sys2Proof.Machine

/-- A change of tenant leaves the cause recorded. -/
@[simp] theorem newTenancy_ecause (s : State) (i k old : Nat) : ((newTenancy s i k old).core i k).ecause = (s.core i k).ecause := by
  unfold newTenancy
  dsimp only
  split <;> simp

/-- What an exception records as its cause. -/
theorem enterException_ecause (s : State) (i k t : Nat) (cause addr info epc : Word) :
    ((enterException s i k t cause addr info epc).core i k).ecause = cause := by simp [enterException]

/-- The cause of a core's exception names the trap's engine and code (Table 5.5). -/
theorem raise_ecause {s : State} {i k : Nat} (h : s.cur = .core i k) (tr : Trap) :
    ((raise s tr).core i k).ecause = causeWord false tr.engine tr.code := by
  rw [raise_core h]
  exact enterException_ecause ..

/-- jr to a target that R48 refuses: the trap names the engine of the transfer itself (R136). -/
theorem exec_jr_refused {s : State} {b : Reg} {tr : Trap} (hc : Stated.ThreadOrCore s)
    (h : checkTarget s s.cur s.getPc (addrOf (s.getG b)) = .error (.trap tr)) (h2 : tr.code ≠ 0x02) (h9 : tr.code ≠ 0x09)
    (hE : tr.code ≠ 0x1E) : exec (.jr b) s = .next (raise s { tr with engine := 0 }) := by
  have hbody : takeTransfer (addrOf (s.getG b)) false true s = .error (.trap tr) := by simp only [takeTransfer, h]
  refine (runInstr_error (profBoth_allows _ hc) hbody : execJr b s = _).trans ?_
  rw [ownEngine_trap h2 h9 hE]
  rfl

/-- A level-0 core that issues physical addresses, its registers holding one that no row of Table 1.6 lists. -/
def coreAtHole : State :=
  { State.reset with cur := .core 0 0, cores := [((0, 0), { regs := { g := Vector.replicate 16 0x60000000002 } })] }

theorem readCodeLine_coreAtHole : readCodeLine coreAtHole coreAtHole.cur 0x60000000002 = .error (.hole 0x60000000000) := by
  rfl

end Sys2Proof.Machine

namespace Sys2Proof.Proofs
open Sys2Proof.Machine

/-- Refutes O18: the record of a target in a hole names the engine of the transfer, 0, and not that of PHYSHOLE's own, 1, which the statement's
xTrap gives. -/
theorem not_badTargetTraps : ¬ Obligations.BadTargetTraps := by
  unfold Obligations.BadTargetTraps
  intro h
  have hc : Stated.ThreadOrCore coreAtHole := fun _ _ => Agent.noConfusion
  obtain ⟨_, htraps, _⟩ := h coreAtHole 0x60000000002 hc
  obtain ⟨_, _, hjr, _⟩ := htraps _ (by decide) (by decide) (by decide) readCodeLine_coreAtHole
  have hstated := (hjr 0 rfl).2
  have hactual := exec_jr_refused (s := coreAtHole) (b := 0) hc rfl (by decide) (by decide) (by decide)
  rw [hactual] at hstated
  have hcause := congrArg (fun u => (u.core 0 0).ecause) (Host.Outcome.next.inj hstated)
  simp only [raise_ecause (s := coreAtHole) rfl] at hcause
  exact absurd hcause (by decide)

end Sys2Proof.Proofs
end

section
/-! PROOFS, vector lanes: a register put together from lanes, and the lane functions of the vector engine against those of the statements
(R57, R227, R228, R235 to R238, R243, R244). -/

namespace Sys2Proof.Machine

/-! ## A register from its lanes (R227, R228) -/

theorem packLanes_lt (w : Nat) (l : List Nat) : packLanes w l < 2 ^ (w * l.length) := by
  induction l with
  | nil => simp [packLanes]
  | cons x r ih =>
    have hx : x % 2 ^ w < 2 ^ w := Nat.mod_lt _ (Nat.two_pow_pos w)
    have hstep : 2 ^ w * (packLanes w r + 1) ≤ 2 ^ w * 2 ^ (w * r.length) := Nat.mul_le_mul_left _ ih
    rw [packLanes, List.length_cons, Nat.mul_succ, Nat.add_comm (w * r.length), Nat.pow_add]
    rw [Nat.mul_succ] at hstep
    omega

/-- Lane k of lanes put together. -/
theorem packLanes_lane (w : Nat) : ∀ (l : List Nat) (k : Nat), packLanes w l / 2 ^ (w * k) % 2 ^ w = l.getD k 0 % 2 ^ w
  | [], k => by simp [packLanes]
  | x :: r, 0 => by simp [packLanes]
  | x :: r, k + 1 => by
    have hx : x % 2 ^ w / 2 ^ w = 0 := Nat.div_eq_of_lt (Nat.mod_lt _ (Nat.two_pow_pos w))
    rw [packLanes, Nat.mul_succ, Nat.add_comm (w * k), Nat.pow_add, ← Nat.div_div_eq_div_mul, Nat.add_mul_div_left _ _ (Nat.two_pow_pos w),
      hx, Nat.zero_add, packLanes_lane w r k, List.getD_cons_succ]

/-- Lane k of a register made of lanes that fit it. -/
theorem lane_ofLanes {w : Nat} {l : List Nat} (h : w * l.length ≤ 256) (k : Nat) : lane (ofLanes w l) w k = l.getD k 0 % 2 ^ w := by
  have hlt : packLanes w l < 2 ^ 256 := (packLanes_lt w l).trans_le (Nat.pow_le_pow_right (by decide) h)
  rw [lane, ofLanes, BitVec.toNat_ofNat, Nat.mod_eq_of_lt hlt, packLanes_lane]

theorem hasLanes_ofLanes {w : Nat} (f : Nat → Nat) : Stated.HasLanes (ofLanes w ((List.range (256 / w)).map f)) w f := by
  intro k hk
  rw [lane_ofLanes (by rw [List.length_map, List.length_range]; exact Nat.mul_div_le 256 w), List.getD_eq_getElem _ _ (by simpa using hk)]
  simp

theorem hasLanes_congr {v : Vec} {w : Nat} {f g : Nat → Nat} (h : Stated.HasLanes v w f) (hfg : ∀ k, f k % 2 ^ w = g k % 2 ^ w) :
    Stated.HasLanes v w g := fun k hk => (h k hk).trans (hfg k)

/-! ## The lane functions -/

/-- Two results of a lane of w bits: the same bits and the same flags. -/
def SameLane (w : Nat) (p q : Nat × Word) : Prop := p.1 % 2 ^ w = q.1 % 2 ^ w ∧ p.2 = q.2

theorem SameLane.of_eq {w : Nat} {p q : Nat × Word} (h : p = q) : SameLane w p q := h ▸ ⟨rfl, rfl⟩

theorem laneWidth_pos (fmt : Nat) : 0 < laneWidth fmt := by
  unfold laneWidth
  split <;> decide

/-- A signed lane is the sign extension of its bits. -/
theorem slane_eq {w : Nat} (h : 0 < w) (x : Nat) : Stated.slane w x = sextN x w := by
  obtain ⟨v, rfl⟩ := Nat.exists_eq_add_of_lt h
  have hpow : 2 ^ (0 + v + 1) = 2 * 2 ^ v := by rw [Nat.zero_add, Nat.pow_succ, Nat.mul_comm]
  simp only [Stated.slane, sextN, BitVec.toInt_eq_toNat_cond, BitVec.toNat_ofNat, Nat.zero_add, Nat.add_sub_cancel] at *
  simp only [hpow]
  push_cast
  split <;> split <;> omega

/-- SAT is the bound from both sides. -/
theorem sat_eq (x lo hi : Int) (h : lo ≤ hi) : sat x lo hi = max lo (min hi x) := by
  unfold sat
  split
  · omega
  · split <;> omega

/-- An integer result in its lane (R57, R98). -/
theorem intFinal_eq (w : Nat) (clamp : Bool) (y : Int) : intFinal w clamp y = Stated.intLane w clamp y := by
  have hpos : (0 : Int) < 2 ^ (w - 1) := by positivity
  rw [intFinal, Stated.intLane, sat_eq _ _ _ (by omega)]

theorem arithLane_eq (fmt : Nat) (m : FMods) (fp : RMode → FpVal → FpVal → FpVal → Exact × Word) (int : Int → Int → Int → Int) (b c e : Nat) :
    arithLane fmt m fp int b c e = Stated.arith fmt m (fp (RMode.ofCode m.rm)) int b c e := by
  unfold arithLane Stated.arith
  cases fpCode fmt with
  | some f => rfl
  | none => simp only [slane_eq (laneWidth_pos fmt), intFinal_eq]

theorem arith2_eq (fmt : Nat) (m : FMods) (fp : RMode → FpVal → FpVal → Exact × Word) (int : Int → Int → Int) (b c e : Nat) :
    arith2 fmt m fp int b c e = Stated.arith fmt m (fun x y _ => fp (RMode.ofCode m.rm) x y) (fun x y _ => int x y) b c 0 := arithLane_eq ..

theorem unaryLane_eq {fmt : Nat} {f : FpFmt} (h : fpCode fmt = some f) (m : FMods) (op : FpFmt → FpVal → Nat × Word) (b c e : Nat) :
    unaryLane fmt m op b c e = Stated.unary f m (op f) b c e := by
  simp only [unaryLane, h]
  rfl

theorem cmpHolds_eq (cond : Nat) (lt eq : Bool) : cmpHolds cond lt eq = Stated.condHolds cond lt eq := by
  match cond with
  | 0 | 1 | 2 | 3 => rfl
  | n + 4 => simp [cmpHolds, Stated.condHolds]

theorem cmpLane_eq (fmt cond : Nat) (m : FMods) (b c e : Nat) : cmpLane fmt cond m b c e = Stated.compareLane fmt cond m b c := by
  simp only [cmpLane, Stated.compareLane, cmpHolds_eq, slane_eq (laneWidth_pos fmt)]
  rfl

theorem intPick_eq {w : Nat} (h : 0 < w) (max : Bool) (b c : Nat) :
    intPick w max b c = if (if max then Stated.slane w b < Stated.slane w c else Stated.slane w c < Stated.slane w b) then c else b := by
  simp only [intPick, slane_eq h]

/-- vshl and vshr, before the lane is cut to its width. -/
theorem shiftLane_same (w : Nat) (left : Bool) (b c e : Nat) :
    SameLane w (shiftLane w left b c e) (if w ≤ c then 0 else if left then b * 2 ^ c else b / 2 ^ c, 0) := by
  unfold shiftLane
  cases left <;> by_cases h : w ≤ c <;> simp [SameLane, h]

/-! ## The instructions -/

/-- Each lane-by-lane instruction maps its lanes by a function that agrees with that of laneOf. -/
theorem exec_laneOf {s : State} {i : Instr} {fmt : Nat} {a : Reg} {l : List Reg} {f : Nat → Nat → Nat → Nat × Word}
    (h : Stated.laneOf i = some (fmt, a, l, f)) :
    ∃ g, exec i s = execVec l 1 (fun _ => mapLanes a fmt g) s ∧ ∀ x y z, SameLane (laneWidth fmt) (g x y z) (f x y z) := by
  cases i <;> try contradiction
  all_goals delta exec
  case vadd | vsub | vmul =>
    cases h
    exact ⟨_, rfl, fun x y z => .of_eq (arith2_eq ..)⟩
  case vfma =>
    cases h
    exact ⟨_, rfl, fun x y z => .of_eq (arithLane_eq ..)⟩
  case vmin | vmax =>
    cases h
    refine ⟨_, rfl, fun x y z => .of_eq ?_⟩
    simp only [pickLane, intPick_eq (laneWidth_pos _)]
    rfl
  case vrnd z b c m | vsqrt z b c m la =>
    obtain ⟨e, he, h⟩ := Option.map_eq_some_iff.1 h
    cases h
    exact ⟨_, rfl, fun x y z => .of_eq (unaryLane_eq he ..)⟩
  case vdiv z b c d m la =>
    obtain ⟨e, he, h⟩ := Option.map_eq_some_iff.1 h
    cases h
    exact ⟨_, rfl, fun x y z => .of_eq (arith2_eq ..)⟩
  case vcmp =>
    cases h
    exact ⟨_, rfl, fun x y z => .of_eq (cmpLane_eq ..)⟩
  case vsel | vmov =>
    cases h
    exact ⟨_, rfl, fun x y z => .of_eq rfl⟩
  case vshl | vshr =>
    cases h
    exact ⟨_, rfl, shiftLane_same _ _⟩

/-- A lane-by-lane instruction of a thread whose operands are there writes what mapLanes makes of them. -/
theorem execVec_operands {s u : State} {t c : Nat} {l : List Reg} {vs : List (List Vec)} {n : Nat} (f : State → List (List Vec) → VResult)
    (hc : s.cur = .thread t c) (hext : (s.ctx t c).extResident = true) (h : operands s t c l n = .ok (vs, u)) :
    execVec l n f s = .next (putResult u t c (f s vs)) :=
  runInstr_ok (by rw [hc]; rfl) (by simp [vecBody, hc, hext, h])

/-- Flags ORed over lanes. -/
theorem foldl_flags {α : Type} (l : List α) (g : α → Nat × Word) (x : Word) :
    (l.map g).foldl (fun x y => x ||| y.2) x = l.foldl (fun x k => x ||| (g k).2) x := List.foldl_map

end Sys2Proof.Machine

namespace Sys2Proof.Proofs
open Sys2Proof.Machine

/-- Settles O31: the lanes that mapLanes puts together are those of laneOf, cut to their width. -/
theorem vectorLanes : Obligations.VectorLanes := by
  unfold Obligations.VectorLanes
  intro s u t c fmt i a l f vs hlane hc hext hops w at_
  obtain ⟨g, hexec, hg⟩ := exec_laneOf (s := s) hlane
  let own (k : Nat) : Nat × Word := g (lane (opnd vs 0) w k) (lane (opnd vs 1) w k) (lane (opnd vs 2) w k)
  have hsame (k : Nat) : SameLane w (own k) (at_ k) := hg _ _ _
  refine ⟨_, hasLanes_congr (hasLanes_ofLanes fun k => (own k).1) fun k => (hsame k).1, ?_⟩
  rw [hexec, execVec_operands _ hc hext hops, mapLanes]
  simp only [List.map_map, foldl_flags]
  have hflags : (fun (x : Word) k => x ||| (own k).2) = fun x k => x ||| (at_ k).2 := by
    funext x k
    rw [(hsame k).2]
  rw [← hflags]
  rfl

end Sys2Proof.Proofs
end

section
/-! PROOFS, table interpolation: an emptied name, a load begun, and the five instructions on a thread (R255, R256, R259 to R267). -/

namespace Sys2Proof.Machine

/-! ## Names -/

theorem mget?_mdel_same {κ α : Type} [DecidableEq κ] (m : Map κ α) (k : κ) : mget? (mdel m k) k = none := by
  induction m with
  | nil => rfl
  | cons p r ih =>
    by_cases h : p.1 = k
    · simpa [mdel, h] using ih
    · simpa [mdel, mget?, h] using ih

theorem mget?_mdel_other {κ α : Type} [DecidableEq κ] (m : Map κ α) {k j : κ} (h : j ≠ k) : mget? (mdel m k) j = mget? m j := by
  induction m with
  | nil => rfl
  | cons p r ih =>
    by_cases hk : p.1 = k
    · simpa [mdel, mget?, hk, Ne.symm h] using ih
    · by_cases hj : p.1 = j
      · simp [mdel, mget?, hj, h]
      · simpa [mdel, mget?, hk, hj] using ih

/-- The block of an emptied name has every other name as before. -/
theorem block_emptyName (s : State) (h n : Nat) :
    (emptyName s h n).block? h = (s.block? h).map fun b => { b with itabs := mdel b.itabs n } := by
  unfold emptyName
  cases hb : s.block? h with
  | none => exact hb
  | some b => exact State.block_setBlock_same ..

theorem tableSource_emptyName_same (s : State) (h n : Nat) : tableSource? (emptyName s h n) h n = none := by
  rw [tableSource?, block_emptyName]
  cases s.block? h with
  | none => rfl
  | some b => exact mget?_mdel_same ..

theorem tableSource_emptyName_other (s : State) (h : Nat) {n m : Nat} (hm : m ≠ n) :
    tableSource? (emptyName s h n) h m = tableSource? s h m := by
  rw [tableSource?, tableSource?, block_emptyName]
  cases s.block? h with
  | none => rfl
  | some b => exact mget?_mdel_other _ hm

theorem emptyName_mem (s : State) (h n : Nat) : (emptyName s h n).mem = s.mem := by
  unfold emptyName
  split <;> rfl

/-! ## A load begun (R256, R263) -/

/-- Ranges registered: nothing but the tables of ranges changes. -/
structure RangesOnly (s u : State) : Prop where
  cur : u.cur = s.cur
  mem : u.mem = s.mem
  ctxs : u.ctxs = s.ctxs
  ibufs : ∀ t, (u.tile t).ibufs = (s.tile t).ibufs

theorem registerRanges_only (l : List RangeSpec) (s : State) : RangesOnly s (registerRanges s l) := by
  refine foldl_keeps (RangesOnly s) _ (fun u p h => ?_) l s ⟨rfl, rfl, rfl, fun _ => rfl⟩
  refine ⟨h.cur, h.mem, h.ctxs, fun t => ?_⟩
  by_cases ht : t = p.1
  · subst ht
    simpa using h.ibufs p.1
  · rw [State.tile_setTile_other _ _ _ _ ht, h.ibufs]

/-- The ranges that a load of the table at p registers for a thread. -/
def loadRanges (s : State) (t c : Nat) (p : Word) : List RangeSpec :=
  rangeSpecs { s with nextId := s.nextId + 1 } t (s.ctx t c).handle (blockTenant { s with nextId := s.nextId + 1 } (s.ctx t c).handle) 3
    s.nextId (s.ctx t c).task false (addrOf p) 4160

/-- The buffer that a load of name n fills. -/
def loadBuffer (s : State) (t c n : Nat) (p : Word) (op : Option TableUse) : IBuffer :=
  { handle := namesOf s t c, name := n, loading := true, image := [], addr := p, req := s.nextId, task := (s.ctx t c).task,
    refetch := op.isSome, ctx := some c, op := op }

/-- A load begins when a buffer can be claimed and its range fits: the thread waits for it, its step is due, its buffer stands first. -/
theorem startLoad_ok {s : State} {t c n : Nat} {p : Word} {op : Option TableUse} {l : List IBuffer} (hc : s.cur = .thread t c)
    (hclaim : claimBuffer (s.tile t).ibufs (namesOf s t c) n = some l)
    (hfit : rangesFit { s with nextId := s.nextId + 1 } (loadRanges s t c p) = true) :
    ∃ u, startLoad s t c n p op = .ok u ∧ (u.ctx t c).awaiting = some s.nextId ∧ loadStep op.isSome t (namesOf s t c) n ∈ u.due ∧
      (u.tile t).ibufs = loadBuffer s t c n p op :: l ∧ u.mem = s.mem ∧ u.getPc = s.getPc := by
  let s₁ : State := { s with nextId := s.nextId + 1 }
  let s₂ := setBufs s₁ t (loadBuffer s t c n p op :: l)
  obtain ⟨hcur, hmem, _, hibufs⟩ := registerRanges_only (loadRanges s t c p) s₂
  let s₃ := (registerRanges s₂ (loadRanges s t c p)).setCtx t c { s.ctx t c with awaiting := some s.nextId }
  have hfit' : ¬ rangesFit s₁ (loadRanges s t c p) = false := by rw [hfit]; decide
  have hstart : startLoad s t c n p op = .ok (s₃.addDueOnce (loadStep op.isSome t (namesOf s t c) n)) := by
    simp only [startLoad, hclaim]
    exact if_neg hfit'
  refine ⟨_, hstart, ?_, State.mem_addDueOnce .., ?_, ?_, ?_⟩
  · simp [s₃]
  · simp only [s₃, State.tile_addDueOnce, State.tile_setCtx, hibufs]
    simp [s₂, setBufs]
  · simp only [s₃, State.addDueOnce_mem, State.setCtx_mem, hmem]
    rfl
  · have hcur' : (s₃.addDueOnce (loadStep op.isSome t (namesOf s t c) n)).cur = .thread t c := by
      simp only [s₃, State.addDueOnce_cur, State.setCtx_cur, hcur]
      exact hc
    simp only [State.getPc, State.regs, hcur', hc, State.regsOf]
    simp [s₃]

/-! ## The instructions of a thread -/

/-- The lane function of an iev or iseg on a table image. -/
def lookupLane (u : TableUse) (img : List Byte) : Nat → Nat × Word :=
  match u.mods with
  | some m => ievLane img (interpFmt u.fmt) m
  | none => isegLane img (interpFmt u.fmt)

/-- The lanes that the engine writes, with the flags of all of them. -/
theorem interpRegs_lanes (a : Reg) (f : FpFmt) (op : Nat → Nat × Word) (vs : List (List Vec)) :
    ∃ v, Stated.HasLanes v f.width (fun k => (op (lane (opnd vs 0) f.width k)).1) ∧ interpRegs a f op vs =
      { at_ := a.val, regs := [v], fp := (List.range (256 / f.width)).foldl (fun g k => g ||| (op (lane (opnd vs 0) f.width k)).2) 0 } :=
  ⟨_, hasLanes_ofLanes _, by simp only [interpRegs, lanesOf, List.map_map, foldl_flags]; rfl⟩

section
variable {s : State} {t c : Nat} (hc : s.cur = .thread t c)
include hc

theorem interp_allows : interpProfile.allows s.cur = true := by rw [hc]; rfl

theorem itldBody_thread (n b : Reg) : itldBody n b s =
    if ownLoad s t c (namesOf s t c) n.val then .error .wait
    else if ptrOk (s.getG b) = false then .ok (raise (emptyName s (namesOf s t c) n.val) { code := 0x14, engine := 3, addr := s.getG b })
    else if (s.getG b).toNat % 64 ≠ 0 then .ok (raise (emptyName s (namesOf s t c) n.val) (tableTrap n.val 3 (s.getG b)))
    else startLoad s t c n.val (s.getG b) none := by
  simp only [itldBody, hc]
  rfl

theorem itinvBody_thread (n : Reg) : itinvBody n s =
    if ownLoad s t c (namesOf s t c) n.val then .error .wait else .ok (emptyName s (namesOf s t c) n.val).retire := by
  simp only [itinvBody, hc]

theorem itqBody_thread (a n : Reg) : itqBody a n s =
    if ownLoad s t c (namesOf s t c) n.val then .error .wait else .ok (alu a (itqWord s t (namesOf s t c) n.val) s) := by
  simp only [itqBody, hc]

theorem lookupBody_loading {n : Reg} (u : TableUse) (h : nameLoading s (namesOf s t c) n.val = true) : lookupBody n u s = .error .wait := by
  simp [lookupBody, hc, h]

theorem lookupBody_empty {n : Reg} (u : TableUse) (h : nameLoading s (namesOf s t c) n.val = false)
    (hsource : tableSource? s (namesOf s t c) n.val = none) : lookupBody n u s = .error (.trap (tableTrap n.val 1 0)) := by
  simp [lookupBody, hc, h, hsource]

theorem lookupBody_stale {n : Reg} (u : TableUse) {p : Nat × Nat} (h : nameLoading s (namesOf s t c) n.val = false)
    (hsource : tableSource? s (namesOf s t c) n.val = some p) (hbuf : ibuf? s t (namesOf s t c) n.val = none) :
    lookupBody n u s = startLoad s t c n.val (w64 p.1) (some u) := by
  simp [lookupBody, hc, h, hsource, hbuf]

/-- A lookup of a name that a buffer holds writes its lanes, and the buffer becomes the most recently used. -/
theorem lookupBody_resident {n : Reg} {u : TableUse} {d : IBuffer} {vs : List (List Vec)} {v : State}
    (h : nameLoading s (namesOf s t c) n.val = false) (hsource : (tableSource? s (namesOf s t c) n.val).isSome = true)
    (hbuf : ibuf? s t (namesOf s t c) n.val = some d) (hext : (s.ctx t c).extResident = true) (hops : operands s t c [u.b] 1 = .ok (vs, v)) :
    lookupBody n u s = .ok (bufferUsed (putResult v t c (interpRegs u.a (interpFmt u.fmt) (lookupLane u d.image) vs)) t d) := by
  obtain ⟨p, hp⟩ := Option.isSome_iff_exists.1 hsource
  simp only [lookupBody, hc, h, hp, hbuf, lookupWith, vecBody, hext, hops]
  rfl

end
end Sys2Proof.Machine

namespace Sys2Proof.Proofs
open Sys2Proof.Machine

/-- Settles O34: each instruction's body, in the case that the clause names. -/
theorem interpolationInstructions : Obligations.InterpolationInstructions := by
  unfold Obligations.InterpolationInstructions
  intro s t c hc h home next rg
  have hprof := interp_allows hc
  refine ⟨fun n b la l hown => ?_, ?_, ?_, fun n la hown => ?_, fun a n la hown => ?_, fun a b n la hown => ?_⟩
  · intro p
    have hbody := (itldBody_thread hc n b).trans (if_neg (Bool.eq_false_iff.1 hown))
    refine ⟨fun hp => ?_, fun hp hmis => ?_, fun hp hal hclaim hfit => ?_⟩
    · exact runInstr_ok hprof (hbody.trans (if_pos hp))
    · have hp' : ¬ ptrOk p = false := by rw [hp]; decide
      exact runInstr_ok hprof (hbody.trans ((if_neg hp').trans (if_pos hmis)))
    · have hp' : ¬ ptrOk p = false := by rw [hp]; decide
      obtain ⟨u, hu, hrest⟩ := startLoad_ok (op := none) hc hclaim hfit
      exact ⟨u, runInstr_ok hprof (hbody.trans ((if_neg hp').trans ((if_neg (not_not.2 hal)).trans hu))), hrest⟩
  · intro a b n la fmt d vs u hload hsource hbuf hext hops f w x put
    have served (i : Instr) (m : Option FMods) (hi : ∀ s, exec i s = runInstr interpProfile s (lookupBody n ⟨fmt, a, b, m⟩)) :
        put i (lookupLane ⟨fmt, a, b, m⟩ d.image) := by
      obtain ⟨v, hv, hregs⟩ := interpRegs_lanes a f (lookupLane ⟨fmt, a, b, m⟩ d.image) vs
      refine ⟨v, hv, ?_⟩
      rw [hi, runInstr_ok hprof (lookupBody_resident hc hload hsource hbuf hext hops)]
      exact congrArg (fun r => Host.Outcome.next (bufferUsed (putResult u t c r) t d)) hregs
    exact ⟨fun m => served _ (some m) fun _ => rfl, served _ none fun _ => rfl⟩
  · intro a b n la fmt m i hi
    obtain ⟨u, hexec⟩ : ∃ u, exec i s = runInstr interpProfile s (lookupBody n u) := by
      rcases hi with rfl | rfl
      · exact ⟨⟨fmt, a, b, some m⟩, rfl⟩
      · exact ⟨⟨fmt, a, b, none⟩, rfl⟩
    rw [hexec]
    refine ⟨fun hload => ?_, fun hload hsource => ?_, fun p l hload hsource hbuf hclaim hfit => ?_⟩
    · exact runInstr_error hprof (lookupBody_loading hc u hload)
    · exact runInstr_error hprof (lookupBody_empty hc u hload hsource)
    · obtain ⟨v, hv, hawait, hdue, _, hmem, hpc⟩ := startLoad_ok (op := some u) hc hclaim hfit
      exact ⟨v, runInstr_ok hprof ((lookupBody_stale hc u hload hsource hbuf).trans hv), hawait, hdue, hmem, hpc⟩
  · exact ⟨emptyName s h n.val, runInstr_ok hprof ((itinvBody_thread hc n).trans (if_neg (Bool.eq_false_iff.1 hown))), emptyName_mem ..,
      fun m hm => tableSource_emptyName_other _ _ hm, tableSource_emptyName_same ..⟩
  · exact runInstr_ok hprof ((itqBody_thread hc a n).trans (if_neg (Bool.eq_false_iff.1 hown)))
  · exact ⟨runInstr_error hprof ((itldBody_thread hc n b).trans (if_pos hown)), runInstr_error hprof ((itinvBody_thread hc n).trans (if_pos hown)),
      runInstr_error hprof ((itqBody_thread hc a n).trans (if_pos hown))⟩

end Sys2Proof.Proofs
end

section
/-! PROOFS, contexts beside their instructions: fetched code lines, fills and the issue slot, resume packets (R47, R139, R144, R147, R160, R231,
R398, R454). -/

namespace Sys2Proof.Machine

/-! ## Hardware traffic changes no context -/

@[simp] theorem cleanWord_ctxs (p : Packet) (w : Nat) (s : State) (t : Nat) : (cleanWord p w s t).ctxs = s.ctxs := rfl
@[simp] theorem cleanAt_ctxs (p : Packet) (s : State) (t : Nat) : (cleanAt p s t).ctxs = s.ctxs :=
  foldl_keeps (fun u : State => u.ctxs = s.ctxs) _ (fun u w h => by
    split
    · exact foldl_keeps (fun v : State => v.ctxs = s.ctxs) _ (fun v n h => by rw [cleanWord_ctxs]; exact h) _ u h
    · exact h) _ s rfl
@[simp] theorem cleanPath_ctxs (s : State) (p : Packet) (a b : Nat) : (cleanPath s p a b).ctxs = s.ctxs := by
  unfold cleanPath
  split
  · rfl
  · exact foldl_keeps (fun u : State => u.ctxs = s.ctxs) _ (fun u t h => by rw [cleanAt_ctxs]; exact h) _ s rfl
@[simp] theorem sendRecord_ctxs (s : State) (i : Nat) (r : FaultRecord) : (sendRecord s i r).ctxs = s.ctxs := rfl
@[simp] theorem recordFrom_ctxs (s : State) (t : Nat) (r : FaultRecord) : (recordFrom s t r).ctxs = s.ctxs := by
  unfold recordFrom
  dsimp only
  split
  · simp
  · split <;> simp
@[simp] theorem edgeHead_ctxs (s : State) (t src pa : Nat) : (edgeHead s t src pa).1.ctxs = s.ctxs := by
  unfold edgeHead
  split
  · rfl
  · dsimp only
    split
    · simp
    · split <;> simp [fabricFault]

/-! ## Code-line fetch -/

@[simp] theorem installLine_mem (s : State) (a : Agent) (va pl : Nat) (l : CodeLine) : (installLine s a va pl l).mem = s.mem := by
  cases a <;> rfl
@[simp] theorem installLine_ctxs (s : State) (a : Agent) (va pl : Nat) (l : CodeLine) : (installLine s a va pl l).ctxs = s.ctxs := by
  cases a <;> rfl

/-- The tenant that an agent's fetch names is the same after the install. -/
theorem agentTenant_installLine (s : State) (a : Agent) (va pl : Nat) (l : CodeLine) :
    agentTenant (installLine s a va pl l) a = agentTenant s a := by
  cases a with
  | thread t c => rfl
  | core i k =>
    rw [agentTenant, installLine, State.core_setCore_same]
    rfl
  | zephyr t zc => simp [agentTenant, installLine, State.zreqOf?, agentTile]

/-- An installed line is the most recent of its cache. -/
theorem icacheOf_installLine (s : State) (a : Agent) (va pl : Nat) (l : CodeLine) :
    icacheOf (installLine s a va pl l) a = ((agentTenant s a, va / 64, pl, l) :: icacheOf s a).take 256 := by
  cases a <;> simp [icacheOf, installLine]

theorem cachedLine_installLine (s : State) (a : Agent) (va pl : Nat) (l : CodeLine) : cachedLine? (installLine s a va pl l) a va = some l := by
  simp [cachedLine?, icacheOf_installLine, agentTenant_installLine]

/-- A context's request replaced by one for the same context is the one it runs. -/
theorem zreqOf_setZreq {s : State} {t zc : Nat} {r q : ZReq} (h : s.zreqOf? t zc = some r) (huid : q.uid = r.uid) (hzc : q.zc = r.zc) :
    (s.setZreq t q).zreqOf? t zc = some q := by
  have hr : (r.zc == some zc) = true := by simpa using List.find?_some h
  simp only [State.zreqOf?, State.setZreq, State.tile_setTile_same] at h ⊢
  generalize (s.tile t).zreqs = l at h ⊢
  induction l with
  | nil => cases h
  | cons y ys ih =>
    by_cases hy : y.uid = q.uid
    · simp [hy, hzc, hr]
    · cases hz : y.zc == some zc with
      | true =>
        rw [List.find?_cons_of_pos (by simpa using hz)] at h
        exact absurd (by rw [Option.some.inj h, huid]) hy
      | false =>
        rw [List.find?_cons_of_neg (by simpa using hz)] at h
        rw [List.map_cons, if_neg hy, List.find?_cons_of_neg (by simpa using hz)]
        exact ih h

/-- The end of a re-fault count changes the tile's requests alone, and no tenant. -/
theorem passCode_keeps (s : State) (a : Agent) (pc : Nat) : (passCode s a pc).mem = s.mem ∧ (passCode s a pc).ctxs = s.ctxs ∧
    icacheOf (passCode s a pc) a = icacheOf s a ∧ agentTenant (passCode s a pc) a = agentTenant s a := by
  cases a with
  | thread t c => exact ⟨rfl, rfl, rfl, rfl⟩
  | core i k => exact ⟨rfl, rfl, rfl, rfl⟩
  | zephyr t zc =>
    cases hr : s.zreqOf? t zc with
    | none => simp [passCode, hr]
    | some r =>
      simp only [passCode, hr]
      split
      · refine ⟨rfl, rfl, by simp [icacheOf, agentTile, State.setZreq], ?_⟩
        simp only [agentTenant, hr, zreqOf_setZreq (q := passed r) hr rfl rfl]
        rfl
      · exact ⟨rfl, rfl, rfl, rfl⟩

theorem cachedLine_passCode (s : State) (a : Agent) (pc va : Nat) : cachedLine? (passCode s a pc) a va = cachedLine? s a va := by
  obtain ⟨-, -, hcache, htenant⟩ := passCode_keeps s a pc
  rw [cachedLine?, hcache, htenant, ← cachedLine?]

section
variable {s : State} {a : Agent} (hfetch : fetches s a = true) (hwindow : inEdgeWindow (s.regsOf a).pc.toNat = true)
include hfetch hwindow

/-- A line read from memory is installed when its head has a path, and is waited for when it has none. -/
theorem codeFetchBody_read {l : CodeLine} {pl : Nat} {u : State} (h : readCodeLine s a (s.regsOf a).pc.toNat = .ok (l, some pl, u)) :
    let e := edgeHead u (siteTile (siteOf a)) (senderOf u a) (pl * 64)
    codeFetchBody s a = if e.2 then passCode (installLine e.1 a (s.regsOf a).pc.toNat pl l) a (s.regsOf a).pc.toNat else hang e.1 a := by
  have hgo : ¬ (fetches s a && inEdgeWindow (s.regsOf a).pc.toNat) = false := by simp [hfetch, hwindow]
  exact (if_neg hgo).trans (by rw [h])

theorem codeFetchBody_fault {f : XFault} (h : readCodeLine s a (s.regsOf a).pc.toNat = .error f) :
    codeFetchBody s a = asAgent a (fun u => raise u { xTrap f .exec (s.regsOf a).pc with engine := engScalar }) s := by
  simp only [codeFetchBody, hfetch, hwindow, h]
  rfl

end

/-! ## The issue slot -/

/-- Fills and beats made due change nothing else. -/
theorem beatsDue_eq (s : State) (t c : Nat) : ∃ d, beatsDue s t c = { s with due := d } :=
  foldl_keeps (fun u : State => ∃ d, u = { s with due := d }) _ (fun u k h => by
    obtain ⟨d, rfl⟩ := h
    split
    · exact addDueOnce_eq _ _
    · exact ⟨d, rfl⟩) _ s ⟨s.due, rfl⟩

theorem fillsDue_eq (s : State) (t c : Nat) : ∃ d, fillsDue s t c = { s with due := d } := by
  obtain ⟨d, hd⟩ : ∃ d, [2, 3, 0, 1].foldl (fun s k => if resident s t c k then s else s.addDueOnce (.registerCacheFill t c k)) s =
      { s with due := d } :=
    foldl_keeps (fun u : State => ∃ d, u = { s with due := d }) _ (fun u k h => by
      obtain ⟨d, rfl⟩ := h
      split
      · exact ⟨d, rfl⟩
      · exact addDueOnce_eq _ _) _ s ⟨s.due, rfl⟩
  simp only [fillsDue, hd]
  split
  · exact addDueOnce_eq _ _
  · exact beatsDue_eq _ t c

/-- A slice clamp changes one context's STATUS and no byte of memory. -/
theorem clampSlice_eq (s : State) (t c : Nat) : ∃ st d, clampSlice s t c = s ∨
    clampSlice s t c = s.setCtx t c { s.ctx t c with regs := { (s.ctx t c).regs with status := st }, dirty := d } := by
  unfold clampSlice
  dsimp only
  split
  · exact ⟨_, _, .inr rfl⟩
  · exact ⟨0, [], .inl rfl⟩

/-- The context that takes a slot, and what it keeps (R147). -/
def TookSlot (s : State) (t k c : Nat) (u : State) : Prop :=
  (u.ctx t c).state = .issuing ∧ (u.ctx t c).slot = some k ∧ (u.ctx t c).regs.g = (s.ctx t c).regs.g ∧
    (u.ctx t c).regs.pc = (s.ctx t c).regs.pc ∧ u.mem = s.mem ∧ ∀ p, p ≠ (t, c) → u.ctx p.1 p.2 = s.ctx p.1 p.2

theorem tookSlot_setCtx (s : State) (t k c : Nat) : TookSlot s t k c (s.setCtx t c { s.ctx t c with state := .issuing, slot := some k }) := by
  unfold TookSlot
  rw [State.ctx_setCtx_same]
  exact ⟨rfl, rfl, rfl, rfl, rfl, fun p hp => State.ctx_setCtx_other _ _ _ _ _ _ hp⟩

theorem TookSlot.clampSlice {s u : State} {t k c : Nat} (h : TookSlot s t k c u) : TookSlot s t k c (clampSlice u t c) := by
  obtain ⟨hstate, hslot, hg, hpc, hmem, hother⟩ := h
  obtain ⟨st, d, hu | hu⟩ := clampSlice_eq u t c
  · rw [hu]
    exact ⟨hstate, hslot, hg, hpc, hmem, hother⟩
  · rw [hu, TookSlot, State.ctx_setCtx_same]
    exact ⟨hstate, hslot, hg, hpc, hmem, fun p hp => (State.ctx_setCtx_other _ _ _ _ _ _ hp).trans (hother p hp)⟩

theorem TookSlot.due {s u : State} {t k c : Nat} (h : TookSlot s t k c u) (d : List Instr) : TookSlot s t k c { u with due := d } := h

theorem slotTakenBody_took {s : State} {t k c : Nat} (hk : freeSlot? s t = some k) (hc : nextQueued? s t = some c) :
    TookSlot s t k c (slotTakenBody s t) := by
  simp only [slotTakenBody, hk, hc]
  have h1 := tookSlot_setCtx s t k c
  generalize s.setCtx t c _ = v at h1 ⊢
  have h2 : TookSlot s t k c (if resident v t c 2 = true then clampSlice v t c else v) := by
    split
    · exact h1.clampSlice
    · exact h1
  generalize (if resident v t c 2 = true then clampSlice v t c else v) = w at h2 ⊢
  obtain ⟨d, hd⟩ := fillsDue_eq w t c
  rw [hd]
  split
  · obtain ⟨d', hd'⟩ := addDueOnce_eq { w with due := d } (.issueSlotTaken t)
    rw [hd']
    exact h2.due d'
  · exact h2.due d

/-! ## Fills -/

theorem resident_makeResident (s : State) (t c k : Nat) : resident (makeResident s t c k) t c k = true := by
  simp [resident, makeResident]

theorem fillLine_resident {s u : State} {t c k : Nat} (h : fillLine s t c k = .ok u)
    (hline : resident s t c k = true ∨
      ∃ pa v, imagePhys s t c (64 * k) .read = .ok (pa, v) ∧ (edgeHead v t (contextSender v t c) pa).2 = true) :
    resident u t c k = true := by
  unfold fillLine at h
  split at h
  next hres => cases h; exact hres
  next hres =>
    obtain ⟨pa, v, himg, hpath⟩ := hline.resolve_left hres
    simp only [himg, hpath] at h
    cases h
    exact resident_makeResident ..

theorem cacheFillBody_ok {s u : State} {t c k : Nat} (hslot : (s.ctx t c).slot.isSome = true) (h : fillLine s t c k = .ok u) :
    cacheFillBody s t c k = if k = 2 then clampSlice u t c else u := by
  simp [cacheFillBody, Option.isNone_iff_eq_none, Option.isSome_iff_ne_none.1 hslot, h]

theorem cacheFillBody_error {s : State} {f : Trap} {t c k : Nat} (hslot : (s.ctx t c).slot.isSome = true) (h : fillLine s t c k = .error f) :
    cacheFillBody s t c k = trapImage s t c f := by
  simp [cacheFillBody, Option.isNone_iff_eq_none, Option.isSome_iff_ne_none.1 hslot, h]

theorem extensionBody_ok {s u v w : State} {t c : Nat} (hslot : (s.ctx t c).slot.isSome = true) (hu : fillVector s t c = .ok u)
    (hv : reloadMatrix u t c = .ok v) (hw : fillMatrix v t c = .ok w) : extensionBody s t c = w := by
  simp [extensionBody, Option.isNone_iff_eq_none, Option.isSome_iff_ne_none.1 hslot, hu, hv, hw]

theorem extensionBody_error {s : State} {f : Trap} {t c : Nat} (hslot : (s.ctx t c).slot.isSome = true) (h : fillVector s t c = .error f) :
    extensionBody s t c = trapImage s t c f := by
  simp [extensionBody, Option.isNone_iff_eq_none, Option.isSome_iff_ne_none.1 hslot, h]

/-! ## BUDGET -/

theorem budgetBody_boundary {s u : State} {t c : Nat} (hdue : budgetDue s t c = true) (hb : boundary s t c = some u) :
    budgetBody s t c = takeTrap u t c
      { code := 0x20, engine := engTask, info := w64 ((((u.ctx t c).task.bind u.task?).map (taskBudget u)).getD 0) } := by
  simp only [budgetBody, hdue, hb]
  cases (u.ctx t c).task.bind u.task? <;> rfl

/-! ## Resume packets -/

theorem afterTakeUp_ok {s u : State} {t c : Nat} (f : State → State) (hu : takeUp s t c = .ok u) : afterTakeUp s t c f = f u := by
  simp only [afterTakeUp, hu]

section
variable {s : State} {ten h tid t c : Nat} (hwaits : packetWaits s h = false) (htarget : packetTarget? s ten h tid = some (t, c))
include hwaits htarget

theorem onTrapped_trapped (packet : Instr) (f : State → Nat → Nat → State) (hstate : (s.ctx t c).state = .trapped) :
    onTrapped s ten h tid packet f = f s t c := by
  simp [onTrapped, hwaits, htarget, hstate]

theorem onTrapped_other (packet : Instr) (f : State → Nat → Nat → State) (hstate : (s.ctx t c).state ≠ .trapped) :
    onTrapped s ten h tid packet f = s := by
  simp [onTrapped, hwaits, htarget, hstate]

section
variable (hstate : (s.ctx t c).state = .trapped) {u : State} (hu : takeUp s t c = .ok u)
include hstate hu

theorem execResume_trapped : execResume ten h tid s =
    .next (continueWith u t c { (u.ctx t c).regs with pc := w64 (addrOf (u.ctx t c).regs.trpc) }) := by
  simp only [execResume, onTrapped_trapped hwaits htarget _ _ hstate, afterTakeUp_ok _ hu]

theorem execRedirect_trapped : execRedirect ten h tid s = .next (if redirectAllowed u t c
    then continueWith u t c { (u.ctx t c).regs with
      pc := pcField (u.ctx t c).regs.tvec, status := setBit (u.ctx t c).regs.status 6 true }
    else refuseRedirect u t c) := by
  simp only [execRedirect, onTrapped_trapped hwaits htarget _ _ hstate, afterTakeUp_ok _ hu]

theorem execHalt_trapped : execHalt ten h tid s = .next (haltContext (u.setCtx t c { u.ctx t c with
    regs := { (u.ctx t c).regs with pc := w64 (addrOf (u.ctx t c).regs.trpc), status := setBit (u.ctx t c).regs.status 7 false },
    dirty := (u.ctx t c).dirty ∪ [2] }) t c) := by
  simp only [execHalt, onTrapped_trapped hwaits htarget _ _ hstate, afterTakeUp_ok _ hu]

end

theorem execDiscard_discards (hstate : (s.ctx t c).state = .trapped ∨ ((s.ctx t c).state = .setAside ∧ (s.ctx t c).why = .handover)) :
    execDiscard ten h tid s = .next (discardContext s t c) := by
  simp only [execDiscard, hwaits, htarget, hstate]
  rfl

theorem execPresent_handover (hstate : (s.ctx t c).state = .setAside) (hwhy : (s.ctx t c).why = .handover) {u : State}
    (hu : takeUp s t c = .ok u) : execPresent ten h tid s = .next (enqueue u t c { u.ctx t c with
      regs := { (u.ctx t c).regs with pc := pcField (u.ctx t c).regs.trpc }, dirty := (u.ctx t c).dirty ∪ [2] }) := by
  simp only [execPresent, hwaits, htarget, hstate, hwhy, afterTakeUp, hu]
  rfl

theorem execPresent_other (hstate : (s.ctx t c).state ≠ .setAside) : execPresent ten h tid s = .next s := by
  simp [execPresent, hwaits, htarget, hstate]

end

theorem packetTarget_presided {s : State} {ten h tid : Nat} {p : Nat × Nat} (hpres : presides ten (blockTenant s h) = true)
    (hp : threadAt? s h tid = some p) : packetTarget? s ten h tid = some p := (if_pos hpres).trans hp

/-- A thread that runs a task and is not marked is queued again. -/
theorem continueWith_task {s : State} {t c : Nat} (r : Regs) (hmarked : (s.ctx t c).marked = false) (htask : (s.ctx t c).task.isSome = true) :
    continueWith s t c r = enqueue s t c { s.ctx t c with regs := r, dirty := (s.ctx t c).dirty ∪ [2] } := by
  have hnone : ¬ (s.ctx t c).task.isNone = true := by simpa [Option.isNone_iff_eq_none, Option.isSome_iff_ne_none] using htask
  have hmark : ¬ (s.ctx t c).marked = true := Bool.eq_false_iff.1 hmarked
  simp only [continueWith, if_neg hmark, if_neg hnone]

theorem discardContext_task {s : State} {t c k : Nat} (h : (s.ctx t c).task = some k) : discardContext s t c = discardTasks s [(k, .gone)] := by
  simp only [discardContext, h]

/-- The statements' address field is the model's. -/
theorem bits_address (x : Word) : Stated.bits x 0 54 = addrOf x := by
  rw [Stated.bits, Nat.pow_zero, Nat.div_one]
  rfl

end Sys2Proof.Machine

namespace Sys2Proof.Proofs
open Sys2Proof.Machine

theorem exec_codeLineFetch (s : State) (a : Agent) : exec (.codeLineFetch a) s = .next (codeFetchBody s a) := rfl
theorem exec_issueSlotTaken (s : State) (t : Nat) : exec (.issueSlotTaken t) s = .next (slotTakenBody s t) := rfl
theorem exec_registerCacheFill (s : State) (t c k : Nat) : exec (.registerCacheFill t c k) s = .next (cacheFillBody s t c k) := rfl
theorem exec_extensionImageFill (s : State) (t c : Nat) : exec (.extensionImageFill t c) s = .next (extensionBody s t c) := rfl
theorem exec_pauseExpiry (s : State) (t c : Nat) : exec (.pauseExpiry t c) s = .next (if (s.ctx t c).pause ≤ s.cycle
    then s.setCtx t c { s.ctx t c with pause := 0 } else s.addDueOnce (.pauseExpiry t c)) := rfl
theorem exec_budget (s : State) (t c : Nat) : exec (.budget t c) s = .next (budgetBody s t c) := rfl
theorem exec_resume (s : State) (ten h tid : Nat) : exec (.resume ten h tid) s = execResume ten h tid s := rfl
theorem exec_redirect (s : State) (ten h tid : Nat) : exec (.redirect ten h tid) s = execRedirect ten h tid s := rfl
theorem exec_halt (s : State) (ten h tid : Nat) : exec (.halt ten h tid) s = execHalt ten h tid s := rfl
theorem exec_discard (s : State) (ten h tid : Nat) : exec (.discard ten h tid) s = execDiscard ten h tid s := rfl
theorem exec_present (s : State) (ten h tid : Nat) : exec (.present ten h tid) s = execPresent ten h tid s := rfl

/-- Settles O55: each step by the lemma of its body. -/
theorem contextSteps : Obligations.ContextSteps := by
  unfold Obligations.ContextSteps
  refine ⟨?_, ?_, ?_, ?_, ?_⟩
  case refine_1 =>
    intro s a hfetch hlo hhi pc
    have hwindow : inEdgeWindow (s.regsOf a).pc.toNat = true := by simp [inEdgeWindow, hlo, hhi]
    rw [exec_codeLineFetch]
    refine ⟨fun l pl u hread => ?_, fun f hread => congrArg Host.Outcome.next (codeFetchBody_fault hfetch hwindow hread)⟩
    have hbody := codeFetchBody_read hfetch hwindow hread
    intro e
    refine ⟨fun hpath => ?_, fun hpath => congrArg Host.Outcome.next (hbody.trans (if_neg (Bool.eq_false_iff.1 hpath)))⟩
    obtain ⟨hmem, hctxs, -, -⟩ := passCode_keeps (installLine e.1 a pc.toNat pl l) a pc.toNat
    refine ⟨_, congrArg Host.Outcome.next (hbody.trans (if_pos hpath)), ?_, ?_, ?_⟩
    · exact (cachedLine_passCode ..).trans (cachedLine_installLine ..)
    · exact hmem.trans ((installLine_mem ..).trans (edgeHead_mem ..))
    · exact hctxs.trans ((installLine_ctxs ..).trans (edgeHead_ctxs ..))
  case refine_2 =>
    intro s t k c hk hc
    exact ⟨_, exec_issueSlotTaken s t, slotTakenBody_took hk hc⟩
  case refine_3 =>
    intro s t c k hslot
    rw [exec_registerCacheFill, exec_extensionImageFill]
    refine ⟨fun u hu => ⟨?_, fillLine_resident hu⟩, fun f hf => ?_, fun u v w hu hv hw => ?_, fun f hf => ?_⟩
    · rw [cacheFillBody_ok hslot hu]
    · rw [cacheFillBody_error hslot hf]
    · rw [extensionBody_ok hslot hu hv hw]
    · rw [extensionBody_error hslot hf]
  case refine_4 =>
    intro s t c
    rw [exec_pauseExpiry, exec_budget]
    refine ⟨fun hover => by rw [if_pos hover], fun u hdue hb => ?_⟩
    rw [budgetBody_boundary hdue hb]
    rfl
  case refine_5 =>
    intro s ten h tid t c hwaits hpres hthread x
    have htarget := packetTarget_presided hpres hthread
    rw [exec_resume, exec_redirect, exec_halt, exec_discard, exec_present]
    refine ⟨fun u hstate hu => ?_, fun k hstate hk => ?_, fun u hstate hwhy hu => ?_, fun hstate => ?_, fun hstate => ?_⟩
    · intro y r back
      have hback : back = w64 (addrOf r.trpc) := congrArg w64 (bits_address r.trpc)
      have hvec : BitVec.ofNat 64 (Stated.bits r.tvec 0 54) = pcField r.tvec := congrArg w64 (bits_address r.tvec)
      rw [execResume_trapped hwaits htarget hstate hu, execRedirect_trapped hwaits htarget hstate hu,
        execHalt_trapped hwaits htarget hstate hu, hback, hvec]
      exact ⟨rfl, continueWith_task _, fun hallowed => by rw [if_pos hallowed],
        fun hrefused => by rw [if_neg (Bool.eq_false_iff.1 hrefused)], rfl⟩
    · rw [execDiscard_discards hwaits htarget hstate, discardContext_task hk]
    · rw [execPresent_handover hwaits htarget hstate hwhy hu, pcField, ← bits_address]
      rfl
    · exact ⟨congrArg Host.Outcome.next (onTrapped_other hwaits htarget _ _ hstate),
        congrArg Host.Outcome.next (onTrapped_other hwaits htarget _ _ hstate),
        congrArg Host.Outcome.next (onTrapped_other hwaits htarget _ _ hstate)⟩
    · exact execPresent_other hwaits htarget hstate

end Sys2Proof.Proofs
end

section
/-! PROOFS, supervisor registers: what mfsr reads and mtsr writes of each number of Table 15.1 (R468, R485). -/

namespace Sys2Proof.Machine

/-! ## Fields of a written register -/

/-- A write under a mask takes the bits that the mask sets from the value. -/
theorem bitOf_masked (old v mask : Word) (b : Nat) : bitOf (masked old v mask) b = if bitOf mask b then bitOf v b else bitOf old b := by
  by_cases hb : b < 64
  · cases h : bitOf mask b <;> simp_all [bitOf, masked]
  · simp [bitOf, BitVec.getLsbD_of_ge _ b (Nat.le_of_not_lt hb)]

/-- The low w bits of a double, as a mask takes them and as a field (R12). -/
theorem and_lowMask (v : Word) {w : Nat} (hw : w ≤ 64) : v &&& BitVec.ofNat 64 (2 ^ w - 1) = BitVec.ofNat 64 (Stated.bits v 0 w) := by
  have hle : 2 ^ w ≤ 2 ^ 64 := Nat.pow_le_pow_right (by decide) hw
  have hmask : (2 ^ w - 1) % 2 ^ 64 = 2 ^ w - 1 := Nat.mod_eq_of_lt (by have := Nat.two_pow_pos w; omega)
  have hlow : v.toNat % 2 ^ w % 2 ^ 64 = v.toNat % 2 ^ w := Nat.mod_eq_of_lt (Nat.lt_of_lt_of_le (Nat.mod_lt _ (Nat.two_pow_pos w)) hle)
  apply BitVec.eq_of_toNat_eq
  rw [BitVec.toNat_and, BitVec.toNat_ofNat, BitVec.toNat_ofNat, hmask, Nat.and_two_pow_sub_one_eq_mod, Stated.bits, Nat.pow_zero, Nat.div_one, hlow]

/-- The fields of CSTATUS that a level writes (Table 15.1). -/
theorem bitOf_cstatusMask (lv : Nat) {b : Nat} (hb : b < 64) :
    bitOf (cstatusMask lv) b = decide ((2 ≤ b ∧ b ≤ 5) ∨ (32 ≤ b ∧ b ≤ 55) ∨ (b = 6 ∧ lv = 0)) := by
  by_cases hlevel : lv = 0
  · subst hlevel
    revert b
    decide
  · simp only [cstatusMask, hlevel, and_false, or_false]
    revert b
    decide

/-- What mtsr makes of CSTATUS, bit by bit. -/
theorem bitOf_cstatusWrite (old v : Word) (lv b : Nat) : bitOf (masked old v (cstatusMask lv)) b =
    if (2 ≤ b ∧ b ≤ 5) ∨ (32 ≤ b ∧ b ≤ 55) ∨ (b = 6 ∧ lv = 0) then bitOf v b else bitOf old b := by
  rw [bitOf_masked]
  by_cases hb : b < 64
  · simp only [bitOf_cstatusMask lv hb, decide_eq_true_eq]
  · simp [bitOf, BitVec.getLsbD_of_ge _ b (Nat.le_of_not_lt hb)]

/-! ## The numbers of Table 15.1 -/

/-- The table assigns each number of supervisorRegs, and its register is the one read. -/
theorem supervisorRegs_read (s : State) (i k : Nat) :
    ∀ p ∈ Stated.supervisorRegs s i k, supervisorNumber p.1.toNat = true ∧ supervisorRead s i k p.1.toNat = p.2 := by
  simp [Stated.supervisorRegs, supervisorNumber, supervisorRead, w64]

/-- And no other. -/
theorem supervisorNumber_unlisted {s : State} {i k : Nat} {n : BitVec 12} (h : ∀ p ∈ Stated.supervisorRegs s i k, p.1 ≠ n) :
    supervisorNumber n.toNat = false := by
  simp only [Stated.supervisorRegs, List.forall_mem_cons] at h
  simp only [supervisorNumber, Bool.or_eq_false_iff, Bool.and_eq_false_iff, decide_eq_false_iff_not]
  bv_omega

/-! ## mfsr and mtsr -/

section
variable {s : State} {i k : Nat} (h : Stated.Privileged s i k 2 none)
include h

theorem exec_mfsr_assigned (a : Reg) {n : BitVec 12} (hn : supervisorNumber n.toNat = true) :
    exec (.mfsr a n) s = .next (s.setG a (supervisorRead s i k n.toNat)).retire := by
  obtain ⟨hcur, hlevel, hright⟩ := h
  refine (runPriv_body hcur hlevel hright rfl : execMfsr a n s = _).trans ?_
  simp only [hn, Bool.true_eq_false, if_false, alu]

/-- A number that the table does not assign traps, whichever way it is named. -/
theorem exec_supervisor_unassigned (a : Reg) {n : BitVec 12} (hn : supervisorNumber n.toNat = false) :
    exec (.mfsr a n) s = .next (raise s { illegalOp s with engine := 10 }) ∧
    exec (.mtsr a n) s = .next (raise s { illegalOp s with engine := 10 }) := by
  obtain ⟨hcur, hlevel, hright⟩ := h
  constructor
  · refine (runPriv_body hcur hlevel hright rfl : execMfsr a n s = _).trans ?_
    rw [hn]
    rfl
  · refine (runPriv_body hcur hlevel hright rfl : execMtsr a n s = _).trans ?_
    rw [hn]
    rfl

/-- mtsr writes the core's register; LGRAPH also opens the graph that it names (R386), and RSMCMD makes its packet due (R485). -/
theorem exec_mtsr_assigned (a : Reg) {n : BitVec 12} (hn : supervisorNumber n.toNat = true) :
    let d := supervisorWrite (s.core i k) n.toNat (s.getG a)
    let u := if n = 0x013 then openGraph (s.setCore i k d) (coreTenant d) (fld d.lgraph 31 0) else s.setCore i k d
    exec (.mtsr a n) s = .next (if n = 0x022 then u.addDue (.rsmcmd i k (fld (s.getG a) 24 0)) else u).retire := by
  obtain ⟨hcur, hlevel, hright⟩ := h
  refine (runPriv_body hcur hlevel hright rfl : execMtsr a n s = _).trans ?_
  simp only [hn, Bool.true_eq_false, if_false, State.core_setCore_same]

/-- Every register but LGRAPH and RSMCMD is only written. -/
theorem exec_mtsr_plain (a : Reg) {n : BitVec 12} (hn : supervisorNumber n.toNat = true) (h13 : n ≠ 0x013) (h22 : n ≠ 0x022) {d : Core}
    (hd : supervisorWrite (s.core i k) n.toNat (s.getG a) = d) : exec (.mtsr a n) s = .next (s.setCore i k d).retire := by
  refine (exec_mtsr_assigned h a hn).trans ?_
  rw [if_neg h13, if_neg h22, hd]

end

/-- The read-only registers of Table 15.1. -/
theorem supervisorWrite_readOnly (c : Core) (v : Word) :
    ∀ n ∈ [0x002, 0x003, 0x004, 0x010, 0x011, 0x014], supervisorNumber n = true ∧ n ≠ 0x013 ∧ n ≠ 0x022 ∧ supervisorWrite c n v = c := by
  simp [supervisorNumber, supervisorWrite]

end Sys2Proof.Machine

namespace Sys2Proof.Proofs
open Sys2Proof.Machine

/-- Settles O48: mfsr reads the table's entry, and each number's mtsr is supervisorWrite of it. -/
theorem supervisorRegisters : Obligations.SupervisorRegisters := by
  unfold Obligations.SupervisorRegisters
  intro s i k a h c v put
  have plain {n : BitVec 12} {d : Core} := exec_mtsr_plain (n := n) (d := d) h a
  refine ⟨fun p hp => ?_, fun n hn => ?_, ⟨_, plain rfl (by decide) (by decide) rfl, bitOf_cstatusWrite _ _ _⟩, ?_, ?_, ?_, ?_, ?_, ?_, ?_, ?_,
    fun n hn => ?_⟩
  case refine_1 =>
    obtain ⟨hnumber, hread⟩ := supervisorRegs_read s i k p hp
    rw [exec_mfsr_assigned h a hnumber, hread]
  case refine_2 => exact exec_supervisor_unassigned h a (supervisorNumber_unlisted hn)
  case refine_3 => exact plain rfl (by decide) (by decide) (by rw [bits_address]; rfl)
  case refine_4 => exact plain rfl (by decide) (by decide) rfl
  case refine_5 => exact plain rfl (by decide) (by decide) rfl
  case refine_6 => exact plain rfl (by decide) (by decide) (by rw [← and_lowMask v (by decide)]; rfl)
  case refine_7 =>
    intro d
    have hd : supervisorWrite c 0x013 v = d := by simp only [d]; rw [← and_lowMask v (by decide)]; rfl
    refine (exec_mtsr_assigned h a rfl).trans ?_
    rw [← hd]
    rfl
  case refine_8 => exact plain rfl (by decide) (by decide) (by rw [← and_lowMask v (by decide)]; rfl)
  case refine_9 => exact plain rfl (by decide) (by decide) (by rw [← and_lowMask v (by decide)]; rfl)
  case refine_10 => exact exec_mtsr_assigned h a rfl
  case refine_11 =>
    obtain ⟨hnumber, h13, h22, hsame⟩ := supervisorWrite_readOnly c v _ hn
    exact plain hnumber (fun e => h13 (congrArg BitVec.toNat e)) (fun e => h22 (congrArg BitVec.toNat e)) hsame

end Sys2Proof.Proofs
end

section
/-! PROOFS, privilege and profiles: what an instruction does on an agent, at a level or without a right that may not run it (R79, R80, R472). -/

namespace Sys2Proof.Machine

/-- The privileged instructions, each with its XM, its engine, its minimum level and the right it needs (Table 15.12). -/
noncomputable def privilegedTable (a b c : Reg) (n : BitVec 12) : List (Instr × Nat × Nat × Nat × Option Nat) :=
  [(.mfsr a n, 0, 10, 2, none), (.mtsr a n, 1, 10, 2, none), (.eret, 2, 10, 2, none), (.ptfence, 3, 10, 2, none), (.tlbinv b c, 4, 10, 2, some 0),
    (.icinv b, 5, 10, 2, some 0), (.splinter b c, 6, 10, 2, some 0), (.rgset b, 7, 10, 1, some 1), (.grant b c, 8, 10, 1, some 1),
    (.revoke b, 9, 10, 1, some 1), (.vfbind b c, 10, 10, 1, some 2), (.dhalt b, 11, 10, 2, some 3), (.dstep b, 12, 10, 2, some 3),
    (.dresume b, 13, 10, 2, some 3), (.wsw b, 16, 11, 0, none), (.sealMem a b c, 17, 11, 2, none), (.unsealMem a b c, 18, 11, 2, none),
    (.evsign a b c, 19, 11, 1, none)]

/-- Each of them is a privileged minor of those numbers. -/
theorem exec_privileged (a b c : Reg) (n : BitVec 12) (s : State) :
    ∀ p ∈ privilegedTable a b c n, ∃ body, exec p.1 s = runPriv p.2.2.1 p.2.1 p.2.2.2.1 p.2.2.2.2 s body := by
  simp only [privilegedTable, List.forall_mem_cons]
  exact ⟨⟨_, (rfl : execMfsr a n s = _)⟩, ⟨_, (rfl : execMtsr a n s = _)⟩, ⟨_, (rfl : execEret s = _)⟩, ⟨_, (rfl : execPtfence s = _)⟩,
    ⟨_, (rfl : execTlbinv b c s = _)⟩, ⟨_, (rfl : execIcinv b s = _)⟩, ⟨_, (rfl : execSplinter b c s = _)⟩, ⟨_, (rfl : execRgset b s = _)⟩,
    ⟨_, (rfl : execGrant b c s = _)⟩, ⟨_, (rfl : execRevoke b s = _)⟩, ⟨_, (rfl : execVfbind b c s = _)⟩, ⟨_, (rfl : execDhalt b s = _)⟩,
    ⟨_, (rfl : execDstep b s = _)⟩, ⟨_, (rfl : execDresume b s = _)⟩, ⟨_, (rfl : execWsw b s = _)⟩, ⟨_, (rfl : execSealMem a b c s = _)⟩,
    ⟨_, (rfl : execUnsealMem a b c s = _)⟩, ⟨_, (rfl : execEvsign a b c s = _)⟩, fun _ h => nomatch h⟩

/-- Those that need a right are the island engine's. -/
theorem privilegedTable_right (a b c : Reg) (n : BitVec 12) : ∀ p ∈ privilegedTable a b c n, ∀ r, p.2.2.2.2 = some r → p.2.2.1 = 10 := by
  simp [privilegedTable]

/-- Instructions of tile threads alone (Table 3.1). -/
theorem exec_threadOnly {s : State} {i k : Nat} (hcur : s.cur = .core i k) (a b : Reg) :
    ∀ j ∈ [Instr.tret, .mig b, .yield, .waitpred, .calm, .drreq, .earlyok, .dqpop a, .dqsteal a, .bgrd a, .ftrack b],
      exec j s = .next (raise s (illegalOp s)) := by
  have outside {p : Profile} {body : State → Except Stop State} (hp : p.core = false) : runInstr p s body = .next (raise s (illegalOp s)) :=
    runInstr_illegal (by rw [hcur]; exact hp)
  simp only [List.forall_mem_cons]
  exact ⟨(outside (by rfl) : execTret s = _), (outside (by rfl) : execMig b s = _), (outside (by rfl) : execYield s = _),
    (outside (by rfl) : execWaitpred s = _), (outside (by rfl) : execCalm s = _), (outside (by rfl) : execDrreq s = _),
    (outside (by rfl) : execEarlyok s = _), (outside (by rfl) : execDqpop a s = _), (outside (by rfl) : execDqsteal a s = _),
    (outside (by rfl) : execBgrd a s = _), (outside (by rfl) : execFtrack b s = _), fun _ h => nomatch h⟩

end Sys2Proof.Machine

namespace Sys2Proof.Proofs
open Sys2Proof.Machine

/-- Settles O51: the checks of runPriv come before the body of each privileged instruction, and that of the profile before all. -/
theorem privilegeAndProfileTraps : Obligations.PrivilegeAndProfileTraps := by
  unfold Obligations.PrivilegeAndProfileTraps
  intro s a b c n table
  refine ⟨fun p hp i k hcur => ⟨fun hlevel => ?_, fun r hgranted hlevel hneeds hlacks => ?_⟩, fun p hp t x hcur => ?_, fun i k hcur j hj => ?_⟩
  · obtain ⟨body, hbody⟩ := exec_privileged a b c n s p hp
    rw [hbody, runPriv_level hcur hlevel, raise_core hcur]
    rfl
  · obtain ⟨body, hbody⟩ := exec_privileged a b c n s p hp
    rw [hbody, hneeds, runPriv_right hcur hlevel hlacks hgranted, raise_core hcur, privilegedTable_right a b c n p hp r hneeds]
    rfl
  · obtain ⟨body, hbody⟩ := exec_privileged a b c n s p hp
    rw [hbody, runPriv_thread hcur, raise_thread hcur]
  · rw [exec_threadOnly hcur a b j hj, raise_core hcur]

end Sys2Proof.Proofs
end

section
/-! PROOFS, the instructions that only retire, pause, system call and trap return (R84, R160 to R162, R214, R223). -/

namespace Sys2Proof.Machine

theorem exec_nop (s : State) : exec .nop s = .next s.retire :=
  (runInstr_ok (profAll_allows _) rfl : execNop s = _)

section
variable {s : State} (h : Stated.ThreadOrCore s)
include h

/-- The local engine's instructions of threads and cores run on both. -/
theorem localBoth_allows : localBoth.allows s.cur = true := profBoth_allows _ h

theorem exec_fence (sc : Reg) : exec (.fence sc) s = .next s.retire :=
  (runInstr_ok (localBoth_allows h) rfl : execFence sc s = _)
theorem exec_lfence : exec .lfence s = .next s.retire := (runInstr_ok (localBoth_allows h) rfl : execLfence s = _)
theorem exec_pause (n : BitVec 16) : exec (.pause n) s = .next (pauseBody n.toNat s) :=
  (runInstr_ok (profBoth_allows _ h) rfl : execPause n s = _)
theorem exec_sys (n : BitVec 16) : exec (.sys n) s = .next (sysBody n.toNat s) :=
  (runInstr_ok (profBoth_allows _ h) rfl : execSys n s = _)

end

/-- pause 0 is nop. -/
theorem pauseBody_zero (s : State) : pauseBody 0 s = s.retire := by
  unfold pauseBody
  dsimp only
  split <;> rfl

section
variable {s : State} {n : Nat} (hn : n ≠ 0)
include hn

theorem pauseUntil_retire : pauseUntil s.retire n = s.cycle + n := by rw [pauseUntil, if_neg hn, State.retire_cycle]

theorem pauseBody_thread {t c : Nat} (hcur : s.cur = .thread t c) :
    pauseBody n s = (s.retire.setCtx t c { s.retire.ctx t c with pause := s.cycle + n }).addDue (.pauseExpiry t c) := by
  simp only [pauseBody, State.retire_cur, hcur, if_neg hn, pauseUntil_retire hn]

theorem pauseBody_core {i k : Nat} (hcur : s.cur = .core i k) :
    pauseBody n s = s.retire.setCore i k { s.retire.core i k with pause := s.cycle + n + 1 } := by
  simp only [pauseBody, State.retire_cur, hcur, if_neg hn, pauseUntil_retire hn]

end

section
variable {s : State} {t c : Nat} (hcur : s.cur = .thread t c)
include hcur

/-- tret in a trap handler whose TRPC R48 accepts. -/
theorem exec_tret_handler (hin : intrap s.regs = true) (hvalid : Stated.ValidTarget s (addrOf s.regs.trpc)) :
    exec .tret s = .next { s.setRegs [2] { s.regs with
      pc := w64 (addrOf s.regs.trpc), status := setBit s.regs.status 6 false } with retired := true } := by
  obtain ⟨l, hl⟩ := hvalid
  rw [State.getPc] at hl
  exact runInstr_ok (by rw [hcur]; rfl) (by simp only [tretBody, hin, hl, Bool.not_true, Bool.false_eq_true, if_false])

theorem exec_tret_outside (hin : intrap s.regs = false) : exec .tret s = .next (raise s { code := 0x07, engine := 0 }) :=
  runInstr_error (st := .trap { code := 0x07, engine := 0 }) (by rw [hcur]; rfl) (by simp only [tretBody, hin]; rfl)

end

end Sys2Proof.Machine

namespace Sys2Proof.Proofs
open Sys2Proof.Machine

/-- Settles O20: each instruction by its body's lemma. -/
theorem nopPauseFenceSysTret : Obligations.NopPauseFenceSysTret := by
  unfold Obligations.NopPauseFenceSysTret
  have toNat_ne {n : BitVec 16} (hn : n ≠ 0) : n.toNat ≠ 0 := fun e => hn (BitVec.eq_of_toNat_eq e)
  refine ⟨exec_nop, fun s h => ⟨exec_fence h, exec_lfence h, ?_⟩, fun s t c n hcur hn => ?_, fun s i k n hcur hn => ?_, fun s n h => ?_,
    fun s t c hcur => ⟨exec_tret_handler hcur, exec_tret_outside hcur⟩⟩
  · exact (exec_pause h 0).trans (congrArg Host.Outcome.next (pauseBody_zero s))
  · rw [exec_pause (by simp [Stated.ThreadOrCore, hcur]), pauseBody_thread (toNat_ne hn) hcur]
  · rw [exec_pause (by simp [Stated.ThreadOrCore, hcur]), pauseBody_core (toNat_ne hn) hcur]
  · rw [← BitVec.ofNat_toNat]
    exact exec_sys h n

end Sys2Proof.Proofs
end

section
/-! PROOFS, loads and stores: the effective pointer, the extension of a loaded value, and an access that does not migrate (R195 to R197, R365,
Table 6.10). -/

namespace Sys2Proof.Machine

/-! ## Values -/

/-- Table 6.10's extension of n bytes, in the words of the statements. -/
theorem extend_eq (bs : List Byte) (sg : Bool) : extend bs sg =
    if sg then (BitVec.ofNat (8 * bs.length) (fromBytes bs)).signExtend 64 else BitVec.ofNat 64 (fromBytes bs) := by
  cases sg with
  | false => rfl
  | true =>
    cases bs with
    | nil => rfl
    | cons b r => exact congrArg i64 (slane_eq (Nat.mul_pos (by decide) (Nat.succ_pos _)) _).symm

/-! ## Accesses that do not migrate (R365) -/

theorem access_here {s : State} {p : Word} (h : autoBlock s p = none) (body : State → Except Stop State) : access s p body = body s := by
  simp only [access, h]
  cases s.cur <;> rfl

section
variable {s u : State} {p : Word} (h : autoBlock s p = none)
include h

theorem loadInto_ok {n : Nat} {bs : List Byte} (hload : loadBytes s p n = .ok (bs, u)) (a : Reg) (sg : Bool) :
    loadInto a p n sg s = .ok (u.setG a (extend bs sg)).retire := by
  simp only [loadInto, access_here h, hload, alu]

theorem loadPair_ok {bs : List Byte} (hload : loadBytes s p 16 = .ok (bs, u)) (a e : Reg) :
    loadPair a e p s = .ok ((u.setG a (dword bs 0)).setG e (dword bs 1)).retire := by
  simp only [loadPair, access_here h, hload]

theorem storeFrom_ok {v : Word} {n : Nat} (hstore : storeBytes s p (toBytes n v.toNat) = .ok u) : storeFrom v p n s = .ok u.retire := by
  simp only [storeFrom, access_here h, hstore]

theorem storePair_ok {a e : Reg} (hstore : storeBytes s p (toBytes 8 (s.getG a).toNat ++ toBytes 8 (s.getG e).toNat) = .ok u) :
    storePair a e p s = .ok u.retire := by
  simp only [storePair, access_here h, wordsBytes, List.append_nil, hstore]

end

/-! ## The forms of Table 6.10 -/

/-- Every load of one register is execLoad of its pointer, its bytes and its extension. -/
theorem exec_loadOf {s : State} {i : Instr} {a : Reg} {p : Word} {n : Nat} {sg : Bool} (h : Stated.loadOf s i = some (a, p, n, sg)) :
    ∃ ptr, exec i s = execLoad a ptr n sg s ∧ ptr s = p := by
  unfold Stated.loadOf at h
  split at h <;> cases h <;> (delta exec; exact ⟨_, rfl, rfl⟩)

/-- Every store of one register is execStore of its pointer and its bytes; the others are stp. -/
theorem exec_storeOf {s : State} {i : Instr} {p : Word} {bs : List Byte} (h : Stated.storeOf s i = some (p, bs)) :
    (∃ a ptr n, exec i s = execStore a ptr n s ∧ ptr s = p ∧ bs = toBytes n (s.getG a).toNat) ∨
    (∃ a e b c la, i = .stp a e b c la ∧ p = Stated.ptrPlus (s.getG b) (16 * (s.getG c).toInt) ∧
      bs = toBytes 8 (s.getG a).toNat ++ toBytes 8 (s.getG e).toNat) := by
  unfold Stated.storeOf at h
  split at h <;> cases h
  case h_10 => exact .inr ⟨_, _, _, _, _, rfl, rfl, rfl⟩
  all_goals (left; delta exec; exact ⟨_, _, _, rfl, rfl, rfl⟩)

end Sys2Proof.Machine

namespace Sys2Proof.Proofs
open Sys2Proof.Machine

/-- Settles O23: each form's body is its access, which does not migrate, with its result. -/
theorem loadsAndStoresComplete : Obligations.LoadsAndStoresComplete := by
  unfold Obligations.LoadsAndStoresComplete
  intro s hs
  refine ⟨fun i a p n sg bs u hi hstay hload => ?_, fun a e b c la p bs u hp hstay hload => ?_, fun i p bs u hi hstay hstore => ?_⟩
  · obtain ⟨ptr, hexec, rfl⟩ := exec_loadOf hi
    rw [hexec, ← extend_eq]
    exact runInstr_ok (localBoth_allows hs) (loadInto_ok hstay hload a sg)
  · subst hp
    exact (runInstr_ok (localBoth_allows hs) (loadPair_ok hstay hload a e) : execLdp a e b c la s = _)
  · obtain ⟨a, ptr, n, hexec, rfl, rfl⟩ | ⟨a, e, b, c, la, rfl, rfl, rfl⟩ := exec_storeOf hi
    · rw [hexec]
      exact runInstr_ok (localBoth_allows hs) (storeFrom_ok hstay hstore)
    · exact (runInstr_ok (localBoth_allows hs) (storePair_ok hstay hstore) : execStp a e b c la s = _)

end Sys2Proof.Proofs
end

section
/-! PROOFS, accesses that fail: the trap or the handover of a thread's load or store whose check does not pass (R117, R136 to R138, R194, R454). -/

namespace Sys2Proof.Machine

theorem threadOrCore_of_thread {s : State} {t c : Nat} (hcur : s.cur = .thread t c) : Stated.ThreadOrCore s :=
  fun _ _ h => by rw [hcur] at h; cases h

/-- What a load or store of the thread does when its check fails with a trap of the local engine's: a page that is not present hands over (R454). -/
theorem onStop_ldst {s : State} {t c : Nat} {tr : Trap} (hcur : s.cur = .thread t c) (h2 : tr.code ≠ 0x02) (h9 : tr.code ≠ 0x09)
    (hE : tr.code ≠ 0x1E) : onStop s (ownEngine engLocal (ldstStop (.trap tr))) =
      if tr.code = 0x16 ∧ tr.info.toNat % 256 = 1 then takeHandover s t c { tr with engine := 1 } else takeTrap s t c { tr with engine := 1 } := by
  by_cases hpage : tr.code = 0x16 ∧ tr.info.toNat % 256 = 1
  · have hstop : ldstStop (.trap tr) = .handover tr := if_pos hpage
    simp [hstop, ownEngine, onStop, hcur, hpage, engLocal]
  · have hstop : ldstStop (.trap tr) = .trap tr := if_neg hpage
    rw [hstop, ownEngine_trap h2 h9 hE, onStop_trap, raise_thread hcur, if_neg hpage, engLocal]

section
variable {s : State} {t c : Nat} {p : Word} {tr : Trap} (hcur : s.cur = .thread t c)
include hcur

theorem loadBytes_failed {n : Nat} (h : check s (curReq s) .read p n = .error tr) : loadBytes s p n = .error (ldstStop (.trap tr)) := by
  have hcore : (curReq s).core = false := by rw [curReq, hcur]; rfl
  simp [loadBytes, hcore, memLoad, h]

theorem storeBytes_failed {bs : List Byte} (h : check s (curReq s) .write p bs.length = .error tr) :
    storeBytes s p bs = .error (ldstStop (.trap tr)) := by
  have hcore : (curReq s).core = false := by rw [curReq, hcur]; rfl
  simp [storeBytes, hcore, memStore, h]

end

section
variable {s : State} {p : Word} {st : Stop} (hstay : autoBlock s p = none)
include hstay

theorem loadInto_error {n : Nat} (h : loadBytes s p n = .error st) (a : Reg) (sg : Bool) : loadInto a p n sg s = .error st := by
  simp only [loadInto, access_here hstay, h]

theorem storeFrom_error {v : Word} {n : Nat} (h : storeBytes s p (toBytes n v.toNat) = .error st) : storeFrom v p n s = .error st := by
  simp only [storeFrom, access_here hstay, h]

theorem storePair_error {a e : Reg} (h : storeBytes s p (toBytes 8 (s.getG a).toNat ++ toBytes 8 (s.getG e).toNat) = .error st) :
    storePair a e p s = .error st := by
  simp only [storePair, access_here hstay, wordsBytes, List.append_nil, h]

/-- A load whose bytes cannot be had stops as they do. -/
theorem exec_load_error {i : Instr} {a : Reg} {n : Nat} {sg : Bool} (hs : Stated.ThreadOrCore s) (hi : Stated.loadOf s i = some (a, p, n, sg))
    (h : loadBytes s p n = .error st) : exec i s = .next (onStop s (ownEngine engLocal st)) := by
  obtain ⟨ptr, hexec, rfl⟩ := exec_loadOf hi
  rw [hexec]
  exact runInstr_error (localBoth_allows hs) (loadInto_error hstay h a sg)

/-- So does a store whose bytes cannot be written. -/
theorem exec_store_error {i : Instr} {bs : List Byte} (hs : Stated.ThreadOrCore s) (hi : Stated.storeOf s i = some (p, bs))
    (h : storeBytes s p bs = .error st) : exec i s = .next (onStop s (ownEngine engLocal st)) := by
  obtain ⟨a, ptr, n, hexec, rfl, rfl⟩ | ⟨a, e, b, c, la, rfl, rfl, rfl⟩ := exec_storeOf hi
  · rw [hexec]
    exact runInstr_error (localBoth_allows hs) (storeFrom_error hstay h)
  · exact (runInstr_error (localBoth_allows hs) (storePair_error hstay h) : execStp a e b c la s = _)

end

/-! ## The order of the checks (R194) -/

theorem check_malformed {p : Word} (h : ptrOk p = false) (s : State) (q : Req) (acc : AccKind) (n : Nat) :
    check s q acc p n = .error (memTrap 0x14 p) := by
  simp [check, resolve, h]

theorem check_hole {p : Word} {n : Nat} (hp : ptrOk p = true) (h : ((segments (addrOf p) n).any fun g => inHole g.1) = true) (s : State)
    (q : Req) (acc : AccKind) : check s q acc p n = .error (memTrap 0x10 p) := by
  simp only [check, resolve, hp, h, Bool.true_eq_false, if_true, if_false]

end Sys2Proof.Machine

namespace Sys2Proof.Proofs
open Sys2Proof.Machine

/-- Settles O27: whatever the access, its failed check is its stop; the tag and the hole are two such checks. -/
theorem accessTraps : Obligations.AccessTraps := by
  unfold Obligations.AccessTraps
  intro s i p n t c acc hi hcur hstay
  have hs := threadOrCore_of_thread hcur
  have hfails {tr : Trap} (h : check s (curReq s) acc p n = .error tr) :
      exec i s = .next (onStop s (ownEngine engLocal (ldstStop (.trap tr)))) := by
    obtain ⟨a, sg, hload, rfl⟩ | ⟨bs, hstore, rfl, rfl⟩ := hi
    · exact exec_load_error hstay hs hload (loadBytes_failed hcur h)
    · exact exec_store_error hstay hs hstore (storeBytes_failed hcur h)
  refine ⟨fun htag => hfails (check_malformed htag ..), fun htag hhole => hfails (check_hole htag hhole ..), fun tr h h2 h9 hE => ?_⟩
  rw [hfails h, onStop_ldst hcur h2 h9 hE]

end Sys2Proof.Proofs
end

section
/-! PROOFS, vector operands and results: live bits, beats of a stream, and what the registers of a thread leave when they are written
(R108, R129, R228, R229, R234, R248, R249). -/

namespace Sys2Proof.Machine

/-! ## Live bits (R229) -/

theorem fieldN_bit (n k : Nat) : fieldN n k k = 1 ↔ n.testBit k = true := by
  rw [Nat.testBit_eq_decide_div_mod_eq, decide_eq_true_eq, fieldN, Nat.add_sub_cancel_left, Nat.pow_one]

/-- A clear bit of a number set by adding its weight: the other bits stay. -/
theorem testBit_add_clear {n k : Nat} (h : n.testBit k = false) (j : Nat) : (n + 2 ^ k).testBit j = if j = k then true else n.testBit j := by
  have hbit : n / 2 ^ k % 2 = 0 := by
    rw [Nat.testBit_eq_decide_div_mod_eq, decide_eq_false_iff_not] at h
    omega
  have hlow : n % 2 ^ k < 2 ^ k := Nat.mod_lt _ (Nat.two_pow_pos k)
  have hparts : n + 2 ^ k = 2 ^ k * (2 ^ 1 * (n / 2 ^ k / 2 ^ 1) + 1) + n % 2 ^ k := by
    rw [← field_replaced, Nat.pow_one, hbit, Nat.zero_mul, Nat.one_mul, Nat.sub_zero]
  rw [hparts, Nat.testBit_two_pow_mul_add _ hlow, Nat.testBit_two_pow_mul_add _ (by decide), Nat.testBit_mod_two_pow]
  by_cases hjk : j < k
  · simp [hjk, Nat.ne_of_lt hjk]
  · obtain ⟨d, rfl⟩ := Nat.exists_eq_add_of_le (Nat.le_of_not_lt hjk)
    cases d with
    | zero => simp
    | succ d => simp [Nat.div_div_eq_div_mul, ← Nat.pow_succ, Nat.testBit_div_two_pow, Nat.add_left_comm]

/-- Register k is live after a write, the others as before. -/
theorem writeV_vlive (v : VecState) (k : Nat) (x : Vec) (j : Nat) :
    (writeV v k x).vlive.testBit j = if j = k then true else v.vlive.testBit j := by
  simp only [writeV, fieldN_bit]
  by_cases hk : v.vlive.testBit k = true
  · by_cases hj : j = k <;> simp [hj, hk]
  · rw [if_neg hk, testBit_add_clear (Bool.eq_false_iff.mpr hk)]

theorem readV_writeV_same (v : VecState) {k : Nat} (hk : k < 12) (x : Vec) : readV (writeV v k x) k = x := by
  rw [readV, if_pos ((fieldN_bit _ _).mpr (by rw [writeV_vlive, if_pos rfl]))]
  simp [writeV, hk]

theorem readV_writeV_other (v : VecState) {k j : Nat} (hj : j ≠ k) (x : Vec) : readV (writeV v k x) j = readV v j := by
  have hv : (writeV v k x).v.toList.getD j 0 = v.v.toList.getD j 0 := by
    simp [writeV, List.getD_eq_getElem?_getD, Ne.symm hj]
  simp only [readV, fieldN_bit, writeV_vlive, if_neg hj, hv]

/-! ## Operands (R234, R248, R249) -/

/-- Sources that are all registers read the registers and change nothing. -/
theorem operands_registers (s : State) (t c n : Nat) {l : List Reg} (h : ∀ r ∈ l, r.val < 12) :
    operands s t c l n = .ok (l.map fun r => (List.range n).map fun i => readV (s.ctx t c).vec (r.val + i), s) := by
  have hnone : (l.filterMap fun r => if 12 ≤ r.val then some (r.val - 12) else none) = [] :=
    List.filterMap_eq_nil_iff.mpr fun r hr => if_neg (Nat.not_le.mpr (h r hr))
  simp only [operands, hnone, List.dedup_nil, takeStreams]
  exact congrArg (fun x => Except.ok (x, s)) (List.map_congr_left fun r hr => if_neg (Nat.not_le.mpr (h r hr)))

section
variable {s : State} {t c k : Nat}

theorem takeBeats_unbound (h : (streamOf (s.ctx t c).vec k).bound = false) (n : Nat) : takeBeats s t c k n = .error (.trap (illegalOp s)) := by
  simp only [takeBeats, h, if_true]

theorem streamOf_setStream_same (v : VecState) (hk : k < 4) (m : Stream) : streamOf (setStream v k m) k = m := by
  simp [streamOf, setStream, hk]

/-- The state after n prefetched beats of a stream are taken. -/
def beatsTaken (s : State) (t c k n : Nat) : State :=
  let v := (s.ctx t c).vec
  let m := streamOf v k
  (setVec s t c (setStream v k { m with ahead := m.ahead.drop n, pos := m.pos + n })).addDueOnce (.beatArrival t c k)

theorem beatsTaken_mem (n : Nat) : (beatsTaken s t c k n).mem = s.mem := State.addDueOnce_mem ..

theorem beatsTaken_vec (n : Nat) : ((beatsTaken s t c k n).ctx t c).vec = setStream (s.ctx t c).vec k
    { streamOf (s.ctx t c).vec k with ahead := (streamOf (s.ctx t c).vec k).ahead.drop n, pos := (streamOf (s.ctx t c).vec k).pos + n } := by
  simp [beatsTaken, setVec]

/-- Beats that have all arrived without fault are taken as they are. -/
theorem takeBeats_arrived {n : Nat} (hbound : (streamOf (s.ctx t c).vec k).bound = true) (hremain : n ≤ (streamOf (s.ctx t c).vec k).remain)
    (hahead : n ≤ (streamOf (s.ctx t c).vec k).ahead.length) (hgood : ∀ b ∈ (streamOf (s.ctx t c).vec k).ahead.take n, b.2 = none) :
    takeBeats s t c k n = .ok (((streamOf (s.ctx t c).vec k).ahead.take n).map Prod.fst, beatsTaken s t c k n) := by
  simp only [takeBeats, beatsTaken]
  generalize streamOf (s.ctx t c).vec k = m at *
  have hfault : (m.ahead.take n).findSome? Prod.snd = none := List.findSome?_eq_none_iff.mpr hgood
  simp [hbound, Nat.min_eq_left hremain, Nat.not_lt.mpr hahead, Nat.sub_eq_zero_of_le hahead, fetchBeats, hfault, Nat.not_lt.mpr hremain]

end

/-! ## Registers of a thread written -/

/-- The parts that an instruction of thread c of tile t leaves when it writes that thread's registers alone. -/
structure OnlyRegs (t c : Nat) (s u : State) : Prop where
  cur : u.cur = s.cur
  vec : (u.ctx t c).vec = (s.ctx t c).vec
  mat : (u.ctx t c).mat = (s.ctx t c).mat
  mem : u.mem = s.mem
  lines : u.lines = s.lines
  cores : u.cores = s.cores
  tiles : u.tiles = s.tiles
  tasks : u.tasks = s.tasks

namespace OnlyRegs

theorem refl (t c : Nat) (s : State) : OnlyRegs t c s s := ⟨rfl, rfl, rfl, rfl, rfl, rfl, rfl, rfl⟩

theorem trans {t c : Nat} {s u v : State} (h : OnlyRegs t c s u) (h' : OnlyRegs t c u v) : OnlyRegs t c s v :=
  ⟨h'.cur.trans h.cur, h'.vec.trans h.vec, h'.mat.trans h.mat, h'.mem.trans h.mem, h'.lines.trans h.lines, h'.cores.trans h.cores,
    h'.tiles.trans h.tiles, h'.tasks.trans h.tasks⟩

section
variable {s : State} {t c : Nat} (hcur : s.cur = .thread t c)
include hcur

theorem setRegs (d : List Nat) (r : Regs) : OnlyRegs t c s (s.setRegs d r) := by
  rw [State.setRegs_thread hcur]
  constructor <;> simp

theorem raiseFlags (fp qf : Word) : OnlyRegs t c s (raiseFlags s fp qf) := by
  unfold Machine.raiseFlags
  split
  · exact refl t c s
  · exact setRegs hcur _ _

theorem setG (a : Reg) (v : Word) : OnlyRegs t c s (s.setG a v) := setRegs hcur _ _

theorem retire : OnlyRegs t c s s.retire := by
  obtain ⟨hcur', hvec, hmat, hmem, hlines, hcores, htiles, htasks⟩ := setRegs hcur [2, 3] (successor s.regs s.regs.pc _)
  exact ⟨hcur', hvec, hmat, hmem, hlines, hcores, htiles, htasks⟩

end
end OnlyRegs

/-! ## Results -/

/-- Flags are ORed in, and no other register changes (R108, R129). -/
theorem raiseFlags_regs {s : State} (h : Stated.ThreadOrCore s) (fp qf : Word) :
    (raiseFlags s fp qf).regs = { s.regs with fpstat := s.regs.fpstat ||| fp, qflags := s.regs.qflags ||| qf } := by
  unfold raiseFlags
  split
  next hzero => simp [hzero]
  next => exact State.regs_setRegs h _ _

/-- A fall-through changes the PC and the loop levels of the registers alone (R167). -/
theorem retire_loopAlike {s : State} (h : Stated.ThreadOrCore s) : LoopAlike s.regs s.retire.regs := by
  rw [State.regs_retire h]
  exact LoopAlike.successor _ _ _

/-- The general register of a result written. -/
def putG (s : State) (g : Option (Reg × Word)) : State := match g with | some (a, v) => s.setG a v | none => s

/-- Registers with the flags of a vector result and its general register. -/
def Regs.withResult (q : Regs) (r : VResult) : Regs :=
  { q with g := match r.g with | some (a, v) => q.g.set a v | none => q.g, fpstat := q.fpstat ||| r.fp, qflags := q.qflags ||| r.qf }

theorem withResult_g_other (q : Regs) {r : VResult} {a : Reg} (h : ∀ v, r.g ≠ some (a, v)) : (q.withResult r).g[a] = q.g[a] := by
  cases hg : r.g with
  | none => simp [Regs.withResult, hg]
  | some p =>
    have hne : p.1.val ≠ a.val := fun e => h p.2 (by rw [hg, ← Fin.ext e])
    simp [Regs.withResult, hg, hne]

theorem withResult_g_same (q : Regs) {r : VResult} {a : Reg} {v : Word} (h : r.g = some (a, v)) : (q.withResult r).g[a] = v := by
  simp [Regs.withResult, h]

section
variable {s : State} {t c : Nat} (hcur : s.cur = .thread t c)
include hcur

theorem setVec_regs (v : VecState) : (setVec s t c v).regs = s.regs := by simp [State.regs, State.regsOf, setVec, hcur]

theorem putG_onlyRegs (g : Option (Reg × Word)) : OnlyRegs t c s (putG s g) := by
  cases g with
  | none => exact .refl t c s
  | some p => exact .setG hcur p.1 p.2

theorem putG_raiseFlags_regs (r : VResult) : (putG (raiseFlags s r.fp r.qf) r.g).regs = s.regs.withResult r := by
  have hs := threadOrCore_of_thread hcur
  have hs' := threadOrCore_of_thread ((OnlyRegs.raiseFlags hcur r.fp r.qf).cur.trans hcur)
  cases hg : r.g with
  | none => simp only [putG, raiseFlags_regs hs, Regs.withResult, hg]
  | some p => simp only [putG, State.setG, State.regs_setRegs hs', raiseFlags_regs hs, Regs.withResult, hg]

/-- A result is its vector registers, then its flags and its general register, and the fall-through: after the first a write of registers alone. -/
theorem putResult_frame (r : VResult) :
    OnlyRegs t c (setVec s t c (writeVs (s.ctx t c).vec r.at_ r.regs)) (putResult s t c r) ∧
    LoopAlike (s.regs.withResult r) (putResult s t c r).regs := by
  have hcur' : (setVec s t c (writeVs (s.ctx t c).vec r.at_ r.regs)).cur = .thread t c := hcur
  have hflags := OnlyRegs.raiseFlags hcur' r.fp r.qf
  have hput := hflags.trans (putG_onlyRegs (hflags.cur.trans hcur') r.g)
  have hthread := hput.cur.trans hcur'
  have halike := retire_loopAlike (threadOrCore_of_thread hthread)
  rw [putG_raiseFlags_regs hcur', setVec_regs hcur] at halike
  exact ⟨hput.trans (.retire hthread), halike⟩

end

end Sys2Proof.Machine

namespace Sys2Proof.Proofs
open Sys2Proof.Machine

/-- Settles O30: operands by operands_registers and takeBeats_arrived; a result of one register is writeV and then a write of registers alone. -/
theorem vectorOperandsAndResults : Obligations.VectorOperandsAndResults := by
  unfold Obligations.VectorOperandsAndResults
  refine ⟨fun s t c n l h => operands_registers s t c n h, fun s t c k n hk => ⟨fun h => takeBeats_unbound h n,
    fun hbound hremain hahead hgood => ⟨_, takeBeats_arrived hbound hremain hahead hgood, ?_, beatsTaken_mem n, ?_⟩⟩, ?_⟩
  · rw [beatsTaken_vec, streamOf_setStream_same _ hk]
  · rw [beatsTaken_vec, setStream]
  intro s t c r x hcur hat hx u
  obtain ⟨⟨_, hvec, hmat, hmem, hlines, hcores, htiles, htasks⟩, hregs⟩ := putResult_frame hcur r
  have hwrite : (u.ctx t c).vec = writeV (s.ctx t c).vec r.at_ x := by
    rw [hvec, hx]
    simp [setVec, writeVs]
  have hg (q : Reg) : u.getG q = (s.regs.withResult r).g[q] := by rw [State.getG, hregs.g]
  refine ⟨?_, fun k _ hk => ?_, by rw [hwrite, writeV], by simpa [setVec] using hmat, hregs.fpstat, hregs.qflags, fun q hq => ?_, fun q v hq => ?_,
    hmem, hlines, hcores, htiles, htasks⟩
  · rw [hwrite, readV_writeV_same _ hat]
  · rw [hwrite, readV_writeV_other _ hk]
  · rw [hg, withResult_g_other _ hq, State.getG]
  · rw [hg, withResult_g_same _ hq]

end Sys2Proof.Proofs
end

section
/-! PROOFS, matrix folds: the elements of an accumulator after one step is folded, and the two things that FOLD does (R115, R302, R311, R312,
R316, R317). -/

namespace Sys2Proof.Machine

/-! ## The binary fold (R115) -/

theorem popCount_eq_countP (x : Nat) : ∀ n, popCount x n = (List.range n).countP fun k => x.testBit k
  | 0 => rfl
  | n + 1 => by
    have hbit : x / 2 ^ n % 2 = (x.testBit n).toNat := by
      rw [Nat.testBit_eq_decide_div_mod_eq]
      rcases Nat.mod_two_eq_zero_or_one (x / 2 ^ n) with h | h <;> simp [h]
    rw [popCount, popCount_eq_countP x n, hbit, List.range_succ, List.countP_append, List.countP_singleton]
    cases x.testBit n <;> rfl

/-- What one unit of n binary products adds to an element: common bits (band), or n minus twice the differing bits (bxor). -/
theorem foldBin_eq (acc n a b : Nat) (band : Bool) : (foldBin acc n a b band : Int) =
    ((acc : Int) + (if band then (((List.range n).countP fun k => a.testBit k && b.testBit k : Nat) : Int)
      else n - 2 * (((List.range n).countP fun k => a.testBit k != b.testBit k : Nat) : Int))) % 2 ^ 32 := by
  have hwrap (v : Int) : ((v % 2 ^ 32).toNat : Int) = v % 2 ^ 32 := Int.toNat_of_nonneg (Int.emod_nonneg _ (by decide))
  simp only [foldBin, hwrap, popCount_eq_countP, Nat.testBit_and, Nat.testBit_xor]

theorem MatOp.mode_binary {o : MatOp} (h : o.xm = 7) : o.mode = 3 := if_pos h

/-! ## The cells of an accumulator (R302) -/

/-- A sparse list of the values of a function over the keys of a list. -/
theorem mget_listed (f : Nat → Nat) (l : List Nat) (k : Nat) :
    mget (l.filterMap fun i => if f i = 0 then none else some (i, f i)) 0 k = if k ∈ l then f k else 0 := by
  induction l with
  | nil => rfl
  | cons i r ih =>
    simp only [mget] at ih ⊢
    by_cases hi : f i = 0
    · by_cases hk : k = i
      · subst hk; simp [hi, ih]
      · simp [hi, ih, hk]
    · by_cases hk : k = i
      · subst hk; simp [hi, mget?]
      · simp [hi, ih, mget?, hk, Ne.symm hk]

/-- The value of cell k after one step is folded into the M x N corner. -/
def foldedCell (o : MatOp) (pa pb : List Byte) (cells : Map Nat Nat) (k : Nat) : Nat :=
  if k / 32 < o.m ∧ k % 32 < o.n then (foldElem o o.mode pa pb (k / 32) (k % 32) (mget cells 0 k)).1 else mget cells 0 k

/-- Every element of the corner takes its fold, the others stay. -/
theorem mget_foldCells (o : MatOp) (pa pb : List Byte) (cells : Map Nat Nat) {i j : Nat} (hi : i < 32) (hj : j < 32) :
    mget (foldCells o pa pb cells).1 0 (32 * i + j) =
      if i < o.m ∧ j < o.n then (foldElem o o.mode pa pb i j (mget cells 0 (32 * i + j))).1 else mget cells 0 (32 * i + j) := by
  have hcells : (foldCells o pa pb cells).1 = (List.range 1024).filterMap fun k =>
      if foldedCell o pa pb cells k = 0 then none else some (k, foldedCell o pa pb cells k) := by
    simp only [foldCells, List.filterMap_map]
    refine List.filterMap_congr fun k _ => ?_
    simp only [Function.comp_apply, foldedCell]
    split <;> rfl
  have hrow : (32 * i + j) / 32 = i := by omega
  have hcol : (32 * i + j) % 32 = j := by omega
  rw [hcells, mget_listed, if_pos (List.mem_range.mpr (by omega)), foldedCell, hrow, hcol]

/-! ## The accumulator in its context -/

section
variable {s : State} {t c a : Nat}

theorem accOf_setAcc_same (h : a < 4) (v : Acc) : accOf ((setAcc s t c a v).ctx t c) a = v := by
  simp [accOf, setAcc, h]

theorem setAcc_mem (v : Acc) : (setAcc s t c a v).mem = s.mem := rfl
theorem touchAcc_mem (d : Bool) : (touchAcc s t c a d).mem = s.mem := rfl
theorem touchAcc_ctx (d : Bool) (t' c' : Nat) : (touchAcc s t c a d).ctx t' c' = s.ctx t' c' := rfl

/-- The claim of an accumulator evicts no image line. -/
theorem resident_touchAcc (d : Bool) (c' k : Nat) : resident (touchAcc s t c a d) t c' k = resident s t c' k := by
  simp [resident, touchAcc]

theorem ensureLine_resident {k : Nat} (h : resident s t c k = true) : ensureLine s t c k = s := if_pos h

/-- Flags entered in an image line that is in place change registers alone. -/
theorem enterFlags_onlyRegs {o : MatOp} (hc : o.ctx = c) (h : resident s t c 2 = true) : OnlyRegs t c s (enterFlags s t o) := by
  subst hc
  unfold enterFlags
  split
  · exact .refl t o.ctx s
  · rw [ensureLine_resident h]
    obtain ⟨_, hvec, hmat, hmem, hlines, hcores, htiles, htasks⟩ :=
      OnlyRegs.raiseFlags (s := { s with cur := .thread t o.ctx }) rfl o.fp o.qf
    exact ⟨rfl, hvec, hmat, hmem, hlines, hcores, htiles, htasks⟩

theorem setOp_mem (o : MatOp) : (setOp s t o).mem = s.mem := rfl
theorem setOp_ctx (o : MatOp) (t' c' : Nat) : (setOp s t o).ctx t' c' = s.ctx t' c' := rfl

end

/-! ## FOLD (R312) -/

/-- The accumulator of an operation with one step folded into its cells. -/
def accFolded (s : State) (t : Nat) (o : MatOp) (p : List Byte × List Byte) : State :=
  let v := accOf (s.ctx t o.ctx) o.acc
  touchAcc (setAcc s t o.ctx o.acc { v with cells := (foldCells o p.1 p.2 v.cells).1 }) t o.ctx o.acc true

section
variable {s : State} {t : Nat} {o : MatOp}

theorem accFolded_cells (p : List Byte × List Byte) (h : o.acc < 4) : (accOf ((accFolded s t o p).ctx t o.ctx) o.acc).cells =
    (foldCells o p.1 p.2 (accOf (s.ctx t o.ctx) o.acc).cells).1 := by
  rw [accFolded, touchAcc_ctx, accOf_setAcc_same h]

theorem resident_accFolded (p : List Byte × List Byte) (c k : Nat) : resident (accFolded s t o p) t c k = resident s t c k := by
  rw [accFolded, resident_touchAcc]
  rfl

/-- The oldest parts folded: the cells change, then at most the registers and the queue, and the operation is a step further. -/
theorem foldFirst_cons {p : List Byte × List Byte} {more : List (List Byte × List Byte)} (hparts : o.parts = p :: more)
    (hline : resident s t o.ctx 2 = true) : ∃ o' u, foldFirst s t o = (o', setOp u t o') ∧ OnlyRegs t o.ctx (accFolded s t o p) u ∧
      o'.k = o.k ∧ o'.kdone = o.kdone + o.stepk := by
  have hline' : resident (accFolded s t o p) t o.ctx 2 = true := (resident_accFolded ..).trans hline
  simp only [foldFirst, hparts]
  split
  · exact ⟨_, _, rfl, enterFlags_onlyRegs rfl hline', rfl, rfl⟩
  · exact ⟨_, _, rfl, .refl .., rfl, rfl⟩

theorem afterFold_mem : (afterFold s t o).mem = s.mem := by
  unfold afterFold
  split <;> simp [setOp_mem]

theorem afterFold_ctx (t' c' : Nat) : (afterFold s t o).ctx t' c' = s.ctx t' c' := by
  unfold afterFold
  split <;> simp [setOp_ctx]

theorem afterFold_goesOn (h : o.kdone < o.k) : .fold t ∈ (afterFold s t o).due := by
  rw [afterFold, if_neg (Nat.not_le.mpr h)]
  exact State.mem_addDueOnce ..

theorem afterFold_finished (h : o.k ≤ o.kdone) : .matrixOperationComplete t ∈ (afterFold s t o).due := by
  rw [afterFold, if_pos h]
  exact State.mem_addDueOnce ..

/-- An accumulate operation at the head of a tile's queue whose folds go on: begun, not finished, retired or awaited by its thread. -/
structure FoldsAt (s : State) (t : Nat) (o : MatOp) : Prop where
  head : ∃ rest, (s.tile t).matq = o :: rest
  begun : o.begun = true
  unfinished : o.finished = false
  accumulates : o.isAcc = true
  wanted : o.retired = true ∨ opAwaited s t o = true

theorem FoldsAt.not_idle (h : FoldsAt s t o) : ¬ (o.begun = false ∨ o.finished = true ∨ o.isAcc = false) := by
  simp [h.begun, h.unfinished, h.accumulates]

theorem FoldsAt.not_abandoned (h : FoldsAt s t o) : ¬ (o.retired = false ∧ opAwaited s t o = false) := by
  rcases h.wanted with hw | hw <;> simp [hw]

/-- The operation with the parts of one more step fetched. -/
def MatOp.fetched (o : MatOp) (p : List Byte × List Byte) : MatOp := { o with kfetch := o.kfetch + o.stepk, parts := o.parts ++ [p] }

theorem exec_fold (s : State) (t : Nat) : exec (.fold t) s = .next (foldBody s t) := rfl

/-- While fewer than two steps are fetched, FOLD fetches the next; the instruction retires with the last. -/
theorem foldBody_fetches (h : FoldsAt s t o) (hmore : o.kfetch < o.k) (hroom : o.parts.length < 2) {p : List Byte × List Byte} {v : State}
    (hf : fetchParts s t o = .ok (p, v)) : foldBody s t =
      (if o.k ≤ o.kfetch + o.stepk then retireOp (setOp v t (o.fetched p)) t (o.fetched p) else setOp v t (o.fetched p)).addDueOnce (.fold t) := by
  obtain ⟨rest, hq⟩ := h.head
  simp only [foldBody, hq, if_neg h.not_idle, if_neg h.not_abandoned, if_pos (And.intro hmore hroom), hf]
  rfl

/-- With two steps fetched, or all, FOLD folds the oldest. -/
theorem foldBody_folds (h : FoldsAt s t o) (hready : o.k ≤ o.kfetch ∨ 2 ≤ o.parts.length) :
    foldBody s t = afterFold (foldFirst s t o).2 t (foldFirst s t o).1 := by
  obtain ⟨rest, hq⟩ := h.head
  have hno : ¬ (o.kfetch < o.k ∧ o.parts.length < 2) := by omega
  simp only [foldBody, hq, if_neg h.not_idle, if_neg h.not_abandoned, if_neg hno]

end

end Sys2Proof.Machine

namespace Sys2Proof.Proofs
open Sys2Proof.Machine

/-- Settles O39: FOLD fetches or folds; a fold changes the cells as mget_foldCells says, and foldBin_eq is the binary fold in the rule's words. -/
theorem matrixFold : Obligations.MatrixFold := by
  unfold Obligations.MatrixFold
  intro s t o rest hq hline hbegun hfin hlo hhi hacc hwanted
  have hfolds : FoldsAt s t o := by
    refine ⟨⟨rest, hq⟩, hbegun, hfin, by simp [MatOp.isAcc, hlo, hhi], hwanted.imp_right fun h => ?_⟩
    simp [opAwaited, h]
  refine ⟨fun p v hmore hroom hf => ?_, fun pa pb more hparts hready => ?_⟩
  · rw [exec_fold, foldBody_fetches hfolds hmore hroom hf]
    exact ⟨fun h => by rw [if_neg (Nat.not_le.mpr h)]; rfl, fun h => by rw [if_pos h]; rfl⟩
  obtain ⟨o', u, hfirst, hu, hk, hkdone⟩ := foldFirst_cons hparts hline
  have hcells : (accOf ((afterFold (setOp u t o') t o').ctx t o.ctx) o.acc).cells =
      (foldCells o pa pb (accOf (s.ctx t o.ctx) o.acc).cells).1 := by
    rw [afterFold_ctx, setOp_ctx, ← accFolded_cells (pa, pb) hacc, accOf, accOf, hu.mat]
  refine ⟨afterFold (setOp u t o') t o', by rw [exec_fold, foldBody_folds hfolds hready, hfirst], ?_, ?_⟩
  · rw [afterFold_mem, setOp_mem, hu.mem]
    rfl
  intro old new
  have hnew (i j : Nat) (hi : i < 32) (hj : j < 32) :
      new i j = if i < o.m ∧ j < o.n then (foldElem o o.mode pa pb i j (old i j)).1 else old i j := by
    simp only [new, old, hcells, mget_foldCells o pa pb _ hi hj]
  refine ⟨hnew, fun i j hi hj him hjn hxm => ?_, fun h => afterFold_goesOn (by rw [hk, hkdone]; exact h),
    fun h => afterFold_finished (by rw [hk, hkdone]; exact h)⟩
  intro a b
  rw [hnew i j hi hj, if_pos ⟨him, hjn⟩, MatOp.mode_binary hxm]
  refine (foldBin_eq (old i j) 64 a b (o.mx == 1)).trans ?_
  simp only [beq_iff_eq]
  rfl

end Sys2Proof.Proofs
end

section
/-! PROOFS, results of the scalar integer instructions: the model's operations on doubles against exact integer arithmetic (R152 to R157, Tables
5.14 to 5.16). -/

namespace Sys2Proof.Machine
open Sys2Proof.Stated

/-! ## Immediates and exact sums (R54, R152) -/

theorem wrap_toInt (x : Word) : wrap x.toInt = x := BitVec.ofInt_toInt
theorem i64_wrap (x : Int) : i64 x = wrap x := rfl
/-- A 32-bit immediate has the value of its sign extension. -/
theorem toInt_sx32 (m : BitVec 32) : m.toInt = (sx32 m).toInt := (BitVec.toInt_signExtend_of_le (by decide)).symm
theorem toInt_sx16 (m : BitVec 16) : m.toInt = (m.signExtend 64 : Word).toInt := (BitVec.toInt_signExtend_of_le (by decide)).symm

theorem wrap_add (x y : Word) : wrap (x.toInt + y.toInt) = x + y := by
  simp only [wrap, BitVec.ofInt_add, BitVec.ofInt_toInt]
theorem wrap_neg (x : Word) : wrap (-x.toInt) = -x := by
  simp only [wrap, BitVec.ofInt_neg, BitVec.ofInt_toInt]
theorem wrap_sub (x y : Word) : wrap (x.toInt - y.toInt) = x - y := by
  rw [Int.sub_eq_add_neg, wrap, BitVec.ofInt_add, BitVec.ofInt_neg, BitVec.ofInt_toInt, BitVec.ofInt_toInt, BitVec.sub_eq_add_neg]
theorem wrap_mul (x y : Word) : wrap (x.toInt * y.toInt) = x * y := by
  simp only [wrap, BitVec.ofInt_mul, BitVec.ofInt_toInt]

/-! ## Shifts (Table 5.14) -/

/-- A shift count of an immediate is that of its sign extension. -/
theorem shamt_sx32 (m : BitVec 32) : m.toNat % 64 = (sx32 m).toNat % 64 := by
  simp only [sx32, BitVec.toNat_signExtend]
  split <;> (simp only [BitVec.toNat_setWidth]; omega)
theorem ofNat_mul_pow (x : Word) (n : Nat) : BitVec.ofNat 64 (x.toNat * 2 ^ n) = x <<< n :=
  BitVec.eq_of_toNat_eq (by simp [Nat.shiftLeft_eq])
theorem ofNat_div_pow (x : Word) (n : Nat) : BitVec.ofNat 64 (x.toNat / 2 ^ n) = x >>> n :=
  BitVec.eq_of_toNat_eq (by
    rw [BitVec.toNat_ofNat, BitVec.toNat_ushiftRight, Nat.shiftRight_eq_div_pow]
    exact Nat.mod_eq_of_lt (Nat.lt_of_le_of_lt (Nat.div_le_self ..) x.isLt))
theorem wrap_div_pow (x : Word) (n : Nat) : wrap (x.toInt / 2 ^ n) = x.sshiftRight n := by
  rw [← wrap_toInt (x.sshiftRight n), BitVec.toInt_sshiftRight, Int.shiftRight_eq_div_pow]
  rfl

/-! ## Division (Table 5.15) -/

theorem wrap_tdiv (x y : Word) : (if y = 0 then wrap (-1) else wrap (x.toInt.tdiv y.toInt)) = divS x y := by
  unfold divS
  split
  · decide
  · rw [← wrap_toInt (x.sdiv y), BitVec.toInt_sdiv]
    exact BitVec.eq_of_toInt_eq (by simp [wrap])
theorem ofNat_div (x y : Word) : (if y = 0 then wrap (-1) else BitVec.ofNat 64 (x.toNat / y.toNat)) = divU x y := by
  unfold divU
  split
  · decide
  · rw [← BitVec.toNat_udiv, BitVec.ofNat_toNat, BitVec.setWidth_eq]
theorem wrap_tmod (x y : Word) : (if y = 0 then x else wrap (x.toInt.tmod y.toInt)) = remS x y := by
  unfold remS
  rw [← BitVec.toInt_srem, wrap_toInt]
theorem ofNat_mod (x y : Word) : (if y = 0 then x else BitVec.ofNat 64 (x.toNat % y.toNat)) = remU x y := by
  unfold remU
  rw [← BitVec.toNat_umod, BitVec.ofNat_toNat, BitVec.setWidth_eq]

/-! ## Minima, maxima and compares (R153, Table 5.14) -/

theorem wrap_min (x y : Word) : wrap (min x.toInt y.toInt) = if x.slt y then x else y := by
  simp only [BitVec.slt_eq_decide, decide_eq_true_eq]
  split
  · rw [min_eq_left (by omega), wrap_toInt]
  · rw [min_eq_right (by omega), wrap_toInt]
theorem wrap_max (x y : Word) : wrap (max x.toInt y.toInt) = if x.slt y then y else x := by
  simp only [BitVec.slt_eq_decide, decide_eq_true_eq]
  split
  · rw [max_eq_right (by omega), wrap_toInt]
  · rw [max_eq_left (by omega), wrap_toInt]
theorem ofNat_min (x y : Word) : BitVec.ofNat 64 (min x.toNat y.toNat) = if x.ult y then x else y := by
  simp only [BitVec.ult_eq_decide, decide_eq_true_eq]
  split
  · rw [min_eq_left (by omega), BitVec.ofNat_toNat, BitVec.setWidth_eq]
  · rw [min_eq_right (by omega), BitVec.ofNat_toNat, BitVec.setWidth_eq]
theorem ofNat_max (x y : Word) : BitVec.ofNat 64 (max x.toNat y.toNat) = if x.ult y then y else x := by
  simp only [BitVec.ult_eq_decide, decide_eq_true_eq]
  split
  · rw [max_eq_right (by omega), BitVec.ofNat_toNat, BitVec.setWidth_eq]
  · rw [max_eq_left (by omega), BitVec.ofNat_toNat, BitVec.setWidth_eq]

theorem truth_decide (p : Prop) [Decidable p] : truth p = cmpW (decide p) := by
  by_cases h : p <;> simp [truth, cmpW, boolWord, h]

/-! ## Counts of bits (Table 5.16) -/

theorem size_clzW (x : Word) : 64 - x.toNat.size = clzW x := by
  unfold clzW
  split
  next h => rw [h]; decide
  next h =>
    have hx : x.toNat ≠ 0 := fun e => h (BitVec.eq_of_toNat_eq e)
    have hsize : x.toNat.size = Nat.log2 x.toNat + 1 := by
      apply le_antisymm
      · exact Nat.size_le.2 (Nat.log2_lt hx |>.1 (Nat.lt_succ_self _))
      · exact Nat.lt_size.2 ((Nat.le_log2 hx).1 le_rfl)
    omega

/-- Zero has n trailing zero bits, however many are counted. -/
theorem ctzFuel_zero : ∀ n, ctzFuel n 0 = n
  | 0 => rfl
  | n + 1 => by rw [ctzFuel, if_neg (by decide), Nat.zero_div, ctzFuel_zero n, Nat.add_comm]
/-- Another number has as many as 2 divides it. -/
theorem ctzFuel_eq : ∀ (n : Nat) {x : Nat}, x ≠ 0 → x < 2 ^ n → ctzFuel n x = padicValNat 2 x
  | 0, x, hx, hlt => absurd hlt (by omega)
  | n + 1, x, hx, hlt => by
    rw [ctzFuel]
    split
    next h => exact (padicValNat.eq_zero_of_not_dvd (by omega)).symm
    next h =>
      have hdvd : 2 ∣ x := by omega
      have hpos : 0 < padicValNat 2 x := Nat.pos_of_ne_zero (dvd_iff_padicValNat_ne_zero hx |>.1 hdvd)
      rw [ctzFuel_eq n (by omega) (by omega), padicValNat.div hdvd]
      omega
theorem padicValNat_ctzFuel (x : Word) : (if x = 0 then 64 else padicValNat 2 x.toNat) = ctzFuel 64 x.toNat := by
  split
  next h => rw [h]; exact (ctzFuel_zero 64).symm
  next h => exact (ctzFuel_eq 64 (fun e => h (BitVec.eq_of_toNat_eq e)) x.isLt).symm

theorem countP_popFuel : ∀ n x, ((List.range n).countP fun k => x.testBit k) = popFuel n x
  | 0, _ => rfl
  | n + 1, x => by
    rw [popFuel, ← countP_popFuel n, List.range_succ_eq_map, List.countP_cons, List.countP_map, Nat.add_comm]
    congr 1
    · rcases Nat.mod_two_eq_zero_or_one x with h | h <;> simp [Nat.testBit_zero, h]
    · simp only [Function.comp_def, Nat.succ_eq_add_one, Nat.testBit_succ]

/-! ## Fields and pointers (R155, R156) -/

theorem bits_zero (x : Word) (w : Nat) : bits x 0 w = x.toNat % 2 ^ w := by rw [bits, Nat.pow_zero, Nat.div_one]

theorem fromBytes_concat (b : Byte) : ∀ l : List Byte, fromBytes (l ++ [b]) = fromBytes l + 2 ^ (8 * l.length) * b.toNat
  | [] => by simp [fromBytes]
  | c :: r => by
    rw [List.cons_append, fromBytes, fromBytes, fromBytes_concat b r, List.length_cons, Nat.mul_succ, Nat.pow_add]
    ring
theorem toBytes_length : ∀ n x, (toBytes n x).length = n
  | 0, _ => rfl
  | n + 1, x => congrArg (· + 1) (toBytes_length n (x / 256))
/-- The bytes of a number in reverse order, as a sum. -/
theorem fromBytes_reversed : ∀ n x, fromBytes (toBytes n x).reverse =
    ((List.range n).map fun k => x / 2 ^ (8 * k) % 2 ^ 8 * 2 ^ (8 * (n - 1 - k))).sum
  | 0, _ => rfl
  | n + 1, x => by
    have hshift (k : Nat) : x / 256 / 2 ^ (8 * k) = x / 2 ^ (8 * (k + 1)) := by
      rw [Nat.div_div_eq_div_mul, Nat.mul_succ, Nat.pow_add, Nat.mul_comm]
    have hweight (k : Nat) : n + 1 - 1 - (k + 1) = n - 1 - k := by omega
    rw [toBytes, List.reverse_cons, fromBytes_concat, List.length_reverse, toBytes_length, fromBytes_reversed n, List.range_succ_eq_map,
      List.map_cons, List.sum_cons, List.map_map, Nat.add_comm, BitVec.toNat_ofNat, Nat.mul_comm (2 ^ (8 * n))]
    congr 1
    · simp
    · simp only [hshift, hweight, Function.comp_def, Nat.succ_eq_add_one]
theorem sum_bswapW (x : Word) : BitVec.ofNat 64 (((List.range 8).map fun k => bits x (8 * k) 8 * 2 ^ (8 * (7 - k))).sum) = bswapW x :=
  congrArg w64 (fromBytes_reversed 8 x.toNat).symm

theorem sextN_eq {w : Nat} (h : 0 < w) (x : Nat) : sextN x w = (BitVec.ofNat w x).toInt := (slane_eq h x).symm

/-- bins writes a field (R155). -/
theorem binsW_eq (x y : Word) (l w : Nat) : binsW x y l w = setFld x (l + w) l y.toNat := by
  apply BitVec.eq_of_getLsbD_eq
  intro j hj
  have hmask : (w64 ((2 ^ (w + 1) - 1) * 2 ^ l)).getLsbD j = decide (l ≤ j ∧ j ≤ l + w) := by
    rw [w64, BitVec.getLsbD_ofNat, Nat.mul_comm, Nat.testBit_two_pow_mul, Nat.testBit_two_pow_sub_one, Bool.eq_iff_iff]
    simp only [Bool.and_eq_true, decide_eq_true_eq]
    omega
  have hset := bitOf_setFld x y.toNat j (Nat.le_add_right l w)
  rw [bitOf] at hset
  rw [hset, binsW]
  simp only [BitVec.getLsbD_or, BitVec.getLsbD_and, BitVec.getLsbD_not, BitVec.getLsbD_shiftLeft, hmask, hj, bitOf, decide_true, Bool.true_and]
  by_cases hin : l ≤ j ∧ j ≤ l + w
  · simp [hin, Nat.not_lt.mpr hin.1, BitVec.getLsbD]
  · simp [hin]
/-- And so do the statements, field by field. -/
theorem fields_eq_setFld (x y : Word) (l w : Nat) : BitVec.ofNat 64 (x.toNat % 2 ^ l + y.toNat % 2 ^ (w + 1) * 2 ^ l +
    x.toNat / 2 ^ (l + w + 1) * 2 ^ (l + w + 1)) = setFld x (l + w) l y.toNat := by
  have hwidth : l + w + 1 - l = w + 1 := by omega
  have hsplit : x.toNat / 2 ^ (l + w + 1) = x.toNat / 2 ^ l / 2 ^ (w + 1) := by rw [Nat.div_div_eq_div_mul, ← Nat.pow_add, Nat.add_assoc]
  rw [setFld, fld, fieldN, hwidth, field_replaced, hsplit, Nat.add_assoc l, Nat.pow_add]
  congr 1
  ring

theorem bextW_eq (x : Word) (l w : Nat) : bextW x l w = BitVec.ofNat 64 (bits x l (w + 1)) := rfl
theorem ptrPlus_eq (p : Word) (d : Int) : ptrPlus p d = ptrMove p d := rfl
theorem ptrTag_eq (p : Word) (t : Nat) : ptrTag p t = BitVec.ofNat 64 (t % 2 ^ 10 * 2 ^ 54 + p.toNat % 2 ^ 54) := rfl

/-! ## The instructions -/

/-- Each instruction of intValue writes that value. The lemmas above stand below in their order: immediates and sums, shifts, division, minima and
compares, counts, fields and pointers; each form of the table needs those of its row. -/
theorem exec_intValue_eq {s : State} {i : Instr} {a : Reg} {v : Word} (h : intValue s i = some (a, v)) :
    ∃ f, exec i s = execAlu a f s ∧ f s = v := by
  unfold intValue at h
  split at h <;> cases h <;> (delta exec; refine ⟨_, rfl, ?_⟩)
  all_goals
    simp only [w64, i64_wrap, toInt_sx32, toInt_sx16, wrap_toInt, wrap_add, wrap_sub, wrap_mul, wrap_neg, mulhS, mulhU,
      shamt, shamt_sx32, ofNat_mul_pow, ofNat_div_pow, wrap_div_pow,
      wrap_tdiv, ofNat_div, wrap_tmod, ofNat_mod,
      wrap_min, wrap_max, ofNat_min, ofNat_max, truth_decide, bne, beq_eq_decide, BitVec.toInt_inj, ne_eq, decide_not,
      BitVec.slt_eq_decide, BitVec.sle_eq_decide, BitVec.ult_eq_decide, BitVec.ule_eq_decide,
      size_clzW, padicValNat_ctzFuel, countP_popFuel,
      bits_zero, sum_bswapW, sextN_eq (w := 8) (by decide), sextN_eq (w := 16) (by decide), sextN_eq (w := 32) (by decide),
      bextW_eq, binsW_eq, fields_eq_setFld, tagOf, ptrPlus_eq, ptrTag_eq]

end Sys2Proof.Machine

namespace Sys2Proof.Proofs
open Sys2Proof.Machine

/-- Settles O12: the value of each form is the exact one, and every agent with general registers completes it. -/
theorem scalarResults : Obligations.ScalarResults := by
  unfold Obligations.ScalarResults
  intro s i a v hs hi
  obtain ⟨f, hexec, rfl⟩ := exec_intValue_eq hi
  rw [hexec, execAlu_next hs]
  rfl

end Sys2Proof.Proofs
end

section
/-! PROOFS, calls, the loop-end action and hardware loops (R48, R55, R158, R164 to R168). -/

namespace Sys2Proof.Machine

/-! ## Calls and register transfers (R158) -/

/-- Both calls are the linking transfer to the target of callOf, and pop nothing. -/
theorem exec_callOf {s : State} {i : Instr} {l : Int} {k : Nat} (h : Stated.callOf i = some (l, k)) :
    exec i s = runInstr profBoth s (takeTransfer (Stated.target s.getPc l k) true false) := by
  unfold Stated.callOf at h
  split at h <;> cases h <;> (rw [← jTarget_eq]; delta exec; exact runInstr_congr rfl)

/-! ## The loop-end action (R167) -/

theorem successor_intrap {r : Regs} (h : intrap r = true) (a n : Word) : successor r a n = { r with pc := n } := if_pos h

/-- Outside a trap handler the successor is the loop-end action over every level. -/
theorem successor_loops {r : Regs} (h : intrap r = false) (a n : Word) : successor r a n = loopEnd a (ldepth r) { r with pc := n } :=
  if_neg (by rw [show intrap { r with pc := n } = false from h]; decide)

section
variable {a : Word} {j : Nat} {r : Regs}

/-- A level that ends elsewhere ends the action. -/
theorem loopEnd_elsewhere (h : a ≠ llast r j) : loopEnd a (j + 1) r = r := if_neg h
/-- A level that has trips left counts down and returns to its top. -/
theorem loopEnd_again (h : a = llast r j) (hcount : 1 < (lcnt r j).toNat) :
    loopEnd a (j + 1) r = { countDown r j with pc := ltop r j } := (if_pos h).trans (if_pos hcount)
/-- A level that has none is popped, and the next one is looked at. -/
theorem loopEnd_pops (h : a = llast r j) (hcount : (lcnt r j).toNat ≤ 1) : loopEnd a (j + 1) r = loopEnd a j (popLevel r j) :=
  (if_pos h).trans (if_neg (Nat.not_lt.mpr hcount))

end

/-! ## loop (R164, R165) -/

/-- The value of a mailbox register where the statements take it from. -/
theorem mailbox_thread {s : State} {t c : Nat} (hc : s.cur = .thread t c) (k : Nat) :
    mailbox s k = ((s.block? (s.ctx t c).handle).map fun b => b.mailbox.toList.getD k 0).getD 0 := by
  simp only [mailbox, hc]
  cases s.block? (s.ctx t c).handle <;> rfl

/-- Every loop that its agent has is loopBody with the count and the target of loopOf. -/
theorem exec_loopOf {s : State} {i : Instr} {n : Word} {l : Int} {k : Nat} (hs : Stated.ThreadOrCore s) (h : Stated.loopOf s i = some (n, l, k)) :
    ∃ p : Profile, p.allows s.cur = true ∧ p.engine = 0 ∧ exec i s = runInstr p s (loopBody n (Stated.target s.getPc l k)) := by
  have hboth := profBoth_allows _ hs
  have hmail {a : Reg} {x : BitVec 5} {l' : Int}
      (h : (match s.cur with
        | .thread t c => some (((s.block? (s.ctx t c).handle).map fun b => b.mailbox.toList.getD a.val 0).getD 0, l', x.toNat)
        | _ => none) = some (n, l, k)) :
      profThread.allows s.cur = true ∧ mailbox s a.val = n ∧ l' = l ∧ x.toNat = k := by
    split at h
    next t c hc =>
      cases h
      exact ⟨by rw [hc]; rfl, mailbox_thread hc _, rfl, rfl⟩
    next => cases h
  rw [← jTarget_eq]
  unfold Stated.loopOf at h
  split at h
  · cases h; exact ⟨_, hboth, rfl, by delta exec; exact runInstr_congr rfl⟩
  · cases h; exact ⟨_, hboth, rfl, by delta exec; exact runInstr_congr rfl⟩
  · obtain ⟨hp, rfl, rfl, rfl⟩ := hmail h
    exact ⟨_, hp, rfl, by delta exec; exact runInstr_congr rfl⟩
  · obtain ⟨hp, rfl, rfl, rfl⟩ := hmail h
    exact ⟨_, hp, rfl, by delta exec; exact runInstr_congr rfl⟩
  · cases h

section
variable {s : State} {T : Nat} {line : CodeLine} (hline : checkTarget s s.cur s.getPc T = .ok line) (hlegal : lineLegal line = true)
  (habove : addrOf s.getPc < T) (hloop : namesLoop line T = false) (hinner : ldepth s.regs = 1 → T ≤ s.regs.llast0.toNat)
include hline hlegal habove hloop hinner

/-- A target that R165 accepts. -/
theorem loopTarget_ok : loopTarget T s = .ok line := by
  have hread : checkTarget s s.cur s.regs.pc T = .ok line := hline
  have hbelow : decide (T ≤ addrOf s.regs.pc) = false := decide_eq_false (Nat.not_le.mpr habove)
  have houtside : (ldepth s.regs == 1 && decide (s.regs.llast0.toNat < T)) = false := by
    rw [Bool.and_eq_false_iff, beq_eq_false_iff_ne, decide_eq_false_iff_not]
    exact (Decidable.em (ldepth s.regs = 1)).symm.imp_right fun hd => Nat.not_lt.mpr (hinner hd)
  simp only [loopTarget, hread, hlegal, hbelow, hloop, houtside]
  rfl

theorem loopBody_deep (n : Word) (h : ldepth s.regs = 2 ∨ intrap s.regs = true) :
    loopBody n T s = .error (.trap { code := 0x06, engine := engScalar }) := by
  rw [loopBody, loopTarget_ok hline hlegal habove hloop hinner]
  exact if_pos h

theorem loopBody_push {n : Word} (h : ¬ (ldepth s.regs = 2 ∨ intrap s.regs = true)) (hn : n ≠ 0) :
    loopBody n T s = .ok { s.setRegs [2, 3] { pushLevel s.regs n (w64 (nextPc s s.cur s.getPc.toNat)) (w64 T) with
      pc := w64 (nextPc s s.cur s.getPc.toNat) } with retired := true } := by
  rw [loopBody, loopTarget_ok hline hlegal habove hloop hinner]
  exact (if_neg h).trans (if_neg hn)

theorem loopBody_skip (h : ¬ (ldepth s.regs = 2 ∨ intrap s.regs = true)) :
    loopBody 0 T s = .ok { s.setRegs [2, 3] (
      let q : Regs := { s.regs with pc := w64 (nextOn line T % 2 ^ 54) }
      if ldepth s.regs = 1 ∧ s.regs.llast0 = w64 T then loopEnd (w64 T) 1 q else q) with retired := true } := by
  rw [loopBody, loopTarget_ok hline hlegal habove hloop hinner]
  exact (if_neg h).trans (if_pos rfl)

end

end Sys2Proof.Machine

namespace Sys2Proof.Proofs
open Sys2Proof.Machine

/-- Settles O14: the loop-end action level by level, the inner level first. -/
theorem fallThroughAndLoopEnd : Obligations.FallThroughAndLoopEnd := by
  unfold Obligations.FallThroughAndLoopEnd
  intro r A N p0 p1 p10
  refine ⟨fun h => successor_intrap h A N, fun h => successor_noLoop h A N, fun hi hd => ?_, fun hi hd => ?_⟩
  · rw [successor_loops hi, hd]
    exact ⟨fun h => loopEnd_elsewhere h, fun h hc => loopEnd_again h hc, fun h hc => loopEnd_pops h hc⟩
  · have inner (h : A = r.llast1) (hc : r.lcnt1.toNat ≤ 1) : loopEnd A 2 { r with pc := N } = loopEnd A 1 p1 := loopEnd_pops h hc
    rw [successor_loops hi, hd]
    exact ⟨fun h => loopEnd_elsewhere h, fun h hc => loopEnd_again h hc,
      fun h hc h0 => (inner h hc).trans (loopEnd_elsewhere h0),
      fun h hc h0 hc0 => (inner h hc).trans (loopEnd_again h0 hc0),
      fun h hc h0 hc0 => (inner h hc).trans (loopEnd_pops h0 hc0)⟩

/-- Settles O19: loop of every encoding is loopBody, whose three ends are those of R164 and R165. -/
theorem hardwareLoops : Obligations.HardwareLoops := by
  unfold Obligations.HardwareLoops
  intro s i n l k line hs hloopOf T r hline hlegal habove hnames hinner
  obtain ⟨p, hp, hengine, hexec⟩ := exec_loopOf hs hloopOf
  rw [hexec]
  have shallow (hd : ldepth r ≠ 2) (hin : intrap r = false) : ¬ (ldepth r = 2 ∨ intrap r = true) := by simp [hd, hin]
  refine ⟨fun hdeep => ?_, fun hd hin hn => ?_, fun hd hin hn => ?_⟩
  · rw [runInstr_error hp (loopBody_deep hline hlegal habove hnames hinner n hdeep), hengine]
    rfl
  · exact runInstr_ok hp (loopBody_push hline hlegal habove hnames hinner (shallow hd hin) hn)
  · subst hn
    exact runInstr_ok hp (loopBody_skip hline hlegal habove hnames hinner (shallow hd hin))

/-- Settles O17: each is the transfer that R48 accepts, with or without the link and the pops. -/
theorem callsAndReturns : Obligations.CallsAndReturns := by
  unfold Obligations.CallsAndReturns
  intro s hs link
  have hprof := profBoth_allows _ hs
  refine ⟨fun i l k hi hv => ?_, fun b hv => ⟨?_, ?_⟩, fun hv => ?_⟩
  · rw [exec_callOf hi]
    exact runInstr_ok hprof (takeTransfer_valid hv true false)
  · exact runInstr_ok hprof (takeTransfer_valid hv true false)
  · exact runInstr_ok hprof (takeTransfer_valid hv false true)
  · exact runInstr_ok hprof (takeTransfer_valid hv false true)

end Sys2Proof.Proofs
end

section
/-! PROOFS, control registers read: what rdc gives of each number of Table 5.1, and when it waits (R13, R14, R110, R132, R157, R311). -/

namespace Sys2Proof.Machine

theorem exec_rdc (a : Reg) (n : BitVec 16) (s : State) : exec (.rdc a n) s = runInstr profBoth s (rdcBody a n.toNat) := rfl

section
variable {s : State} {t c : Nat} (hc : s.cur = .thread t c) (a : Reg) (n : BitVec 16)
include hc

/-- rdc of a thread gives the register that ctlRead knows and that is not busy. -/
theorem exec_rdc_read (hb : ctlBusy s t c n.toNat = false) {v : Word} (h : ctlRead s t c n.toNat = some v) :
    exec (.rdc a n) s = .next ((s.setG a v).retire) :=
  runInstr_ok (profBoth_allows _ (threadOrCore_of_thread hc)) (by simp only [rdcBody, hc, hb, h]; rfl)

/-- It traps ILLEGALOP for a number that ctlRead does not know. -/
theorem exec_rdc_unassigned (hb : ctlBusy s t c n.toNat = false) (h : ctlRead s t c n.toNat = none) :
    exec (.rdc a n) s = .next (raise s (illegalOp s)) := by
  have hbody : rdcBody a n.toNat s = .error (.trap (illegalOp s)) := by simp only [rdcBody, hc, hb, h]; rfl
  rw [exec_rdc, runInstr_error (profBoth_allows _ (threadOrCore_of_thread hc)) hbody]
  simp

/-- It waits for a busy one. -/
theorem exec_rdc_waits (hb : ctlBusy s t c n.toNat = true) : exec (.rdc a n) s = .next s :=
  runInstr_error (st := .wait) (profBoth_allows _ (threadOrCore_of_thread hc)) (by simp only [rdcBody, hc, hb]; rfl)

end

/-- A core has FPSTAT and QFLAGS alone. -/
theorem exec_rdc_core {s : State} {i k : Nat} (hc : s.cur = .core i k) (a : Reg) (n : BitVec 16) :
    exec (.rdc a n) s = .next (if n = 4 then (s.setG a (s.regs.fpstat &&& fpstatMask)).retire
      else if n = 5 then (s.setG a (s.regs.qflags &&& qflagsMask)).retire else raise s (illegalOp s)) := by
  have hprof : profBoth.allows s.cur = true := by rw [hc]; rfl
  by_cases h4 : n = 4
  · subst h4
    exact runInstr_ok hprof (by simp only [rdcBody, hc]; rfl)
  by_cases h5 : n = 5
  · subst h5
    exact runInstr_ok hprof (by simp only [rdcBody, hc]; rfl)
  · have h4' : n.toNat ≠ 4 := fun h => h4 (BitVec.eq_of_toNat_eq h)
    have h5' : n.toNat ≠ 5 := fun h => h5 (BitVec.eq_of_toNat_eq h)
    have hbody : rdcBody a n.toNat s = .error (.trap (illegalOp s)) := by simp only [rdcBody, hc, if_neg h4', if_neg h5']
    rw [if_neg h4, if_neg h5, exec_rdc, runInstr_error hprof hbody]
    simp

/-- FPSTAT and QFLAGS are busy while a matrix operation of the thread is outstanding. -/
theorem ctlBusy_flags {s : State} {t c : Nat} {o : MatOp} (ho : o ∈ (s.tile t).matq) (hctx : o.ctx = c) {n : Nat} (hn : n = 4 ∨ n = 5) :
    ctlBusy s t c n = true :=
  List.any_eq_true.2 ⟨o, ho, by rcases hn with rfl | rfl <;> simp [hctx]⟩

/-- MPROG is while an accumulate operation is. -/
theorem ctlBusy_mprog {s : State} {t c : Nat} {o : MatOp} (ho : o ∈ (s.tile t).matq) (hctx : o.ctx = c) (hlo : 4 ≤ o.xm) (hhi : o.xm ≤ 7) :
    ctlBusy s t c 6 = true :=
  List.any_eq_true.2 ⟨o, ho, by simp [hctx, hlo, hhi]⟩

/-- The mailbox registers 24 to 31. -/
theorem ctlRead_mailbox {s : State} {t c n : Nat} {b : Block} (hb : s.block? (s.ctx t c).handle = some b) (hlo : 24 ≤ n) (hhi : n < 32) :
    ctlRead s t c n = some (b.mailbox.toList.getD (n - 24) 0) := by
  obtain ⟨m, rfl⟩ : ∃ m, n = m + 24 := ⟨n - 24, by omega⟩
  have hm : m < 8 := by omega
  simp only [ctlRead, hb]
  rw [dif_pos ⟨by omega, hhi⟩]
  simp [hm]

/-- The numbers that Table 5.1 does not assign. -/
theorem ctlRead_unassigned (s : State) (t c : Nat) {n : Nat} (h : (20 ≤ n ∧ n < 24) ∨ 32 ≤ n) : ctlRead s t c n = none := by
  obtain ⟨m, rfl⟩ : ∃ m, n = m + 20 := ⟨n - 20, by omega⟩
  simp only [ctlRead]
  rw [dif_neg (by omega)]

end Sys2Proof.Machine

namespace Sys2Proof.Proofs
open Sys2Proof.Machine

/-- Settles O21: what ctlRead gives for each number, and the operations that it waits for. -/
theorem controlRegisterReads : Obligations.ControlRegisterReads := by
  unfold Obligations.ControlRegisterReads
  refine ⟨fun s t c a n hc hidle => ?_, fun s t c a o hc ho hctx => ?_, fun s i k a n hc => ?_⟩
  · have hb := ctlBusy_of_idle hidle n.toNat
    intro x r low regs
    have listed (k : Nat) (v : Word) (hv : regs[k]? = some v) : ctlRead s t c k = some v := by
      have hk : k < 20 := (List.getElem?_eq_some_iff.1 hv).1
      interval_cases k <;> exact hv
    refine ⟨fun v hv => exec_rdc_read hc a n hb (listed n.toNat v hv),
      fun b hblock hlo hhi => exec_rdc_read hc a n hb (ctlRead_mailbox hblock hlo hhi),
      fun hn => exec_rdc_unassigned hc a n hb (ctlRead_unassigned s t c hn)⟩
  · exact ⟨exec_rdc_waits hc a 4 (ctlBusy_flags ho hctx (.inl rfl)), exec_rdc_waits hc a 5 (ctlBusy_flags ho hctx (.inr rfl)),
      fun hlo hhi => exec_rdc_waits hc a 6 (ctlBusy_mprog ho hctx hlo hhi)⟩
  · exact exec_rdc_core hc a n

end Sys2Proof.Proofs
end

section
/-! PROOFS, trap entry: the record of a trap, what its fault message leaves of the machine, and the message where it has a path (R39, R136 to R138,
R339, R484). -/

namespace Sys2Proof.Machine

/-! ## Steps due stay due while a record travels -/

section
variable {i : Instr} {s : State}

theorem mem_due_sendRecord (h : i ∈ s.due) (n : Nat) (r : FaultRecord) : i ∈ (sendRecord s n r).due := List.mem_append_left _ h
theorem mem_due_cleanWord (h : i ∈ s.due) (p : Packet) (w t : Nat) : i ∈ (cleanWord p w s t).due := List.mem_append_left _ h
theorem mem_due_cleanAt (h : i ∈ s.due) (p : Packet) (t : Nat) : i ∈ (cleanAt p s t).due :=
  foldl_keeps (fun u : State => i ∈ u.due) _ (fun u w h => by
    split
    · exact foldl_keeps (fun v : State => i ∈ v.due) _ (fun v n h => mem_due_cleanWord h p w n) _ u h
    · exact h) _ s h
theorem mem_due_cleanPath (h : i ∈ s.due) (p : Packet) (a b : Nat) : i ∈ (cleanPath s p a b).due := by
  unfold cleanPath
  split
  · exact h
  · exact foldl_keeps (fun u : State => i ∈ u.due) _ (fun u t h => mem_due_cleanAt h p t) _ s h
theorem mem_due_recordFrom (h : i ∈ s.due) (t : Nat) (r : FaultRecord) : i ∈ (recordFrom s t r).due := by
  unfold recordFrom
  dsimp only
  split
  · exact mem_due_cleanPath h ..
  · split <;> exact mem_due_sendRecord (mem_due_cleanPath h ..) ..

end

/-! ## A record with a path (R339, R341) -/

/-- Where every head travels X-then-Y and no table word is bad, a record arrives at its home island and nothing else changes. -/
theorem recordFrom_clear {s : State} (hplain : plainRoutes s = true) (hclean : cleanRouters s = true) (t : Nat) (r : FaultRecord) :
    recordFrom s t r = sendRecord s (homeIsland (clusterOf t)) r := by
  have hpath (p : Packet) (a b : Nat) : cleanPath s p a b = s := if_pos (by rw [hclean]; rfl)
  have hstuck (a b : Nat) : stuckOn s a b = false := by simp [stuckOn, hclean]
  have hdrop (a b : Nat) : dropsHead? s a b = none := if_pos hplain
  simp [recordFrom, hpath, hstuck, hdrop]

/-! ## The trap record and its message (R137, R138) -/

theorem causeWord_eq (nested : Bool) (engine code : Nat) :
    causeWord nested engine code = BitVec.ofNat 64 ((if nested then 2 ^ 16 else 0) + engine * 2 ^ 8 + code) := by
  cases nested <;> rfl

/-- The trap record holds the cause, the address, TRADDR and TRINFO (Tables 5.4, 5.5). -/
theorem recordTrap_record (r : Regs) (tr : Trap) :
    (recordTrap r tr).trcause = BitVec.ofNat 64 ((if bitOf r.status 6 then 2 ^ 16 else 0) + tr.engine * 2 ^ 8 + tr.code) ∧
    (recordTrap r tr).trpc = BitVec.ofNat 64 (Stated.bits (tr.pc.getD r.pc) 0 54) ∧ (recordTrap r tr).traddr = tr.addr ∧
    (recordTrap r tr).trinfo = tr.info :=
  ⟨causeWord_eq .., congrArg w64 (bits_address _).symm, rfl, rfl⟩
/-- And it writes nothing else. -/
theorem recordTrap_keeps (r : Regs) (tr : Trap) : (recordTrap r tr).windows = r.windows ∧ (recordTrap r tr).g = r.g ∧
    (recordTrap r tr).pc = r.pc ∧ (recordTrap r tr).status = r.status ∧ (recordTrap r tr).fpstat = r.fpstat ∧
    (recordTrap r tr).qflags = r.qflags ∧ (recordTrap r tr).mprog = r.mprog ∧ (recordTrap r tr).tvec = r.tvec :=
  ⟨rfl, rfl, rfl, rfl, rfl, rfl, rfl, rfl⟩

/-- The trap registers lead the body of a thread's record, its block and THREADID follow (Table 15.11). -/
theorem trapBody_registers (r : Regs) (h tid : Nat) (handover : Bool) :
    (trapBody r h tid handover).take 32 = wordsBytes [r.trcause, r.trpc, r.traddr, r.trinfo] := by
  rw [trapBody, List.append_assoc]
  exact List.take_left' (by simp [wordsBytes, toBytes])
theorem fromBytes_toBytes : ∀ n v, fromBytes (toBytes n v) = v % 2 ^ (8 * n)
  | 0, v => (Nat.mod_one v).symm
  | n + 1, v => by
    rw [toBytes, fromBytes, fromBytes_toBytes n, BitVec.toNat_ofNat, Nat.mul_succ, Nat.add_comm (8 * n), Nat.pow_add, Nat.mod_mul]
/-- A value laid out behind k bytes reads back. -/
theorem leAt_toBytes {a : List Byte} {k : Nat} (hk : a.length = k) (n v : Nat) (b : List Byte) :
    leAt (a ++ toBytes n v ++ b) k n = v % 2 ^ (8 * n) := by
  rw [leAt, List.append_assoc, List.drop_left' hk, List.take_left' (toBytes_length n v), fromBytes_toBytes]
theorem trapBody_thread (r : Regs) (h tid : Nat) (handover : Bool) :
    leAt (trapBody r h tid handover) 32 4 = (h + tid * 2 ^ 24) % 2 ^ 32 :=
  leAt_toBytes (by simp [wordsBytes, toBytes]) 4 _ _

/-- The one message of a trap of thread (t, c) (R138). -/
def trapMessage (s : State) (t c : Nat) (tr : Trap) : FaultRecord :=
  let x := s.ctx t c
  let ten := blockTenant s x.handle
  { tenant := trapReceiver ten (regionTenant s (clusterOf t)) tr.code tr.info.toNat, kind := 1, work := ten
    body := trapBody x.regs x.handle x.tid false, prefer := some x.handle }
/-- Where every head has a path it goes to the home island. -/
theorem sendTrap_clear {s : State} (hplain : plainRoutes s = true) (hclean : cleanRouters s = true) (t c : Nat) (tr : Trap) :
    sendTrap s t c tr.code tr.info.toNat false = sendRecord s (homeIsland (clusterOf t)) (trapMessage s t c tr) :=
  recordFrom_clear hplain hclean t _

/-! ## Taking a trap (R138) -/

/-- A context that a trap of its thread leaves, with the registers r: Trapped, without a slot, its lines 2 and 3 dirty. -/
def trapped (s : State) (t c : Nat) (r : Regs) : State :=
  s.setCtx t c { leaveSlot (s.ctx t c) with regs := r, state := .trapped, dirty := (s.ctx t c).dirty ∪ [2, 3] }

theorem leaveSlot_marked (x : Ctx) : (leaveSlot x).marked = x.marked := rfl

/-- A trap outside dstep whose context can be written back sends its message and frees the slot. -/
theorem takeTrap_writtenBack {s w : State} {t c : Nat} {tr : Trap} (hstep : stepping ((ensureTrapLines s t c).ctx t c).regs = false)
    (hw : switchOut (trapped (ensureTrapLines s t c) t c (recordTrap ((ensureTrapLines s t c).ctx t c).regs tr)) t c = (w, none)) :
    takeTrap s t c tr = sendTrap (slotFreed w t) t c tr.code tr.info.toNat false := by
  simp only [trapped, leaveSlot_marked] at hw
  simp only [takeTrap, hstep, Bool.false_and, Bool.or_false, Bool.false_eq_true, if_false, hw]

end Sys2Proof.Machine

namespace Sys2Proof.Proofs
open Sys2Proof.Machine

/-- Settles O53: the record by its fields, the message by its body. -/
theorem threadTrapEntry : Obligations.ThreadTrapEntry := by
  unfold Obligations.ThreadTrapEntry
  intro s t c tr hc s0 x r
  obtain ⟨hcause, hpc, haddr, hinfo⟩ := recordTrap_record x.regs tr
  obtain ⟨hwindows, hg, hpc', hstatus, hfpstat, hqflags, hmprog, htvec⟩ := recordTrap_keeps x.regs tr
  refine ⟨raise_thread hc tr, fun h2 h3 => ?_, hcause, hpc, haddr, hinfo, hwindows, hg, hpc', hstatus, hfpstat, hqflags, hmprog, htvec,
    fun hstep => ?_⟩
  · show ensureLine (ensureLine s t c 2) t c 3 = s
    rw [ensureLine_resident h2, ensureLine_resident h3]
  · intro s1 i
    refine ⟨by simp [s1, leaveSlot], by simp [s1], fun w hw => ?_⟩
    intro v y u
    have hu : u = sendTrap v t c tr.code tr.info.toNat false := takeTrap_writtenBack hstep hw
    refine ⟨hu, ?_, ?_, ?_, fun hplain hclean => ?_⟩
    · rw [hu, sendTrap_mem]
    · rw [hu]; exact recordFrom_ctxs ..
    · rw [hu]; exact mem_due_recordFrom (State.mem_addDueOnce ..) ..
    · rw [hu, sendTrap_clear hplain hclean]
      refine ⟨List.mem_append_right _ (List.mem_singleton_self _), trapMessage v t c tr, ?_, rfl, rfl, trapBody_registers .., trapBody_thread ..⟩
      simp [sendRecord, i]

end Sys2Proof.Proofs
end

section
/-! PROOFS, reads leave the agents: a checked read of memory, with its translation, its head and its copies, changes no context and no core
(R33, R172, R188, R194, R339, R477, R525). -/

namespace Sys2Proof.Machine

/-- The states have the same agents: whose turn it is, the contexts and the cores. -/
structure SameAgents (s u : State) : Prop where
  cur : u.cur = s.cur
  ctxs : u.ctxs = s.ctxs
  cores : u.cores = s.cores

namespace SameAgents
variable {s u v : State}

theorem refl (s : State) : SameAgents s s := ⟨rfl, rfl, rfl⟩
theorem trans (h : SameAgents s u) (h' : SameAgents u v) : SameAgents s v :=
  ⟨h'.cur.trans h.cur, h'.ctxs.trans h.ctxs, h'.cores.trans h.cores⟩
/-- What each step of a fold leaves, the fold leaves. -/
theorem foldl {α : Type} {f : State → α → State} (hf : ∀ u x, SameAgents u (f u x)) (l : List α) (s : State) : SameAgents s (l.foldl f s) :=
  foldl_keeps (SameAgents s) f (fun u x h => h.trans (hf u x)) l s (refl s)

/-- General registers of threads and cores are among what stays. -/
theorem getG (h : SameAgents s u) (hs : Stated.ThreadOrCore s) (r : Reg) : u.getG r = s.getG r := by
  obtain ⟨hcur, hctxs, hcores⟩ := h
  obtain ⟨t, c, hc⟩ | ⟨i, k, hc⟩ := threadOrCore_cases hs
  · simp only [State.getG, State.regs, hcur, hc, State.regsOf, State.ctx, hctxs]
  · simp only [State.getG, State.regs, hcur, hc, State.regsOf, State.core, hcores]

/-! ## Packets and records -/

theorem addDueOnce (s : State) (i : Instr) : SameAgents s (s.addDueOnce i) := ⟨by simp, by simp, by simp⟩
theorem setTask (s : State) (k : Nat) (x : Task) : SameAgents s (s.setTask k x) := ⟨rfl, rfl, rfl⟩
theorem cleanWord (p : Packet) (w : Nat) (s : State) (t : Nat) : SameAgents s (cleanWord p w s t) := ⟨rfl, rfl, rfl⟩
theorem cleanAt (p : Packet) (s : State) (t : Nat) : SameAgents s (cleanAt p s t) :=
  foldl (fun u w => by
    split
    · exact foldl (cleanWord p w) _ u
    · exact refl u) _ s
theorem cleanPath (s : State) (p : Packet) (a b : Nat) : SameAgents s (cleanPath s p a b) := by
  unfold Machine.cleanPath
  split
  · exact refl s
  · exact foldl (cleanAt p) _ s
theorem sendRecord (s : State) (i : Nat) (r : FaultRecord) : SameAgents s (sendRecord s i r) := ⟨rfl, rfl, rfl⟩
theorem recordFrom (s : State) (t : Nat) (r : FaultRecord) : SameAgents s (recordFrom s t r) := by
  unfold Machine.recordFrom
  dsimp only
  split
  · exact cleanPath ..
  · split <;> exact (cleanPath ..).trans (sendRecord ..)
theorem edgeHead (s : State) (t src pa : Nat) : SameAgents s (edgeHead s t src pa).1 := by
  unfold Machine.edgeHead
  split
  · exact refl s
  · have hpath (p p' : Packet) (a b : Nat) : SameAgents s (Machine.cleanPath (Machine.cleanPath s p a b) p' b a) :=
      (cleanPath ..).trans (cleanPath ..)
    dsimp only
    split
    · exact hpath ..
    · split
      · exact (hpath ..).trans (recordFrom ..)
      · exact hpath ..
theorem correctCache (s : State) (n : Nat) (l : Loc) : SameAgents s (correctCache s n l) := by
  unfold Machine.correctCache
  split
  · split
    · dsimp only
      split
      · exact refl s
      · exact ⟨rfl, rfl, rfl⟩
    · exact refl s
  · exact refl s
theorem headWay {src n : Nat} {l : Loc} (h : headWay s src n l = .ok u) : SameAgents s u := by
  unfold Machine.headWay at h
  split at h
  · cases h; exact refl s
  · dsimp only at h
    split at h
    · cases h
    · split at h <;> cases h
      exact cleanPath ..
theorem sendHead {q : Req} {x : Place} (h : sendHead s q x = .ok u) : SameAgents s u := by
  unfold Machine.sendHead at h
  split at h <;> cases h
  exact (headWay ‹_›).trans (correctCache ..)
theorem sendHeads {q : Req} : ∀ (l : List Place) (s : State), sendHeads s q l = .ok u → SameAgents s u
  | [], s, h => by cases h; exact refl _
  | x :: r, s, h => by
    unfold Machine.sendHeads at h
    split at h
    · exact sendHeads r s h
    · split at h
      · cases h
      · exact (sendHead ‹_›).trans (sendHeads r _ h)

/-! ## Errors of lines -/

theorem meetLine (s : State) (l : Nat) : SameAgents s (meetLine s l) := by
  unfold Machine.meetLine
  split
  · exact refl s
  · split
    · exact ⟨rfl, rfl, rfl⟩
    · split <;> exact ⟨rfl, rfl, rfl⟩
theorem meetAt (s : State) (pa n : Nat) : SameAgents s (meetAt s pa n) := by
  unfold Machine.meetAt
  split
  · exact refl s
  · exact foldl (fun u k => meetLine u _) _ s
theorem meetWords (s : State) (l : List Nat) : SameAgents s (meetWords s l) := foldl (fun u pa => meetAt u pa 8) l s
theorem meetPlaces (s : State) (q : Req) (l : List Place) : SameAgents s (meetPlaces s q l) :=
  foldl (fun u x => by
    unfold meetPlace
    split
    · split
      · exact refl u
      · exact meetAt ..
    · exact refl u) l s

/-! ## Translation and the checks -/

theorem fillLast (s : State) (i t : Nat) (tr : Trans) : SameAgents s (fillLast s i t tr) := by
  unfold Machine.fillLast
  split
  · exact refl s
  · dsimp only
    split
    · exact refl s
    · exact ⟨rfl, rfl, rfl⟩
theorem walked (s : State) (n t : Nat) (w : Who) (acc : AccKind) (va : Nat) (tr : Trans) : SameAgents s (walked s n t w acc va tr) :=
  have hfill : SameAgents s (fillTlb s n t w acc va tr) := ⟨rfl, rfl, rfl⟩
  (hfill.trans (fillLast ..)).trans (meetWords ..)
theorem tileTranslate {n t va pa : Nat} {w : Who} {acc : AccKind} {tp : Bool} (h : tileTranslate s n t w acc va = .ok (pa, tp, u)) :
    SameAgents s u := by
  unfold Machine.tileTranslate at h
  split at h
  · split at h
    · cases h; exact refl s
    · split at h <;> cases h
      exact walked ..
  · split at h <;> cases h
    exact walked ..
theorem agentTranslate {a : Agent} {acc : AccKind} {va pa : Nat} {tp : Bool} (h : agentTranslate s a acc va = .ok (pa, tp, u)) :
    SameAgents s u := by
  cases a with
  | thread t c => exact tileTranslate h
  | zephyr t z => exact tileTranslate h
  | core i k =>
    simp only [Machine.agentTranslate] at h
    split at h
    · split at h <;> cases h
      exact refl s
    · split at h <;> cases h
      exact (fillLast ..).trans (meetWords ..)
theorem edgePlace {q : Req} {acc : AccKind} {p : Word} {a n : Nat} {x : Place} (h : edgePlace s q acc p a n = .ok (x, u)) : SameAgents s u := by
  unfold Machine.edgePlace at h
  split at h
  · split at h
    · cases h
    · split at h <;> cases h
      exact refl s
  · split at h
    · cases h; exact refl s
    · dsimp only at h
      split at h
      · cases h
      · rename_i hr
        split at h <;> cases h
        split at hr
        · exact agentTranslate hr
        · exact tileTranslate hr
theorem placeOf {q : Req} {acc : AccKind} {p : Word} {a n : Nat} {x : Place} (h : placeOf s q acc p a n = .ok (x, u)) : SameAgents s u := by
  have hmap {e : Except Trap Place} (h : (e.map fun x => (x, s)) = .ok (x, u)) : SameAgents s u := by
    cases e <;> cases h
    exact refl s
  unfold Machine.placeOf at h
  split at h
  · exact hmap h
  · split at h
    · exact hmap h
    · exact edgePlace h
theorem placesOf {q : Req} {acc : AccKind} {p : Word} : ∀ (l : List (Nat × Nat)) (s : State) {xs : List Place},
    placesOf s q acc p l = .ok (xs, u) → SameAgents s u
  | [], s, _, h => by cases h; exact refl _
  | (a, n) :: r, s, _, h => by
    unfold Machine.placesOf at h
    split at h
    · cases h
    · split at h <;> cases h
      exact (placeOf ‹_›).trans (placesOf r _ ‹_›)
theorem check {q : Req} {acc : AccKind} {p : Word} {n : Nat} {xs : List Place} (h : check s q acc p n = .ok (xs, u)) : SameAgents s u := by
  unfold Machine.check at h
  split at h
  · cases h
  · split at h <;> cases h
    rename_i hres _
    unfold resolve at hres
    split at hres
    · cases hres
    · split at hres
      · cases hres
      · exact placesOf _ _ hres

/-! ## The data cache -/

theorem writeBackBlock (s : State) (b : DBlock) : SameAgents s (writeBackBlock s b) := by
  unfold Machine.writeBackBlock
  split
  · exact foldl (f := storeLine b) (fun u k => ⟨rfl, rfl, rfl⟩) _ s
  · exact refl s
theorem writeBackFrom (t : Nat) (s : State) (b : DBlock) : SameAgents s (writeBackFrom t s b) := by
  unfold Machine.writeBackFrom
  split
  · exact refl s
  · dsimp only
    split
    · exact (edgeHead ..).trans (writeBackBlock ..)
    · exact edgeHead ..
theorem setDcache (s : State) (t : Nat) (l : List DBlock) : SameAgents s (setDcache s t l) := ⟨rfl, rfl, rfl⟩
theorem flushBlocks (s : State) (t : Nat) (p : DBlock → Bool) : SameAgents s (flushBlocks s t p) :=
  (foldl (writeBackFrom t) _ s).trans (setDcache ..)
theorem flushOwn (s : State) (q : Req) (l : Loc) : SameAgents s (flushOwn s q l) := by
  unfold Machine.flushOwn
  split
  · split
    · exact refl s
    · exact flushBlocks ..
  · exact refl s
theorem fillBlock (s : State) (q : Req) (va pa : Nat) (tp : Bool) : SameAgents s (fillBlock s q va pa tp) := by
  unfold Machine.fillBlock
  refine (((flushBlocks s q.tile fun b => b.pblock == pa / 64).trans (meetAt _ (pa / 64 * 64) 64)).trans ?_).trans (setDcache ..)
  split
  · split
    · exact flushBlocks ..
    · exact refl _
  · exact refl _

/-! ## Places read -/

theorem edgeCopy (s : State) (q : Req) (engine : Bool) (x : Place) (pa : Nat) : SameAgents s (edgeCopy s q engine x pa).2.2.2.2 := by
  unfold Machine.edgeCopy
  split
  · exact (flushOwn ..).trans (meetAt ..)
  · have hcached : SameAgents s (match dblock? s q x.va with | some b => touchBlock s q.tile b | none => Machine.fillBlock s q x.va pa x.tp) := by
      split
      · exact setDcache ..
      · exact fillBlock ..
    dsimp only
    split <;> exact hcached
theorem homeCopy (s : State) (q : Req) (engine : Bool) (x : Place) : SameAgents s (homeCopy s q engine x).2.2.2.2 := by
  unfold Machine.homeCopy
  split
  · split
    · exact edgeCopy ..
    · exact meetAt ..
  · exact refl s
theorem addRead (s : State) (kid : Nat) (k : Task) (l : Loc) (ver : Nat) (missed fromCache : Bool) (part : Nat × Nat × List Nat) :
    SameAgents s (addRead s kid k l ver missed fromCache part) := by
  unfold Machine.addRead
  split
  · exact refl s
  · dsimp only
    split
    · split
      · exact (setTask ..).trans (addDueOnce ..)
      · exact ⟨rfl, rfl, rfl⟩
    · exact ⟨rfl, rfl, rfl⟩
theorem readShared {q : Req} {kid : Nat} {k : Task} {engine : Bool} {x : Place} {bs : List Byte}
    (h : readShared s q kid k engine x = .ok (bs, u)) : SameAgents s u := by
  unfold Machine.readShared at h
  dsimp only at h
  split at h
  · cases h
  · split at h
    · cases h
    · split at h
      · cases h
      · cases h
        refine (homeCopy s q engine x).trans ?_
        split
        · exact ⟨rfl, rfl, rfl⟩
        · exact (setTask ..).trans (addRead ..)
theorem readHome {q : Req} {engine : Bool} {x : Place} {bs : List Byte} (h : readHome s q engine x = .ok (bs, u)) : SameAgents s u := by
  unfold Machine.readHome at h
  split at h
  · split at h
    · exact readShared h
    · cases h; exact homeCopy ..
  · cases h; exact homeCopy ..
theorem readPlace {q : Req} {engine : Bool} {x : Place} {bs : List Byte} (h : readPlace s q engine x = .ok (bs, u)) : SameAgents s u := by
  unfold Machine.readPlace at h
  split at h
  · exact readHome h
  · split at h
    · cases h
    · split at h
      · cases h
      · exact (sendHead ‹_›).trans (readHome h)
theorem readPlaces {q : Req} {engine : Bool} : ∀ (l : List Place) (s : State) {bs : List Byte},
    readPlaces s q engine l = .ok (bs, u) → SameAgents s u
  | [], s, _, h => by cases h; exact refl _
  | x :: r, s, _, h => by
    unfold Machine.readPlaces at h
    split at h
    · cases h
    · split at h <;> cases h
      exact (readPlace ‹_›).trans (readPlaces r _ ‹_›)

/-! ## Loads -/

theorem memLoad {q : Req} {engine : Bool} {p : Word} {n : Nat} {bs : List Byte} (h : memLoad s q engine p n = .ok (bs, u)) : SameAgents s u := by
  unfold Machine.memLoad at h
  split at h
  · cases h
  · split at h <;> cases h
    exact (check ‹_›).trans (readPlaces _ _ ‹_›)
theorem checkNow {q : Req} {acc : AccKind} {p : Word} {n : Nat} {xs : List Place} (h : checkNow s q acc p n = .ok (xs, u)) : SameAgents s u := by
  unfold Machine.checkNow at h
  split at h
  · cases h
  · split at h
    · cases h
    · split at h
      · split at h <;> cases h
        exact (check ‹_›).trans (sendHeads _ _ ‹_›)
      · cases h; exact check ‹_›
theorem coreLoad {q : Req} {p : Word} {n : Nat} {bs : List Byte} (h : coreLoad s q p n = .ok (bs, u)) : SameAgents s u := by
  unfold Machine.coreLoad at h
  split at h <;> cases h
  exact (checkNow ‹_›).trans (meetPlaces ..)
/-- The reads of a member list (R355, R356). -/
theorem readMembers {q : Req} {p : Word} {m : Option (List Word)} (h : readMembers s q p = .ok (m, u)) : SameAgents s u := by
  have hload {s u : State} {p : Word} {n : Nat} {bs : List Byte}
      (h : (if q.core then Machine.coreLoad s q p n else Machine.memLoad s q false p n) = .ok (bs, u)) : SameAgents s u := by
    split at h
    · exact coreLoad h
    · exact memLoad h
  unfold Machine.readMembers at h
  dsimp only at h
  split at h
  · cases h
  · rename_i hcount
    split at h
    · cases h; exact hload hcount
    · split at h <;> cases h
      exact (hload hcount).trans (hload ‹_›)

end SameAgents

end Sys2Proof.Machine
end

section
/-! PROOFS, migration and the queries of the fabric: mig, mgset, mlat, mprobe, mbufq, mdrain, mpoll (R146, R355, R360, R363, R366). -/

namespace Sys2Proof.Machine

theorem jetBoth_allows {s : State} (hs : Stated.ThreadOrCore s) : jetBoth.allows s.cur = true := by
  obtain ⟨t, c, hc⟩ | ⟨i, k, hc⟩ := threadOrCore_cases hs <;> rw [hc] <;> rfl
theorem jetThread_allows {s : State} {t c : Nat} (hc : s.cur = .thread t c) : jetThread.allows s.cur = true := by rw [hc]; rfl

/-! ## mig (R363) -/

section
variable {s : State} {t c : Nat} (hc : s.cur = .thread t c) (hmay : mayMigrate s t c = true) {b : Reg}
include hc hmay

theorem migBody_local (h : addrOf (s.getG b) < 0x20000) : migBody b s = .ok s.retire := by
  simp [migBody, hc, hmay, inLocal, h]

variable {bl : Block} (ha : 0x3FFE0000000000 ≤ addrOf (s.getG b))
  (hlive : liveBlock? s (fromViewHandle s (threadReq s t c).tenant (addrOf (s.getG b) / 2 ^ 17 % 2 ^ 24)) = some bl)
  (hallowed : sendRefused s (threadReq s t c) bl = false) (hlaunch : some bl.launch = (s.block? (s.ctx t c).handle).map Block.launch)
include ha hlive hallowed hlaunch

/-- A permitted block of the thread's launch: nothing moves when it is on the tile, the migration begins when it is not. -/
theorem migBody_cluster : migBody b s = if bl.tile = t ∧ bl.evicted = false then .ok s.retire
    else startMigration s t c (fromViewHandle s (threadReq s t c).tenant (addrOf (s.getG b) / 2 ^ 17 % 2 ^ 24))
      (w64 (nextPc s s.cur s.getPc.toNat)) (s.getG b) := by
  have hlocal : inLocal (addrOf (s.getG b)) = false := decide_eq_false (by omega)
  have hhole : inHole (addrOf (s.getG b)) = false := by simp [inHole]; omega
  have hcluster : inCluster (addrOf (s.getG b)) = true := decide_eq_true ha
  simp only [migBody, hc, hmay, hlocal, hhole, hcluster, hlive, hallowed, hlaunch, ne_eq, not_true_eq_false, Bool.true_eq_false,
    Bool.false_eq_true, if_false]

end

/-- The message of a migration to block h that resumes at pc (R363 step 6). -/
def migrationEntry (s : State) (t c h : Nat) (pc back : Word) : SendEntry :=
  let x := s.ctx t c
  let q := threadReq s t c
  let k? := x.task.bind s.task?
  { order := s.nextId, kind := 1, src := senderOf s (.thread t c), pend := [h], handler := pc, seq := x.seq, task := x.task, ctx := c
    payload := sealFlits s q (senderOf s (.thread t c)) x.seq (wordsBytes (migrationImage x.regs pc)), owner := q.tenant, world := worldOf s q.tenant
    stamp := (k?.map Task.stamp).getD 0, launch := (k?.map Task.launch).getD 0, region := regionTenant s (clusterOf t)
    remain := x.remain, back := back, windows := x.regs.windows }
/-- The state in which the thread has left its slot with the message in entry k of its tile's send buffer. -/
def migrated (s : State) (t c k : Nat) (e : SendEntry) : State :=
  (putSend (s.fresh.2.setCtx t c { leaveSlot (s.ctx t c) with state := .held, seq := ((s.ctx t c).seq + 1) % 2 ^ 16 }) (.tile t) k e).addDueOnce
    (.issueSlotTaken t)

/-- R363 steps 4 to 6 when nothing waits and the images are written. -/
theorem startMigration_ok {s v w : State} {t c k : Nat} (h : Nat) (pc back : Word) (hidle : threadBusy s t c = false)
    (hsettle : settle s (threadReq s t c) = .ok v) (hfree : freeSend? v (.tile t) = some k)
    (hout : switchOut (flushBlocks v t fun d => d.tp && d.dirty && d.tenant == blockTenant v (v.ctx t c).handle) t c = (w, none)) :
    startMigration s t c h pc back = .ok (migrated w t c k (migrationEntry w t c h pc back)) := by
  have hbusy : ¬ threadBusy s t c = true := by rw [hidle]; decide
  rw [startMigration, if_neg hbusy]
  simp only [hsettle, hfree, hout]
  rfl

section
variable (s : State) (t c k : Nat) (e : SendEntry)

theorem migrated_ctx : ((migrated s t c k e).ctx t c).state = .held ∧ ((migrated s t c k e).ctx t c).slot = none := by
  simp [migrated, putSend, setSends, leaveSlot]
theorem migrated_sends : mget? ((migrated s t c k e).tile t).sends k = some e := by
  simp [migrated, putSend, setSends, mget?_mset_same]
theorem migrated_due : .issueSlotTaken t ∈ (migrated s t c k e).due := State.mem_addDueOnce ..

end

/-! ## mgset (R355) -/

/-- A member that names a handle has no bits above it. -/
theorem fld_above_handle {w : Word} (h : w.toNat < 2 ^ 24) : fld w 63 24 = 0 := by
  rw [fld, fieldN, Nat.div_eq_of_lt h, Nat.zero_mod]

/-- A group of distinct, live and permitted members is set in the state that their reads leave. -/
theorem mgsetBody_ok {s u : State} {b c : Reg} {m : List Word} (hs : Stated.ThreadOrCore s) (hb : fld (s.getG b) 63 3 = 0)
    (hread : readMembers s (curReq s) (s.getG c) = .ok (some m, u)) (hsmall : ∀ w ∈ m, w.toNat < 2 ^ 24) (hnodup : m.Nodup)
    (hlive : ∀ h ∈ m.map (fun w => fromViewHandle u (curReq s).tenant w.toNat), (liveBlock? u h).isSome = true)
    (hallowed : ∀ h ∈ m.map (fun w => fromViewHandle u (curReq s).tenant w.toNat), destRefused u (curReq s) h = false) :
    mgsetBody b c s = .ok (setGroup u (fld (s.getG b) 2 0) (m.map fun w => fromViewHandle u (curReq s).tenant w.toNat)).retire := by
  have hmembers : ((m.any fun w => fld w 63 24 != 0) || decide (m.dedup.length < m.length)) = false := by
    rw [hnodup.dedup, decide_eq_false (lt_irrefl _), Bool.or_false, List.any_eq_false]
    intro w hw
    simp [fld_above_handle (hsmall w hw)]
  have hstale : (m.map fun w => fromViewHandle u (curReq s).tenant w.toNat).findIdx? (fun h => (liveBlock? u h).isNone) = none :=
    List.findIdx?_eq_none_iff.2 fun h hh => by rw [← Option.not_isSome, hlive h hh]; rfl
  have hrefused : (m.map fun w => fromViewHandle u (curReq s).tenant w.toNat).findIdx? (destRefused u (curReq s)) = none :=
    List.findIdx?_eq_none_iff.2 hallowed
  have hreg : u.getG b = s.getG b := (SameAgents.readMembers hread).getG hs b
  rw [mgsetBody]
  simp only [hb, hread, hmembers, hstale, hrefused, hreg]
  rfl

/-! ## Queries (R366, Table 11.10) -/

section
variable {s : State} {t c : Nat} (hc : s.cur = .thread t c) (a b : Reg)
include hc

/-- What mprobe answers by the block that its handle names. -/
theorem mprobeBody_stale (h : liveBlock? s (fromViewHandle s (threadReq s t c).tenant (fld (s.getG b) 23 0)) = none) :
    mprobeBody a b s = .ok (alu a (sendStatus 1) s) := by
  simp only [mprobeBody, hc, h]

variable {bl : Block} (h : liveBlock? s (fromViewHandle s (threadReq s t c).tenant (fld (s.getG b) 23 0)) = some bl)
include h

theorem mprobeBody_live : mprobeBody a b s =
    .ok (if sendRefused s (threadReq s t c) bl then alu a (sendStatus 2) s
      else if bl.tile = t then alu a 0 (cacheHandle s t (fromViewHandle s (threadReq s t c).tenant (fld (s.getG b) 23 0)) t)
      else
        let r := probe s t (fromViewHandle s (threadReq s t c).tenant (fld (s.getG b) 23 0)) bl
        alu a r.1 r.2) := by
  simp only [mprobeBody, hc, h]
  split
  · rfl
  · split <;> rfl

end

end Sys2Proof.Machine

namespace Sys2Proof.Proofs
open Sys2Proof.Machine

/-- Settles O41: mig by where its block is, mgset by the reads of its members, and each query by its one line of Table 11.10. -/
theorem migrationAndQueries : Obligations.MigrationAndQueries := by
  unfold Obligations.MigrationAndQueries
  refine ⟨fun s t c b hc hmay => ?_, fun s b c m u hs hb hread hsmall hnodup => ?_, fun s a hs => ?_, fun s t c a b hc => ?_⟩
  · have hprof := jetThread_allows hc
    intro g q h
    refine ⟨fun ha => runInstr_ok hprof (migBody_local hc hmay ha), fun bl ha hlive hallowed hlaunch => ?_⟩
    have hbody := migBody_cluster hc hmay ha hlive hallowed hlaunch
    refine ⟨fun htile hev => runInstr_ok hprof (hbody.trans (if_pos ⟨htile, hev⟩)), fun v k w htile hidle hsettle hfree hout => ?_⟩
    have hmoves := hbody.trans ((if_neg (fun h => htile h.1)).trans (startMigration_ok _ _ _ hidle hsettle hfree hout))
    obtain ⟨hstate, hslot⟩ := migrated_ctx w t c k (migrationEntry w t c h (w64 (nextPc s s.cur s.getPc.toNat)) g)
    exact ⟨_, _, runInstr_ok hprof hmoves, hstate, hslot, migrated_sends .., rfl, rfl, rfl, rfl, migrated_due ..⟩
  · intro hs' hlive hallowed
    exact runInstr_ok (jetBoth_allows hs) (mgsetBody_ok hs hb hread hsmall hnodup hlive hallowed)
  · have hprof := jetBoth_allows hs
    refine ⟨fun t c hc => ?_, fun i k hc => ?_, (runInstr_ok hprof rfl : execMbufq a s = _),
      fun hnone => (runInstr_ok hprof (if_pos hnone) : execMdrain s = _)⟩
    · exact (runInstr_ok hprof (by simp only [hc]; rfl) : execMlat a s = _)
    · exact (runInstr_ok hprof (by simp only [hc]; rfl) : execMlat a s = _)
  · have hprof := jetThread_allows hc
    refine ⟨fun h => runInstr_ok hprof (mprobeBody_stale hc a b h), fun bl hlive => ?_, ?_⟩
    · have hbody := mprobeBody_live hc a b hlive
      refine ⟨fun href => runInstr_ok hprof (hbody.trans ?_), fun href htile => runInstr_ok hprof (hbody.trans ?_),
        fun href htile => runInstr_ok hprof (hbody.trans ?_)⟩
      · rw [if_pos href]; rfl
      · rw [if_neg (by rw [href]; decide), if_pos htile]; rfl
      · rw [if_neg (by rw [href]; decide), if_neg htile]; rfl
    · exact (runInstr_ok hprof (by simp only [curHandle, curThread, hc]; rfl) : execMpoll a s = _)

end Sys2Proof.Proofs
end

section
/-! PROOFS, data-cache instructions, the range-lock query and layout records (R192, R193, R219, R221 to R224). -/

namespace Sys2Proof.Machine

theorem localThread_allows {s : State} {t c : Nat} (hc : s.cur = .thread t c) : localThread.allows s.cur = true := by rw [hc]; rfl

/-! ## dcinv and dcwb where no block of a data cache is named (R192) -/

/-- An island core's dcinv takes entries out of its island's shared cache and changes nothing else (log entry 36). -/
theorem dropShared_frame (s : State) (p : Word) (i : Nat) :
    (dropShared s p).mem = s.mem ∧ (dropShared s p).lines = s.lines ∧ (dropShared s p).ctxs = s.ctxs ∧ (dropShared s p).cores = s.cores ∧
      ∀ e ∈ ((dropShared s p).island i).scache, e ∈ (s.island i).scache := by
  unfold dropShared
  split
  next j b _ =>
    refine ⟨rfl, rfl, rfl, rfl, fun e he => ?_⟩
    by_cases hj : i = j
    · subst hj
      rw [setShared, State.island_setIsland_same] at he
      exact List.mem_of_mem_filter he
    · rwa [setShared, State.island_setIsland_other _ _ _ _ hj] at he
  next => exact ⟨rfl, rfl, rfl, rfl, fun _ he => he⟩
theorem dropShared_thread {s : State} {t c : Nat} (hc : s.cur = .thread t c) (p : Word) : dropShared s p = s := by
  simp only [dropShared, sharedAt, hc]

/-! ## Layout records (R221 to R224) -/

/-- A thread's record write with room in its store buffer is entered there. -/
theorem bufferRecord_room {s : State} {t c kid : Nat} {k : Task} (htask : (s.ctx t c).task = some kid) (hk : s.task? kid = some k)
    (hroom : bufferEntries k + 4 ≤ 256) (n r : Nat) (img : List Byte) :
    bufferRecord s t c n r img = .ok (s.setTask kid { k with recs := ⟨n, r, img⟩ :: k.recs }) := by
  simp [bufferRecord, htask, hk, Nat.not_lt.mpr hroom]

section
variable {s : State} {i k n r : Nat} {b c : Reg} (hc : s.cur = .core i k) (hrec : coreRecord s i k (s.getG b) = .ok (n, r))
include hc hrec

theorem lrwrBody_core {img : List Byte} {u : State} (hload : coreLoad s (coreReq s i k) (s.getG c) 64 = .ok (img, u)) :
    lrwrBody b c s = .ok (recordCommit u n r img).retire := by simp only [lrwrBody, hc, hrec, hload]
theorem lrrdBody_core {u : State} (hstore : coreStore s (coreReq s i k) (s.getG c) (layoutRecord s n r) = .ok u) :
    lrrdBody b c s = .ok u.retire := by simp only [lrrdBody, hc, hrec, hstore]

end

section
variable {s : State} {t x kid : Nat} {b c : Reg} (hc : s.cur = .thread t x)
include hc

theorem lrwrBody_thread {img : List Byte} {u v : State} (hload : memLoad s (threadReq s t x) false (s.getG c) 64 = .ok (img, u))
    (hbuf : bufferRecord u t x (clusterOf t) (fld (s.getG b) 7 0) img = .ok v) : lrwrBody b c s = .ok v.retire := by
  simp only [lrwrBody, hc, hload, hbuf]
theorem lrrdBody_thread {xs : List Place × State} {img : List Byte} {u v : State}
    (hcheck : check s (threadReq s t x) .write (s.getG c) 64 = .ok xs)
    (hread : recordRead s (threadReq s t x).task (clusterOf t) (fld (s.getG b) 7 0) = .ok (img, u))
    (hstore : memStore u (threadReq s t x) (s.getG c) img = .ok v) : lrrdBody b c s = .ok v.retire := by
  simp only [lrrdBody, hc, hcheck, hread, hstore]

end

end Sys2Proof.Machine

namespace Sys2Proof.Proofs
open Sys2Proof.Machine

/-- Settles O29: each instruction's body by where its data-cache block, its record or its range-lock table is. -/
theorem cacheOpsAndRecords : Obligations.CacheOpsAndRecords := by
  unfold Obligations.CacheOpsAndRecords
  refine ⟨fun s b hs hnone => ⟨?_, fun t c hc => ?_, fun i k hc => ?_⟩, fun s t d b hs hblock => ⟨?_, ?_⟩, fun s b hs => ?_,
    fun s t c a b hc => ?_, fun s i k n r b c hc hrec => ⟨fun img u hload => ?_, fun u hstore => ?_⟩, fun s t x kid b c hc => ?_⟩
  · exact (runInstr_ok (localBoth_allows hs) (by simp only [hnone]; rfl) : execDcwb b s = _)
  · exact (runInstr_ok (localBoth_allows hs) (by simp only [hnone, dropShared_thread hc]; rfl) : execDcinv b s = _)
  · exact ⟨_, (runInstr_ok (localBoth_allows hs) (by simp only [hnone]) : execDcinv b s = _), dropShared_frame s (s.getG b) i⟩
  · exact (runInstr_ok (localBoth_allows hs) (by simp only [hblock]; rfl) : execDcinv b s = _)
  · exact (runInstr_ok (localBoth_allows hs) (by simp only [hblock]; rfl) : execDcwb b s = _)
  · exact (runInstr_ok (localBoth_allows hs) rfl : execPf b s = _)
  · exact (runInstr_ok (localThread_allows hc) (by simp only [curHandle, curThread, hc]; rfl) : execRlq a b s = _)
  · exact (runInstr_ok (by rw [hc]; rfl) (lrwrBody_core hc hrec hload) : execLrwr b c s = _)
  · exact (runInstr_ok (by rw [hc]; rfl) (lrrdBody_core hc hrec hstore) : execLrrd b c s = _)
  · intro q r htask
    refine ⟨fun img u k hload hkid hk hroom => ?_, fun xs img u v hcheck hread hstore => ?_⟩
    · exact (runInstr_ok (by rw [hc]; rfl) (lrwrBody_thread hc hload (bufferRecord_room hkid hk hroom ..)) : execLrwr b c s = _)
    · rw [← htask] at hread
      exact (runInstr_ok (by rw [hc]; rfl) (lrrdBody_thread hc hcheck hread hstore) : execLrrd b c s = _)

end Sys2Proof.Proofs
end

section
/-! PROOFS, canonical memory (R185, R186): what a state, a stop and a computation are when memory keeps its canonical form. A lemma `f_mem` says that f
leaves memory, a lemma `f_wf` that f keeps the form.

Two steps recur in the proofs below, for the kernel: where comparing a body with its unfolding would make it evaluate what the body matches on, the
function is unfolded as a constant (`generalize hbody : f = body; delta f at hbody; subst hbody`), and a function called is made a variable first
(`generalize g = v at h ⊢; revert v; refine id fun v h => ?_`). -/

namespace Sys2Proof.Machine

/-- Memory in canonical form, as the lemmas of the operations state it. -/
abbrev WfMem (s : State) : Prop := Memory.wf s.mem = true
/-- What a computation ends with satisfies p where it gives a value and q where it stops. -/
def Ends {ε α : Type} (q : ε → Prop) (p : α → Prop) : Except ε α → Prop
  | .ok a => p a
  | .error e => q e
/-- The state that a stop keeps has canonical memory. -/
def StopWf : Stop → Prop
  | .kept s _ => Memory.wf s.mem = true
  | _ => True
/-- The state in which a read was lost has canonical memory. -/
def HoldWf : Hold → Prop
  | .lost s => Memory.wf s.mem = true
  | _ => True
@[simp] theorem Ends_ok {ε α : Type} (q : ε → Prop) (p : α → Prop) (a : α) : Ends q p (.ok a) = p a := rfl
@[simp] theorem Ends_error {ε α : Type} (q : ε → Prop) (p : α → Prop) (a : ε) : Ends q p (.error a : Except ε α) = q a := rfl
/-- A fold of steps that leave memory leaves it. -/
@[simp] theorem foldl_mem {α : Type} {f : State → α → State} (hf : ∀ s x, (f s x).mem = s.mem) (l : List α) (s : State) :
    (l.foldl f s).mem = s.mem := foldl_keeps (fun u => u.mem = s.mem) f (fun u x h => (hf u x).trans h) l s rfl
/-- A fold of steps that keep the canonical form keeps it. -/
theorem foldl_wf {α : Type} {f : State → α → State} (hf : ∀ s x, WfMem s → WfMem (f s x)) (l : List α) {s : State} (hs : WfMem s) :
    WfMem (l.foldl f s) := foldl_keeps WfMem f hf l s hs
theorem Ends.map {ε α β : Type} {q : ε → Prop} {p : β → Prop} {e : Except ε α} {f : α → β} (h : Ends q (fun a => p (f a)) e) : Ends q p (e.map f) := by
  cases e <;> exact h
/-- A fold that stops at the first error keeps what each of its steps keeps. -/
theorem foldl_ends {ε α β : Type} {q : ε → Prop} {p : β → Prop} {f : Except ε β → α → Except ε β} (he : ∀ e x, f (.error e) x = .error e)
    (hf : ∀ b x, p b → Ends q p (f (.ok b) x)) (l : List α) {r : Except ε β} (hr : Ends q p r) : Ends q p (l.foldl f r) :=
  foldl_keeps (Ends q p) f (fun r x h => by
    cases r with
    | error e => rw [he]; exact h
    | ok b => exact hf b x h) l r hr
theorem Ends.ok {ε α : Type} {q : ε → Prop} {p : α → Prop} {x : Except ε α} {a : α} (h : Ends q p x) (e : x = .ok a) : p a := by rwa [e] at h
theorem Ends.error {ε α : Type} {q : ε → Prop} {p : α → Prop} {x : Except ε α} {a : ε} (h : Ends q p x) (e : x = .error a) : q a := by rwa [e] at h
theorem ite_wf {c : Prop} [Decidable c] {s u : State} (hs : WfMem s) (hu : WfMem u) : WfMem (if c then s else u) := by
  split
  · exact hs
  · exact hu
theorem ite_ends {ε α : Type} {q : ε → Prop} {p : α → Prop} {c : Prop} [Decidable c] {x y : Except ε α} (hx : Ends q p x) (hy : Ends q p y) :
    Ends q p (if c then x else y) := by
  split
  · exact hx
  · exact hy

end Sys2Proof.Machine
end

section
/-! PROOFS, canonical memory in state parts, errors, translation and context images (R185, R186). -/

namespace Sys2Proof.Machine

/-! ## The state's parts -/

@[simp] theorem State.drawFree_mem (s : State) : (State.drawFree s).2.mem = s.mem := rfl
@[simp] theorem State.fresh_mem (s : State) : (State.fresh s).2.mem = s.mem := rfl
@[simp] theorem State.setRegsOf_mem (s : State) (a : Agent) (dirty : List Nat) (r : Regs) : (State.setRegsOf s a dirty r).mem = s.mem := by
  unfold State.setRegsOf
  grind only [State.setCtx_mem, State.setCore_mem, setZreq_mem]

/-! ## Errors of edge lines -/

@[simp] theorem strike_mem (s : State) : (strike s).mem = s.mem := by
  unfold strike
  split <;> rfl

/-! ## Translation -/

section
variable {s : State} (hs : WfMem s)
include hs

theorem tileTranslate_wf (n t : Nat) (who : Who) (acc : AccKind) (va : Nat) :
    Ends (fun _ => True) (fun r => WfMem r.2.2) (tileTranslate s n t who acc va) := by
  unfold tileTranslate
  grind only [walked_mem, Ends_ok, Ends_error]

end

/-! ## Code fetch, context images and stops -/

@[simp] theorem dropLines_mem (s : State) (t c : Nat) : (dropLines s t c).mem = s.mem := rfl
@[simp] theorem touchLines_mem (s : State) (t c : Nat) : (touchLines s t c).mem = s.mem := rfl
@[simp] theorem wantSerial_mem (s : State) : (wantSerial s).mem = s.mem := by
  unfold wantSerial
  grind only [State.setTask_mem, State.addDueOnce_mem]
section
variable {s : State} (hs : WfMem s)
include hs

theorem agentTranslate_wf (a : Agent) (acc : AccKind) (va : Nat) : Ends (fun _ => True) (fun r => WfMem r.2.2) (agentTranslate s a acc va) := by
  unfold agentTranslate
  grind only [tileTranslate_wf, meetWords_mem, fillLast_mem, Ends_ok, Ends_error]
theorem readCodeLine_wf (a : Agent) (va : Nat) : Ends (fun _ => True) (fun r => WfMem r.2.2) (readCodeLine s a va) := by
  unfold readCodeLine
  grind only [agentTranslate_wf, meetAt_mem, Ends_ok, Ends_error]
omit hs in
theorem checkTarget_wf (a : Agent) (pc : Word) (t : Nat) : Ends StopWf (fun _ => True) (checkTarget s a pc t) := by
  unfold checkTarget
  grind only [Ends_ok, Ends_error, StopWf]
theorem imagePhys_wf (t c off : Nat) (acc : AccKind) : Ends (fun _ => True) (fun r => WfMem r.2) (imagePhys s t c off acc) := by
  unfold imagePhys
  grind only [tileTranslate_wf, Ends_ok, Ends_error]
theorem readImage_wf (t c base first off n : Nat) : Ends (fun _ => True) (fun r => WfMem r.2) (readImage s t c base first off n) := by
  unfold readImage
  refine foldl_keeps (Ends (fun _ => True) fun r : List Byte × State => WfMem r.2) _ (fun acc k h => ?_) _ _ hs
  grind only [tileTranslate_mem, meetAt_mem, Ends_ok, Ends_error]
@[simp] theorem checkpointImages_wf (t c : Nat) : WfMem (checkpointImages s t c).1 := by
  unfold checkpointImages
  dsimp only
  split
  · exact hs
  · refine runSteps_wf _ (fun f hf u hu => ?_) s hs
    simp only [List.mem_append, List.mem_map, List.mem_singleton] at hf
    obtain (rfl | ⟨k, -, rfl⟩) | rfl := hf <;> exact writeImage_wf _ _ _ _ _ _ _ hu
@[simp] theorem orImageFault_wf (f : Option Trap) (t c : Nat) : WfMem (orImageFault f s t c) := by
  unfold orImageFault
  grind only [trapImage_wf]
@[simp] theorem makeResident_wf (t c k : Nat) : WfMem (makeResident s t c k) := by
  unfold makeResident
  split
  · exact hs
  · exact evictFrom_wf (fun u t c tr hu => trapImage_wf u t c tr hu) _ _ _ hs
@[simp] theorem makeAllResident_wf (t c : Nat) : WfMem (makeAllResident s t c) := by
  unfold makeAllResident
  rw [WfMem, State.setCtx_mem]
  exact foldl_wf (fun u k hu => makeResident_wf hu t c k) _ hs
theorem fillLine_wf (t c k : Nat) : Ends (fun _ => True) WfMem (fillLine s t c k) := by
  unfold fillLine
  grind only [imagePhys_wf, edgeHead_mem, makeResident_wf, meetAt_mem, State.setCtx_mem, Ends_ok, Ends_error]
omit hs in
theorem Stop.keptIn_wf (s : State) (st : Stop) (hs : WfMem s) (ht : StopWf st) : StopWf (st.keptIn s) := by
  unfold Stop.keptIn
  grind only [wantSerial_mem, StopWf]

end

end Sys2Proof.Machine
end

section
/-! PROOFS, canonical memory in routes and accesses (R185, R186). -/

namespace Sys2Proof.Machine

/-! ## Routes -/

@[simp] theorem cacheHandle_mem (s : State) (t h pos : Nat) : (cacheHandle s t h pos).mem = s.mem := rfl
@[simp] theorem launchPacket_mem (s : State) (p : Packet) : (launchPacket s p).mem = s.mem := rfl
@[simp] theorem hang_mem (s : State) (a : Agent) : (hang s a).mem = s.mem := by
  unfold hang
  grind only [State.fresh_mem, State.setCtx_mem, State.setCore_mem, setZreq_mem]

/-! ## Accesses -/

@[simp] theorem setDcache_mem (s : State) (t : Nat) (l : List DBlock) : (setDcache s t l).mem = s.mem := rfl
@[simp] theorem touchBlock_mem (s : State) (t : Nat) (b : DBlock) : (touchBlock s t b).mem = s.mem := rfl
@[simp] theorem spreadInvalidations_mem (s : State) (own pa launch stamp : Nat) : (spreadInvalidations s own pa launch stamp).mem = s.mem := by
  simp [spreadInvalidations]
@[simp] theorem dropStale_mem (s : State) (t : Nat) : (dropStale s t).mem = s.mem := rfl
@[simp] theorem loseHead_mem (s : State) (src at_ : Nat) (l : Loc) : (loseHead s src at_ l).mem = s.mem := by simp [loseHead]
@[simp] theorem correctCache_mem (s : State) (at_ : Nat) (l : Loc) : (correctCache s at_ l).mem = s.mem := by
  unfold correctCache
  grind only [launchPacket_mem]
@[simp] theorem meetPlace_mem (q : Req) (s : State) (x : Place) : (meetPlace q s x).mem = s.mem := by
  unfold meetPlace
  grind only [meetAt_mem]
@[simp] theorem meetPlaces_mem (s : State) (q : Req) (xs : List Place) : (meetPlaces s q xs).mem = s.mem := by
  simp [meetPlaces]
@[simp] theorem notePrivate_mem (s : State) (q : Req) (x : Place) : (notePrivate s q x).mem = s.mem := by
  unfold notePrivate
  grind only [State.setTask_mem]
@[simp] theorem dropBuffered_mem (s : State) (q : Req) (x : Place) (n : Nat) : (dropBuffered s q x n).mem = s.mem := by
  unfold dropBuffered
  grind only [State.setTask_mem]
section
variable {s : State} (hs : WfMem s)
include hs

theorem edgePlace_wf (q : Req) (acc : AccKind) (p : Word) (a n : Nat) : Ends (fun _ => True) (fun r => WfMem r.2) (edgePlace s q acc p a n) := by
  unfold edgePlace
  grind only [agentTranslate_wf, tileTranslate_wf, Ends_ok, Ends_error]
theorem placeOf_wf (q : Req) (acc : AccKind) (p : Word) (a n : Nat) : Ends (fun _ => True) (fun r => WfMem r.2) (placeOf s q acc p a n) := by
  unfold placeOf
  split
  · exact Ends.map (by cases localPlace s q p a n <;> simp [hs, WfMem])
  · split
    · exact Ends.map (by cases clusterPlace s q p a n <;> simp [hs, WfMem])
    · exact edgePlace_wf hs q acc p a n
omit hs in
theorem placesOf_wf (s : State) (q : Req) (acc : AccKind) (p : Word) (l : List (Nat × Nat)) (hs : WfMem s) :
    Ends (fun _ => True) (fun r => WfMem r.2) (placesOf s q acc p l) := by
  induction l generalizing s with
  | nil => exact hs
  | cons g r ih =>
    unfold placesOf
    grind only [placeOf_wf, Ends_ok, Ends_error]
theorem resolve_wf (q : Req) (acc : AccKind) (p : Word) (n : Nat) : Ends (fun _ => True) (fun r => WfMem r.2) (resolve s q acc p n) := by
  unfold resolve
  grind only [placesOf_wf, Ends_error]
theorem check_wf (q : Req) (acc : AccKind) (p : Word) (n : Nat) : Ends (fun _ => True) (fun r => WfMem r.2) (check s q acc p n) := by
  unfold check
  grind only [resolve_wf, Ends_error]
@[simp] theorem storeLine_wf (b : DBlock) (k : Nat) : WfMem (storeLine b s k) := by
  exact memWrites_wf _ _ _ hs
@[simp] theorem writeBackBlock_wf (b : DBlock) : WfMem (writeBackBlock s b) := by
  unfold writeBackBlock
  split
  · exact foldl_wf (fun u k hu => storeLine_wf hu b k) _ hs
  · exact hs
@[simp] theorem writeBackFrom_wf (t : Nat) (b : DBlock) : WfMem (writeBackFrom t s b) := by
  unfold writeBackFrom
  grind only [edgeHead_mem, writeBackBlock_wf]
@[simp] theorem flushBlocks_wf (t : Nat) (p : DBlock → Bool) : WfMem (flushBlocks s t p) := by
  exact foldl_wf (fun u b hu => writeBackFrom_wf hu t b) _ hs
@[simp] theorem fillBlock_wf (q : Req) (va pa : Nat) (tp : Bool) : WfMem (fillBlock s q va pa tp) := by
  unfold fillBlock
  grind only [meetAt_mem, flushBlocks_wf, setDcache_mem]
@[simp] theorem flushAlias_wf (t pa : Nat) : WfMem (flushAlias s t pa) := by
  unfold flushAlias
  grind only [flushBlocks_wf]
omit hs in
@[simp] theorem flushOwn_wf (s : State) (q : Req) (l : Loc) (hs : WfMem s) : WfMem (flushOwn s q l) := by
  unfold flushOwn
  grind only [flushAlias_wf]
theorem headWay_wf (src at_ : Nat) (l : Loc) : Ends WfMem WfMem (headWay s src at_ l) := by
  unfold headWay
  grind only [cleanPath_mem, loseHead_mem, Ends_ok, Ends_error]
theorem sendHead_wf (q : Req) (x : Place) : Ends WfMem WfMem (sendHead s q x) := by
  unfold sendHead
  grind only [headWay_wf, hang_mem, correctCache_mem, Ends_ok, Ends_error]
@[simp] theorem edgeCopy_wf (q : Req) (engine : Bool) (x : Place) (pa : Nat) : WfMem (edgeCopy s q engine x pa).2.2.2.2 := by
  unfold edgeCopy
  grind only [meetAt_mem, flushOwn_wf, touchBlock_mem, fillBlock_wf]
@[simp] theorem homeCopy_wf (q : Req) (engine : Bool) (x : Place) : WfMem (homeCopy s q engine x).2.2.2.2 := by
  unfold homeCopy
  grind only [edgeCopy_wf, meetAt_mem]
theorem readShared_wf (q : Req) (kid : Nat) (k : Task) (engine : Bool) (x : Place) :
    Ends HoldWf (fun r => WfMem r.2) (readShared s q kid k engine x) := by
  unfold readShared
  grind only [homeCopy_wf, State.setTask_mem, addRead_mem, Ends_ok, Ends_error, HoldWf]
theorem readHome_wf (q : Req) (engine : Bool) (x : Place) : Ends HoldWf (fun r => WfMem r.2) (readHome s q engine x) := by
  unfold readHome
  grind only [readShared_wf, homeCopy_wf, Ends_ok, HoldWf]
theorem readPlace_wf (q : Req) (engine : Bool) (x : Place) : Ends HoldWf (fun r => WfMem r.2) (readPlace s q engine x) := by
  unfold readPlace
  grind only [readHome_wf, sendHead_wf, Ends_ok, Ends_error, HoldWf]
omit hs in
theorem readPlaces_wf (s : State) (q : Req) (engine : Bool) (l : List Place) (hs : WfMem s) :
    Ends HoldWf (fun r => WfMem r.2) (readPlaces s q engine l) := by
  induction l generalizing s with
  | nil => exact hs
  | cons x r ih =>
    unfold readPlaces
    grind only [readPlace_wf, Ends_ok, Ends_error, HoldWf]
@[simp] theorem writeCached_wf (q : Req) (x : Place) (pa : Nat) (bs : List Byte) : WfMem (writeCached s q x pa bs) := by
  unfold writeCached
  grind only [touchBlock_mem, fillBlock_wf, writePhys_wf, noteWrap_mem, setDcache_mem]
@[simp] theorem awaitPlace_wf (q : Req) (x : Place) : WfMem (awaitPlace s q x) := by
  unfold awaitPlace
  grind only [finishRekey_wf]
@[simp] theorem writeHome_wf (q : Req) (x : Place) (bs : List Byte) : WfMem (writeHome s q x bs) := by
  unfold writeHome
  grind only [awaitPlace_wf, dropBuffered_mem, writeCached_wf, writePhys_wf, flushOwn_wf, spreadInvalidations_mem, notePrivate_mem]
omit hs in
theorem sendHeads_wf (s : State) (q : Req) (l : List Place) (hs : WfMem s) : Ends WfMem WfMem (sendHeads s q l) := by
  induction l generalizing s with
  | nil => exact hs
  | cons x r ih =>
    unfold sendHeads
    grind only [sendHead_wf, Ends_ok, Ends_error]
@[simp] theorem writeNow_wf (q : Req) (x : Place) (bs : List Byte) : WfMem (writeNow s q x bs) := by
  unfold writeNow
  grind only [writeHome_wf, sendHead_wf, Ends_ok, Ends_error]
omit hs in
@[simp] theorem writeNowAll_wf (s : State) (q : Req) (l : List Place) (bs : List Byte) (hs : WfMem s) : WfMem (writeNowAll s q l bs) := by
  induction l generalizing s bs with
  | nil => exact hs
  | cons x r ih => exact ih _ _ (writeNow_wf hs q x _)

end

/-! ## Range locks -/

@[simp] theorem registerRanges_mem (s : State) (l : List RangeSpec) : (registerRanges s l).mem = s.mem := by
  exact foldl_mem (f := fun s (p : RangeSpec) => s.setTile p.1 { s.tile p.1 with locks := (s.tile p.1).locks ++ [p.2] }) (fun _ _ => rfl) l s
@[simp] theorem releaseRanges_mem (s : State) (req : Nat) : (releaseRanges s req).mem = s.mem := rfl
@[simp] theorem regainLock_mem (s : State) (t c : Nat) (m : Stream) : (regainLock s t c m).mem = s.mem := by
  unfold regainLock
  split <;> simp
@[simp] theorem regainLocks_mem (s : State) (t c : Nat) : (regainLocks s t c).mem = s.mem := by
  simp [regainLocks]

end Sys2Proof.Machine
end

section
/-! PROOFS, canonical memory in intervals, commits and discards (R185, R186). -/

namespace Sys2Proof.Machine

/-! ## Commits, discards and settling -/

@[simp] theorem enqueue_mem (s : State) (t c : Nat) (x : Ctx) : (enqueue s t c x).mem = s.mem := by simp [enqueue]
@[simp] theorem noteCount_mem (s : State) (l : Nat) : (noteCount s l).mem = s.mem := by
  unfold noteCount
  grind only [State.addDueOnce_mem]
@[simp] theorem noteRaised_mem (s : State) (l : Nat) : (noteRaised s l).mem = s.mem := by
  unfold noteRaised
  split <;> rfl
@[simp] theorem recordCommit_mem (s : State) (n k : Nat) (img : List Byte) : (recordCommit s n k img).mem = s.mem := by
  unfold recordCommit
  grind only [State.setCluster_mem, State.addDueOnce_mem]
@[simp] theorem pushEntry_mem (s : State) (t : Nat) (e : DequeEntry) : (pushEntry s t e).mem = s.mem := by
  unfold pushEntry
  grind only [State.setTile_mem, State.setIsland_mem, State.addDueOnce_mem]
@[simp] theorem mapFrozen_mem (f : Frozen → Frozen) (s : State) : (mapFrozen f s).mem = s.mem := rfl
@[simp] theorem mapAllocs_mem (f : List Alloc → List Alloc) (s : State) : (mapAllocs f s).mem = s.mem := rfl
@[simp] theorem dropEntries_mem (s : State) (p : DequeEntry → Bool) : (dropEntries s p).mem = s.mem := rfl
@[simp] theorem dropLoads_mem (s : State) (k : Nat) : (dropLoads s k).mem = s.mem := by
  refine foldl_mem (fun u b => ?_) _ s
  split <;> simp
@[simp] theorem cancelEngines_mem (s : State) (k : Nat) : (cancelEngines s k).mem = s.mem := by
  simp [cancelEngines]
@[simp] theorem forgetParked_mem (s : State) (k : Nat) : (forgetParked s k).mem = s.mem := rfl
@[simp] theorem dropInterval_mem (s : State) (k : Nat) (x : Task) : (dropInterval s k x).mem = s.mem := by simp [dropInterval]
@[simp] theorem forgetReaders_mem (s : State) (k : Nat) : (forgetReaders s k).mem = s.mem := rfl
@[simp] theorem freePayload_mem (s : State) (x : Task) : (freePayload s x).mem = s.mem := by
  unfold freePayload
  split <;> rfl
@[simp] theorem leaveLaunch_mem (s : State) (k : Nat) (x : Task) : (leaveLaunch s k x).mem = s.mem := by simp [leaveLaunch]
@[simp] theorem freeContext_mem (s : State) (x : Task) : (freeContext s x).mem = s.mem := by
  unfold freeContext
  grind only [State.setCtx_mem, dropLines_mem, dropAccs_mem, slotFreed_mem, State.addDueOnce_mem]
@[simp] theorem requeueTask_mem (s : State) (k : Nat) (x : Task) : (requeueTask s k x).mem = s.mem := by simp [requeueTask]
@[simp] theorem setFrozen_mem (s : State) (h : Nat) (f : Frozen → Frozen) : (setFrozen s h f).mem = s.mem := by
  unfold setFrozen
  split <;> rfl
@[simp] theorem leaveGone_mem (s : State) (k : Nat) : (leaveGone s k).mem = s.mem := by
  unfold leaveGone
  grind only [State.setTask_mem, leaveLaunch_mem]
@[simp] theorem frozenFate_mem (s : State) (k : Nat) (f : Fate) (x : Task) (z : Frozen) : (frozenFate s k f x z).mem = s.mem := by
  unfold frozenFate
  grind only [setFrozen_mem, dropInterval_mem, State.fresh_mem, leaveGone_mem, dropEntries_mem, State.setTask_mem]
@[simp] theorem refuseCommit_mem (s : State) (x : Task) (src : Nat) (l : Loc) : (refuseCommit s x src l).mem = s.mem := by simp [refuseCommit]
@[simp] theorem beatsDue_mem (s : State) (t c : Nat) : (beatsDue s t c).mem = s.mem := by
  refine foldl_mem (fun u k => ?_) _ s
  split <;> simp
section
variable {s : State} (hs : WfMem s)
include hs

@[simp] theorem enqueueFresh_wf (t c : Nat) (x : Ctx) : WfMem (enqueueFresh s t c x) := by
  unfold enqueueFresh
  grind only [makeAllResident_wf, enqueue_mem, dropAccs_mem]
@[simp] theorem dealFate_wf (k : Nat) (f : Fate) : WfMem (dealFate s k f) := by
  unfold dealFate
  split
  · exact hs
  · split
    · rw [WfMem, frozenFate_mem]
      exact hs
    · dsimp only
      split
      · exact hs
      · split
        · rw [WfMem, dropInterval_mem]
          exact hs
        · split
          · grind only [dropInterval_mem, freeContext_mem, dropEntries_mem, leaveGone_mem]
          · grind only [dropInterval_mem, freeContext_mem, ensureTrapLines_wf, enqueueFresh_wf, orImageFault_wf, regainLocks_mem, requeueTask_mem]
          · grind only [dropInterval_mem, freeContext_mem, requeueTask_mem]
@[simp] theorem discardTasks_wf (l : List (Nat × Fate)) : WfMem (discardTasks s l) := by
  exact foldl_wf (fun u p hu => dealFate_wf hu p.1 p.2) _ hs
@[simp] theorem publishLine_wf (x : Task) (l : Loc) : WfMem (publishLine x s l) := by
  unfold publishLine
  grind only [refuseCommit_mem, headWay_wf, flushAlias_wf, putPhys_wf, meetAt_mem, spreadInvalidations_mem, Ends_ok, Ends_error]
@[simp] theorem publish_wf (k : Nat) (x : Task) : WfMem (publish s k x) := by
  have hlines := foldl_wf (fun u l hu => publishLine_wf hu x l) (storeLines x.stores) hs
  have hrecs : (x.recs.reverse.foldl (fun s w => recordCommit s w.cluster w.record w.image) ((storeLines x.stores).foldl (publishLine x) s)).mem =
      ((storeLines x.stores).foldl (publishLine x) s).mem := foldl_mem (fun u w => recordCommit_mem u _ _ _) _ _
  unfold publish
  grind only [mapAllocs_mem, State.setLaunch_mem, State.setTask_mem, discardTasks_wf, forgetReaders_mem]
@[simp] theorem endInterval_wf (k : Nat) (x : Task) : WfMem (endInterval s k x).1 := by
  unfold endInterval
  grind only [publish_wf, checkpointImages_wf, State.setCtx_mem, beatsDue_mem, State.setTask_mem]
omit hs in
theorem afterInterval_wf (r : State × Option Trap) (hr : WfMem r.1) : Ends StopWf WfMem (afterInterval r) := by
  unfold afterInterval
  grind only [Ends_ok, Ends_error, StopWf]
omit hs in
@[simp] theorem faultOf_wf (r : State × Option Trap) (k : Nat) (hr : WfMem r.1) : WfMem (faultOf r k) := by
  unfold faultOf
  grind only [trapImage_wf]
@[simp] theorem commitEnded_wf (k : Nat) (x : Task) : WfMem (commitEnded s k x) := by
  unfold commitEnded
  grind only [publish_wf, State.setTask_mem, leaveLaunch_mem]
@[simp] theorem commitBody_wf (k : Nat) : WfMem (commitBody s k) := by
  unfold commitBody
  grind only [commitEnded_wf, State.addDueOnce_mem]
@[simp] theorem becomeSerialBody_wf (k : Nat) : WfMem (becomeSerialBody s k) := by
  unfold becomeSerialBody
  grind only [State.setTask_mem, endInterval_wf, faultOf_wf, dropStale_mem, State.addDueOnce_mem]
@[simp] theorem registrationBody_wf (k line : Nat) : WfMem (registrationBody s k line) := by
  unfold registrationBody
  grind only [discardTasks_wf, State.setTask_mem]
theorem settle_wf (q : Req) : Ends StopWf WfMem (settle s q) := by
  unfold settle
  grind only [afterInterval_wf, endInterval_wf, Ends_ok, Ends_error, StopWf]
omit hs in
theorem holdStop_wf (h : Hold) (hh : HoldWf h) : StopWf (holdStop h) := by
  unfold holdStop
  grind only [StopWf, HoldWf]
theorem memLoad_wf (q : Req) (engine : Bool) (p : Word) (n : Nat) : Ends StopWf (fun r => WfMem r.2) (memLoad s q engine p n) := by
  unfold memLoad
  grind only [check_wf, readPlaces_wf, holdStop_wf, Ends_ok, Ends_error, StopWf, HoldWf]
omit hs in
@[simp] theorem storePlaces_wf (s : State) (q : Req) (l : List Place) (bs : List Byte) (hs : WfMem s) : WfMem (storePlaces s q l bs) := by
  induction l generalizing s bs with
  | nil => exact hs
  | cons x r ih =>
    unfold storePlaces
    grind only [State.setTask_mem, writeNow_wf]
theorem memStore_wf (q : Req) (p : Word) (bs : List Byte) : Ends StopWf WfMem (memStore s q p bs) := by
  unfold memStore
  grind only [check_wf, afterInterval_wf, endInterval_wf, storePlaces_wf, Ends_ok, Ends_error, StopWf]
@[simp] theorem noteWrite_wf (q : Req) (xs : List Place) : WfMem (noteWrite s q xs) := by
  unfold noteWrite
  grind only [discardTasks_wf]
theorem writeImmediate_wf (q : Req) (xs : List Place) (bs : List Byte) : Ends StopWf WfMem (writeImmediate s q xs bs) := by
  unfold writeImmediate
  grind only [settle_wf, noteWrite_wf, writeNowAll_wf, Ends_ok, Ends_error, StopWf]

end

end Sys2Proof.Machine
end

section
/-! PROOFS, canonical memory in control space and the scalar instructions (R185, R186). -/

namespace Sys2Proof.Machine

/-! ## Control space -/

@[simp] theorem extendKernel_mem (s : State) (value : List Byte) : (extendKernel s value).mem = s.mem := by
  unfold extendKernel
  split <;> rfl
@[simp] theorem retryStopped_mem (s : State) (i : Nat) : (retryStopped s i).mem = s.mem := by
  refine foldl_mem (fun u k => ?_) _ s
  dsimp only
  split
  · split
    · exact State.setCore_mem ..
    · rfl
  · rfl
@[simp] theorem writeRecord_mem (s : State) (t i k j : Nat) (v : Word) : (writeRecord s t i k j v).mem = s.mem := by
  unfold writeRecord
  dsimp only
  repeat' split
  all_goals simp
@[simp] theorem writeClusterWord_mem (s : State) (t i k n off : Nat) (v : Word) : (writeClusterWord s t i k n off v).mem = s.mem := by
  have hf : ∀ (u : State) (l : List Nat), (l.foldl (fun s t => if tilePresent s t then s.addDueOnce (.sliceEnd t) else s) u).mem = u.mem := by
    refine fun u l => foldl_mem (fun v t => ?_) l u
    split <;> simp
  unfold writeClusterWord
  dsimp only
  repeat' split
  all_goals simp only [State.setCluster_mem, State.addDueOnce_mem, State.addDue_mem, hf]
@[simp] theorem writeEdgeWord_mem (s : State) (e off : Nat) (v : Word) : (writeEdgeWord s e off v).mem = s.mem := by
  unfold writeEdgeWord
  grind only [State.setEdge_mem, State.addDue_mem]
section
variable {s : State} (hs : WfMem s)
include hs

@[simp] theorem leaveDoze_wf  : WfMem (leaveDoze s) := by
  unfold leaveDoze
  grind only []
@[simp] theorem writeWaferWord_wf (off : Nat) (v : Word) : WfMem (writeWaferWord s off v) := by
  have hput : ∀ w, WfMem { s with wafer := w } := fun _ => hs
  have hkern : ∀ w m, WfMem (extendKernel { s with wafer := w } m) := fun w m => by
    rw [WfMem, extendKernel_mem]
    exact hs
  have hdue : ∀ w i, WfMem (State.addDueOnce { s with wafer := w } i) := fun w i => by
    rw [WfMem, State.addDueOnce_mem]
    exact hs
  have hpost : ∀ w i, WfMem (State.addDue { s with wafer := w } i) := fun w i => by
    rw [WfMem, State.addDue_mem]
    exact hs
  unfold writeWaferWord
  dsimp only
  iterate 4 refine ite_wf (hput _) ?_
  refine ite_wf (ite_wf (hkern _ _) (hput _)) ?_
  refine ite_wf (hput _) ?_
  refine ite_wf (ite_wf (leaveDoze_wf hs) (ite_wf (hdue _ _) hs)) ?_
  iterate 4 refine ite_wf (hput _) ?_
  exact ite_wf (hpost _ _) (ite_wf (hput _) hs)
@[simp] theorem controlSet_wf (t i k a : Nat) (v : Word) : WfMem (controlSet s t i k a v) := by
  generalize hbody : controlSet = body
  delta controlSet at hbody
  subst hbody
  beta_reduce
  generalize controlAt a = c
  revert c
  refine id fun c => ?_
  dsimp only
  refine ite_wf hs ?_
  cases c with
  | wafer off => exact writeWaferWord_wf hs off v
  | none => exact hs
  | _ => simpa [WfMem] using hs
@[simp] theorem controlPut_wf (t i k a : Nat) (bs : List Byte) : WfMem (controlPut s t i k a bs) := by
  unfold controlPut
  extract_lets d o
  exact controlSet_wf hs t i k _ _
omit hs in
@[simp] theorem controlWriteFuel_wf (f : Nat) (s : State) (t w a n : Nat) (bs : List Byte) (hs : WfMem s) :
    WfMem (controlWriteFuel f s t w a n bs) := by
  induction f generalizing s n bs with
  | zero => exact hs
  | succ f ih =>
    unfold controlWriteFuel
    split
    · exact hs
    · exact ih _ _ _ (controlPut_wf hs t w a n _)
@[simp] theorem controlWrite_wf (t i k a : Nat) (bs : List Byte) : WfMem (controlWrite s t i k a bs) := by
  unfold controlWrite
  grind only [controlWriteFuel_wf]
@[simp] theorem coreWritePlace_wf (q : Req) (x : Place) (bs : List Byte) : WfMem (coreWritePlace s q x bs) := by
  unfold coreWritePlace
  grind only [controlWrite_wf, writeNow_wf]
omit hs in
@[simp] theorem coreWriteAll_wf (s : State) (q : Req) (l : List Place) (bs : List Byte) (hs : WfMem s) : WfMem (coreWriteAll s q l bs) := by
  induction l generalizing s bs with
  | nil => exact hs
  | cons x r ih => exact ih _ _ (coreWritePlace_wf hs q x _)

end

/-! ## Scalar instructions -/

@[simp] theorem pauseBody_mem (n : Nat) (s : State) : (pauseBody n s).mem = s.mem := by
  unfold pauseBody
  grind only [State.retire_mem, State.setCtx_mem, State.addDue_mem, State.setCore_mem]
section
variable {s : State} (hs : WfMem s)
include hs

theorem rdcBody_wf (a : Reg) (n : Nat) : Ends StopWf WfMem (rdcBody a n s) := by
  unfold rdcBody
  grind only [alu_mem, Ends_ok, Ends_error, StopWf]
theorem wrcBody_wf (a : Reg) (n : Nat) : Ends StopWf WfMem (wrcBody a n s) := by
  unfold wrcBody
  grind only [State.setRegs_mem, State.retire_mem, Ends_ok, Ends_error, StopWf]
theorem takeTransfer_wf (t : Nat) (link pops : Bool) : Ends StopWf WfMem (takeTransfer t link pops s) := by
  unfold takeTransfer
  grind only [checkTarget_wf, State.setG_mem, State.jump_mem, Ends_ok, Ends_error, StopWf]
theorem branchIf_wf (cond : Bool) (loff : Int) (slot : Nat) : Ends StopWf WfMem (branchIf cond loff slot s) := by
  unfold branchIf
  grind only [takeTransfer_wf, State.retire_mem, Ends_ok, StopWf]
@[simp] theorem sysBody_wf (n : Nat) : WfMem (sysBody n s) := by
  unfold sysBody
  grind only [State.retire_mem, raise_wf]
theorem tretBody_wf  : Ends StopWf WfMem (tretBody s) := by
  unfold tretBody
  grind only [checkTarget_wf, State.setRegs_mem, Ends_ok, Ends_error, StopWf]
omit hs in
theorem loopTarget_wf (t : Nat) : Ends StopWf (fun _ => True) (loopTarget t s) := by
  unfold loopTarget
  grind only [checkTarget_wf, Ends_error, StopWf]
theorem loopBody_wf (n : Word) (t : Nat) : Ends StopWf WfMem (loopBody n t s) := by
  unfold loopBody
  grind only [loopTarget_wf, State.setRegs_mem, Ends_ok, Ends_error, StopWf]

end

/-! ## Send entries -/

@[simp] theorem putSend_mem (s : State) (x : Site) (k : Nat) (e : SendEntry) : (putSend s x k e).mem = s.mem := by simp [putSend]
section
variable {s : State} (hs : WfMem s)
include hs

theorem startMigration_wf (t c h : Nat) (pc back : Word) : Ends StopWf WfMem (startMigration s t c h pc back) := by
  unfold startMigration
  grind only [settle_wf, flushBlocks_wf, switchOut_wf, State.fresh_mem, State.setCtx_mem, putSend_mem, State.addDueOnce_mem, Ends_ok, Ends_error,
    StopWf]

end

end Sys2Proof.Machine
end

section
/-! PROOFS, canonical memory in local memory instructions, lookahead windows and the reads of engines (R185, R186). -/

namespace Sys2Proof.Machine

/-! ## Local memory instructions -/

@[simp] theorem acquired_mem (s : State) : (acquired s).mem = s.mem := by
  unfold acquired
  split <;> rfl
@[simp] theorem noteMade_mem (s : State) (t : Nat) (task : Option Nat) : (noteMade s t task).mem = s.mem := rfl
@[simp] theorem mapTask_mem (s : State) (t c : Nat) (f : Task → Task) : (mapTask s t c f).mem = s.mem := by
  unfold mapTask
  grind only [State.setTask_mem]
@[simp] theorem setTags_mem (s : State) (f : Map Nat TagSlot → Map Nat TagSlot) : (setTags s f).mem = s.mem := rfl
@[simp] theorem dropShared_mem (s : State) (p : Word) : (dropShared s p).mem = s.mem := by
  unfold dropShared
  split <;> rfl
@[simp] theorem prefetch_mem (s : State) (p : Word) : (prefetch s p).mem = s.mem := by
  unfold prefetch
  grind only [launchPacket_mem]
section
variable {s : State} (hs : WfMem s)
include hs

omit hs in
theorem ldstStop_wf (st : Stop) (ht : StopWf st) : StopWf (ldstStop st) := by
  unfold ldstStop
  grind only [StopWf]
theorem checkNow_wf (q : Req) (acc : AccKind) (p : Word) (n : Nat) : Ends StopWf (fun r => WfMem r.2) (checkNow s q acc p n) := by
  unfold checkNow
  grind only [check_wf, sendHeads_wf, Ends_ok, Ends_error, StopWf]
theorem coreLoad_wf (q : Req) (p : Word) (n : Nat) : Ends StopWf (fun r => WfMem r.2) (coreLoad s q p n) := by
  unfold coreLoad
  grind only [checkNow_wf, meetPlaces_mem, Ends_ok, Ends_error, StopWf]
theorem coreStore_wf (q : Req) (p : Word) (bs : List Byte) : Ends StopWf WfMem (coreStore s q p bs) := by
  unfold coreStore
  grind only [checkNow_wf, coreWriteAll_wf, Ends_ok, Ends_error, StopWf]
theorem loadBytes_wf (p : Word) (n : Nat) : Ends StopWf (fun r => WfMem r.2) (loadBytes s p n) := by
  unfold loadBytes
  grind only [coreLoad_wf, memLoad_wf, ldstStop_wf, Ends_error, StopWf]
theorem storeBytes_wf (p : Word) (bs : List Byte) : Ends StopWf WfMem (storeBytes s p bs) := by
  unfold storeBytes
  grind only [coreStore_wf, memStore_wf, ldstStop_wf, Ends_error, StopWf]
omit hs in
theorem access_wf (s : State) (p : Word) (body : State → Except Stop State) (hs : WfMem s) (hb : Ends StopWf WfMem (body s)) :
    Ends StopWf WfMem (access s p body) := by
  unfold access
  split
  · dsimp only
    split
    · exact trivial
    · exact startMigration_wf hs _ _ _ _ _
  · exact hb
theorem loadInto_wf (a : Reg) (p : Word) (n : Nat) (signed : Bool) : Ends StopWf WfMem (loadInto a p n signed s) := by
  refine access_wf s p _ hs ?_
  grind only [loadBytes_wf, alu_mem, Ends_ok, Ends_error]
theorem storeFrom_wf (v p : Word) (n : Nat) : Ends StopWf WfMem (storeFrom v p n s) := by
  refine access_wf s p _ hs ?_
  grind only [storeBytes_wf, State.retire_mem, Ends_ok, Ends_error]
theorem loadPair_wf (a e : Reg) (p : Word) : Ends StopWf WfMem (loadPair a e p s) := by
  refine access_wf s p _ hs ?_
  grind only [loadBytes_wf, State.setG_mem, State.retire_mem, Ends_ok, Ends_error]
theorem storePair_wf (a e : Reg) (p : Word) : Ends StopWf WfMem (storePair a e p s) := by
  refine access_wf s p _ hs ?_
  grind only [storeBytes_wf, State.retire_mem, Ends_ok, Ends_error]
theorem ldaBody_wf (n : Nat) (a b : Reg) : Ends StopWf WfMem (ldaBody n a b s) := by
  have hx := fun q p => checkNow_wf hs q .read p n
  generalize hbody : ldaBody = body
  delta ldaBody at hbody
  subst hbody
  generalize checkNow = res at hx ⊢
  revert res
  refine id fun res hx => ?_
  dsimp only
  split
  · next e => exact (hx _ _).error e
  · next e => simpa [WfMem] using (hx _ _).ok e
theorem writeAllNow_wf (q : Req) (xs : List Place) (bs : List Byte) : Ends StopWf WfMem (writeAllNow s q xs bs) := by
  unfold writeAllNow
  grind only [coreWriteAll_wf, writeImmediate_wf, Ends_ok, Ends_error, StopWf]
theorem stlBody_wf (n : Nat) (a b : Reg) : Ends StopWf WfMem (stlBody n a b s) := by
  have hx := fun q p => checkNow_wf hs q .write p n
  have hy := fun (u : State) (hu : WfMem u) q xs bs => writeAllNow_wf hu q xs bs
  generalize hbody : stlBody = body
  delta stlBody at hbody
  subst hbody
  generalize checkNow = res at hx ⊢
  revert res
  refine id fun res hx => ?_
  dsimp only
  split
  · next e => exact (hx _ _).error e
  · next e =>
    have hu := (hx _ _).ok e
    split
    · next e => exact (hy _ hu _ _ _).error e
    · next e => simpa [WfMem] using (hy _ hu _ _ _).ok e
theorem amoBody_wf (n : Nat) (op : Nat → Nat → Nat → Nat) (a b c : Reg) : Ends StopWf WfMem (amoBody n op a b c s) := by
  generalize hbody : amoBody = body
  delta amoBody at hbody
  subst hbody
  beta_reduce
  extract_lets -underBinder q
  have h := checkNow_wf hs q .atomic (alignedPtr s b n) n
  split
  · next st e =>
    rw [e] at h
    exact h
  · next xs u e =>
    rw [e] at h
    have hq : Ends StopWf WfMem (if !q.core && xs.any Place.shared then settle u q else .ok u) := by
      split
      · exact settle_wf h _
      · exact h
    split
    · next st e =>
      rw [e] at hq
      exact hq
    · next v e =>
      rw [e] at hq
      have hv : WfMem (meetPlaces v q xs) := by simpa [WfMem] using hq
      extract_lets -underBinder old s' m
      have hw := writeAllNow_wf hv q xs (toBytes n (op old ((s.getG c).toNat % m) ((s.getG a).toNat % m)))
      split
      · next st e =>
        rw [e] at hw
        exact Stop.keptIn_wf _ st hv hw
      · next w e =>
        rw [e] at hw
        simpa [WfMem] using hw
theorem allocate_wf (t h quota n : Nat) (shared : Bool) (swz : Nat) : ∀ v ∈ allocate s t h quota n shared swz, WfMem v.2 := by
  unfold allocate
  dsimp only
  split
  · simp
  · split
    · simp
    · rintro v ⟨⟩
      rw [WfMem, State.setTile_mem]
      exact zeroLines_wf _ _ _ hs
@[simp] theorem spallocResult_wf (t h quota : Nat) (task : Option Nat) (size attr : Word) : WfMem (spallocResult s t h quota task size attr).2 := by
  have ha := allocate_wf hs t h quota size.toNat (bitOf attr 3) (fld attr 2 0)
  unfold spallocResult
  dsimp only
  repeat' split
  all_goals simp_all [WfMem]
@[simp] theorem spallocBody_wf (a b c : Reg) : WfMem (spallocBody a b c s) := by
  unfold spallocBody
  grind only [spallocResult_wf, alu_mem]
theorem spfreeBody_wf (b : Reg) : Ends StopWf WfMem (spfreeBody b s) := by
  unfold spfreeBody
  grind only [State.setTile_mem, State.retire_mem, Ends_ok, Ends_error, StopWf]
theorem recordRead_wf (task : Option Nat) (n r : Nat) : Ends HoldWf (fun r => WfMem r.2) (recordRead s task n r) := by
  unfold recordRead
  grind only [addRead_mem, Ends_ok, Ends_error, HoldWf]
omit hs in
theorem coreRecord_wf (i k : Nat) (v : Word) : Ends StopWf (fun _ => True) (coreRecord s i k v) := by
  unfold coreRecord
  grind only [Ends_ok, Ends_error, StopWf]
theorem bufferRecord_wf (t c n r : Nat) (img : List Byte) : Ends StopWf WfMem (bufferRecord s t c n r img) := by
  unfold bufferRecord
  grind only [State.setTask_mem, afterInterval_wf, endInterval_wf, recordCommit_mem, Ends_ok, Ends_error, StopWf]
theorem lrwrBody_wf (b c : Reg) : Ends StopWf WfMem (lrwrBody b c s) := by
  unfold lrwrBody
  grind only [coreRecord_wf, coreLoad_wf, recordCommit_mem, State.retire_mem, memLoad_wf, bufferRecord_wf, Ends_ok, Ends_error, StopWf]
theorem lrrdBody_wf (b c : Reg) : Ends StopWf WfMem (lrrdBody b c s) := by
  generalize hbody : lrrdBody = body
  delta lrrdBody at hbody
  subst hbody
  dsimp only
  split
  · next i k _ =>
    have h := coreRecord_wf (s := s) i k (s.getG b)
    split
    · simp_all
    · grind only [coreStore_wf, State.retire_mem, Ends_ok, Ends_error]
  · grind only [recordRead_wf, holdStop_wf, memStore_wf, State.retire_mem, Ends_ok, Ends_error, StopWf]
  · exact hs

end

/-! ## Lookahead windows and retirement -/

section
variable {s : State} (hs : WfMem s)
include hs

@[simp] theorem finishStep_wf (t c : Nat) : WfMem (finishStep s t c) := by
  unfold finishStep
  grind only [switchOut_wf, State.setCtx_mem, trapImage_wf, slotFreed_mem, dropAccs_mem]
@[simp] theorem endStep_wf (t c : Nat) : WfMem (endStep s t c) := by
  unfold endStep
  grind only [State.setCtx_mem, finishStep_wf]
@[simp] theorem noteCompleted_wf (t c : Nat) : WfMem (noteCompleted s t c) := by
  unfold noteCompleted
  grind only [finishStep_wf]
@[simp] theorem afterRetire_wf (w : Option Window) : WfMem (afterRetire s w) := by
  unfold afterRetire
  grind only [State.setCtx_mem, endStep_wf, State.setCore_mem]
omit hs in
theorem asAgent_wf (a : Agent) (f : State → State) (s : State) (hf : ∀ u, WfMem u → WfMem (f u)) (hs : WfMem s) : WfMem (asAgent a f s) := by
  exact hf { s with cur := a } hs
omit hs in
theorem completeFor_wf (t c : Nat) (f : State → State) (s : State) (hs : WfMem s) (hf : ∀ u, WfMem u → WfMem (f u)) :
    WfMem (completeFor t c f s) := by
  refine asAgent_wf _ _ s (fun u hu => afterRetire_wf ?_ _) hs
  exact hf _ hu
omit hs in
theorem stopFor_wf (t c e : Nat) (st : Stop) (s : State) (hs : WfMem s) (ht : StopWf st) : WfMem (stopFor t c e st s) := by
  refine asAgent_wf _ _ s (fun u hu => onStop_wf _ _ hu ?_) hs
  rw [ownEngine_base]
  cases st with
  | kept v tr => exact ht
  | _ => exact hu

end

/-! ## Reads that engines make -/

section
variable {s : State} (hs : WfMem s)
include hs

theorem resolveAll_wf (q : Req) (acc : AccKind) (p : Word) (n : Nat) : Ends (fun _ => True) (fun r => WfMem r.2) (resolveAll s q acc p n) := by
  have hx := fun (u : State) (hu : WfMem u) p n => resolve_wf hu q acc p n
  generalize hbody : resolveAll = body
  delta resolveAll at hbody
  subst hbody
  generalize resolve = res at hx ⊢
  revert res
  refine id fun res hx => ?_
  refine foldl_ends (fun _ _ => rfl) (fun r g h => ?_) _ ?_
  · grind only [Ends_ok, Ends_error]
  · split
    · trivial
    · split
      · trivial
      · exact hs
omit hs in
theorem engineRead_wf (s : State) (q : Req) (p : Word) (n : Nat) (stop : Hold → Stop) (hs : WfMem s) (ht : ∀ h, HoldWf h → StopWf (stop h)) :
    Ends StopWf (fun r => WfMem r.2) (engineRead s q p n stop) := by
  have h := resolveAll_wf hs q .read p n
  unfold engineRead
  split
  · trivial
  · grind only [readPlaces_wf, Ends_ok, Ends_error, HoldWf]

end

end Sys2Proof.Machine
end

section
/-! PROOFS, canonical memory in the fabric, sends and migration (R185, R186). -/

namespace Sys2Proof.Machine

/-! ## The fabric -/

@[simp] theorem setPacket_mem (s : State) (p : Packet) : (setPacket s p).mem = s.mem := rfl
@[simp] theorem dropPacket_mem (s : State) (p : Packet) : (dropPacket s p).mem = s.mem := rfl
@[simp] theorem answerHead_mem (s : State) (p : Packet) (kind : PacketKind) : (answerHead s p kind).mem = s.mem := rfl
@[simp] theorem nack_mem (s : State) (p : Packet) (kind : PacketKind) : (nack s p kind).mem = s.mem := rfl
@[simp] theorem dropNoPath_mem (s : State) (p : Packet) : (dropNoPath s p).mem = s.mem := by
  unfold dropNoPath
  split <;> simp
@[simp] theorem dropRefused_mem (s : State) (p : Packet) : (dropRefused s p).mem = s.mem := by
  unfold dropRefused
  split <;> simp
@[simp] theorem useStub_mem (s : State) (at_ h : Nat) : (useStub s at_ h).mem = s.mem := by
  unfold useStub
  grind only [State.setRouter_mem]
@[simp] theorem forward_mem (s : State) (p : Packet) (t : Nat) : (forward s p t).mem = s.mem := by
  unfold forward
  grind only [useStub_mem, setPacket_mem, State.addDue_mem, launchPacket_mem]
@[simp] theorem deliver_mem (s : State) (p : Packet) : (deliver s p).mem = s.mem := by
  unfold deliver
  grind only [State.addDue_mem, nack_mem, dropPacket_mem, forward_mem]
@[simp] theorem cleanTables_mem (s : State) (p : Packet) : (cleanTables s p).mem = s.mem := by simp [cleanTables]
@[simp] theorem hopBody_mem (p : Packet) (s : State) : (hopBody p s).mem = s.mem := by
  unfold hopBody
  grind only [cleanTables_mem, State.addDue_mem, deliver_mem, dropNoPath_mem, dropRefused_mem, setPacket_mem]
@[simp] theorem relayBody_mem (p : Packet) (s : State) : (relayBody p s).mem = s.mem := by
  unfold relayBody
  split <;> rfl
@[simp] theorem injectBody_mem (s : State) (x : Site) : (injectBody s x).mem = s.mem := by
  have hf : ∀ (u : State) (l : List Nat) (e : SendEntry), (l.foldl (fun s h => launchPacket s (headOf s x e h)) u).mem = u.mem :=
    fun u l e => foldl_mem (fun _ _ => launchPacket_mem _ _) l u
  unfold injectBody
  dsimp only
  split
  · rfl
  · split
    · rw [State.addDueOnce_mem, hf, setSends_mem]
    · rw [hf, setSends_mem]
@[simp] theorem backoffBody_mem (s : State) (x : Site) (k : Nat) : (backoffBody s x k).mem = s.mem := by
  unfold backoffBody
  grind only [putSend_mem]
@[simp] theorem settleSends_mem (s : State) (k : Option Nat) : (settleSends s k).mem = s.mem := by
  unfold settleSends
  grind only [leaveLaunch_mem]
@[simp] theorem answeredBy_mem (s : State) (x : Site) (k : Nat) (e : SendEntry) (member : Nat) : (answeredBy s x k e member).mem = s.mem := by
  unfold answeredBy
  grind only [settleSends_mem, setSends_mem, State.addDueOnce_mem]
@[simp] theorem recordAnswer_mem (s : State) (x : Site) (e : SendEntry) (lat : Option Word) : (recordAnswer s x e lat).mem = s.mem := by
  unfold recordAnswer
  grind only [State.setCtx_mem, State.setCore_mem]
@[simp] theorem powerGatedBody_mem (s : State) (t : Nat) : (powerGatedBody s t).mem = s.mem := rfl
@[simp] theorem respond_mem (s : State) (p : Packet) (bytes : List Byte) : (respond s p bytes).mem = s.mem := rfl
@[simp] theorem enterShared_mem (s : State) (i : Nat) (b : Bool × Nat) : (enterShared s i b).mem = s.mem := rfl
@[simp] theorem takeSeq_mem (s : State) : (takeSeq s).2.mem = s.mem := by
  unfold takeSeq
  split <;> rfl
@[simp] theorem dropReserve_mem (s : State) : (dropReserve s).mem = s.mem := by
  unfold dropReserve
  split <;> rfl
@[simp] theorem reserve_mem (s : State) (k : Nat) (l : List Nat) : (reserve s k l).mem = s.mem := by
  unfold reserve
  split <;> rfl
@[simp] theorem setGroup_mem (s : State) (k : Nat) (l : List Nat) : (setGroup s k l).mem = s.mem := by
  unfold setGroup
  grind only [State.setCore_mem, State.setBlock_mem]
@[simp] theorem probe_mem (s : State) (t h : Nat) (b : Block) : (probe s t h b).2.mem = s.mem := by
  unfold probe
  grind only [cacheHandle_mem, State.drawFree_mem]
section
variable {s : State} (hs : WfMem s)
include hs

omit hs in
theorem onPacket_wf (n : Nat) (s : State) (f : Packet → State → State) (hs : WfMem s) (hf : ∀ p, WfMem (f p s)) : WfMem (onPacket n s f) := by
  unfold onPacket
  split
  · exact hf _
  · exact hs
omit hs in
theorem onAnswer_wf (pkt : Nat) (s : State) (f : Site → Nat → SendEntry → Packet → State → State) (hs : WfMem s) (hf : ∀ x k e p u, WfMem u → WfMem (f x k e p u)) :
    WfMem (onAnswer pkt s f) := by
  refine onPacket_wf pkt s _ hs fun p => ?_
  dsimp only
  split
  · exact hf _ _ _ _ _ (by simpa [WfMem] using hs)
  · simpa [WfMem] using hs
@[simp] theorem returnMigration_wf (x : Site) (e : SendEntry) (code member : Nat) : WfMem (returnMigration s x e code member) := by
  unfold returnMigration
  grind only [takeTrap_wf]
@[simp] theorem finalNack_wf (pkt code : Nat) : WfMem (finalNack pkt code s) := by
  refine onAnswer_wf pkt s _ hs fun x k e p u hu => ?_
  dsimp only
  grind only [returnMigration_wf, recordAnswer_mem, answeredBy_mem]
@[simp] theorem acceptMessage_wf (p : Packet) (b : Block) (off : Option Nat) : WfMem (acceptMessage s p b off) := by
  unfold acceptMessage
  grind only [State.fresh_mem, State.setTile_mem, putPhys_wf, noteRaised_mem, answerHead_mem, dropPacket_mem, State.addDueOnce_mem]
@[simp] theorem messageBody_wf (p : Packet) : WfMem (messageBody p s) := by
  have hn : WfMem (nack s p .nackBusy) := by simpa [WfMem] using hs
  unfold messageBody
  split
  · simpa [WfMem] using hs
  · next b _ =>
    split
    · exact hn
    · split
      · simpa [WfMem] using hs
      · split
        · simpa [WfMem] using hs
        · split
          · simpa [WfMem] using hs
          · split
            · exact hn
            · split
              · exact acceptMessage_wf hs p b none
              · extract_lets swz
                have ha := allocate_wf hs b.tile p.dhandle b.quota (max 256 p.payload.length) false swz
                split
                · exact hn
                · next e => exact acceptMessage_wf (ha _ e) p b _
@[simp] theorem acceptMigration_wf (p : Packet) (t c k : Nat) (x : Task) : WfMem (acceptMigration s p t c k x) := by
  unfold acceptMigration
  grind only [State.setCtx_mem, State.addDueOnce_mem, enqueueFresh_wf, dropStale_mem, State.setTask_mem, answerHead_mem, dropPacket_mem]
@[simp] theorem migrationBody_wf (p : Packet) : WfMem (migrationBody p s) := by
  unfold migrationBody
  grind only [nack_mem, State.addDue_mem, acceptMigration_wf, dropPacket_mem]
@[simp] theorem clusterAccessBody_wf (p : Packet) : WfMem (clusterAccessBody p s) := by
  unfold clusterAccessBody
  grind only [respond_mem, putPhys_wf]
@[simp] theorem fillFrom_wf (p : Packet) : WfMem (fillFrom s p) := by
  unfold fillFrom
  grind only [enterShared_mem, fillBlock_wf]
@[simp] theorem responseBody_wf (p : Packet) : WfMem (responseBody p s) := by
  unfold responseBody
  grind only [fillFrom_wf, dropPacket_mem, State.setCtx_mem]
theorem readPayload_wf (q : Req) (p : Word) (n : Nat) : Ends StopWf (fun r => WfMem r.2) (readPayload s q p n) := by
  unfold readPayload
  grind only [coreLoad_wf, memLoad_wf, Ends_ok, StopWf]
theorem sendFinish_wf (kind : Nat) (a c e : Reg) (k : Nat) (l : List Nat) : Ends StopWf WfMem (sendFinish kind a c e k l s) := by
  unfold sendFinish
  grind only [settle_wf, readPayload_wf, Stop.keptIn_wf, reserve_mem, takeSeq_mem, State.fresh_mem, alu_mem, putSend_mem, dropReserve_mem, Ends_ok,
    Ends_error, StopWf]
omit hs in
theorem keepReserve_wf (s : State) (k : Nat) (l : List Nat) (r : Except Stop State) (hs : WfMem s) (hr : Ends StopWf WfMem r) :
    Ends StopWf WfMem (keepReserve s k l r) := by
  unfold keepReserve
  split
  · simpa [WfMem] using hs
  · exact onStop_wf _ _ (by simpa using hs) (by simpa [Stop.base] using hs)
  · exact hr
theorem sendBody_wf (kind : Nat) (find : State → Req → SendTo) (a c e : Reg) : Ends StopWf WfMem (sendBody kind find a c e s) := by
  have hal : ∀ w, Ends StopWf WfMem (.ok (alu a w s)) := fun w => by simpa [WfMem] using hs
  have hkeep := fun k l => keepReserve_wf s k l _ hs (sendFinish_wf hs kind a c e k l)
  unfold sendBody
  dsimp only
  split
  · exact hkeep _ _
  · refine ite_ends (hal _) (ite_ends (hal _) ?_)
    split
    · exact hal _
    · trivial
    · split
      · trivial
      · split
        · exact hal _
        · exact hkeep _ _
theorem readMembers_wf (q : Req) (p : Word) : Ends StopWf (fun r => WfMem r.2) (readMembers s q p) := by
  unfold readMembers
  grind only [coreLoad_wf, memLoad_wf, Ends_ok, Ends_error, StopWf]
theorem mgsetBody_wf (b c : Reg) : Ends StopWf WfMem (mgsetBody b c s) := by
  unfold mgsetBody
  grind only [readMembers_wf, setGroup_mem, State.retire_mem, Ends_ok, Ends_error, StopWf]
theorem migBody_wf (b : Reg) : Ends StopWf WfMem (migBody b s) := by
  unfold migBody
  grind only [State.retire_mem, startMigration_wf, Ends_ok, Ends_error, StopWf]
theorem mprobeBody_wf (a b : Reg) : Ends StopWf WfMem (mprobeBody a b s) := by
  unfold mprobeBody
  grind only [alu_mem, cacheHandle_mem, probe_mem, Ends_ok, StopWf]

end

end Sys2Proof.Machine
end

section
/-! PROOFS, canonical memory in vector instructions and stream registers (R185, R186). -/

namespace Sys2Proof.Machine

/-! ## Vectors and streams -/

@[simp] theorem setVec_mem (s : State) (t c : Nat) (v : VecState) : (setVec s t c v).mem = s.mem := rfl
@[simp] theorem raiseFlags_mem (s : State) (fp qf : Word) : (raiseFlags s fp qf).mem = s.mem := by
  unfold raiseFlags
  split <;> simp
@[simp] theorem putResult_mem (s : State) (t c : Nat) (r : VResult) : (putResult s t c r).mem = s.mem := by
  unfold putResult
  split <;> simp
@[simp] theorem unbindStream_mem (s : State) (t c k : Nat) : (unbindStream s t c k).mem = s.mem := by
  unfold unbindStream
  grind only [setVec_mem, releaseRanges_mem]
section
variable {s : State} (hs : WfMem s)
include hs

theorem fetchBeat_wf (t c : Nat) (m : Stream) (j : Nat) : Ends HoldWf (fun r => WfMem r.2) (fetchBeat s t c m j) := by
  have hx := fun (u : State) (hu : WfMem u) q p n => resolve_wf hu q .read p n
  unfold fetchBeat
  generalize resolve = res at hx ⊢
  revert res
  refine id fun res hx => ?_
  extract_lets p e n start r
  have hr : Ends HoldWf (fun r => WfMem r.2) r := by
    refine foldl_ends (fun _ _ => rfl) (fun b i h => ?_) _ hs
    obtain ⟨⟨l, _ | f⟩, u⟩ := b
    · dsimp only
      grind only [readPlaces_wf, Ends_ok, Ends_error]
    · exact h
  clear_value r
  split
  · exact hr
  · exact hr
omit hs in
theorem fetchBeats_wf (s : State) (t c : Nat) (m : Stream) (n k : Nat) (hs : WfMem s) :
    Ends HoldWf (fun r => WfMem r.2) (fetchBeats s t c m n k) := by
  induction n generalizing s k with
  | zero => exact hs
  | succ n ih =>
    unfold fetchBeats
    grind only [fetchBeat_wf, Ends_ok, Ends_error]
theorem takeBeats_wf (t c k n : Nat) : Ends StopWf (fun r => WfMem r.2) (takeBeats s t c k n) := by
  unfold takeBeats
  grind only [fetchBeats_wf, holdStop_wf, setVec_mem, State.addDueOnce_mem, Ends_ok, Ends_error, StopWf, HoldWf]
omit hs in
theorem takeStreams_wf (s : State) (t c n : Nat) (l : List Nat) (hs : WfMem s) : Ends StopWf (fun r => WfMem r.2) (takeStreams s t c n l) := by
  induction l generalizing s with
  | nil => exact hs
  | cons k r ih =>
    unfold takeStreams
    grind only [takeBeats_wf, Ends_ok, Ends_error]
theorem operands_wf (t c : Nat) (srcs : List Reg) (n : Nat) : Ends StopWf (fun r => WfMem r.2) (operands s t c srcs n) := by
  unfold operands
  grind only [takeStreams_wf, Ends_ok, Ends_error, StopWf]
theorem vecBody_wf (srcs : List Reg) (n : Nat) (f : List (List Vec) → VResult) : Ends StopWf WfMem (vecBody srcs n f s) := by
  unfold vecBody
  grind only [operands_wf, putResult_mem, Ends_ok, Ends_error, StopWf]
theorem vclrBody_wf (a : Reg) : Ends StopWf WfMem (vclrBody a s) := by
  unfold vclrBody
  grind only [setVec_mem, State.retire_mem, Ends_ok, Ends_error, StopWf]
theorem vldBody_wf (a b : Reg) (off : Int) : Ends StopWf WfMem (vldBody a b off s) := by
  unfold vldBody
  grind only [loadBytes_wf, putResult_mem, Ends_ok, Ends_error, StopWf]
theorem vstBody_wf (a b : Reg) (off : Int) : Ends StopWf WfMem (vstBody a b off s) := by
  unfold vstBody
  grind only [storeBytes_wf, State.retire_mem, Ends_ok, Ends_error, StopWf]
theorem sbindBody_wf (fmt : Nat) (a b : Reg) : Ends StopWf WfMem (sbindBody fmt a b s) := by
  unfold sbindBody
  grind only [memLoad_wf, unbindStream_mem, State.fresh_mem, setVec_mem, registerRanges_mem, State.addDueOnce_mem, State.retire_mem, Ends_ok,
    Ends_error, StopWf]
theorem sunbindBody_wf (a : Reg) : Ends StopWf WfMem (sunbindBody a s) := by
  unfold sunbindBody
  grind only [unbindStream_mem, State.retire_mem, Ends_ok, Ends_error, StopWf]
theorem sadvBody_wf (a b : Reg) : Ends StopWf WfMem (sadvBody a b s) := by
  unfold sadvBody
  grind only [setVec_mem, State.addDueOnce_mem, State.retire_mem, Ends_ok, Ends_error, StopWf]
theorem sstatBody_wf (a b : Reg) : Ends StopWf WfMem (sstatBody a b s) := by
  unfold sstatBody
  grind only [alu_mem, Ends_ok, Ends_error, StopWf]
@[simp] theorem beatBody_wf (t c k : Nat) : WfMem (beatBody s t c k) := by
  unfold beatBody
  grind only [regainLock_mem, State.addDueOnce_mem, fetchBeat_wf, setVec_mem, Ends_ok, HoldWf]

end

end Sys2Proof.Machine
end

section
/-! PROOFS, canonical memory in copy requests and movement programs (R185, R186). -/

namespace Sys2Proof.Machine

/-! ## Copy requests -/

@[simp] theorem kickRequests_mem (s : State) (t : Nat) : (kickRequests s t).mem = s.mem := by
  refine foldl_mem (fun u r => ?_) _ s
  split <;> simp
@[simp] theorem enqueueRequest_mem (s : State) (t : Nat) (r : ZReq) : (enqueueRequest s t r).mem = s.mem := by simp [enqueueRequest]
@[simp] theorem setPosting_mem (s : State) (t c : Nat) (d : List Byte) : (setPosting s t c d).mem = s.mem := rfl
@[simp] theorem finishRequest_mem (s : State) (t : Nat) (r : ZReq) (status : Nat) : (finishRequest s t r status).mem = s.mem := by
  unfold finishRequest
  grind only [releaseRanges_mem, State.setTile_mem, State.setCore_mem, State.setTask_mem, kickRequests_mem]
@[simp] theorem requestDoneBody_mem (s : State) (t uid : Nat) : (requestDoneBody s t uid).mem = s.mem := by
  unfold requestDoneBody
  grind only [finishRequest_mem]
@[simp] theorem zlimitBody_mem (s : State) (t uid : Nat) : (zlimitBody s t uid).mem = s.mem := by
  unfold zlimitBody
  grind only [takeCopyFault_mem]
@[simp] theorem zput_mem (t : Nat) (r : ZReq) (k : Reg) (v : Word) (s : State) : (zput t r k v s).mem = s.mem := by simp [zput]
@[simp] theorem kpostBody_mem (s : State) (i k t addr : Nat) : (kpostBody s i k t addr).mem = s.mem := by
  unfold kpostBody
  grind only [meetAt_mem, State.fresh_mem, State.addDue_mem, enqueueRequest_mem, registerRanges_mem]
section
variable {s : State} (hs : WfMem s)
include hs

theorem readDesc_wf (q : Req) (p : Word) : Ends StopWf (fun r => WfMem r.2) (readDesc s q p) := by
  have h := memLoad_wf hs q false p 64
  generalize hbody : readDesc = body
  delta readDesc at hbody
  subst hbody
  dsimp only
  split
  · simp_all
  · next d u e =>
    rw [e] at h
    have h' := memLoad_wf h q false (withAddr p (addrOf p + 64)) 64
    split
    · split <;> simp_all [WfMem]
    · exact h
theorem zpostRest_wf (a : Reg) (t c kid : Nat) (d : List Byte) : Ends StopWf WfMem (zpostRest a t c kid d s) := by
  unfold zpostRest
  grind only [settle_wf, Stop.keptIn_wf, State.fresh_mem, setPosting_mem, State.setTask_mem, alu_mem, enqueueRequest_mem, registerRanges_mem,
    Ends_ok, Ends_error, StopWf]
theorem zpostBody_wf (a b : Reg) : Ends StopWf WfMem (zpostBody a b s) := by
  unfold zpostBody
  split
  · next t c _ =>
    have h := readDesc_wf hs (threadReq s t c) (s.getG b)
    extract_lets q p
    split
    · split
      · exact zpostRest_wf hs _ _ _ _ _
      · split
        · simp_all [q, p]
        · next e =>
          rw [e] at h
          repeat' split
          all_goals grind only [alu_mem, zpostRest_wf, setPosting_mem, Ends_ok, Ends_error, StopWf]
    · exact hs
  · exact hs
theorem bsealBody_wf (a : Reg) : Ends StopWf WfMem (bsealBody a s) := by
  unfold bsealBody
  grind only [alu_mem, State.setTask_mem, Ends_ok, Ends_error, StopWf]
theorem bwaitBody_wf (b c : Reg) : Ends StopWf WfMem (bwaitBody b c s) := by
  unfold bwaitBody
  grind only [State.retire_mem, raise_wf, State.setTask_mem, Ends_ok, Ends_error, StopWf]
theorem zstatBody_wf (a : Reg) : Ends StopWf WfMem (zstatBody a s) := by
  unfold zstatBody
  grind only [alu_mem, Ends_ok, StopWf]
theorem resolvePhys_wf (q : Req) (p : Word) (n : Nat) : Ends (fun _ => True) (fun r => WfMem r.2) (resolvePhys s q p n) := by
  unfold resolvePhys
  refine foldl_ends (fun _ _ => rfl) (fun r g h => ?_) _ ?_
  · dsimp only
    split
    · exact h
    · trivial
  · split
    · exact hs
    · trivial
theorem zephyrPlaces_wf (q : Req) (acc : AccKind) (p : Word) (n : Nat) : Ends (fun _ => True) (fun r => WfMem r.2) (zephyrPlaces s q acc p n) := by
  unfold zephyrPlaces
  grind only [resolvePhys_wf, resolveAll_wf]
theorem zephyrCheck_wf (q : Req) (r : ZReq) (write : Bool) (p : Word) (n : Nat) :
    Ends (fun _ => True) (fun r => WfMem r.2) (zephyrCheck s q r write p n) := by
  unfold zephyrCheck
  grind only [zephyrPlaces_wf, Ends_error]
theorem engineWrite_wf (q : Req) (xs : List Place) (bs : List Byte) : Ends StopWf WfMem (engineWrite s q xs bs) := by
  unfold engineWrite
  grind only [noteWrite_wf, writeNowAll_wf, Ends_ok, Ends_error, StopWf]
theorem zephyrRead_wf (q : Req) (r : ZReq) (p : Word) (n : Nat) : Ends StopWf (fun r => WfMem r.2) (zephyrRead s q r p n) := by
  unfold zephyrRead
  grind only [zephyrCheck_wf, readPlaces_wf, holdStop_wf, Ends_ok, Ends_error, StopWf, HoldWf]
theorem zephyrWrite_wf (q : Req) (r : ZReq) (p : Word) (bs : List Byte) : Ends StopWf WfMem (zephyrWrite s q r p bs) := by
  unfold zephyrWrite
  grind only [zephyrCheck_wf, engineWrite_wf, Ends_ok, Ends_error, StopWf]
theorem copyRow_wf (q : Req) (r : ZReq) (c : Copy) (k : Nat) : Ends StopWf WfMem (copyRow s q r c k) := by
  unfold copyRow
  grind only [zephyrRead_wf, zephyrWrite_wf, Ends_ok, Ends_error, StopWf]
omit hs in
theorem copyRows_wf (s : State) (q : Req) (r : ZReq) (c : Copy) (n k : Nat) (hs : WfMem s) :
    WfMem (copyRows s q r c n k).1 ∧ ∀ st ∈ (copyRows s q r c n k).2.2, StopWf st := by
  induction n generalizing s k with
  | zero => exact ⟨hs, by simp [copyRows]⟩
  | succ n ih =>
    have h := copyRow_wf hs q r c k
    unfold copyRows
    split
    · next st e =>
      rw [e] at h
      exact ⟨hs, by rintro _ ⟨⟩; exact h⟩
    · next e =>
      rw [e] at h
      exact ih _ _ h
@[simp] theorem runDirect_wf (t : Nat) (r : ZReq) (again : Instr) : WfMem (runDirect s t r again) := by
  unfold runDirect
  grind only [copyRows_wf, setZreq_mem, State.addDueOnce_mem, takeCopyFault_mem, StopWf]
@[simp] theorem makeActive_wf (t zc : Nat) (r : ZReq) (again : Instr) : WfMem (makeActive s t zc r again) := by
  unfold makeActive
  grind only [runDirect_wf, setZreq_mem, takeCopyFault_mem]
@[simp] theorem requestBody_wf (t uid : Nat) : WfMem (requestBody s t uid) := by
  unfold requestBody
  grind only [makeActive_wf, State.addDueOnce_mem, runDirect_wf]
omit hs in
theorem zephyrBody_wf (f : Nat → ZReq → State → Except Stop State) (s : State) (hs : WfMem s) (hf : ∀ t r, Ends StopWf WfMem (f t r s)) :
    Ends StopWf WfMem (zephyrBody f s) := by
  unfold zephyrBody
  split
  · split
    · exact hf _ _
    · exact hs
  · exact hs
theorem zcopyBody_wf (a b c : Reg) (t : Nat) (r : ZReq) : Ends StopWf WfMem (zcopyBody a b c t r s) := by
  unfold zcopyBody
  grind only [State.retire_mem, copyRows_wf, setZreq_mem, Ends_ok, Ends_error, StopWf]
@[simp] theorem answer_wf (t : Nat) (r : ZReq) (packet : Instr) : WfMem (answer s t r packet) := by
  unfold answer
  grind only [makeActive_wf, State.addDueOnce_mem]

end

end Sys2Proof.Machine
end

section
/-! PROOFS, canonical memory in matrix operations (R185, R186). -/

namespace Sys2Proof.Machine

/-! ## Matrix operations -/

@[simp] theorem setMatq_mem (s : State) (t : Nat) (l : List MatOp) : (setMatq s t l).mem = s.mem := rfl
@[simp] theorem kickQueue_mem (s : State) (t : Nat) : (kickQueue s t).mem = s.mem := by
  unfold kickQueue
  split <;> simp
@[simp] theorem dropOp_mem (s : State) (t : Nat) (o : MatOp) : (dropOp s t o).mem = s.mem := by simp [dropOp]
@[simp] theorem pushOp_mem (s : State) (t : Nat) (o : MatOp) : (pushOp s t o).mem = s.mem := by simp [pushOp]
@[simp] theorem passPanel_mem (s : State) (t c k n : Nat) : (passPanel s t c k n).mem = s.mem := by simp [passPanel]
@[simp] theorem passStreams_mem (s : State) (t : Nat) (o : MatOp) : (passStreams s t o).mem = s.mem := by
  unfold passStreams
  grind only [passPanel_mem]
@[simp] theorem awaitOp_mem (s : State) (t c req : Nat) : (awaitOp s t c req).mem = s.mem := rfl
@[simp] theorem makeLive_mem (s : State) (t c a xm : Nat) : (makeLive s t c a xm).mem = s.mem := rfl
@[simp] theorem finishHead_mem (s : State) (t : Nat) (o : MatOp) : (finishHead s t o).mem = s.mem := by
  unfold finishHead
  grind only [setOp_mem, State.addDueOnce_mem]
section
variable {s : State} (hs : WfMem s)
include hs

omit hs in
theorem evictAcc_wf (s : State) (t : Nat) (l : List (Nat × Nat × Bool)) (hs : WfMem s) : ∀ u ∈ evictAcc s t l, WfMem u := by
  induction l generalizing s with
  | nil => simp [evictAcc]
  | cons x r ih =>
    obtain ⟨c, a, d⟩ := x
    have hw : WfMem (if d then writeAcc s t c a else (s, none)).1 := by
      split
      · exact writeAcc_wf s t c a hs
      · exact hs
    unfold evictAcc
    split
    · exact ih s hs
    · dsimp only
      generalize (if d then writeAcc s t c a else (s, none)) = wb at hw ⊢
      split
      · rintro u ⟨⟩
        exact hw
      · refine ih _ ?_
        split
        · exact trapImage_wf _ _ _ _ hw
        · exact hw
theorem claimAcc_wf (t c a : Nat) : Ends StopWf WfMem (claimAcc s t c a) := by
  have hev : ∀ u ∈ (if (s.tile t).physAcc.length < 8 then some s else evictAcc s t (s.tile t).physAcc.reverse), WfMem u := by
    split
    · rintro u ⟨⟩
      exact hs
    · exact evictAcc_wf s t _ hs
  unfold claimAcc
  split
  · simpa only [Ends_ok, WfMem, touchAcc_mem] using hs
  · split
    · trivial
    · next u e =>
      have hu := hev u e
      dsimp only
      split
      · simpa only [Ends_ok, WfMem, touchAcc_mem, setAcc_mem] using hu
      · grind only [readImage_wf, touchAcc_mem, setAcc_mem, Ends_ok, Ends_error, StopWf]
@[simp] theorem putMprog_wf (t c : Nat) (v : Word) : WfMem (putMprog s t c v) := by
  unfold putMprog
  grind only [ensureLine_wf, State.setRegsOf_mem]
@[simp] theorem enterFlags_wf (t : Nat) (o : MatOp) : WfMem (enterFlags s t o) := by
  unfold enterFlags
  split
  · exact hs
  · exact asAgent_wf _ _ _ (fun u hu => by simpa [WfMem] using hu) (ensureLine_wf _ _ _ _ hs)
@[simp] theorem finishOut_wf (t c : Nat) : WfMem (finishOut s t c) := by
  unfold finishOut
  grind only [switchOut_wf]
@[simp] theorem stopOp_wf (t : Nat) (o : MatOp) : WfMem (stopOp s t o) := by
  unfold stopOp
  grind only [enterFlags_wf, dropOp_mem, putMprog_wf]
@[simp] theorem retireOp_wf (t : Nat) (o : MatOp) : WfMem (retireOp s t o) := by
  refine completeFor_wf _ _ _ _ ?_ (fun u hu => ?_)
  · simpa [WfMem, setOp_mem] using hs
  · simpa [WfMem] using hu
@[simp] theorem completeOp_wf (t : Nat) (o : MatOp) : WfMem (completeOp s t o) := by
  unfold completeOp
  grind only [enterFlags_wf, dropOp_mem, putMprog_wf, finishOut_wf, noteCompleted_wf]
omit hs in
theorem matBody_wf (f : Nat → Nat → State → Except Stop State) (s : State) (hs : WfMem s) (hf : ∀ t c, Ends StopWf WfMem (f t c s)) :
    Ends StopWf WfMem (matBody f s) := by
  unfold matBody
  split
  · split
    · exact hf _ _
    · trivial
  · exact hs
theorem submit_wf (t : Nat) (o : MatOp) (rs : List RangeSpec) : Ends StopWf WfMem (submit s t o rs) := by
  unfold submit
  grind only [pushOp_mem, registerRanges_mem, Ends_ok, Ends_error, StopWf]
theorem rowPlaces_wf (q : Req) (acc : AccKind) (o : MatOp) (w : Nat) : Ends (fun _ => True) (fun r => WfMem r.2) (rowPlaces s q acc o w) := by
  unfold rowPlaces
  refine foldl_ends (fun _ _ => rfl) (fun r i h => ?_) _ hs
  grind only [resolveAll_wf, Ends_ok, Ends_error]
theorem mldBody_wf (a b : Reg) (t c : Nat) : Ends StopWf WfMem (mldBody a b t c s) := by
  unfold mldBody
  grind only [State.fresh_mem, rowPlaces_wf, submit_wf, State.retire_mem, Ends_ok, Ends_error, StopWf]
theorem mstBody_wf (fmt : Fin 4) (a b : Reg) (rm : Fin 4) (clamp : Bool) (t c : Nat) : Ends StopWf WfMem (mstBody fmt a b rm clamp t c s) := by
  unfold mstBody
  grind only [State.fresh_mem, rowPlaces_wf, settle_wf, submit_wf, Stop.keptIn_wf, State.retire_mem, Ends_ok, Ends_error, StopWf]
omit hs in
theorem ptrPanel_wf (p : Word) : Ends StopWf (fun _ => True) (ptrPanel p) := by
  unfold ptrPanel
  grind only [Ends_ok, Ends_error, StopWf]
omit hs in
theorem streamPanel_wf (t c k : Nat) : Ends StopWf (fun _ => True) (streamPanel s t c k) := by
  unfold streamPanel
  grind only [Ends_ok, Ends_error, StopWf]
omit hs in
theorem panelsOf_wf (t c xm : Nat) (b r : Reg) : Ends StopWf (fun _ => True) (panelsOf s t c xm b r) := by
  unfold panelsOf
  grind only [streamPanel_wf, ptrPanel_wf, Ends_ok, Ends_error, StopWf]
theorem accBody_wf (xm : Nat) (a b r e : Reg) (mx : Nat) (t c : Nat) : Ends StopWf WfMem (accBody xm a b r e mx t c s) := by
  unfold accBody
  grind only [panelsOf_wf, putMprog_wf, makeLive_mem, State.retire_mem, claimAcc_wf, trapImage_wf, touchAcc_mem, State.fresh_mem, submit_wf,
    awaitOp_mem, Ends_ok, Ends_error, StopWf]
@[simp] theorem mabortBody_wf (a t c : Nat) : WfMem (mabortBody a t c s) := by
  unfold mabortBody
  dsimp only
  exact foldl_wf (fun u o hu => by rwa [WfMem, dropOp_mem]) _ (foldl_wf (fun u o hu => stopOp_wf hu t o) _ hs)
theorem panelBytes_wf (t c k off n : Nat) : Ends StopWf (fun r => WfMem r.2) (panelBytes s t c k off n) := by
  unfold panelBytes
  extract_lets j0 cnt start r
  have hr : Ends StopWf (fun r => WfMem r.2) r := by
    refine foldl_ends (fun _ _ => rfl) (fun b i h => ?_) _ hs
    obtain ⟨l, u⟩ := b
    dsimp only
    grind only [fetchBeat_wf, holdStop_wf, Ends_ok, Ends_error, StopWf]
  clear_value r
  split
  · exact hr
  · exact hr
theorem fetchPart_wf (t : Nat) (o : MatOp) (p : Word) (fmt rows : Nat) : Ends StopWf (fun r => WfMem r.2) (fetchPart s t o p fmt rows) := by
  unfold fetchPart
  dsimp only
  split
  · exact panelBytes_wf hs _ _ _ _ _
  · exact engineRead_wf s _ _ _ _ hs holdStop_wf
theorem fetchParts_wf (t : Nat) (o : MatOp) : Ends StopWf (fun r => WfMem r.2) (fetchParts s t o) := by
  unfold fetchParts
  grind only [fetchPart_wf, Ends_ok, Ends_error, StopWf]
@[simp] theorem foldFirst_wf (t : Nat) (o : MatOp) : WfMem (foldFirst s t o).2 := by
  unfold foldFirst
  grind only [touchAcc_mem, setAcc_mem, setOp_mem, enterFlags_wf]
@[simp] theorem foldAll_wf (t : Nat) (o : MatOp) : WfMem (foldAll s t o).2 := by
  unfold foldAll
  grind only [foldFirst_wf]
@[simp] theorem stopFetch_wf (t : Nat) (o : MatOp) (st : Stop) : WfMem (stopFetch s t o st) := by
  unfold stopFetch
  split
  · exact stopFor_wf _ _ _ _ _ (stopOp_wf (foldAll_wf hs t o) t _) trivial
  · split
    · simpa [WfMem] using hs
    · simpa [WfMem, afterFold_mem] using foldFirst_wf hs t o
@[simp] theorem foldBody_wf (t : Nat) : WfMem (foldBody s t) := by
  unfold foldBody
  grind only [finishOut_wf, stopOp_wf, fetchParts_wf, stopFetch_wf, setOp_mem, retireOp_wf, State.addDueOnce_mem, foldFirst_wf, afterFold_mem,
    Ends_ok, StopWf]
@[simp] theorem failHead_wf (t : Nat) (o : MatOp) (tr : Trap) : WfMem (failHead s t o tr) := by
  unfold failHead
  grind only [setOp_mem, State.addDueOnce_mem, dropOp_mem, trapImage_wf]
theorem runMld_wf (t : Nat) (o : MatOp) : Ends StopWf WfMem (runMld s t o) := by
  unfold runMld
  extract_lets q start r
  have hr : Ends StopWf (fun r => WfMem r.2) r := by
    refine foldl_ends (fun _ _ => rfl) (fun b i h => ?_) _ hs
    grind only [readPlaces_wf, holdStop_wf, Ends_ok, Ends_error]
  clear_value r
  split
  · exact hr
  · simpa only [Ends_ok, WfMem, touchAcc_mem, setAcc_mem] using hr
theorem runMst_wf (t : Nat) (o : MatOp) : Ends StopWf (fun r => WfMem r.1) (runMst s t o) := by
  unfold runMst
  dsimp only
  split
  · trivial
  · refine foldl_wf (fun u p hu => ?_) _ hs
    exact noteWrite_wf (writeNowAll_wf _ _ _ _ hu) _ p.1
@[simp] theorem startBody_wf (t : Nat) : WfMem (startBody s t) := by
  unfold startBody
  dsimp only
  split
  · exact hs
  · next o _ _ =>
    split
    · exact hs
    · split
      · rwa [WfMem, dropOp_mem]
      · split
        · rwa [WfMem, State.addDueOnce_mem]
        · split
          · grind only [finishHead_mem, setAcc_mem, putMprog_wf, State.setTile_mem]
          · have h := claimAcc_wf hs t o.ctx o.acc
            split
            · exact failHead_wf hs _ _ _
            · rwa [WfMem, State.addDueOnce_mem]
            · next e =>
              rw [e] at h
              grind only [finishHead_mem, touchAcc_mem, setAcc_mem, setOp_mem, makeLive_mem, State.addDueOnce_mem, runMld_wf, runMst_wf, Ends_ok,
                Ends_error]
@[simp] theorem matrixDone_wf (t : Nat) : WfMem (matrixDone s t) := by
  unfold matrixDone
  grind only [completeOp_wf]
@[simp] theorem boundOp_wf (t : Nat) (o : MatOp) : WfMem (boundOp s t o) := by
  unfold boundOp
  grind only [stopOp_wf, dropOp_mem, State.setCtx_mem]
theorem boundary_wf (t c : Nat) : ∀ u ∈ boundary s t c, WfMem u := by
  unfold boundary
  dsimp only
  split
  · rintro u ⟨⟩
    exact foldl_wf (fun u o hu => boundOp_wf hu t o) _ hs
  · simp

end

end Sys2Proof.Machine
end

section
/-! PROOFS, canonical memory in tasks, launches and deques (R185, R186). -/

namespace Sys2Proof.Machine

/-! ## Tasks and launches -/

@[simp] theorem noteUnit_mem (s : State) (level id : Nat) : (noteUnit s level id).mem = s.mem := by
  unfold noteUnit
  grind only [State.addDueOnce_mem]
@[simp] theorem raiseUnit_mem (s : State) (level id : Nat) : (raiseUnit s level id).mem = s.mem := by
  unfold raiseUnit
  split <;> rfl
@[simp] theorem openGraph_mem (s : State) (tenant id : Nat) : (openGraph s tenant id).mem = s.mem := by
  unfold openGraph
  split <;> rfl
@[simp] theorem endUnit_mem (s : State) (level id : Nat) (st : UnitState) : (endUnit s level id st).mem = s.mem := by
  unfold endUnit
  split <;> simp
@[simp] theorem endBlock_mem (s : State) (h r : Nat) : (endBlock s h r).mem = s.mem := rfl
@[simp] theorem noteSuccessors_mem (s : State) (l : Nat) : (noteSuccessors s l).mem = s.mem := by
  refine foldl_mem (fun u p => ?_) _ s
  split <;> simp
@[simp] theorem endLaunch_mem (s : State) (l : Nat) (st : LaunchState) : (endLaunch s l st).mem = s.mem := by
  unfold endLaunch
  dsimp only
  split
  · rfl
  · rw [noteUnit_mem, noteSuccessors_mem, State.setLaunch_mem]
    refine foldl_mem (fun u h => ?_) _ s
    split <;> simp
@[simp] theorem counterBody_mem (s : State) (level id : Nat) : (counterBody s level id).mem = s.mem := by
  unfold counterBody
  grind only [endLaunch_mem, endUnit_mem]
@[simp] theorem setWaits_mem (s : State) (w : Option (Nat × Nat)) : (setWaits s w).mem = s.mem := by
  unfold setWaits
  split <;> rfl
@[simp] theorem synchronised_mem (s : State) : (synchronised s).mem = s.mem := by
  unfold synchronised
  split <;> rfl
@[simp] theorem cwaitOn_mem (a : Reg) (level id : Nat) (s : State) : (cwaitOn a level id s).mem = s.mem := by
  unfold cwaitOn
  split <;> simp
@[simp] theorem addRefs_mem (s : State) (level id : Nat) (v : Int) : (addRefs s level id v).mem = s.mem := by
  unfold addRefs
  grind only [noteCount_mem, State.setLaunch_mem, noteUnit_mem]
@[simp] theorem acceptLaunch_mem (s : State) (w : Launcher) (rect : Nat) (d mb om : List Byte) (k : Bool × Bool) :
    (acceptLaunch s w rect d mb om k).2.mem = s.mem := by
  unfold acceptLaunch
  split <;> simp
@[simp] theorem capture_mem (s : State) (b : List Byte) : (capture s b).mem = s.mem := by
  unfold capture
  split <;> rfl
@[simp] theorem placeContexts_mem (s : State) (t h n : Nat) : (placeContexts s t h n).mem = s.mem := by
  exact foldl_mem (fun _ _ => by rw [State.setCtx_mem, dropLines_mem]) _ s
@[simp] theorem placeEntry_mem (s : State) (t : Nat) (e : DequeEntry) : (placeEntry s t e).mem = s.mem := by
  unfold placeEntry
  split <;> simp
@[simp] theorem placeEntries_mem (s : State) (id : Nat) (x : Launch) (t h : Nat) : (placeEntries s id x t h).mem = s.mem := by
  exact foldl_mem (fun _ _ => by simp) _ s
@[simp] theorem placeBlock_mem (s : State) (id : Nat) (x : Launch) (t : Nat) (outlier : Bool) :
    (placeBlock s id x t outlier).2.mem = s.mem := by simp [placeBlock]
@[simp] theorem placementBody_mem (s : State) (id : Nat) : (placementBody s id).mem = s.mem := by
  unfold placementBody
  split
  · rfl
  · dsimp only
    split
    · split <;> simp
    · rw [State.setLaunch_mem]
      refine foldl_keeps (fun r : List Nat × State => r.2.mem = s.mem) _ (fun r p h => by simpa using h) _ _ ?_
      refine foldl_mem (fun u k => ?_) _ s
      split <;> simp
@[simp] theorem deadlineBody_mem (s : State) (id : Nat) : (deadlineBody s id).mem = s.mem := by
  unfold deadlineBody
  grind only [sendRecord_mem, State.setLaunch_mem, State.addDueOnce_mem]
@[simp] theorem takeEntry_mem (s : State) (e : DequeEntry) : (takeEntry s e).mem = s.mem := rfl
@[simp] theorem succeed_mem (s : State) (t c : Nat) (x : Task) : (succeed s t c x).mem = s.mem := by simp [succeed]
@[simp] theorem overflowBody_mem (s : State) (i : Nat) : (overflowBody s i).mem = s.mem := by
  unfold overflowBody
  grind only [State.setIsland_mem, State.setTile_mem, State.addDueOnce_mem]
section
variable {s : State} (hs : WfMem s)
include hs

@[simp] theorem discardAll_wf (p : Task → Bool) : WfMem (discardAll s p) := by
  unfold discardAll
  grind only [discardTasks_wf]
@[simp] theorem cancelOne_wf (l : Nat) : WfMem (cancelOne s l) := by
  unfold cancelOne
  grind only [discardAll_wf, dropEntries_mem, endLaunch_mem]
omit hs in
@[simp] theorem cancelLaunches_wf (n : Nat) (l : List Nat) (s : State) (hs : WfMem s) : WfMem (cancelLaunches n l s) := by
  induction n generalizing l s with
  | zero => exact hs
  | succ n ih =>
    cases l with
    | nil => exact hs
    | cons k r =>
      unfold cancelLaunches
      split
      · exact ih _ _ hs
      · split
        · exact ih _ _ hs
        · exact ih _ _ (cancelOne_wf hs k)
@[simp] theorem cancelBlock_wf (h : Nat) : WfMem (cancelBlock s h) := by
  unfold cancelBlock
  grind only [endBlock_mem, discardAll_wf, noteCount_mem, State.setLaunch_mem]
@[simp] theorem cancelUnit_wf (level id : Nat) : WfMem (cancelUnit s level id) := by
  unfold cancelUnit
  have h := cancelLaunches_wf ((s.launches.length + 1) * (s.launches.length + 1)) (unitLaunches s level id) s hs
  split
  · exact cancelBlock_wf hs id
  · dsimp only
    split
    · exact h
    · exact foldl_wf (fun u p hu => by rwa [WfMem, endUnit_mem]) _ h
theorem cancelBody_wf (a b : Reg) (level : Nat) : Ends StopWf WfMem (cancelBody a b level s) := by
  unfold cancelBody
  grind only [alu_mem, cancelUnit_wf, Ends_ok, Ends_error, StopWf]
theorem cwaitBody_wf (a b : Reg) (level : Nat) : Ends StopWf WfMem (cwaitBody a b level s) := by
  unfold cwaitBody
  grind only [cwaitOn_mem, alu_mem, Ends_ok, StopWf]
theorem caddBody_wf (b c : Reg) (level : Nat) : Ends StopWf WfMem (caddBody b c level s) := by
  unfold caddBody
  grind only [addRefs_mem, State.retire_mem, Ends_ok, Ends_error, StopWf]
theorem launchRead_wf (q : Req) (p : Word) : Ends StopWf (fun r => WfMem r.2) (launchRead s q p) := by
  unfold launchRead
  grind only [coreLoad_wf, memLoad_wf, StopWf]
theorem mailboxRead_wf (q : Req) (a : Nat) : Ends StopWf (fun r => WfMem r.2) (mailboxRead s q a) := by
  unfold mailboxRead
  grind only [launchRead_wf, Ends_ok, StopWf]
theorem recordOf_wf (q : Req) (p : Word) (d : List Byte) : Ends StopWf (fun r => WfMem r.2) (recordOf s q p d) := by
  unfold recordOf
  grind only [recordRead_wf, holdStop_wf, Ends_ok, Ends_error, StopWf, HoldWf]
theorem launchReads_wf (q : Req) (p : Word) : Ends StopWf (fun r => WfMem r.2) (launchReads s q p) := by
  have hx := fun (u : State) (hu : WfMem u) a => mailboxRead_wf hu q a
  have hy := fun (u : State) (hu : WfMem u) d => recordOf_wf hu q p d
  unfold launchReads
  generalize mailboxRead = res at hx ⊢
  revert res
  refine id fun res hx => ?_
  generalize recordOf = rec_ at hy ⊢
  revert rec_
  refine id fun rec_ hy => ?_
  have h := launchRead_wf hs q p
  split
  · next e => exact h.error e
  · next d u e =>
    replace h := hy u (h.ok e) d
    split
    · next e => exact h.error e
    · next r v e =>
      replace h := hx v (h.ok e) (dMailbox d)
      split
      · next e => exact h.error e
      · next m w e =>
        replace h := h.ok e
        have ho : Ends StopWf (fun r => WfMem r.2) (match launchKind w r (fromViewRect w q.tenant (dRect d)) d with
            | some (_, true) => res w q (dOutmb d)
            | _ => .ok (m, w)) := by
          split
          · exact hx w h _
          · exact h
        split
        · next e => exact ho.error e
        · next e =>
          have hv := ho.ok e
          exact hv
theorem launchCommit_wf (a : Reg) (l : List Byte) (k : Bool × Bool) : Ends StopWf WfMem (launchCommit a l k s) := by
  have h := settle_wf hs (curReq s)
  unfold launchCommit
  extract_lets -underBinder q d rect w held
  split
  · simpa only [Ends_ok, WfMem, capture_mem] using hs
  · exact onStop_wf _ _ (by simpa using hs) (by simpa [Stop.base] using hs)
  · next st _ _ e =>
    rw [e] at h
    exact h
  · next u e =>
    rw [e] at h
    dsimp only
    split <;> simpa [WfMem] using h
theorem launchRest_wf (a b : Reg) (l : List Byte) : Ends StopWf WfMem (launchRest a b l s) := by
  unfold launchRest
  grind only [alu_mem, launchCommit_wf, Ends_ok, StopWf]
theorem glaunchBody_wf (a b : Reg) : Ends StopWf WfMem (glaunchBody a b s) := by
  unfold glaunchBody
  grind only [launchCommit_wf, launchReads_wf, launchRest_wf, Ends_ok, Ends_error, StopWf]
@[simp] theorem poolBody_wf (id : Nat) : WfMem (poolBody s id) := by
  unfold poolBody
  grind only [cancelUnit_wf, State.setLaunch_mem, State.addDueOnce_mem]
@[simp] theorem enterContext_wf (t c k : Nat) (x : Ctx) (budget : Nat) : WfMem (enterContext s t c k x budget) := by
  unfold enterContext
  grind only [dropStale_mem, enqueueFresh_wf, switchOut_wf, State.setCtx_mem, trapImage_wf]
@[simp] theorem activate_wf (t c : Nat) (x : Task) : WfMem (activate s t c x) := by
  unfold activate
  grind only [State.fresh_mem, ensureTrapLines_wf, orImageFault_wf, enterContext_wf, noteRaised_mem, State.setTask_mem]
@[simp] theorem reactivate_wf (k : Nat) (x : Task) : WfMem (reactivate s k x) := by
  unfold reactivate
  grind only [ensureTrapLines_wf, orImageFault_wf, regainLocks_mem, enterContext_wf, State.setTask_mem]
@[simp] theorem handOffBody_wf (t : Nat) : WfMem (handOffBody s t) := by
  unfold handOffBody
  grind only [takeEntry_mem, reactivate_wf, activate_wf, State.addDueOnce_mem]
@[simp] theorem messageActivation_wf (t : Nat) : WfMem (messageActivation s t) := by
  unfold messageActivation
  grind only [State.setTile_mem, activate_wf, State.addDueOnce_mem]
theorem dqpushBody_wf (b : Reg) : Ends StopWf WfMem (dqpushBody b s) := by
  unfold dqpushBody
  grind only [memLoad_wf, State.fresh_mem, pushEntry_mem, State.setTask_mem, noteRaised_mem, State.addDueOnce_mem, State.retire_mem, Ends_ok,
    Ends_error, StopWf]
@[simp] theorem endTask_wf (t c k : Nat) (x : Task) : WfMem (endTask s t c k x) := by
  have hr : ∀ u : State, u.mem = s.mem → WfMem u := fun u e => by rwa [WfMem, e]
  unfold endTask
  dsimp only
  have hf : ∀ l : List Stream, (List.foldl (fun (s : State) (m : Stream) => if m.bound then releaseRanges s m.req else s) s l).mem = s.mem := by
    refine fun l => foldl_mem (fun u m => ?_) l s
    split <;> simp
  split
  · exact discardTasks_wf (hr _ (by rw [State.setCtx_mem, State.addDueOnce_mem, State.setTask_mem, hf])) _
  · exact hr _ (by rw [State.addDueOnce_mem, State.setTask_mem, hf])
theorem takeNext_wf (a : Reg) (none_ : Word) (find : State → Nat → Option DequeEntry) : Ends StopWf WfMem (takeNext a none_ find s) := by
  unfold takeNext
  split
  · dsimp only
    grind only [alu_mem, endTask_wf, takeEntry_mem, commitEnded_wf, succeed_mem, Ends_ok, Ends_error, StopWf]
  · exact hs
@[simp] theorem stealBody_wf (h : Nat) : WfMem (stealBody s h) := by
  unfold stealBody
  grind only [State.addDueOnce_mem, activate_wf, takeEntry_mem, State.setBlock_mem]
theorem yieldBody_wf  : Ends StopWf WfMem (yieldBody s) := by
  unfold yieldBody
  grind only [vectorLeave_wf, endTask_wf, State.setCtx_mem, dropLines_mem, dropAccs_mem, State.addDueOnce_mem, Ends_ok, Ends_error, StopWf]
@[simp] theorem budgetBody_wf (t c : Nat) : WfMem (budgetBody s t c) := by
  unfold budgetBody
  split
  · exact hs
  · split
    · rwa [WfMem, State.addDueOnce_mem]
    · next e => exact takeTrap_wf _ _ _ _ (boundary_wf hs t c _ e)

end

end Sys2Proof.Machine
end

section
/-! PROOFS, canonical memory in forecasts and sealed records (R185, R186). -/

namespace Sys2Proof.Machine

/-! ## Forecasts -/

@[simp] theorem setForecast_mem (s : State) (n r : Nat) (f : Forecast) : (setForecast s n r f).mem = s.mem := rfl
@[simp] theorem resolveInstance_mem (s : State) (i : Nat) : (resolveInstance s i).mem = s.mem := by
  unfold resolveInstance
  refine (foldl_mem (fun u p => ?_) _ _).trans rfl
  split <;> simp
@[simp] theorem setTracked_mem (s : State) (n r : Nat) (on : Bool) (f : Forecast) : (setTracked s n r on f).mem = s.mem := rfl
@[simp] theorem ftrackBody_mem (b : Reg) (s : State) : (ftrackBody b s).mem = s.mem := by
  generalize hbody : ftrackBody = body
  delta ftrackBody at hbody
  subst hbody
  beta_reduce
  extract_lets -underBinder p
  split
  · rfl
  · rw [setTracked_mem]
section
variable {s : State} (hs : WfMem s)
include hs

omit hs in
theorem readElements_wf (s : State) (q : Req) (r : List Byte) (stop : Hold → Stop) (hs : WfMem s) (ht : ∀ h, HoldWf h → StopWf (stop h)) :
    Ends StopWf (fun r => WfMem r.2) (readElements s q r stop) := by
  unfold readElements
  refine foldl_ends (fun _ _ => rfl) (fun b e h => ?_) _ hs
  obtain ⟨l, u⟩ := b
  grind only [engineRead_wf, Ends_ok, Ends_error]
@[simp] theorem failInstance_wf (i : Nat) : WfMem (failInstance s i) := by
  unfold failInstance
  grind only [resolveInstance_mem, discardTasks_wf]
@[simp] theorem checkBody_wf (n r : Nat) : WfMem (checkBody s n r) := by
  unfold checkBody
  grind only [setForecast_mem, resolveInstance_mem, failInstance_wf, State.addDueOnce_mem]
@[simp] theorem funtrackBody_wf (b : Reg) : WfMem (funtrackBody b s) := by
  unfold funtrackBody
  dsimp only
  split
  · simpa [WfMem] using hs
  · have h : WfMem (setTracked s (ownRecord s b).1 (ownRecord s b).2 false {}) := by simpa [WfMem] using hs
    have hf := foldl_wf (fun u i hu => failInstance_wf hu i) ((s.insts.filter fun x => x.2.cluster == (ownRecord s b).1 && x.2.record == (ownRecord s b).2).map Prod.fst) h
    split
    · simpa [WfMem] using hf
    · exact hf
omit hs in
theorem queryRecord_wf (b : Reg) : Ends StopWf (fun _ => True) (queryRecord s b) := by
  unfold queryRecord
  grind only [coreRecord_wf, Ends_ok, StopWf]
@[simp] theorem deliverElements_wf (t dest : Nat) (r : List Byte) (l : List Nat) : WfMem (deliverElements s t dest r l) := by
  exact foldl_wf (fun u p hu => putPhys_wf _ _ _ hu) _ hs
theorem openInstance_wf (q : Req) (n r : Nat) (f : Forecast) (p1 tol : List Byte) : ∀ v ∈ openInstance s q n r f p1 tol, WfMem v.2.2 := by
  have hx := fun (u : State) (hu : WfMem u) q r => readElements_wf u q r holdStop hu holdStop_wf
  unfold openInstance
  split
  · rintro v ⟨⟩
    exact hs
  · dsimp only
    split
    · simp
    · next a u e =>
      have hu : WfMem u := (hx s hs _ p1).ok e
      split
      · simp
      · next b w e =>
        have hw : WfMem w := by
          split at e
          · cases e
            exact hu
          · next p _ =>
            split at e
            · next e' =>
              cases e
              exact (hx u hu _ p).ok e'
            · cases e
        rintro v ⟨⟩
        simpa [WfMem] using hw
theorem fopenTurn_wf (t c dest ext : Nat) (src : Option (List Byte)) : Ends StopWf WfMem (fopenTurn s t c dest ext src) := by
  unfold fopenTurn
  grind only [dropFopen_mem, State.fresh_mem, registerRanges_mem, Ends_ok, Ends_error, StopWf]
@[simp] theorem fopenForecast_wf (a : Reg) (q : Req) (t n r dest : Nat) (f : Forecast) (p1 tol : List Byte) (kid : Nat) :
    WfMem (fopenForecast a s q t n r dest f p1 tol kid) := by
  have h := openInstance_wf hs q n r f p1 tol
  unfold fopenForecast
  split
  · simpa [WfMem] using hs
  · next e =>
    have hd := fun l => deliverElements_wf (h _ e) t dest p1 l
    dsimp only
    split <;> simpa [WfMem] using hd _
omit hs in
theorem unretiredStop_wf (h : Hold) (hh : HoldWf h) : StopWf (unretiredStop h) := by
  unfold unretiredStop
  grind only [holdStop_wf, StopWf, HoldWf]
theorem fopenRest_wf (a : Reg) (tol rec_ : List Byte) (n : Nat) (r : Nat) : Ends StopWf WfMem (fopenRest a tol rec_ n r s) := by
  have hx := fun (u : State) (hu : WfMem u) q r => readElements_wf u q r unretiredStop hu unretiredStop_wf
  have hy := fun (u : State) (hu : WfMem u) t c dest ext src => fopenTurn_wf hu t c dest ext src
  generalize hbody : fopenRest = body
  delta fopenRest at hbody
  subst hbody
  generalize fopenTurn = turn at hy ⊢
  revert turn
  refine id fun turn hy => ?_
  beta_reduce
  split
  · next t c _ =>
    extract_lets -underBinder q cl f v
    have hal : ∀ w, Ends StopWf WfMem (.ok (alu a w s)) := fun w => by simpa [WfMem] using hs
    split
    · exact hal _
    · split
      · exact hal _
      · split
        · exact hal _
        · next p _ =>
          split
          · exact hal _
          · extract_lets -underBinder dest
            split
            · exact hal _
            · split
              · split
                · exact hal _
                · split
                  · next e => exact (hy s hs _ _ _ _ _).error e
                  · next e => exact fopenForecast_wf ((hy s hs _ _ _ _ _).ok e) _ _ _ _ _ _ _ _ _ _
              · next r _ _ =>
                split
                · next e => exact (hy s hs _ _ _ _ _).error e
                · next u e =>
                  have hu := (hy s hs _ _ _ _ _).ok e
                  split
                  · next e => exact (hx u hu _ _).error e
                  · next l w e => simpa [WfMem] using deliverElements_wf ((hx u hu _ _).ok e) t dest r l
              · exact hs
  · exact hs
theorem fopenBody_wf (a b c e : Reg) : Ends StopWf WfMem (fopenBody a b c e s) := by
  unfold fopenBody
  grind only [alu_mem, memLoad_wf, recordRead_wf, holdStop_wf, fopenRest_wf, Ends_ok, Ends_error, StopWf, HoldWf]

end

/-! ## Seal helpers -/

@[simp] theorem randomBytes_mem (s : State) : (randomBytes s).2.mem = s.mem := rfl

end Sys2Proof.Machine
end

section
/-! PROOFS, canonical memory in moves, clearances and time slices (R185, R186). -/

namespace Sys2Proof.Machine

/-! ## Residency -/

@[simp] theorem dropRequest_mem (s : State) (n : Nat) : (dropRequest s n).mem = s.mem := rfl
@[simp] theorem requestMove_mem (s : State) (n a b : Nat) : (requestMove s n a b).mem = s.mem := by
  unfold requestMove
  grind only [dropRequest_mem, State.setCluster_mem, State.addDueOnce_mem]
@[simp] theorem requestFrom_mem (s : State) (t : Nat) : (requestFrom s t).mem = s.mem := by
  unfold requestFrom
  grind only [requestMove_mem]
@[simp] theorem rotationBody_mem (s : State) (n : Nat) : (rotationBody s n).mem = s.mem := by
  unfold rotationBody
  grind only [State.addDueOnce_mem, State.setCluster_mem, requestMove_mem]
@[simp] theorem fillsDue_mem (s : State) (t c : Nat) : (fillsDue s t c).mem = s.mem := by
  unfold fillsDue
  have h : ([2, 3, 0, 1].foldl (fun s k => if resident s t c k then s else s.addDueOnce (.registerCacheFill t c k)) s).mem = s.mem := by
    refine foldl_mem (fun u k => ?_) _ s
    split <;> simp
  dsimp only
  split
  · rw [State.addDueOnce_mem, h]
  · rw [beatsDue_mem, h]
@[simp] theorem endCalm_mem (s : State) (n : Nat) : (endCalm s n).mem = s.mem := by
  refine foldl_mem (fun u p => ?_) _ s
  dsimp only
  split <;> simp
@[simp] theorem wakeTile_mem (s : State) (t : Nat) : (wakeTile s t).mem = s.mem := by simp [wakeTile]
@[simp] theorem setStubs_mem (s : State) (a b : Nat) : (setStubs s a b).mem = s.mem := rfl
@[simp] theorem startStubs_mem (s : State) (t : Nat) : (startStubs s t).mem = s.mem := by
  exact foldl_mem (fun _ _ => by simp) _ _
@[simp] theorem stubReleaseBody_mem (s : State) (t h : Nat) : (stubReleaseBody s t h).mem = s.mem := by
  unfold stubReleaseBody
  grind only [State.setRouter_mem, State.addDueOnce_mem]
@[simp] theorem dropCalming_mem (s : State) (n : Nat) : (dropCalming s n).mem = s.mem := by
  unfold dropCalming
  grind only [endCalm_mem, dropRequest_mem, State.setCluster_mem]
@[simp] theorem restoreEnds_mem (s : State) (n : Nat) : (restoreEnds s n).mem = s.mem := rfl
@[simp] theorem measureSlice_mem (s : State) (t : Nat) : (measureSlice s t).mem = s.mem := by
  unfold measureSlice
  split <;> rfl
@[simp] theorem clampSlice_mem (s : State) (t c : Nat) : (clampSlice s t c).mem = s.mem := by
  unfold clampSlice
  grind only [State.setCtx_mem]
section
variable {s : State} (hs : WfMem s)
include hs

@[simp] theorem thermalTrip_wf (t : Nat) : WfMem (thermalTrip s t) := by
  unfold thermalTrip
  grind only [leaveDoze_wf, State.dropDue_mem, sendRecord_mem, State.addDueOnce_mem]
@[simp] theorem sensorBody_wf (t temp : Nat) : WfMem (sensorBody s t temp) := by
  unfold sensorBody
  grind only [State.setTile_mem, requestFrom_mem, State.addDueOnce_mem, thermalTrip_wf]
@[simp] theorem afterMove_wf (n : Nat) : WfMem (afterMove s n) := by
  unfold afterMove
  grind only [discardTasks_wf]
@[simp] theorem abandonMove_wf (n : Nat) : WfMem (abandonMove s n) := by
  unfold abandonMove
  dsimp only
  refine foldl_wf (fun u t hu => by simpa [WfMem] using hu) _ (afterMove_wf ?_ n)
  simpa [WfMem] using hs
@[simp] theorem writeBackAll_wf (l : List (Nat × Nat)) : WfMem (writeBackAll s l).1 := by
  refine foldl_keeps (fun r : State × Bool => WfMem r.1) _ (fun r p h => ?_) l _ hs
  have hb : WfMem ((boundary r.1 p.1 p.2).getD r.1) := by
    cases e : boundary r.1 p.1 p.2 with
    | none => exact h
    | some u => exact boundary_wf h _ _ u e
  dsimp only
  generalize (boundary r.1 p.1 p.2).getD r.1 = v at hb ⊢
  have hw := switchOut_wf v p.1 p.2 hb
  generalize switchOut v p.1 p.2 = w at hw ⊢
  split
  · exact ite_wf hw (trapImage_wf _ _ _ _ hw)
  · exact hw
@[simp] theorem flushPrivate_wf (t : Nat) : WfMem (flushPrivate s t) := by
  unfold flushPrivate
  grind only [flushBlocks_wf]
@[simp] theorem calmingEndBody_wf (n : Nat) : WfMem (calmingEndBody s n) := by
  unfold calmingEndBody
  grind only [State.addDueOnce_mem, setStubs_mem, State.setCluster_mem, writeBackAll_wf, flushPrivate_wf, abandonMove_wf]
@[simp] theorem drainingEndBody_wf (n : Nat) : WfMem (drainingEndBody s n) := by
  unfold drainingEndBody
  grind only [State.addDueOnce_mem, writeBackAll_wf, flushPrivate_wf, State.setCluster_mem, abandonMove_wf]
@[simp] theorem swapSpads_wf (a b : Nat) : WfMem (swapSpads s a b) := by
  unfold swapSpads
  dsimp only
  exact foldl_keeps (fun m => Memory.wf m = true) _ (fun m c h => memWrite_wf _ _ _ h) _ _ (Memory.wf_filter _ _ hs)
@[simp] theorem exchange_wf (a b : Nat) : WfMem (exchange s a b) := by
  unfold exchange
  grind only [swapSpads_wf, State.setTile_mem]
@[simp] theorem copyingEndBody_wf (n : Nat) : WfMem (copyingEndBody s n) := by
  unfold copyingEndBody
  grind only [exchange_wf, State.setCluster_mem, State.addDueOnce_mem]
@[simp] theorem switchingEndBody_wf (n : Nat) : WfMem (switchingEndBody s n) := by
  unfold switchingEndBody
  grind only [State.addDueOnce_mem, afterMove_wf, State.setCluster_mem, startStubs_mem, endCalm_mem, wakeTile_mem]
@[simp] theorem acceptClearance_wf (q : Req) (i k rect left : Nat) (d : List Byte) : WfMem (acceptClearance s q i k rect left d).2 := by
  unfold acceptClearance
  dsimp only
  rw [WfMem, State.addDueOnce_mem, State.addDueOnce_mem, foldl_mem (fun u b => State.addDueOnce_mem u _)]
  apply discardTasks_wf
  show Memory.wf (List.foldl dropCalming s.fresh.2 (rectClusters rect)).mem = true
  rwa [foldl_mem dropCalming_mem, State.fresh_mem]
theorem clrpostBody_wf (a b c : Reg) : Ends StopWf WfMem (clrpostBody a b c s) := by
  unfold clrpostBody
  grind only [alu_mem, coreLoad_wf, acceptClearance_wf, Ends_ok, Ends_error, StopWf]
@[simp] theorem backstopBody_wf (id : Nat) : WfMem (backstopBody s id) := by
  unfold backstopBody
  grind only [State.addDueOnce_mem, discardTasks_wf]
@[simp] theorem writeSystem_wf (n t va : Nat) (bs : List Byte) : WfMem (writeSystem s n t va bs) := by
  refine foldl_wf (fun u k hu => ?_) _ hs
  have h := tileTranslate_wf hu n t .image .write ((va + 64 * k) % 2 ^ 54)
  split
  · exact hu
  · next e =>
    apply putPhys_wf
    exact h.ok e
theorem readSystem_wf (n t va len : Nat) : ∀ v ∈ readSystem s n t va len, WfMem v.2 := by
  refine foldl_keeps (fun r : Option (List Byte × State) => ∀ v ∈ r, WfMem v.2) _ (fun r k h => ?_) _ _ (by rintro v ⟨⟩; exact hs)
  split
  · simp
  · next l u =>
    have ht := tileTranslate_wf (h _ rfl) n t .image .read ((va + 64 * k) % 2 ^ 54)
    split
    · simp
    · next e =>
      rintro v ⟨⟩
      simpa [WfMem] using ht.ok e
@[simp] theorem thin_wf (t h : Nat) : WfMem (thin s t h) := by
  unfold thin
  dsimp only
  have hz : WfMem ((s.tile t).allocs.foldl (fun s a => if a.handle = h then zeroLines s (spadBase t + a.off) a.size else s) s) := by
    refine foldl_wf (fun u a hu => ?_) _ hs
    split
    · exact zeroLines_wf _ _ _ hu
    · exact hu
  rw [WfMem, foldl_mem (fun u c => State.setCtx_mem u t c {}), State.setTile_mem, dropEntries_mem]
  exact hz
@[simp] theorem sealBlock_wf (h : Nat) (b : Block) : WfMem (sealBlock s h b) := by
  unfold sealBlock
  grind only [randomBytes_mem, writeSystem_wf, thin_wf, State.setBlock_mem]
@[simp] theorem writeReport_wf (x : Clearance) (va : Nat) (bs : List Byte) : WfMem (writeReport s x va bs) := by
  unfold writeReport
  refine foldl_keeps (fun r : State × List Byte => WfMem r.1) _ (fun r g h => ?_) _ _ hs
  dsimp only
  repeat' split
  · exact putPhys_wf _ _ _ h
  · exact h
  · rw [WfMem, spreadInvalidations_mem]
    exact putPhys_wf _ _ _ h
  · exact h
  · exact h
@[simp] theorem reportBlock_wf (id : Nat) (x : Clearance) (h outcome queued : Nat) : WfMem (reportBlock s id x h outcome queued) := by
  unfold reportBlock
  grind only [writeReport_wf]
omit hs in
theorem settleBlock_wf (s : State) (t : Nat) (l : List (Nat × Ctx)) (hs : WfMem s) : ∀ u ∈ settleBlock s t l, WfMem u := by
  induction l generalizing s with
  | nil =>
    rintro u ⟨⟩
    exact hs
  | cons x r ih =>
    obtain ⟨c, x⟩ := x
    unfold settleBlock
    split
    · split
      · simp
      · next v e =>
        have hw := switchOut_wf v t c (boundary_wf hs t c v e)
        dsimp only
        generalize switchOut v t c = w at hw ⊢
        split
        · exact ih _ (trapImage_wf _ _ _ _ hw)
        · exact ih _ (by rwa [WfMem, slotFreed_mem, State.setCtx_mem])
    · have hw := switchOut_wf s t c hs
      dsimp only
      generalize switchOut s t c = w at hw ⊢
      refine ih _ ?_
      split
      · exact ite_wf (trapImage_wf _ _ _ _ hw) hw
      · exact hw
@[simp] theorem evictionBody_wf (h : Nat) : WfMem (evictionBody s h) := by
  unfold evictionBody
  split
  · exact hs
  · next b _ =>
    have h := settleBlock_wf s b.tile (blockContexts s b.tile h) hs
    split
    · split
      · rwa [WfMem, State.addDueOnce_mem]
      · exact hs
    · split
      · next u _ _ e _ =>
        have hf := flushBlocks_wf (h u e) b.tile fun d => d.tp && d.tenant == b.tenant
        dsimp only
        apply reportBlock_wf
        apply sealBlock_wf
        exact hf
      · next e _ => exact h _ e
      · rwa [WfMem, State.addDueOnce_mem]
@[simp] theorem clearedBody_wf (id : Nat) : WfMem (clearedBody s id) := by
  unfold clearedBody
  split
  · exact hs
  · split
    · exact hs
    · split
      · rwa [WfMem, State.addDueOnce_mem]
      · dsimp only
        rw [WfMem, sendRecord_mem]
        refine foldl_wf (fun u p hu => ?_) _ hs
        split
        · split
          · exact hu
          · exact reportBlock_wf hu _ _ _ _ _
        · exact hu
@[simp] theorem thaw_wf (h : Nat) (b : Block) (z : Frozen) (t : Nat) : WfMem (thaw s h b z t) := by
  unfold thaw
  extract_lets m f x sends tags zreqs s1 s2 s3 s4 s5 s6 s7
  have h2 : s2.mem = s.mem := (foldl_mem (fun _ _ => State.setCtx_mem _ _ _ _) _ _).trans rfl
  have h3 : WfMem s3 := foldl_keeps (fun m => Memory.wf m = true) _ (fun m l h => memWrites_wf _ _ _ h) _ _ (by rwa [h2])
  have h5 : s5.mem = s3.mem := (foldl_mem (fun _ _ => pushEntry_mem _ _ _) _ _).trans rfl
  have h6 : s6.mem = s5.mem := foldl_mem (fun _ _ => State.addDueOnce_mem _ _) _ _
  have h7 : s7.mem = s6.mem := foldl_mem (fun u e => by split <;> simp) _ _
  rw [WfMem, wakeTile_mem, dropStale_mem, h7, h6, h5]
  exact h3
@[simp] theorem blockRestoredBody_wf (h : Nat) : WfMem (blockRestoredBody s h) := by
  unfold blockRestoredBody
  split
  · simpa [WfMem] using hs
  · split
    · simpa [WfMem] using hs
    · split
      · split
        · simpa [WfMem] using hs
        · split
          · next e =>
            have hr := readSystem_wf hs _ _ _ _ _ e
            split
            · simpa [WfMem] using thaw_wf hr _ _ _ _
            · simpa [WfMem] using hr
          · simpa [WfMem] using hs
      · simpa [WfMem] using hs
theorem sliceBoundary_wf (t : Nat) (l : List (Nat × Ctx)) : ∀ u ∈ sliceBoundary s t l, WfMem u := by
  refine foldl_keeps (fun r : Option State => ∀ u ∈ r, WfMem u) _ (fun r p h => ?_) _ _ (by rintro u ⟨⟩; exact hs)
  cases r with
  | none => simp
  | some v =>
    dsimp only [Option.bind_some]
    split
    · exact boundary_wf (h v rfl) _ _
    · exact h
@[simp] theorem setAside_wf (t c k : Nat) : WfMem (setAside s t c k) := by
  unfold setAside
  grind only [endInterval_wf, vectorLeave_wf, State.setCtx_mem, trapImage_wf, slotFreed_mem]
@[simp] theorem endSliceOf_wf (t : Nat) (l : List (Nat × Ctx)) : WfMem (endSliceOf s t l) := by
  unfold endSliceOf
  dsimp only
  exact discardTasks_wf (foldl_wf (fun u p hu => setAside_wf hu _ _ _) _ hs) _
@[simp] theorem nextSlice_wf (t : Nat) : WfMem (nextSlice s t) := by
  unfold nextSlice
  dsimp only
  rw [WfMem, slotFreed_mem, foldl_mem (fun u p => by simp)]
  exact hs
@[simp] theorem sliceEndBody_wf (t : Nat) : WfMem (sliceEndBody s t) := by
  have hagain : ∀ u, WfMem u → WfMem (if sliced u (clusterOf t) then u.addDueOnce (.sliceEnd t) else u) := by
    intro u hu
    split
    · simpa [WfMem] using hu
    · exact hu
  unfold sliceEndBody
  extract_lets again l
  split
  · exact hagain _ hs
  · split
    · exact hagain _ hs
    · next e =>
      have hu := sliceBoundary_wf hs t _ _ e
      split
      · exact hagain _ (nextSlice_wf (endSliceOf_wf hu _ _) _)
      · exact hagain _ hu

end

end Sys2Proof.Machine
end

section
/-! PROOFS, canonical memory in island cores, debugging and resume packets (R185, R186). -/

namespace Sys2Proof.Machine

/-! ## Island instructions and fault queues -/

@[simp] theorem setGranted_mem (s : State) (i k : Nat) (b : Bool) : (setGranted s i k b).mem = s.mem := by
  unfold setGranted
  split <;> rfl
@[simp] theorem coreAs_mem (s : State) (i k t : Nat) : (coreAs s i k t).mem = s.mem := rfl
@[simp] theorem leaveException_mem (s : State) (i k : Nat) : (leaveException s i k).mem = s.mem := by simp [leaveException]
@[simp] theorem sendInval_mem (s : State) (i k : Nat) (v : Inval) : (sendInval s i k v).mem = s.mem := rfl
@[simp] theorem afterAppend_mem (s : State) (i t : Nat) (r : FaultRecord) (wasEmpty : Bool) : (afterAppend s i t r wasEmpty).mem = s.mem := by
  unfold afterAppend
  grind only [State.setIsland_mem, State.addDueOnce_mem, sendRecord_mem]
@[simp] theorem holdRecord_mem (s : State) (i : Nat) (r : FaultRecord) : (holdRecord s i r).mem = s.mem := by simp [holdRecord]
@[simp] theorem qeventBody_mem (s : State) (i t : Nat) : (qeventBody s i t).mem = s.mem := by
  unfold qeventBody
  grind only [State.setIsland_mem, State.addDueOnce_mem, enterException_mem]
@[simp] theorem withRegion_mem (s : State) (t : Nat) (r : Option Nat) : (withRegion s t r).mem = s.mem := rfl
section
variable {s : State} (hs : WfMem s)
include hs

theorem eretBody_wf (i k : Nat) : Ends StopWf WfMem (eretBody i k s) := by
  unfold eretBody
  grind only [leaveException_mem, State.setCore_mem, checkTarget_wf, coreAs_mem, State.jump_mem, enterException_mem, Ends_ok, Ends_error, StopWf]
theorem tlbinvBody_wf (b c : Reg) (i k : Nat) : Ends StopWf WfMem (tlbinvBody b c i k s) := by
  unfold tlbinvBody
  grind only [sendInval_mem, State.retire_mem, Ends_ok, Ends_error, StopWf]
@[simp] theorem applyInval_wf (v : Inval) : WfMem (applyInval s v) := by
  unfold applyInval
  dsimp only
  exact foldl_wf (fun u t hu => flushBlocks_wf hu t _) _ hs
theorem splinterBody_wf (b c : Reg) (i k : Nat) : Ends StopWf WfMem (splinterBody b c i k s) := by
  have hx := fun q p => checkNow_wf hs q .write p 8
  have hy := fun (u : State) (hu : WfMem u) q p bs => coreStore_wf hu q p bs
  unfold splinterBody
  generalize checkNow = res at hx ⊢
  revert res
  refine id fun res hx => ?_
  generalize coreStore = store at hy ⊢
  revert store
  refine id fun store hy => ?_
  extract_lets g p q stage lv new
  split
  · trivial
  · split
    · trivial
    · split
      · next e => exact (hx q p).error e
      · next u e =>
        have hu := (hx q p).ok e
        have hm : ∀ xs, WfMem (meetPlaces u q xs) := fun xs => by simpa [WfMem] using hu
        dsimp only
        split
        · trivial
        · split
          · trivial
          · split
            · trivial
            · split
              · next e => exact (hy _ (hm _) _ _ _).error e
              · next e =>
                have hv := (hy _ (hm _) _ _ _).ok e
                split
                · next e => exact (hy _ hv _ _ _).error e
                · next e => simpa [WfMem] using (hy _ hv _ _ _).ok e
omit hs in
@[simp] theorem putPieces_wf (s : State) (l : List (Nat × Nat)) (bs : List Byte) (hs : WfMem s) : WfMem (putPieces s l bs) := by
  induction l generalizing s bs with
  | nil => exact hs
  | cons x r ih => exact ih _ _ (putPhys_wf _ _ _ hs)
@[simp] theorem appendAt_wf (i t : Nat) (l : List (Nat × Nat)) (r : FaultRecord) : WfMem (appendAt s i t l r) := by
  unfold appendAt
  grind only [putPieces_wf, afterAppend_mem, State.setIsland_mem]
omit hs in
@[simp] theorem deliverRecord_wf (s : State) (i n t : Nat) (r : FaultRecord) (hs : WfMem s) : WfMem (deliverRecord s i n t r) := by
  induction n generalizing t r with
  | zero => simpa [deliverRecord, WfMem] using hs
  | succ n ih =>
    have hup : ∀ r, WfMem (if t = 0 then holdRecord s i r else deliverRecord s i n (parentOf t) (withKindBit r 7)) := by
      intro r
      split
      · simpa [WfMem] using hs
      · exact ih _ _
    unfold deliverRecord
    dsimp only
    split
    · split
      · exact appendAt_wf hs _ _ _ _
      · exact hup _
    · exact hup _
@[simp] theorem faultQueueBody_wf (i : Nat) : WfMem (faultQueueBody s i) := by
  unfold faultQueueBody
  grind only [deliverRecord_wf, State.setIsland_mem, State.addDue_mem]
@[simp] theorem heldBody_wf (i : Nat) : WfMem (heldBody s i) := by
  unfold heldBody
  grind only [deliverRecord_wf, State.setIsland_mem, State.addDueOnce_mem]
@[simp] theorem emptyTile_wf (t : Nat) : WfMem (emptyTile s t) := by
  unfold emptyTile
  dsimp only
  refine zeroLines_wf _ _ _ ?_
  rw [State.setTile_mem]
  refine foldl_wf (fun u e hu => ?_) _ (foldl_wf (fun u e hu => writeBackLine_wf _ _ _ _ hu) _ (flushBlocks_wf hs _ _))
  split
  · exact writeAcc_wf _ _ _ _ hu
  · exact hu
omit hs in
theorem changeWorlds_wf (s s' : State) (cs : List Nat) (hs : WfMem s') : Ends StopWf WfMem (changeWorlds s s' cs) := by
  unfold changeWorlds
  dsimp only
  split
  · exact foldl_wf (fun u t hu => emptyTile_wf hu t) _ hs
  · trivial
theorem rgsetBody_wf (b : Reg) (i k : Nat) : Ends StopWf WfMem (rgsetBody b i k s) := by
  unfold rgsetBody
  grind only [withRegion_mem, changeWorlds_wf, State.retire_mem, Ends_ok, Ends_error, StopWf]
theorem grantBody_wf (b c : Reg) (i k : Nat) : Ends StopWf WfMem (grantBody b c i k s) := by
  generalize hbody : grantBody = body
  delta grantBody at hbody
  subst hbody
  beta_reduce
  extract_lets -underBinder g v me t r
  split
  · trivial
  · split
    · trivial
    · split
      · trivial
      · simpa [WfMem] using hs
omit hs in
theorem debugTarget_wf (i k : Nat) (b : Reg) : Ends StopWf (fun _ => True) (debugTarget s i k b) := by
  unfold debugTarget
  grind only [Ends_ok, Ends_error, StopWf]
@[simp] theorem haltContext_wf (t c : Nat) : WfMem (haltContext s t c) := by
  unfold haltContext
  grind only [switchOut_wf, State.setCtx_mem, trapImage_wf, slotFreed_mem, dropAccs_mem]
@[simp] theorem calmHalt_wf (t c : Nat) : WfMem (calmHalt s t c) := by
  unfold calmHalt
  grind only [switchOut_wf, State.setCtx_mem, trapImage_wf, slotFreed_mem]
theorem dhaltBody_wf (b : Reg) (i k : Nat) : Ends StopWf WfMem (dhaltBody b i k s) := by
  have h := debugTarget_wf (s := s) i k b
  unfold dhaltBody
  split
  · next e => exact h.error e
  · next t c _ =>
    dsimp only
    split
    · trivial
    · split
      · exact calmHalt_wf hs _ _
      · split
        · simpa [WfMem] using hs
        · simpa [WfMem] using hs
        · simpa [WfMem] using hs
        · split
          · next e => exact haltContext_wf (boundary_wf hs t c _ e) _ _
          · trivial
        · exact haltContext_wf hs _ _
        · exact haltContext_wf hs _ _
        · trivial
@[simp] theorem beginStep_wf (i k t c : Nat) : WfMem (beginStep s i k t c) := by
  unfold beginStep
  grind only [fillLine_wf, trapImage_wf, State.setCtx_mem, State.retire_mem, enqueue_mem, State.setCore_mem, Ends_ok]
theorem dstepBody_wf (b : Reg) (i k : Nat) : Ends StopWf WfMem (dstepBody b i k s) := by
  unfold dstepBody
  grind only [State.setCore_mem, State.retire_mem, debugTarget_wf, beginStep_wf, Ends_ok, Ends_error, StopWf]
theorem fillLines_wf (t c : Nat) (l : List Nat) : Ends (fun _ => True) WfMem (fillLines s t c l) := by
  refine foldl_ends (fun _ _ => rfl) (fun u k hu => ?_) _ hs
  show Ends _ WfMem (fillLine u t c k)
  exact fillLine_wf hu t c k
@[simp] theorem resumeHalted_wf (t c : Nat) : WfMem (resumeHalted s t c) := by
  unfold resumeHalted
  grind only [fillLines_wf, trapImage_wf, discardTasks_wf, enqueue_mem, Ends_ok]

end

/-! ## Contexts and resume packets -/

@[simp] theorem passCode_mem (s : State) (a : Agent) (pc : Nat) : (passCode s a pc).mem = s.mem := by
  unfold passCode
  grind only [setZreq_mem]
@[simp] theorem slotTakenBody_mem (s : State) (t : Nat) : (slotTakenBody s t).mem = s.mem := by
  unfold slotTakenBody
  grind only [State.setCtx_mem, fillsDue_mem, clampSlice_mem, State.addDueOnce_mem]
section
variable {s : State} (hs : WfMem s)
include hs

@[simp] theorem codeFetchBody_wf (a : Agent) : WfMem (codeFetchBody s a) := by
  unfold codeFetchBody
  dsimp only
  split
  · exact hs
  · have h := readCodeLine_wf hs a (s.regsOf a).pc.toNat
    split
    · next e =>
      rw [e] at h
      split <;> simpa [WfMem] using h
    · exact hs
    · exact asAgent_wf _ _ _ (fun u hu => raise_wf _ _ hu) hs
@[simp] theorem cacheFillBody_wf (t c k : Nat) : WfMem (cacheFillBody s t c k) := by
  unfold cacheFillBody
  grind only [fillLine_wf, clampSlice_mem, trapImage_wf, Ends_ok]
theorem fillVector_wf (t c : Nat) : Ends (fun _ => True) WfMem (fillVector s t c) := by
  unfold fillVector
  grind only [readImage_wf, beatsDue_mem, State.setCtx_mem, Ends_ok, Ends_error]
theorem fillMatrix_wf (t c : Nat) : Ends (fun _ => True) WfMem (fillMatrix s t c) := by
  unfold fillMatrix
  grind only [readImage_wf, State.setCtx_mem, Ends_ok, Ends_error]
theorem copyBack_wf (t c off n : Nat) : Ends (fun _ => True) WfMem (copyBack s t c off n) := by
  unfold copyBack
  grind only [readImage_wf, writeImage_wf, Ends_ok, Ends_error]
omit hs in
theorem copyAccs_wf (t c : Nat) (l : List Nat) (s : State) (hs : WfMem s) : Ends (fun _ => True) WfMem (copyAccs t c l s) := by
  have hx := fun (u : State) (hu : WfMem u) off n => copyBack_wf hu t c off n
  delta copyAccs copyAccs._f
  generalize copyBack = copy at hx ⊢
  revert copy
  refine id fun copy hx => ?_
  induction l generalizing s with
  | nil => exact hs
  | cons k r ih =>
    show Ends _ _ (match copy s t c (4096 * k) 4096 with
      | .error f => .error f
      | .ok s => _)
    split
    · trivial
    · next e => exact ih _ ((hx s hs _ _).ok e)
theorem reloadMatrix_wf (t c : Nat) : Ends (fun _ => True) WfMem (reloadMatrix s t c) := by
  unfold reloadMatrix
  grind only [copyBack_wf, fillMatrix_wf, State.setCtx_mem, copyAccs_wf, Ends_ok]
@[simp] theorem extensionBody_wf (t c : Nat) : WfMem (extensionBody s t c) := by
  unfold extensionBody
  grind only [fillVector_wf, trapImage_wf, reloadMatrix_wf, fillMatrix_wf, Ends_ok]
theorem takeUp_wf (t c : Nat) : Ends (fun _ => True) WfMem (takeUp s t c) := by
  unfold takeUp
  grind only [fillLines_wf, State.setCtx_mem, Ends_ok]
@[simp] theorem continueWith_wf (t c : Nat) (r : Regs) : WfMem (continueWith s t c r) := by
  unfold continueWith
  grind only [State.setCtx_mem, haltContext_wf, enqueue_mem]
omit hs in
theorem onTrapped_wf (s : State) (tenant h tid : Nat) (packet : Instr) (f : State → Nat → Nat → State) (hs : WfMem s) (hf : ∀ u t c, WfMem u → WfMem (f u t c)) :
    WfMem (onTrapped s tenant h tid packet f) := by
  unfold onTrapped
  split
  · simpa [WfMem] using hs
  · split
    · split
      · exact hf _ _ _ hs
      · exact hs
    · exact hs
omit hs in
theorem afterTakeUp_wf (s : State) (t c : Nat) (f : State → State) (hs : WfMem s) (hf : ∀ u, WfMem u → WfMem (f u)) :
    WfMem (afterTakeUp s t c f) := by
  have h := takeUp_wf hs t c
  unfold afterTakeUp
  split
  · exact trapImage_wf _ _ _ _ hs
  · next e => exact hf _ (h.ok e)
@[simp] theorem refuseRedirect_wf (t c : Nat) : WfMem (refuseRedirect s t c) := by
  have hw : ∀ x : Ctx, WfMem (switchOut (s.setCtx t c x) t c).1 := fun x => switchOut_setCtx_wf s t c x hs
  unfold refuseRedirect
  dsimp only
  split
  · exact trapImage_wf _ _ _ _ (hw _)
  · rw [WfMem, sendTrap_mem]
    exact hw _
@[simp] theorem discardContext_wf (t c : Nat) : WfMem (discardContext s t c) := by
  unfold discardContext
  dsimp only
  split
  · exact discardTasks_wf hs _
  · rwa [WfMem, slotFreed_mem, dropAccs_mem, State.setCtx_mem]

end

end Sys2Proof.Machine
end

section
/-! PROOFS, canonical memory in seals, the edge and bring-up (R185, R186). -/

namespace Sys2Proof.Machine

/-! ## Seals and evidence -/

@[simp] theorem evidence_mem (s : State) (f : Nat) (user : List Byte) : (evidence s f user).2.mem = s.mem := rfl
@[simp] theorem answerHost_mem (s : State) (f : Nat) (bytes : List Byte) : (answerHost s f bytes).mem = s.mem := rfl
section
variable {s : State} (hs : WfMem s)
include hs

theorem wswBody_wf (b : Reg) (_i _k : Nat) : Ends StopWf WfMem (wswBody b _i _k s) := by
  unfold wswBody
  dsimp only
  split
  · trivial
  · split
    · trivial
    · split
      · trivial
      · have h := fun x cs => changeWorlds_wf s (s.setTenant (fld (s.getG b) 23 12 * 4096) x) cs hs
        split
        · next e => exact (h _ _).error e
        · next e => simpa [WfMem] using (h _ _).ok e
omit hs in
theorem sealFrom_wf (q : Req) (src dst : Word) (enc : Nat) (mac nonce : List Byte) (l n f i p : Nat) (m : List Byte) (s : State) (hs : WfMem s) :
    Ends (fun e => WfMem e.1 ∧ StopWf e.2) WfMem (sealFrom q src dst enc mac nonce l n f i p m s) := by
  have hx := fun (u : State) (hu : WfMem u) p n => coreLoad_wf hu q p n
  have hy := fun (u : State) (hu : WfMem u) p bs => coreStore_wf hu q p bs
  delta sealFrom sealFrom._f
  generalize coreLoad = load at hx ⊢
  revert load
  refine id fun load hx => ?_
  generalize coreStore = store at hy ⊢
  revert store
  refine id fun store hy => ?_
  induction f generalizing i p m s with
  | zero => exact hs
  | succ f ih =>
    show Ends _ _ (match load s q (ptrAt src (65536 * i)) (min 65536 (l - 65536 * i)) with
      | .error e => .error (s, e)
      | .ok (b, s) => match store s q (ptrAt dst p) (cryptChunk enc nonce i b) with
        | .error e => .error (s, e)
        | .ok s => match store s q (ptrAt dst (p + min 65536 (l - 65536 * i))) (chunkMac mac m (cryptChunk enc nonce i b) i n) with
          | .error e => .error (s, e)
          | .ok s => _)
    split
    · next e => exact ⟨hs, (hx s hs _ _).error e⟩
    · next b u e =>
      have hu := (hx s hs _ _).ok e
      split
      · next e => exact ⟨hu, (hy u hu _ _).error e⟩
      · next v e =>
        have hv := (hy u hu _ _).ok e
        split
        · next e => exact ⟨hv, (hy v hv _ _).error e⟩
        · next w e => exact ih _ _ _ _ ((hy v hv _ _).ok e)
theorem sealRun_wf (q : Req) (src dst : Word) (t l : Nat) : Ends (fun e => WfMem e.1 ∧ StopWf e.2) WfMem (sealRun q src dst t l s) := by
  have hy := fun (u : State) (hu : WfMem u) p bs => coreStore_wf hu q p bs
  generalize hbody : sealRun = body
  delta sealRun at hbody
  subst hbody
  generalize coreStore = store at hy ⊢
  revert store
  refine id fun store hy => ?_
  dsimp only
  have hn : WfMem (randomBytes s).2 := by rwa [WfMem, randomBytes_mem]
  split
  · next e => exact ⟨hn, (hy _ hn _ _).error e⟩
  · next u e =>
    have hu := (hy _ hn _ _).ok e
    split
    · next e => exact ⟨hu, (hy u hu _ _).error e⟩
    · next v e => exact sealFrom_wf _ _ _ _ _ _ _ _ _ _ _ _ v ((hy u hu _ _).ok e)
omit hs in
theorem endPartial_wf (r : Partial) (done : State → State) (hr : Ends (fun e => WfMem e.1 ∧ StopWf e.2) WfMem r) (hd : ∀ u, WfMem u → WfMem (done u)) :
    Ends StopWf WfMem (endPartial r done) := by
  unfold endPartial
  split
  · exact hd _ hr
  · exact raise_wf _ _ hr.1
  · exact hr.2
theorem sealBody_wf (a b c : Reg) (i k : Nat) : Ends StopWf WfMem (sealBody a b c i k s) := by
  unfold sealBody
  extract_lets g l t q src dst
  split
  · trivial
  · split
    · trivial
    · split
      · trivial
      · exact endPartial_wf _ _ (sealRun_wf hs _ _ _ _ _) (fun u hu => by simpa [WfMem] using hu)
omit hs in
theorem unsealFrom_wf (q : Req) (src dst : Word) (enc : Nat) (mac nonce : List Byte) (l n f i p : Nat) (m : List Byte) (s : State) (hs : WfMem s) :
    Ends (fun e => WfMem e.1 ∧ StopWf e.2) (fun r => WfMem r.1) (unsealFrom q src dst enc mac nonce l n f i p m s) := by
  have hx := fun (u : State) (hu : WfMem u) p n => coreLoad_wf hu q p n
  have hy := fun (u : State) (hu : WfMem u) p bs => coreStore_wf hu q p bs
  delta unsealFrom unsealFrom._f
  generalize coreLoad = load at hx ⊢
  revert load
  refine id fun load hx => ?_
  generalize coreStore = store at hy ⊢
  revert store
  refine id fun store hy => ?_
  induction f generalizing i p m s with
  | zero => exact hs
  | succ f ih =>
    show Ends _ _ (match load s q (ptrAt src p) (min 65536 (l - 65536 * i) + 32) with
      | .error e => .error (s, e)
      | .ok (b, s) =>
        if chunkMac mac m (b.take (min 65536 (l - 65536 * i))) i n ≠ b.drop (min 65536 (l - 65536 * i)) then .ok (s, some i)
        else match store s q (ptrAt dst (65536 * i)) (cryptChunk enc nonce i (b.take (min 65536 (l - 65536 * i)))) with
          | .error e => .error (s, e)
          | .ok s => _)
    split
    · next e => exact ⟨hs, (hx s hs _ _).error e⟩
    · next b u e =>
      have hu := (hx s hs _ _).ok e
      split
      · exact hu
      · split
        · next e => exact ⟨hu, (hy u hu _ _).error e⟩
        · next v e => exact ih _ _ _ _ ((hy u hu _ _).ok e)
omit hs in
theorem zeroChunks_wf (q : Req) (dst : Word) (n : Nat) (s : State) (hs : WfMem s) :
    Ends (fun e => WfMem e.1 ∧ StopWf e.2) WfMem (zeroChunks q dst n s) := by
  have hy := fun (u : State) (hu : WfMem u) p bs => coreStore_wf hu q p bs
  delta zeroChunks zeroChunks._f
  generalize coreStore = store at hy ⊢
  revert store
  refine id fun store hy => ?_
  induction n generalizing s with
  | zero => exact hs
  | succ n ih =>
    show Ends _ _ (match (_ : Partial) with
      | .error e => .error e
      | .ok s => match store s q (ptrAt dst (65536 * n)) (List.replicate 65536 0) with
        | .error e => .error (s, e)
        | .ok s => .ok s)
    split
    · next e => exact (ih s hs).error e
    · next u e =>
      have hu := (ih s hs).ok e
      split
      · next e => exact ⟨hu, (hy u hu _ _).error e⟩
      · next e => exact (hy u hu _ _).ok e
theorem unsealRun_wf (q : Req) (src dst : Word) (t cap : Nat) (h : List Byte) :
    Ends (fun e => WfMem e.1 ∧ StopWf e.2) (fun r => WfMem r.2) (unsealRun q src dst t cap h s) := by
  unfold unsealRun
  extract_lets w d l n
  split
  · exact hs
  · split
    · exact hs
    · have h := unsealFrom_wf q src dst (sealEnc w d t) (sealMac w d t) ((h.drop 32).take 32) l (chunkCount l) (chunkCount l) 0 96 (h.drop 64) s hs
      split
      · next e => exact h.error e
      · next e => exact h.ok e
      · next u j e =>
        have hz := zeroChunks_wf q dst j u (h.ok e)
        split
        · next e => exact hz.error e
        · next e => exact hz.ok e
theorem unsealBody_wf (a b c : Reg) (i k : Nat) : Ends StopWf WfMem (unsealBody a b c i k s) := by
  unfold unsealBody
  extract_lets -underBinder g cap t q src dst
  have h := coreLoad_wf hs q src 96
  split
  · trivial
  · split
    · trivial
    · split
      · trivial
      · split
        · next e => exact h.error e
        · next hd u e =>
          have hr := unsealRun_wf (h.ok e) q src dst t cap hd
          split
          · next e => exact endPartial_wf _ _ (hr.error e) (fun _ hu => hu)
          · next e => simpa [WfMem] using hr.ok e
theorem evsignBody_wf (a b c : Reg) (i k : Nat) : Ends StopWf WfMem (evsignBody a b c i k s) := by
  unfold evsignBody
  grind only [coreLoad_wf, evidence_mem, coreStore_wf, alu_mem, Ends_ok, Ends_error, StopWf]
@[simp] theorem sweepBody_wf (region : Nat) : WfMem (sweepBody s region) := by
  unfold sweepBody
  grind only [State.addDueOnce_mem, sweepRegion_wf, sendRecord_mem]

end

/-! ## The edge, the host and bring-up -/

@[simp] theorem checkpointBody_mem (s : State) (e k : Nat) : (checkpointBody s e k).mem = s.mem := by
  unfold checkpointBody
  grind only [State.setEdge_mem, State.addDueOnce_mem]
@[simp] theorem meetEmm_mem (s : State) (e : Nat) : (meetEmm s e).mem = s.mem := by
  exact foldl_mem meetLine_mem _ _
@[simp] theorem checkpointDone_mem (s : State) (e : Nat) : (checkpointDone s e).mem = s.mem := by
  unfold checkpointDone
  split <;> simp
@[simp] theorem slotRestoreBody_mem (s : State) (e k : Nat) : (slotRestoreBody s e k).mem = s.mem := by
  unfold slotRestoreBody
  grind only [State.setEdge_mem, State.addDueOnce_mem]
@[simp] theorem reply_mem (s : State) (fn code : Nat) (bytes : List Byte) : (reply s fn code bytes).mem = s.mem := rfl
@[simp] theorem blowFuse_mem (s : State) (p : Nat × Bool) : (blowFuse s p).mem = s.mem := by
  unfold blowFuse reachStage
  dsimp only
  split
  · split <;> rfl
  · rw [State.addDueOnce_mem]
@[simp] theorem romEnds_mem (s : State) : (romEnds s).mem = s.mem := by
  simp [romEnds, reachStage]
@[simp] theorem romRaises_mem (s : State) : (romRaises s).mem = s.mem := by
  unfold romRaises
  split <;> simp
@[simp] theorem romRuns_mem (s : State) : (romRuns s).mem = s.mem := by
  unfold romRuns reachStage
  dsimp only
  repeat' split
  all_goals simp
@[simp] theorem romBegins_mem (s : State) : (romBegins s).mem = s.mem := rfl
@[simp] theorem bootBody_mem (s : State) : (bootBody s).mem = s.mem := by
  unfold bootBody
  grind only [romRuns_mem, romBegins_mem]
@[simp] theorem writeDetour_mem (s : State) (p : Nat × Nat × Word) : (writeDetour s p).mem = s.mem := by
  unfold writeDetour
  split <;> rfl
@[simp] theorem writeTables_mem (s : State) : (writeTables s).mem = s.mem := rfl
section
variable {s : State} (hs : WfMem s)
include hs

@[simp] theorem edgeAccessBody_wf (p : Packet) : WfMem (edgeAccessBody p s) := by
  unfold edgeAccessBody
  grind only [dropPacket_mem, respond_mem, spreadInvalidations_mem, putPhys_wf, meetAt_mem]
@[simp] theorem restoreLines_wf (e m : Nat) (b : List Byte) : WfMem (restoreLines s e m b) := by
  unfold restoreLines
  dsimp only
  exact memWrites_wf _ _ _ (Memory.wf_filter _ _ hs)
@[simp] theorem restoreEmm_wf (e : Nat) (b : List Byte) : WfMem (restoreEmm s e b) := by
  unfold restoreEmm
  dsimp only
  generalize List.range _ = l
  revert l
  refine id fun l => ?_
  exact foldl_wf (fun u k hu => writePhys_wf _ _ _ hu) l (restoreLines_wf hs _ _ _)
@[simp] theorem abortRestore_wf (e : Nat) (b : List Byte) : WfMem (abortRestore s e b) := by
  unfold abortRestore
  grind only [zeroLines_wf, restoreEmm_wf]
@[simp] theorem restoreDone_wf (e : Nat) : WfMem (restoreDone s e) := by
  unfold restoreDone
  grind only [State.setEdge_mem, abortRestore_wf, restoreEmm_wf]
omit hs in
@[simp] theorem hostWrite_wf (s : State) (l : List (Nat × Nat)) (bs : List Byte) (hs : WfMem s) : WfMem (hostWrite s l bs) := by
  induction l generalizing s bs with
  | nil => exact hs
  | cons x r ih =>
    refine ih _ _ ?_
    rw [WfMem, spreadInvalidations_mem]
    exact putPhys_wf _ _ _ hs
@[simp] theorem writeWide_wf (pa : Nat) (b : List Byte) : WfMem (writeWide s pa b) := by
  unfold writeWide
  grind only [hostWrite_wf]
@[simp] theorem collpostBody_wf (a : Nat) : WfMem (collpostBody s a) := by
  unfold collpostBody
  grind only [meetAt_mem, writeWide_wf, State.addDueOnce_mem]
@[simp] theorem endCollective_wf (x : Collective) (result : List Byte) (status : Nat) : WfMem (endCollective s x result status) := by
  unfold endCollective
  grind only [writeWide_wf]
@[simp] theorem collectiveBody_wf (tag : Nat) : WfMem (collectiveBody s tag) := by
  unfold collectiveBody
  grind only [endCollective_wf]
omit hs in
theorem reachStage_wf (s : State) (stage error : Nat) (next : State → State) (hs : WfMem s) (hn : ∀ u, WfMem u → WfMem (next u)) :
    WfMem (reachStage s stage error next) := by
  unfold reachStage
  dsimp only
  split
  · exact hn _ hs
  · exact hs

end

end Sys2Proof.Machine
end

section
/-! PROOFS, canonical memory in interpolation tables and issue (R185, R186). -/

namespace Sys2Proof.Machine

/-! ## Interpolation tables -/

@[simp] theorem setBufs_mem (s : State) (t : Nat) (l : List IBuffer) : (setBufs s t l).mem = s.mem := rfl
@[simp] theorem setBuf_mem (s : State) (t : Nat) (b b' : IBuffer) : (setBuf s t b b').mem = s.mem := rfl
@[simp] theorem setSource_mem (s : State) (h n : Nat) (v : Nat × Nat) : (setSource s h n v).mem = s.mem := by
  unfold setSource
  split <;> rfl
@[simp] theorem shortenRange_mem (s : State) (req lines : Nat) : (shortenRange s req lines).mem = s.mem := rfl
@[simp] theorem dropLoad_mem (s : State) (t : Nat) (b : IBuffer) : (dropLoad s t b).mem = s.mem := by simp [dropLoad]
@[simp] theorem holdName_mem (s : State) (t : Nat) (b : IBuffer) : (holdName s t b).mem = s.mem := by simp [holdName]
@[simp] theorem freeName_mem (s : State) (h n : Nat) : (freeName s h n).mem = s.mem := rfl
@[simp] theorem endRefetch_mem (s : State) (t : Nat) (b : IBuffer) : (endRefetch s t b).mem = s.mem := by
  unfold endRefetch
  grind only [setSource_mem, holdName_mem, dropLoad_mem]
@[simp] theorem bufferUsed_mem (s : State) (t : Nat) (b : IBuffer) : (bufferUsed s t b).mem = s.mem := rfl
section
variable {s : State} (hs : WfMem s)
include hs

theorem startLoad_wf (t c n : Nat) (p : Word) (op : Option TableUse) : Ends StopWf WfMem (startLoad s t c n p op) := by
  unfold startLoad
  grind only [State.fresh_mem, registerRanges_mem, setBufs_mem, State.setCtx_mem, State.addDueOnce_mem, Ends_ok, Ends_error, StopWf]
theorem readHeader_wf (t c : Nat) (b : IBuffer) : Ends StopWf (fun r => WfMem r.2) (readHeader s t c b) := by
  unfold readHeader
  split
  · exact hs
  · grind only [engineRead_wf, holdStop_wf, shortenRange_mem, setBuf_mem, Ends_ok, Ends_error, StopWf]
theorem readSegments_wf (t c : Nat) (b : IBuffer) : Ends StopWf (fun r => WfMem r.2) (readSegments s t c b) := by
  unfold readSegments
  grind only [engineRead_wf, holdStop_wf, setBuf_mem, Ends_ok, Ends_error, StopWf]
@[simp] theorem endLoad_wf (t : Nat) (b : IBuffer) : WfMem (endLoad s t b) := by
  unfold endLoad
  grind only [setSource_mem, holdName_mem, freeName_mem, noteCompleted_wf]
theorem lookupWith_wf (img : List Byte) (u : TableUse) : Ends StopWf WfMem (lookupWith img u s) := by
  unfold lookupWith
  grind only [vecBody_wf, StopWf]
@[simp] theorem serveRefetch_wf (t c : Nat) (b : IBuffer) : WfMem (serveRefetch s t c b) := by
  have hr : ∀ u, WfMem u → Ends StopWf WfMem (b.op.elim (fun s => .ok s) (lookupWith b.image) u) := by
    intro u hu
    cases b.op with
    | none => exact hu
    | some op => exact lookupWith_wf hu _ _
  unfold serveRefetch
  extract_lets run
  have h := hr { s with cur := .thread t c } hs
  split
  · simpa [WfMem] using hs
  · next e => exact stopFor_wf _ _ _ _ _ (by simpa [WfMem] using hs) (h.error e)
  · refine completeFor_wf _ _ _ _ (by simpa [WfMem] using hs) (fun u hu => ?_)
    split
    · next e => exact (hr u hu).ok e
    · exact hu
@[simp] theorem loadBody_wf (t h n : Nat) (refetch : Bool) : WfMem (loadBody s t h n refetch) := by
  unfold loadBody
  extract_lets again
  have ha : ∀ u, WfMem u → WfMem (again u) := fun u hu => by simpa [again, WfMem] using hu
  split
  · exact hs
  · next b _ =>
    split
    · split
      · exact ha _ hs
      · exact endLoad_wf hs _ _
    · split
      · dsimp only
        split <;> simpa [WfMem, emptyName_mem] using hs
      · next c _ =>
        extract_lets fail
        have hf : ∀ u d st, WfMem u → StopWf st → WfMem (fail u d st) := by
          intro u d st hu hst
          cases st with
          | trap tr =>
            refine stopFor_wf _ _ _ _ _ ?_ trivial
            dsimp only
            split <;> simpa [WfMem, emptyName_mem] using hu
          | _ => exact ha u hu
        split
        · exact serveRefetch_wf hs _ _ _
        · split
          · exact ha _ hs
          · have h := readHeader_wf hs t c b
            split
            · next e => exact hf _ _ _ hs (h.error e)
            · next d u e =>
              have hu := h.ok e
              have h' := readSegments_wf hu t c d
              split
              · next e => exact hf _ _ _ hu (h'.error e)
              · next e =>
                have hv := h'.ok e
                split
                · exact serveRefetch_wf hv _ _ _
                · exact ha _ (completeFor_wf _ _ _ _ hv fun w hw => by simpa [WfMem] using hw)
theorem itldBody_wf (n b : Reg) : Ends StopWf WfMem (itldBody n b s) := by
  unfold itldBody
  grind only [raise_wf, emptyName_mem, startLoad_wf, Ends_ok, Ends_error, StopWf]
theorem lookupBody_wf (n : Reg) (u : TableUse) : Ends StopWf WfMem (lookupBody n u s) := by
  unfold lookupBody
  split
  · next t c _ =>
    extract_lets h
    split
    · trivial
    · split
      · trivial
      · split
        · next d _ =>
          have hl := lookupWith_wf hs d.image u
          split
          · next e => exact hl.error e
          · next e => simpa [WfMem] using hl.ok e
        · exact startLoad_wf hs _ _ _ _ _
  · exact hs
theorem itinvBody_wf (n : Reg) : Ends StopWf WfMem (itinvBody n s) := by
  unfold itinvBody
  grind only [emptyName_mem, State.retire_mem, Ends_ok, Ends_error, StopWf]
theorem itqBody_wf (a n : Reg) : Ends StopWf WfMem (itqBody a n s) := by
  unfold itqBody
  grind only [alu_mem, Ends_ok, Ends_error, StopWf]

end

/-! ## Issue and time -/

@[simp] theorem countSlice_mem (s₀ s : State) (t c : Nat) : (countSlice s₀ s t c).mem = s.mem := by
  unfold countSlice
  split <;> simp
@[simp] theorem noteSlot_mem (s₀ s : State) (t c k : Nat) : (noteSlot s₀ s t c k).mem = s.mem := by
  unfold noteSlot
  split <;> simp
@[simp] theorem noteTried_mem (s₀ s : State) (t c : Nat) : (noteTried s₀ s t c).mem = s.mem := by
  unfold noteTried
  split <;> rfl
@[simp] theorem noteIssue_mem (s s' : State) : (noteIssue s s').mem = s'.mem := by
  unfold noteIssue
  grind only [noteSlot_mem, noteTried_mem, State.setTile_mem]
@[simp] theorem noteBudgets_mem (s : State) : (noteBudgets s).mem = s.mem := by
  refine foldl_mem (fun u p => ?_) _ s
  split <;> simp
@[simp] theorem noteLimits_mem (s : State) : (noteLimits s).mem = s.mem := by
  refine foldl_mem (fun u p => foldl_mem (fun v r => ?_) _ u) _ s
  split <;> simp
@[simp] theorem noteSlices_mem (s : State) : (noteSlices s).mem = s.mem := by
  refine foldl_mem (fun u p => ?_) _ s
  split <;> simp
@[simp] theorem tick_mem (s : State) : (tick s).mem = s.mem := by simp [tick]
@[simp] theorem readyAt_mem (s : State) (a : Agent) : (readyAt s a).mem = s.mem := by
  unfold readyAt
  split <;> rfl
section
variable {s : State} (hs : WfMem s)
include hs

@[simp] theorem afterIssue_wf (w : Option Window) : WfMem (afterIssue s w) := by
  unfold afterIssue
  grind only [afterRetire_wf, State.setCtx_mem]

end

end Sys2Proof.Machine
end

section
/-! PROOFS, canonical memory in every instruction and engine step (R185, R186). -/

namespace Sys2Proof.Machine

/-! ## Instructions by their bodies -/

/-- Where an instruction or a step answers a next state, memory there has the canonical form. -/
def NextWf (o : Host.Outcome State Fault Refusal) : Prop := ∀ t, o = .next t → WfMem t
@[simp] theorem nextWf_next (t : State) : NextWf (.next t) ↔ WfMem t := ⟨fun h => h t rfl, fun h _ e => by cases e; exact h⟩
theorem StopWf.base {s : State} {st : Stop} (hs : WfMem s) (h : StopWf st) : Memory.wf (st.base s).mem = true := by
  cases st with
  | kept v tr => exact h
  | _ => exact hs
/-- An instruction answers a canonical memory where its body ends with one. -/
theorem runInstr_ends {p : Profile} {s : State} {body : State → Except Stop State} (hs : WfMem s) (hb : Ends StopWf WfMem (body s)) :
    NextWf (runInstr p s body) := fun _ h => runInstr_wf (fun _ e => hb.ok e) (fun _ e => StopWf.base hs (hb.error e)) hs h
theorem nextWf_of {t : State} (h : WfMem t) : NextWf (.next t) := (nextWf_next t).2 h
theorem runPriv_ends {e xm min : Nat} {right : Option Nat} {s : State} {body : Nat → Nat → State → Except Stop State} (hs : WfMem s)
    (hb : ∀ i k, Ends StopWf WfMem (body i k s)) : NextWf (runPriv e xm min right s body) := by
  refine runInstr_ends hs ?_
  split
  · next i k _ =>
    have h := hb i k
    refine ite_ends trivial (ite_ends trivial (ite_ends h ?_))
    split
    · next e => simpa [WfMem, setGranted_mem] using h.ok e
    · simpa [StopWf, setGranted_mem] using hs
    · next e => simpa [StopWf, setGranted_mem] using h.error e
    · next e => exact h.error e
  · exact hs
theorem execAlu_wf {s : State} (hs : WfMem s) (a : Reg) (f : State → Word) : NextWf (execAlu a f s) :=
  runInstr_ends hs (by simpa [WfMem] using hs)
theorem execVec_wf {s : State} (hs : WfMem s) (srcs : List Reg) (n : Nat) (f : State → List (List Vec) → VResult) : NextWf (execVec srcs n f s) :=
  runInstr_ends hs (vecBody_wf hs srcs n (f s))
theorem execBranch_wf {s : State} (hs : WfMem s) (cond : State → Bool) (loff : Int) (slot : Nat) : NextWf (execBranch cond loff slot s) :=
  runInstr_ends hs (branchIf_wf hs _ loff slot)
theorem execMat_wf {s : State} (hs : WfMem s) {f : Nat → Nat → State → Except Stop State} (hf : ∀ t c, Ends StopWf WfMem (f t c s)) :
    NextWf (execMat f s) :=
  runInstr_ends hs (matBody_wf f s hs hf)
theorem execLoad_wf {s : State} (hs : WfMem s) (a : Reg) (p : State → Word) (n : Nat) (signed : Bool) : NextWf (execLoad a p n signed s) :=
  runInstr_ends hs (loadInto_wf hs a (p s) n signed)
theorem execStore_wf {s : State} (hs : WfMem s) (a : Reg) (p : State → Word) (n : Nat) : NextWf (execStore a p n s) :=
  runInstr_ends hs (storeFrom_wf hs (s.getG a) (p s) n)
theorem execAmo_wf {s : State} (hs : WfMem s) (size : Fin 4) (op : Nat → Nat → Nat → Nat) (a b c : Reg) : NextWf (execAmo size op a b c s) :=
  runInstr_ends hs (amoBody_wf hs _ op a b c)
theorem execZreg_wf {s : State} (hs : WfMem s) (a : Reg) (f : ZReq → Word) : NextWf (execZreg a f s) :=
  runInstr_ends hs (zephyrBody_wf _ s hs fun t r => by simpa [WfMem, zput_mem] using hs)
theorem execZjump_wf {s : State} (hs : WfMem s) (cond : ZReq → Bool) (loff : Int) (slot : Nat) : NextWf (execZjump cond loff slot s) :=
  runInstr_ends hs (zephyrBody_wf _ s hs fun t r => ite_ends (takeTransfer_wf hs _ false false) (by simpa [WfMem] using hs))
theorem execRecordQuery_wf {s : State} (hs : WfMem s) (a b : Reg) (f : State → Nat → Nat → Word) : NextWf (execRecordQuery a b f s) := by
  refine runInstr_ends hs ?_
  split
  · next e => exact (queryRecord_wf b).error e
  · simpa [WfMem] using hs

/-! ## Instructions and steps, one by one -/

section
variable {s : State} (hs : WfMem s)
include hs

theorem execResume_wf (tenant handle tid : Nat) : NextWf (execResume tenant handle tid s) := by
  unfold execResume
  grind only [onTrapped_wf, afterTakeUp_wf, continueWith_wf, nextWf_next]
theorem execRedirect_wf (tenant handle tid : Nat) : NextWf (execRedirect tenant handle tid s) := by
  unfold execRedirect
  grind only [onTrapped_wf, afterTakeUp_wf, continueWith_wf, refuseRedirect_wf, nextWf_next]
theorem execDiscard_wf (tenant handle tid : Nat) : NextWf (execDiscard tenant handle tid s) := by
  unfold execDiscard
  grind only [State.addDueOnce_mem, discardContext_wf, nextWf_next]
theorem execHalt_wf (tenant handle tid : Nat) : NextWf (execHalt tenant handle tid s) := by
  unfold execHalt
  grind only [onTrapped_wf, afterTakeUp_wf, haltContext_wf, State.setCtx_mem, nextWf_next]
theorem execPresent_wf (tenant handle tid : Nat) : NextWf (execPresent tenant handle tid s) := by
  unfold execPresent
  grind only [State.addDueOnce_mem, afterTakeUp_wf, enqueue_mem, nextWf_next]
theorem execRetry_wf (tenant handle req fseq : Nat) : NextWf (execRetry tenant handle req fseq s) := by
  unfold execRetry
  grind only [answer_wf, nextWf_next]
theorem execContinue_wf (tenant handle req fseq : Nat) : NextWf (execContinue tenant handle req fseq s) := by
  unfold execContinue
  grind only [answer_wf, nextWf_next]
theorem execFail_wf (tenant handle req fseq status : Nat) : NextWf (execFail tenant handle req fseq status s) := by
  unfold execFail
  grind only [finishRequest_mem, nextWf_next]
theorem execIssueSlotTaken_wf (tile : Nat) : NextWf (execIssueSlotTaken tile s) := by
  rw [execIssueSlotTaken, nextWf_next, WfMem, slotTakenBody_mem]
  exact hs
theorem execPauseExpiry_wf (tile ctx : Nat) : NextWf (execPauseExpiry tile ctx s) := by
  unfold execPauseExpiry
  grind only [State.setCtx_mem, State.addDueOnce_mem, nextWf_next]
theorem execOverflowReturn_wf (island : Nat) : NextWf (execOverflowReturn island s) := by
  rw [execOverflowReturn, nextWf_next, WfMem, overflowBody_mem]
  exact hs
theorem execInvalidation_wf (tile line : Nat) : NextWf (execInvalidation tile line s) := by
  unfold execInvalidation
  grind only [setDcache_mem, nextWf_next]
theorem execClusterWindowAccess_wf (pkt : Nat) : NextWf (execClusterWindowAccess pkt s) := by
  unfold execClusterWindowAccess
  grind only [onPacket_wf, clusterAccessBody_wf, nextWf_next]
theorem execEdgeMemoryAccess_wf (pkt : Nat) : NextWf (execEdgeMemoryAccess pkt s) := by
  unfold execEdgeMemoryAccess
  grind only [onPacket_wf, edgeAccessBody_wf, nextWf_next]
theorem execPageWalk_wf (cluster tenant va access : Nat) : NextWf (execPageWalk cluster tenant va access s) := by
  have h := tileTranslate_wf hs cluster tenant .tile (accessOf access) (va % 2 ^ 54)
  unfold execPageWalk
  rw [nextWf_next]
  split
  · next e => exact h.ok e
  · exact hs
theorem execRequestDone_wf (tile entry : Nat) : NextWf (execRequestDone tile entry s) := by
  rw [execRequestDone, nextWf_next, WfMem, requestDoneBody_mem]
  exact hs
theorem execZlimit_wf (tile entry : Nat) : NextWf (execZlimit tile entry s) := by
  rw [execZlimit, nextWf_next, WfMem, zlimitBody_mem]
  exact hs
theorem execKpost_wf (island core tile addr : Nat) : NextWf (execKpost island core tile addr s) := by
  rw [execKpost, nextWf_next, WfMem, kpostBody_mem]
  exact hs
theorem execInjection_wf (tile : Nat) : NextWf (execInjection tile s) := by
  unfold execInjection
  grind only [injectBody_mem, nextWf_next]
theorem execHop_wf (pkt : Nat) : NextWf (execHop pkt s) := by
  unfold execHop
  grind only [onPacket_wf, hopBody_mem, nextWf_next]
theorem execRelay_wf (pkt : Nat) : NextWf (execRelay pkt s) := by
  unfold execRelay
  grind only [onPacket_wf, relayBody_mem, nextWf_next]
theorem execHandleCacheUpdate_wf (pkt : Nat) : NextWf (execHandleCacheUpdate pkt s) := by
  unfold execHandleCacheUpdate
  grind only [onPacket_wf, cacheHandle_mem, dropPacket_mem, nextWf_next]
theorem execMessageArrival_wf (pkt : Nat) : NextWf (execMessageArrival pkt s) := by
  unfold execMessageArrival
  grind only [onPacket_wf, messageBody_wf, nextWf_next]
theorem execMigrationArrival_wf (pkt : Nat) : NextWf (execMigrationArrival pkt s) := by
  unfold execMigrationArrival
  grind only [onPacket_wf, migrationBody_wf, nextWf_next]
theorem execAck_wf (pkt : Nat) : NextWf (execAck pkt s) := by
  unfold execAck
  grind only [onAnswer_wf, answeredBy_mem, recordAnswer_mem, nextWf_next]
theorem execNackBusy_wf (pkt : Nat) : NextWf (execNackBusy pkt s) := by
  unfold execNackBusy
  grind only [onAnswer_wf, setSends_mem, State.addDueOnce_mem, nextWf_next]
theorem execBackoffExpiry_wf (site : Site) (entry : Nat) : NextWf (execBackoffExpiry site entry s) := by
  rw [execBackoffExpiry, nextWf_next, WfMem, backoffBody_mem]
  exact hs
theorem execPoisonTail_wf (pkt : Nat) : NextWf (execPoisonTail pkt s) := by
  unfold execPoisonTail
  grind only [onPacket_wf, fabricFault_mem, dropPacket_mem, nextWf_next]
theorem execPlacement_wf (id : Nat) : NextWf (execPlacement id s) := by
  rw [execPlacement, nextWf_next, WfMem, placementBody_mem]
  exact hs
theorem execCounterComplete_wf (level id : Nat) : NextWf (execCounterComplete level id s) := by
  rw [execCounterComplete, nextWf_next, WfMem, counterBody_mem]
  exact hs
theorem execDeadline_wf (id : Nat) : NextWf (execDeadline id s) := by
  rw [execDeadline, nextWf_next, WfMem, deadlineBody_mem]
  exact hs
theorem execRotation_wf (cluster : Nat) : NextWf (execRotation cluster s) := by
  rw [execRotation, nextWf_next, WfMem, rotationBody_mem]
  exact hs
theorem execMoveAbandoned_wf (cluster : Nat) : NextWf (execMoveAbandoned cluster s) := by
  unfold execMoveAbandoned
  grind only [abandonMove_wf, State.addDueOnce_mem, nextWf_next]
theorem execStubRelease_wf (tile handle : Nat) : NextWf (execStubRelease tile handle s) := by
  rw [execStubRelease, nextWf_next, WfMem, stubReleaseBody_mem]
  exact hs
theorem execRestore_wf (cluster handle : Nat) : NextWf (execRestore cluster handle s) := by
  unfold execRestore
  grind only [State.addDueOnce_mem, restoreEnds_mem, nextWf_next]
theorem execQevent_wf (island tenant : Nat) : NextWf (execQevent island tenant s) := by
  rw [execQevent, nextWf_next, WfMem, qeventBody_mem]
  exact hs
theorem execRsmcmd_wf (island core cmd : Nat) : NextWf (execRsmcmd island core cmd s) := by
  unfold execRsmcmd
  grind only [State.addDue_mem, nextWf_next]
theorem execMext_wf (value : Nat) : NextWf (execMext value s) := by
  unfold execMext
  grind only [extendKernel_mem, nextWf_next]
theorem execControlSpaceWrite_wf (tenant addr size value : Nat) : NextWf (execControlSpaceWrite tenant addr size value s) := by
  unfold execControlSpaceWrite
  grind only [controlWrite_wf, nextWf_next]
theorem execRegionRekey_wf (region epoch : Nat) : NextWf (execRegionRekey region epoch s) := by
  unfold execRegionRekey
  grind only [beginSweep_mem, nextWf_next]
theorem execCheckpoint_wf (ctl slot : Nat) : NextWf (execCheckpoint ctl slot s) := by
  rw [execCheckpoint, nextWf_next, WfMem, checkpointBody_mem]
  exact hs
theorem execCheckpointComplete_wf (ctl : Nat) : NextWf (execCheckpointComplete ctl s) := by
  rw [execCheckpointComplete, nextWf_next, WfMem, checkpointDone_mem]
  exact hs
theorem execSlotRestore_wf (ctl slot : Nat) : NextWf (execSlotRestore ctl slot s) := by
  rw [execSlotRestore, nextWf_next, WfMem, slotRestoreBody_mem]
  exact hs
theorem execErase_wf (ctl slot : Nat) : NextWf (execErase ctl slot s) := by
  unfold execErase
  grind only [State.setEdge_mem, nextWf_next]
theorem execCxlMemRead_wf (fn offset len : Nat) : NextWf (execCxlMemRead fn offset len s) := by
  have hf : ∀ l : List (Nat × Nat), (l.foldl (fun s p => meetAt s p.1 p.2) s).mem = s.mem := fun l => foldl_mem (fun _ _ => meetAt_mem _ _ _) l s
  unfold execCxlMemRead
  rw [nextWf_next]
  refine ite_wf (by rwa [WfMem, reply_mem]) ?_
  split
  · rwa [WfMem, reply_mem, hf]
  · rwa [WfMem, reply_mem]
theorem execCxlMemWrite_wf (fn offset : Nat) (bytes : List (BitVec 8)) : NextWf (execCxlMemWrite fn offset bytes s) := by
  unfold execCxlMemWrite
  grind only [hostWrite_wf, nextWf_next]
theorem execDbell_wf (fn value : Nat) : NextWf (execDbell fn value s) := by
  unfold execDbell
  grind only [sendRecord_mem, nextWf_next]
theorem execApertureAccess_wf (module addr : Nat) (write : Bool) (bytes : List (BitVec 8)) :
    NextWf (execApertureAccess module addr write bytes s) := by
  unfold execApertureAccess
  grind only [State.addDue_mem, hostWrite_wf, meetAt_mem, nextWf_next]
theorem execTimeout_wf (tag : Nat) : NextWf (execTimeout tag s) := by
  unfold execTimeout
  grind only [endCollective_wf, State.addDueOnce_mem, nextWf_next]
theorem execLinkdown_wf (tag : Nat) : NextWf (execLinkdown tag s) := by
  unfold execLinkdown
  grind only [endCollective_wf, nextWf_next]
theorem execGetVersion_wf (fn : Nat) : NextWf (execGetVersion fn s) := by
  rw [execGetVersion, nextWf_next, WfMem, answerHost_mem]
  exact hs
theorem execGetCapabilities_wf (fn : Nat) : NextWf (execGetCapabilities fn s) := by
  unfold execGetCapabilities
  grind only [answerHost_mem, nextWf_next]
theorem execNegotiateAlgorithms_wf (fn : Nat) : NextWf (execNegotiateAlgorithms fn s) := by
  rw [execNegotiateAlgorithms, nextWf_next, WfMem, answerHost_mem]
  exact hs
theorem execGetDigests_wf (fn : Nat) : NextWf (execGetDigests fn s) := by
  unfold execGetDigests
  grind only [answerHost_mem, nextWf_next]
theorem execGetCertificate_wf (fn : Nat) : NextWf (execGetCertificate fn s) := by
  unfold execGetCertificate
  grind only [answerHost_mem, nextWf_next]
theorem execChallenge_wf (fn : Nat) (nonce : List (BitVec 8)) : NextWf (execChallenge fn nonce s) := by
  unfold execChallenge
  grind only [evidence_mem, answerHost_mem, nextWf_next]
theorem execGetMeasurements_wf (fn : Nat) : NextWf (execGetMeasurements fn s) := by
  unfold execGetMeasurements
  grind only [evidence_mem, answerHost_mem, nextWf_next]
theorem execDoze_wf : NextWf (execDoze s) := by
  unfold execDoze
  grind only [State.addDueOnce_mem, nextWf_next]
theorem execPowerApplied_wf : NextWf (execPowerApplied s) := by
  rw [execPowerApplied, nextWf_next, WfMem, bootBody_mem]
  exact hs
theorem execSelfCalibration_wf (error : Nat) : NextWf (execSelfCalibration error s) := by
  unfold execSelfCalibration
  grind only [reachStage_wf, setAllEdges_mem, State.addDueOnce_mem, nextWf_next]
theorem execSelfTest_wf (failing : List Nat) : NextWf (execSelfTest failing s) := by
  unfold execSelfTest
  grind only [reachStage_wf, State.addDueOnce_mem, nextWf_next]
theorem execRouterTableWrite_wf (detours : List (Nat × Nat × BitVec 64)) : NextWf (execRouterTableWrite detours s) := by
  unfold execRouterTableWrite
  rw [nextWf_next]
  refine ite_wf (reachStage_wf _ _ _ _ ?_ fun u hu => ?_) hs
  · rwa [WfMem, foldl_mem writeDetour_mem, writeTables_mem]
  · rwa [WfMem, State.addDueOnce_mem]
theorem execInitialisation_wf (error : Nat) : NextWf (execInitialisation error s) := by
  unfold execInitialisation
  rw [nextWf_next]
  exact ite_wf (reachStage_wf _ _ _ _ hs fun _ _ => rfl) hs
omit hs in
theorem execPowerOff_wf : NextWf (execPowerOff s) := by
  unfold execPowerOff
  rw [nextWf_next]
  rfl
theorem execResponse_wf (pkt : Nat) : NextWf (execResponse pkt s) := by
  unfold execResponse
  grind only [onPacket_wf, responseBody_wf, nextWf_next]
theorem execTlbInvalidation_wf (inv : Nat) : NextWf (execTlbInvalidation inv s) := by
  unfold execTlbInvalidation
  grind only [applyInval_wf, nextWf_next]
theorem execPowerGated_wf (tile : Nat) : NextWf (execPowerGated tile s) := by
  rw [execPowerGated, nextWf_next, WfMem, powerGatedBody_mem]
  exact hs
theorem execNop_wf : NextWf (execNop s) := by
  refine runInstr_ends hs ?_
  grind only [State.retire_mem, Ends_ok, StopWf]
theorem execPause_wf (n : BitVec 16) : NextWf (execPause n s) := by
  refine runInstr_ends hs ?_
  grind only [pauseBody_mem, Ends_ok, StopWf]
theorem execSys_wf (n : BitVec 16) : NextWf (execSys n s) := by
  refine runInstr_ends hs ?_
  grind only [sysBody_wf, Ends_ok, StopWf]
theorem execCalm_wf : NextWf (execCalm s) := by
  refine runInstr_ends hs ?_
  grind only [State.retire_mem, State.setCtx_mem, Ends_ok, StopWf]
theorem execFence_wf (_scope : Reg) : NextWf (execFence _scope s) := by
  refine runInstr_ends hs ?_
  grind only [State.retire_mem, Ends_ok, StopWf]
theorem execLfence_wf : NextWf (execLfence s) := by
  refine runInstr_ends hs ?_
  grind only [State.retire_mem, Ends_ok, StopWf]
theorem execWaitpred_wf : NextWf (execWaitpred s) := by
  refine runInstr_ends hs ?_
  grind only [synchronised_mem, State.retire_mem, Ends_ok, Ends_error, StopWf]
theorem execSpalloc_wf (a b c : Reg) : NextWf (execSpalloc a b c s) := by
  refine runInstr_ends hs ?_
  grind only [spallocBody_wf, Ends_ok, StopWf]
theorem execTlk_wf (a b : Reg) : NextWf (execTlk a b s) := by
  refine runInstr_ends hs ?_
  grind only [alu_mem, Ends_ok, StopWf]
theorem execTset_wf (b c : Reg) : NextWf (execTset b c s) := by
  refine runInstr_ends hs ?_
  grind only [setTags_mem, State.retire_mem, Ends_ok, StopWf]
theorem execTclr_wf (b : Reg) : NextWf (execTclr b s) := by
  refine runInstr_ends hs ?_
  grind only [setTags_mem, State.retire_mem, Ends_ok, StopWf]
theorem execDcinv_wf (b : Reg) : NextWf (execDcinv b s) := by
  refine runInstr_ends hs ?_
  grind only [setDcache_mem, dropShared_mem, State.retire_mem, Ends_ok, StopWf]
theorem execDcwb_wf (b : Reg) : NextWf (execDcwb b s) := by
  refine runInstr_ends hs ?_
  grind only [setDcache_mem, writeBackFrom_wf, State.retire_mem, Ends_ok, StopWf]
theorem execPf_wf (b : Reg) : NextWf (execPf b s) := by
  refine runInstr_ends hs ?_
  grind only [prefetch_mem, State.retire_mem, Ends_ok, StopWf]
theorem execRlq_wf (a b : Reg) : NextWf (execRlq a b s) := by
  refine runInstr_ends hs ?_
  grind only [alu_mem, Ends_ok, StopWf]
theorem execSpq_wf (a : Reg) : NextWf (execSpq a s) := by
  refine runInstr_ends hs ?_
  grind only [alu_mem, Ends_ok, StopWf]
theorem execZld_wf (a b c : Reg) : NextWf (execZld a b c s) := by
  refine runInstr_ends hs ?_
  grind only [zephyrBody_wf, zephyrRead_wf, zput_mem, Ends_ok, Ends_error, StopWf]
theorem execZst_wf (a b c : Reg) : NextWf (execZst a b c s) := by
  refine runInstr_ends hs ?_
  grind only [zephyrBody_wf, zephyrWrite_wf, setZreq_mem, State.retire_mem, Ends_ok, StopWf]
theorem execZcopy_wf (a b c : Reg) : NextWf (execZcopy a b c s) := by
  refine runInstr_ends hs ?_
  grind only [zephyrBody_wf, zcopyBody_wf, StopWf]
theorem execZstride_wf (b c : Reg) : NextWf (execZstride b c s) := by
  refine runInstr_ends hs ?_
  grind only [zephyrBody_wf, setZreq_mem, State.retire_mem, Ends_ok, Ends_error, StopWf]
theorem execZdone_wf (b : Reg) : NextWf (execZdone b s) := by
  refine runInstr_ends hs ?_
  grind only [zephyrBody_wf, setZreq_mem, State.addDueOnce_mem, Ends_ok, StopWf]
theorem execZhalt_wf : NextWf (execZhalt s) := by
  refine runInstr_ends hs ?_
  grind only [zephyrBody_wf, setZreq_mem, Ends_error, StopWf]
theorem execMcfg_wf (imm : BitVec 32) (_la : Reg) : NextWf (execMcfg imm _la s) := by
  refine execMat_wf hs fun t c => ?_
  grind only [State.setCtx_mem, State.retire_mem, Ends_ok, StopWf]
theorem execMzero_wf (a _la : Reg) : NextWf (execMzero a _la s) := by
  refine execMat_wf hs fun t c => ?_
  grind only [State.fresh_mem, pushOp_mem, State.retire_mem, Ends_ok, Ends_error, StopWf]
theorem execMld_wf (a b _la : Reg) : NextWf (execMld a b _la s) := by
  refine execMat_wf hs fun t c => ?_
  grind only [mldBody_wf, StopWf]
theorem execMst_wf (fmt : Fin 4) (a b : Reg) (rm : Fin 4) (clamp : Bool) (_la : Reg) : NextWf (execMst fmt a b rm clamp _la s) := by
  refine execMat_wf hs fun t c => ?_
  grind only [mstBody_wf, StopWf]
theorem execMmac_wf (a b c e _la : Reg) : NextWf (execMmac a b c e _la s) := by
  refine execMat_wf hs fun t c => ?_
  grind only [accBody_wf, StopWf]
theorem execMmacm_wf (a b c e _la : Reg) : NextWf (execMmacm a b c e _la s) := by
  refine execMat_wf hs fun t c => ?_
  grind only [accBody_wf, StopWf]
theorem execMmacs_wf (a b c e _la : Reg) : NextWf (execMmacs a b c e _la s) := by
  refine execMat_wf hs fun t c => ?_
  grind only [accBody_wf, StopWf]
theorem execMbin_wf (op : Fin 4) (a b c e _la : Reg) : NextWf (execMbin op a b c e _la s) := by
  refine execMat_wf hs fun t c => ?_
  grind only [accBody_wf, StopWf]
theorem execMres_wf (a _la : Reg) : NextWf (execMres a _la s) := by
  refine execMat_wf hs fun t c => ?_
  grind only [State.fresh_mem, putMprog_wf, pushOp_mem, State.retire_mem, Ends_ok, Ends_error, StopWf]
theorem execMwait_wf (a _la : Reg) : NextWf (execMwait a _la s) := by
  refine execMat_wf hs fun t c => ?_
  grind only [State.retire_mem, Ends_ok, Ends_error, StopWf]
theorem execMrdp_wf (a _la : Reg) : NextWf (execMrdp a _la s) := by
  refine execMat_wf hs fun t c => ?_
  grind only [alu_mem, Ends_ok, Ends_error, StopWf]
theorem execMwrp_wf (b _la : Reg) : NextWf (execMwrp b _la s) := by
  refine execMat_wf hs fun t c => ?_
  grind only [putMprog_wf, State.retire_mem, Ends_ok, Ends_error, StopWf]
theorem execMabort_wf (a _la : Reg) : NextWf (execMabort a _la s) := by
  refine execMat_wf hs fun t c => ?_
  grind only [mabortBody_wf, State.retire_mem, Ends_ok, StopWf]
theorem execMstat_wf (a _la : Reg) : NextWf (execMstat a _la s) := by
  refine execMat_wf hs fun t c => ?_
  grind only [alu_mem, Ends_ok, StopWf]
theorem execMlat_wf (a : Reg) : NextWf (execMlat a s) := by
  refine runInstr_ends hs ?_
  grind only [alu_mem, Ends_ok, StopWf]
theorem execMbufq_wf (a : Reg) : NextWf (execMbufq a s) := by
  refine runInstr_ends hs ?_
  grind only [alu_mem, Ends_ok, StopWf]
theorem execMdrain_wf : NextWf (execMdrain s) := by
  refine runInstr_ends hs ?_
  grind only [State.retire_mem, Ends_ok, Ends_error, StopWf]
theorem execMpoll_wf (a : Reg) : NextWf (execMpoll a s) := by
  refine runInstr_ends hs ?_
  grind only [alu_mem, Ends_ok, StopWf]
theorem execCread_wf (a b level : Reg) : NextWf (execCread a b level s) := by
  refine runInstr_ends hs ?_
  grind only [alu_mem, Ends_ok, StopWf]
theorem execDqmask_wf (b : Reg) : NextWf (execDqmask b s) := by
  refine runInstr_ends hs ?_
  grind only [State.setBlock_mem, State.retire_mem, Ends_ok, StopWf]
theorem execDqlen_wf (a : Reg) : NextWf (execDqlen a s) := by
  refine runInstr_ends hs ?_
  grind only [alu_mem, Ends_ok, StopWf]
theorem execBgrd_wf (a : Reg) : NextWf (execBgrd a s) := by
  refine runInstr_ends hs ?_
  grind only [alu_mem, Ends_ok, StopWf]
theorem execTsrd_wf (a : Reg) : NextWf (execTsrd a s) := by
  refine runInstr_ends hs ?_
  grind only [alu_mem, Ends_ok, StopWf]
theorem execEarlyok_wf : NextWf (execEarlyok s) := by
  refine runInstr_ends hs ?_
  grind only [State.retire_mem, State.setBlock_mem, State.setLaunch_mem, noteSuccessors_mem, Ends_ok, Ends_error, StopWf]
theorem execLstat_wf (a b : Reg) : NextWf (execLstat a b s) := by
  refine runInstr_ends hs ?_
  grind only [alu_mem, Ends_ok, StopWf]
theorem execFtrack_wf (b : Reg) : NextWf (execFtrack b s) := by
  refine runInstr_ends hs ?_
  grind only [ftrackBody_mem, State.retire_mem, Ends_ok, StopWf]
theorem execFuntrack_wf (b : Reg) : NextWf (execFuntrack b s) := by
  refine runInstr_ends hs ?_
  grind only [funtrackBody_wf, Ends_ok, StopWf]
theorem execFclose_wf (b : Reg) : NextWf (execFclose b s) := by
  refine runInstr_ends hs ?_
  grind only [State.retire_mem, Ends_ok, Ends_error, StopWf]
theorem execClrrep_wf (a b : Reg) : NextWf (execClrrep a b s) := by
  refine runInstr_ends hs ?_
  grind only [alu_mem, Ends_ok, StopWf]
theorem execDrreq_wf : NextWf (execDrreq s) := by
  refine runInstr_ends hs ?_
  grind only [requestFrom_mem, State.retire_mem, Ends_ok, StopWf]
theorem execResq_wf (a b : Reg) : NextWf (execResq a b s) := by
  refine runInstr_ends hs ?_
  grind only [alu_mem, Ends_ok, StopWf]
theorem execMfsr_wf (a : Reg) (n : BitVec 12) : NextWf (execMfsr a n s) := by
  refine runPriv_ends hs fun i k => ?_
  grind only [alu_mem, Ends_ok, Ends_error, StopWf]
theorem execMtsr_wf (a : Reg) (n : BitVec 12) : NextWf (execMtsr a n s) := by
  refine runPriv_ends hs fun i k => ?_
  grind only [State.setCore_mem, openGraph_mem, State.addDue_mem, State.retire_mem, Ends_ok, Ends_error, StopWf]
theorem execPtfence_wf : NextWf (execPtfence s) := by
  refine runPriv_ends hs fun i k => ?_
  grind only [State.retire_mem, Ends_ok, Ends_error, StopWf]
theorem execIcinv_wf (b : Reg) : NextWf (execIcinv b s) := by
  refine runPriv_ends hs fun i k => ?_
  grind only [agentTranslate_wf, sendInval_mem, State.retire_mem, Ends_ok, Ends_error, StopWf]
theorem execRevoke_wf (b : Reg) : NextWf (execRevoke b s) := by
  refine runPriv_ends hs fun i k => ?_
  grind only [State.setTenant_mem, State.retire_mem, Ends_ok, Ends_error, StopWf]
theorem execVfbind_wf (b c : Reg) : NextWf (execVfbind b c s) := by
  refine runPriv_ends hs fun i k => ?_
  grind only [State.retire_mem, Ends_ok, Ends_error, StopWf]
theorem execDresume_wf (b : Reg) : NextWf (execDresume b s) := by
  refine runPriv_ends hs fun i k => ?_
  grind only [debugTarget_wf, resumeHalted_wf, State.setCtx_mem, State.retire_mem, Ends_ok, Ends_error, StopWf]

/-- Every instruction and every engine step keeps the canonical form. -/
theorem exec_wf (i : Instr) : NextWf (exec i s) := by
  unfold exec
  cases i with
  | codeLineFetch => exact nextWf_of (codeFetchBody_wf hs _)
  | resume => exact execResume_wf hs _ _ _
  | redirect => exact execRedirect_wf hs _ _ _
  | discard => exact execDiscard_wf hs _ _ _
  | halt => exact execHalt_wf hs _ _ _
  | present => exact execPresent_wf hs _ _ _
  | retry => exact execRetry_wf hs _ _ _ _
  | continue_ => exact execContinue_wf hs _ _ _ _
  | fail => exact execFail_wf hs _ _ _ _ _
  | issueSlotTaken => exact execIssueSlotTaken_wf hs _
  | registerCacheFill => exact nextWf_of (cacheFillBody_wf hs _ _ _)
  | extensionImageFill => exact nextWf_of (extensionBody_wf hs _ _)
  | pauseExpiry => exact execPauseExpiry_wf hs _ _
  | budget => exact nextWf_of (budgetBody_wf hs _ _)
  | activationByMessage => exact nextWf_of (messageActivation_wf hs _)
  | activationByHandOff => exact nextWf_of (handOffBody_wf hs _)
  | automaticSteal => exact nextWf_of (stealBody_wf hs _)
  | overflowReturn => exact execOverflowReturn_wf hs _
  | commit => exact nextWf_of (commitBody_wf hs _)
  | becomeSerialising => exact nextWf_of (becomeSerialBody_wf hs _)
  | readSetRegistration => exact nextWf_of (registrationBody_wf hs _ _)
  | invalidation => exact execInvalidation_wf hs _ _
  | clusterWindowAccess => exact execClusterWindowAccess_wf hs _
  | edgeMemoryAccess => exact execEdgeMemoryAccess_wf hs _
  | pageWalk => exact execPageWalk_wf hs _ _ _ _
  | beatArrival => exact nextWf_of (beatBody_wf hs _ _ _)
  | tableLoadComplete | refetch => exact nextWf_of (loadBody_wf hs _ _ _ _)
  | requestActivation => exact nextWf_of (requestBody_wf hs _ _)
  | requestDone => exact execRequestDone_wf hs _ _
  | zlimit => exact execZlimit_wf hs _ _
  | kpost => exact execKpost_wf hs _ _ _ _
  | matrixOperationStart => exact nextWf_of (startBody_wf hs _)
  | fold => exact nextWf_of (foldBody_wf hs _)
  | matrixOperationComplete => exact nextWf_of (matrixDone_wf hs _)
  | injection => exact execInjection_wf hs _
  | hop => exact execHop_wf hs _
  | relay => exact execRelay_wf hs _
  | handleCacheUpdate => exact execHandleCacheUpdate_wf hs _
  | messageArrival => exact execMessageArrival_wf hs _
  | migrationArrival => exact execMigrationArrival_wf hs _
  | ack => exact execAck_wf hs _
  | nackBusy => exact execNackBusy_wf hs _
  | nackStale | nackBadhandler | nackRefused | nackNopath => exact nextWf_of (finalNack_wf hs _ _)
  | backoffExpiry => exact execBackoffExpiry_wf hs _ _
  | poisonTail => exact execPoisonTail_wf hs _
  | launchPooled => exact nextWf_of (poolBody_wf hs _)
  | placement => exact execPlacement_wf hs _
  | counterComplete => exact execCounterComplete_wf hs _ _
  | deadline => exact execDeadline_wf hs _
  | ceilometerCheck => exact nextWf_of (checkBody_wf hs _ _)
  | sensorReading => exact nextWf_of (sensorBody_wf hs _ _)
  | rotation => exact execRotation_wf hs _
  | calmingEnd => exact nextWf_of (calmingEndBody_wf hs _)
  | moveAbandoned => exact execMoveAbandoned_wf hs _
  | drainingEnd => exact nextWf_of (drainingEndBody_wf hs _)
  | copyingEnd => exact nextWf_of (copyingEndBody_wf hs _)
  | switchingEnd => exact nextWf_of (switchingEndBody_wf hs _)
  | stubRelease => exact execStubRelease_wf hs _ _
  | backstop => exact nextWf_of (backstopBody_wf hs _)
  | eviction => exact nextWf_of (evictionBody_wf hs _)
  | cleared => exact nextWf_of (clearedBody_wf hs _)
  | restore => exact execRestore_wf hs _ _
  | blockRestored => exact nextWf_of (blockRestoredBody_wf hs _)
  | sliceEnd => exact nextWf_of (sliceEndBody_wf hs _)
  | faultQueueAppend => exact nextWf_of (faultQueueBody_wf hs _)
  | heldRecordDelivery => exact nextWf_of (heldBody_wf hs _)
  | qevent => exact execQevent_wf hs _ _
  | rsmcmd => exact execRsmcmd_wf hs _ _ _
  | mext => exact execMext_wf hs _
  | controlSpaceWrite => exact execControlSpaceWrite_wf hs _ _ _ _
  | regionRekey => exact execRegionRekey_wf hs _ _
  | sweepComplete => exact nextWf_of (sweepBody_wf hs _)
  | checkpoint => exact execCheckpoint_wf hs _ _
  | checkpointComplete => exact execCheckpointComplete_wf hs _
  | slotRestore => exact execSlotRestore_wf hs _ _
  | restoreComplete => exact nextWf_of (restoreDone_wf hs _)
  | erase => exact execErase_wf hs _ _
  | cxlMemRead => exact execCxlMemRead_wf hs _ _ _
  | cxlMemWrite => exact execCxlMemWrite_wf hs _ _ _
  | dbell => exact execDbell_wf hs _ _
  | apertureAccess => exact execApertureAccess_wf hs _ _ _ _
  | collpost => exact nextWf_of (collpostBody_wf hs _)
  | collectiveResult => exact nextWf_of (collectiveBody_wf hs _)
  | timeout => exact execTimeout_wf hs _
  | linkdown => exact execLinkdown_wf hs _
  | getVersion => exact execGetVersion_wf hs _
  | getCapabilities => exact execGetCapabilities_wf hs _
  | negotiateAlgorithms => exact execNegotiateAlgorithms_wf hs _
  | getDigests => exact execGetDigests_wf hs _
  | getCertificate => exact execGetCertificate_wf hs _
  | challenge => exact execChallenge_wf hs _ _
  | getMeasurements => exact execGetMeasurements_wf hs _
  | doze => exact execDoze_wf hs
  | run => exact nextWf_of (leaveDoze_wf hs)
  | powerApplied => exact execPowerApplied_wf hs
  | selfCalibration => exact execSelfCalibration_wf hs _
  | selfTest => exact execSelfTest_wf hs _
  | routerTableWrite => exact execRouterTableWrite_wf hs _
  | initialisation => exact execInitialisation_wf hs _
  | powerOff => exact execPowerOff_wf
  | response => exact execResponse_wf hs _
  | tlbInvalidation => exact execTlbInvalidation_wf hs _
  | powerGated => exact execPowerGated_wf hs _
  | nop => exact execNop_wf hs
  | ret | jr | callr | callJ | callJL => exact runInstr_ends hs (takeTransfer_wf hs _ _ _)
  | pause => exact execPause_wf hs _
  | sys => exact execSys_wf hs _
  | tret => exact runInstr_ends hs (tretBody_wf hs)
  | yield => exact runInstr_ends hs (yieldBody_wf hs)
  | calm => exact execCalm_wf hs
  | fence scope => exact execFence_wf hs scope
  | lfence => exact execLfence_wf hs
  | waitpred => exact execWaitpred_wf hs
  | addHead | addX | addI32 | addI64 | subHead | subX | subI32 | subI64 | andX | andXI | orX | orXI | xorX | xorXI
  | andnX | andnXI | shlX | shlXI | shrX | shrXI | sraX | sraXI | mulX | mulXI | mulhX | mulhXI | mulhuX | mulhuXI | div
  | divu | rem | remu | minX | minXI | maxX | maxXI | minuX | minuXI | maxuX | maxuXI | seqX | seqXI | sneX | sneXI
  | sltX | sltXI | sltuX | sltuXI | liI16 | liI32 | liI64 | mov | neg | not | clz | ctz | popc | bswap | tagof | extBZ
  | extHZ | extWZ | extBS | extHS | extWS | sleX | sleXI | sleuX | sleuXI | bext | bins | sel | paddX | paddXI | psubX
  | psubXI | ptagX | ptagXI => exact execAlu_wf hs _ _
  | ldBK | ldBKL | ldHK | ldHKL | ldWK | ldWKL | ldDK | ldDKL | ldx | ldxS => exact execLoad_wf hs _ _ _ _
  | stBK | stBKL | stHK | stHKL | stWK | stWKL | stDK | stDKL | stx => exact execStore_wf hs _ _ _
  | rdc => exact runInstr_ends hs (rdcBody_wf hs _ _)
  | wrc => exact runInstr_ends hs (wrcBody_wf hs _ _)
  | brJ | brJL | bnzJ | bnzJL | bzJ | bzJL | beqJ | beqJL | bneJ | bneJL | bltJ | bltJL | bgeJ | bgeJL | bltuJ | bltuJL
  | bgeuJ | bgeuJL => exact execBranch_wf hs _ _ _
  | loopGJ | loopGJL | loopMbJ | loopMbJL => exact runInstr_ends hs (loopBody_wf hs _ _)
  | ldp => exact runInstr_ends hs (loadPair_wf hs _ _ _)
  | stp => exact runInstr_ends hs (storePair_wf hs _ _ _)
  | vadd | vsub | vmul | vfma | vmin | vmax | vrnd | vdiv | vsqrt | vcmp | vsel | vredadd | vredmax | vredmin | vcvt
  | vqnt | vdqnt | vand | vor | vxor | vshl | vshr | vperm | vmov | vbcast | vins | vext => exact execVec_wf hs _ _ _
  | vclr => exact runInstr_ends hs (vclrBody_wf hs _)
  | vldK | vldKL => exact runInstr_ends hs (vldBody_wf hs _ _ _)
  | vstK | vstKL => exact runInstr_ends hs (vstBody_wf hs _ _ _)
  | sbind => exact runInstr_ends hs (sbindBody_wf hs _ _ _)
  | sunbind => exact runInstr_ends hs (sunbindBody_wf hs _)
  | sadv => exact runInstr_ends hs (sadvBody_wf hs _ _)
  | sstat => exact runInstr_ends hs (sstatBody_wf hs _ _)
  | lda => exact runInstr_ends hs (ldaBody_wf hs _ _ _)
  | stl => exact runInstr_ends hs (stlBody_wf hs _ _ _)
  | amoAdd | amoAnd | amoOr | amoXor | amoMin | amoMax | amoSwap | amoCas => exact execAmo_wf hs _ _ _ _ _
  | spalloc => exact execSpalloc_wf hs _ _ _
  | spfree => exact runInstr_ends hs (spfreeBody_wf hs _)
  | tlk => exact execTlk_wf hs _ _
  | tset => exact execTset_wf hs _ _
  | tclr => exact execTclr_wf hs _
  | dcinv => exact execDcinv_wf hs _
  | dcwb => exact execDcwb_wf hs _
  | pf => exact execPf_wf hs _
  | lrwr => exact runInstr_ends hs (lrwrBody_wf hs _ _)
  | lrrd => exact runInstr_ends hs (lrrdBody_wf hs _ _)
  | rlq => exact execRlq_wf hs _ _
  | spq => exact execSpq_wf hs _
  | itld => exact runInstr_ends hs (itldBody_wf hs _ _)
  | iev | iseg => exact runInstr_ends hs (lookupBody_wf hs _ _)
  | itinv => exact runInstr_ends hs (itinvBody_wf hs _)
  | itq => exact runInstr_ends hs (itqBody_wf hs _ _)
  | zpost => exact runInstr_ends hs (zpostBody_wf hs _ _)
  | bseal => exact runInstr_ends hs (bsealBody_wf hs _)
  | bwait => exact runInstr_ends hs (bwaitBody_wf hs _ _)
  | zstat => exact runInstr_ends hs (zstatBody_wf hs _)
  | zli | zmov | zaddXD | zaddXI | zsubXD | zsubXI => exact execZreg_wf hs _ _
  | zld => exact execZld_wf hs _ _ _
  | zst => exact execZst_wf hs _ _ _
  | zcopy => exact execZcopy_wf hs _ _ _
  | zstride => exact execZstride_wf hs _ _
  | zdone => exact execZdone_wf hs _
  | zhalt => exact execZhalt_wf hs
  | zjmpJ | zjmpJL | zbnzJ | zbnzJL => exact execZjump_wf hs _ _ _
  | mcfg => exact execMcfg_wf hs _ _
  | mzero => exact execMzero_wf hs _ _
  | mld => exact execMld_wf hs _ _ _
  | mst => exact execMst_wf hs _ _ _ _ _ _
  | mmac => exact execMmac_wf hs _ _ _ _ _
  | mmacm => exact execMmacm_wf hs _ _ _ _ _
  | mmacs => exact execMmacs_wf hs _ _ _ _ _
  | mbin => exact execMbin_wf hs _ _ _ _ _ _
  | mres => exact execMres_wf hs _ _
  | mwait => exact execMwait_wf hs _ _
  | mrdp => exact execMrdp_wf hs _ _
  | mwrp => exact execMwrp_wf hs _ _
  | mabort => exact execMabort_wf hs _ _
  | mstat => exact execMstat_wf hs _ _
  | msend | msendr | mcast => exact runInstr_ends hs (sendBody_wf hs _ _ _ _ _)
  | mgset => exact runInstr_ends hs (mgsetBody_wf hs _ _)
  | mig => exact runInstr_ends hs (migBody_wf hs _)
  | mlat => exact execMlat_wf hs _
  | mprobe => exact runInstr_ends hs (mprobeBody_wf hs _ _)
  | mbufq => exact execMbufq_wf hs _
  | mdrain => exact execMdrain_wf hs
  | mpoll => exact execMpoll_wf hs _
  | glaunch => exact runInstr_ends hs (glaunchBody_wf hs _ _)
  | cwait => exact runInstr_ends hs (cwaitBody_wf hs _ _ _)
  | cancel => exact runInstr_ends hs (cancelBody_wf hs _ _ _)
  | cread => exact execCread_wf hs _ _ _
  | dqpush => exact runInstr_ends hs (dqpushBody_wf hs _)
  | dqpop | dqsteal => exact runInstr_ends hs (takeNext_wf hs _ _ _)
  | dqmask => exact execDqmask_wf hs _
  | dqlen => exact execDqlen_wf hs _
  | bgrd => exact execBgrd_wf hs _
  | tsrd => exact execTsrd_wf hs _
  | earlyok => exact execEarlyok_wf hs
  | lstat => exact execLstat_wf hs _ _
  | cadd => exact runInstr_ends hs (caddBody_wf hs _ _ _)
  | ftrack => exact execFtrack_wf hs _
  | funtrack => exact execFuntrack_wf hs _
  | fopen => exact runInstr_ends hs (fopenBody_wf hs _ _ _ _)
  | fclose => exact execFclose_wf hs _
  | fstat | falpha => exact execRecordQuery_wf hs _ _ _
  | clrpost => exact runInstr_ends hs (clrpostBody_wf hs _ _ _)
  | clrrep => exact execClrrep_wf hs _ _
  | drreq => exact execDrreq_wf hs
  | resq => exact execResq_wf hs _ _
  | mfsr => exact execMfsr_wf hs _ _
  | mtsr => exact execMtsr_wf hs _ _
  | eret => exact runPriv_ends hs fun i k => eretBody_wf hs i k
  | ptfence => exact execPtfence_wf hs
  | tlbinv => exact runPriv_ends hs fun i k => tlbinvBody_wf hs _ _ i k
  | icinv => exact execIcinv_wf hs _
  | splinter => exact runPriv_ends hs fun i k => splinterBody_wf hs _ _ i k
  | rgset => exact runPriv_ends hs fun i k => rgsetBody_wf hs _ i k
  | grant => exact runPriv_ends hs fun i k => grantBody_wf hs _ _ i k
  | revoke => exact execRevoke_wf hs _
  | vfbind => exact execVfbind_wf hs _ _
  | dhalt => exact runPriv_ends hs fun i k => dhaltBody_wf hs _ i k
  | dstep => exact runPriv_ends hs fun i k => dstepBody_wf hs _ i k
  | dresume => exact execDresume_wf hs _
  | wsw => exact runPriv_ends hs fun i k => wswBody_wf hs _ i k
  | sealMem => exact runPriv_ends hs fun i k => sealBody_wf hs _ _ _ i k
  | unsealMem => exact runPriv_ends hs fun i k => unsealBody_wf hs _ _ _ i k
  | evsign => exact runPriv_ends hs fun i k => evsignBody_wf hs _ _ _ i k

end

end Sys2Proof.Machine
end

section
/-! PROOFS, canonical memory in a step: what issues, what time does, and the move that is made (R185, R186, R538). -/

namespace Sys2Proof.Machine

theorem mapNext_wf {o : Host.Outcome State Fault Refusal} {f : State → State} (ho : NextWf o) (hf : ∀ u, WfMem u → WfMem (f u)) :
    NextWf (mapNext f o) := by
  cases o with
  | next u => exact nextWf_of (hf u (ho u rfl))
  | fault e => exact fun _ h => nomatch h
  | refused r => exact fun _ h => nomatch h
theorem runIssued_wf {s : State} (hs : WfMem s) (i : Instr) : NextWf (runIssued i s) :=
  mapNext_wf (exec_wf (s := { s with retired := false }) hs i) fun _ hu => afterIssue_wf hu _
theorem issueInstr_wf {s : State} (hs : WfMem s) (i : Instr) : NextWf (issueInstr i s) := by
  unfold issueInstr
  split
  · exact nextWf_of (raise_wf s _ hs)
  · split
    · exact nextWf_of (ite_wf hs (raise_wf s _ hs))
    · exact runIssued_wf hs i
theorem issue_wf {s : State} (hs : WfMem s) : NextWf (issue s) := by
  unfold issue
  split
  · exact nextWf_of (raise_wf s _ hs)
  · exact nextWf_of (by rwa [WfMem, State.addDueOnce_mem])
  · exact nextWf_of (raise_wf s _ hs)
  · exact nextWf_of (raise_wf s _ hs)
  · exact issueInstr_wf hs _
theorem issueAgent_wf {s : State} (hs : WfMem s) : NextWf (issueAgent s) :=
  mapNext_wf (issue_wf (s := { s with retired := false }) hs) fun _ hu => by rwa [WfMem, noteIssue_mem]
theorem makeMove_wf {s : State} (hs : WfMem s) (m : Move) : NextWf (makeMove m s) := by
  cases m with
  | engine i => exact exec_wf (s := s.dropDue i) hs i
  | agent a => exact issueAgent_wf (s := { s with cur := a }) hs
/-- A step keeps the canonical form: time passes without a write, and every move keeps it. -/
theorem stepOnce_wf {s : State} (hs : WfMem s) : NextWf (stepOnce s) := by
  have ht : WfMem { tick s with choices := s.choices.tail } := by
    show Memory.wf (tick s).mem = true
    rwa [tick_mem]
  unfold stepOnce
  dsimp only
  split
  · exact makeMove_wf ht _
  · exact nextWf_of ht

end Sys2Proof.Machine

namespace Sys2Proof.Proofs
open Sys2Proof.Machine

/-- Settles O11: time writes no memory, and the move that is picked keeps the form, be it an engine step or an instruction that issues. -/
theorem stepKeepsMemoryCanonical : Obligations.StepKeepsMemoryCanonical :=
  fun _ t hs h => stepOnce_wf hs t h

end Sys2Proof.Proofs
end

section
/-! PROOFS, what leaves the agents: writes of memory and the rekeys they wait for, a commit of an interval, a discard but for what becomes of the
context, and images (R142, R145, R186, R187, R202, R205). -/

namespace Sys2Proof.Machine

namespace SameAgents
variable {s u : State}

/-- A step made due after what leaves the agents. -/
theorem addedDue (h : SameAgents s u) (i : Instr) : SameAgents s (u.addDueOnce i) := h.trans (addDueOnce u i)
theorem of_ite {c : Prop} [Decidable c] {v : State} (hu : SameAgents s u) (hv : SameAgents s v) : SameAgents s (if c then u else v) := by
  split
  · exact hu
  · exact hv
theorem setTile (s : State) (t : Nat) (x : Tile) : SameAgents s (s.setTile t x) := ⟨rfl, rfl, rfl⟩
theorem dropDue (s : State) (i : Instr) : SameAgents s (s.dropDue i) := ⟨by simp, by simp, by simp⟩

/-! ## Writes of memory -/

theorem noteWrap (s : State) (pa : Nat) (m : LineMeta) : SameAgents s (noteWrap s pa m) := by
  unfold Machine.noteWrap
  split
  · exact addDueOnce ..
  · exact refl s
theorem writeLine (s : State) (pa : Nat) (bs : List Byte) : SameAgents s (writeLine s pa bs) :=
  have hwritten (m : List (Nat × Byte)) (l : Map Nat LineMeta) : SameAgents s { s with mem := m, lines := l } := ⟨rfl, rfl, rfl⟩
  (hwritten _ _).trans (noteWrap ..)
theorem writePhysFuel : ∀ (n : Nat) (s : State) (pa : Nat) (bs : List Byte), SameAgents s (writePhysFuel n s pa bs)
  | 0, s, _, _ => refl s
  | n + 1, s, pa, bs => by
    unfold Machine.writePhysFuel
    split
    · exact refl s
    · exact (writeLine ..).trans (writePhysFuel n ..)
theorem sweepLine (s : State) (e : Bool) (l : Nat) : SameAgents s (sweepLine s e l) := by
  unfold Machine.sweepLine
  dsimp only
  split
  · exact refl s
  · exact ⟨rfl, rfl, rfl⟩
theorem sweepEdge (s : State) (w : Sweep) : SameAgents s (sweepEdge s w) :=
  (foldl (fun u k => sweepLine u w.epoch (w.region * 131072 + k)) _ s).trans (writePhysFuel ..)
theorem sweepScratch (s : State) (w : Sweep) (h : Nat) (b : Block) : SameAgents s (sweepScratch s w h b) := by
  have hlines (u : State) (a : Alloc) : SameAgents u (if a.handle = h then
      (List.range (a.size / 16)).foldl (fun s k => Machine.sweepLine s w.epoch ((spadBase b.tile + a.off) / 16 + k)) u else u) := by
    split
    · exact foldl (fun v k => sweepLine v _ _) _ u
    · exact refl u
  exact (foldl hlines _ s).trans ⟨rfl, rfl, rfl⟩
theorem sweepRegion (s : State) (w : Sweep) : SameAgents s (sweepRegion s w) := by
  unfold Machine.sweepRegion
  split
  · exact sweepEdge s w
  · split
    · exact sweepScratch ..
    · exact refl s
theorem beginSweep (s : State) (region : Nat) (epoch : Bool) : SameAgents s (beginSweep s region epoch) := by
  refine addedDue ?_ _
  exact ⟨rfl, rfl, rfl⟩
theorem finishRekey (s : State) (region : Nat) : SameAgents s (finishRekey s region) :=
  ((foldl (fun u i => by
    split
    · exact (dropDue ..).trans (beginSweep ..)
    · exact refl u) _ s).trans (foldl sweepRegion _ _)).trans ⟨rfl, rfl, rfl⟩
theorem awaitRekey (s : State) (pa : Nat) : SameAgents s (awaitRekey s pa) := by
  unfold Machine.awaitRekey
  split
  · split
    · exact finishRekey ..
    · exact refl s
  · exact refl s
theorem putPhysFuel : ∀ (n : Nat) (s : State) (pa : Nat) (bs : List Byte), SameAgents s (putPhysFuel n s pa bs)
  | 0, s, _, _ => refl s
  | n + 1, s, pa, bs => by
    unfold Machine.putPhysFuel
    split
    · exact refl s
    · exact ((awaitRekey ..).trans (writeLine ..)).trans (putPhysFuel n ..)
theorem putPhys (s : State) (pa : Nat) (bs : List Byte) : SameAgents s (putPhys s pa bs) := putPhysFuel ..

/-! ## A commit (R202) -/

theorem headWay_error {src n : Nat} {l : Loc} (h : Machine.headWay s src n l = .error u) : SameAgents s u := by
  unfold Machine.headWay at h
  split at h
  · cases h
  · dsimp only at h
    split at h
    · cases h; exact cleanPath ..
    · split at h <;> cases h
      exact (cleanPath ..).trans (recordFrom ..)
theorem spreadInvalidations (s : State) (own pa launch stamp : Nat) : SameAgents s (spreadInvalidations s own pa launch stamp) :=
  have hmarked (m : Map Nat Tile) : SameAgents s { s with tiles := m } := ⟨rfl, rfl, rfl⟩
  (hmarked _).trans (foldl (fun u t => addDueOnce u (.invalidation t (pa / 64))) _ _)
theorem publishLine (x : Task) (s : State) (l : Loc) : SameAgents s (publishLine x s l) := by
  unfold Machine.publishLine
  dsimp only
  split
  · exact refl s
  · split
    · exact recordFrom ..
    · split
      · exact headWay_error ‹_›
      · have hw := headWay ‹_›
        cases l with
        | phys pa =>
          have hput p bs := ((hw.trans (flushBlocks _ x.tile p)).trans (meetAt _ pa 16)).trans (putPhys _ pa bs)
          dsimp only
          split
          · exact (hput _ _).trans (spreadInvalidations ..)
          · exact hput _ _
        | spad h a => exact hw.trans (putPhys ..)
        | record n k => exact hw.trans (putPhys ..)
theorem recordCommit (s : State) (n k : Nat) (img : List Byte) : SameAgents s (recordCommit s n k img) := by
  unfold Machine.recordCommit
  refine of_ite (addedDue ?_ _) ?_ <;> exact ⟨rfl, rfl, rfl⟩

/-! ## A discard, but for what becomes of the context (R205) -/

theorem setBlock (s : State) (h : Nat) (b : Block) : SameAgents s (s.setBlock h b) := ⟨rfl, rfl, rfl⟩
theorem fresh (s : State) : SameAgents s s.fresh.2 := ⟨rfl, rfl, rfl⟩
theorem mapFrozen (f : Frozen → Frozen) (s : State) : SameAgents s (mapFrozen f s) := ⟨rfl, rfl, rfl⟩
theorem mapAllocs (f : List Alloc → List Alloc) (s : State) : SameAgents s (mapAllocs f s) := ⟨rfl, rfl, rfl⟩
theorem forgetParked (s : State) (k : Nat) : SameAgents s (forgetParked s k) := ⟨rfl, rfl, rfl⟩
theorem forgetReaders (s : State) (k : Nat) : SameAgents s (forgetReaders s k) := ⟨rfl, rfl, rfl⟩
theorem dropEntries (s : State) (p : DequeEntry → Bool) : SameAgents s (dropEntries s p) := ⟨rfl, rfl, rfl⟩
theorem cancelEngines (s : State) (k : Nat) : SameAgents s (cancelEngines s k) := by
  have hloads : SameAgents s (dropLoads s k) := foldl (fun u b => by
    split
    · exact setBlock ..
    · exact refl u) _ s
  have hcut (u : State) (m : Map Nat Tile) : SameAgents u { u with tiles := m } := ⟨rfl, rfl, rfl⟩
  unfold Machine.cancelEngines
  extract_lets u hit v w
  exact ((hloads.trans (hcut u _)).trans (mapFrozen _ v)).trans (foldl (fun u t => addDueOnce u (.matrixOperationStart t)) hit w)
theorem dropInterval (s : State) (k : Nat) (x : Task) : SameAgents s (dropInterval s k x) :=
  ((((cancelEngines s k).trans (mapAllocs ..)).trans (forgetParked ..)).trans (dropEntries ..)).trans (setTask ..)
theorem noteCount (s : State) (l : Nat) : SameAgents s (noteCount s l) := by
  unfold Machine.noteCount
  split
  · split
    · exact addDueOnce ..
    · exact refl s
  · exact refl s
theorem leaveLaunch (s : State) (k : Nat) (x : Task) : SameAgents s (leaveLaunch s k x) := by
  have hpay : SameAgents s (freePayload s x) := by
    unfold freePayload
    split <;> exact ⟨rfl, rfl, rfl⟩
  have hleft (u : State) : SameAgents u (Machine.forgetReaders { u with tasks := mdel u.tasks k } k) := ⟨rfl, rfl, rfl⟩
  exact (hpay.trans (hleft _)).trans (noteCount ..)
theorem leaveGone (s : State) (k : Nat) : SameAgents s (leaveGone s k) := by
  unfold Machine.leaveGone
  split
  · split
    · exact setTask ..
    · exact leaveLaunch ..
  · exact refl s
theorem pushEntry (s : State) (t : Nat) (e : DequeEntry) : SameAgents s (pushEntry s t e) := by
  unfold Machine.pushEntry
  dsimp only
  split
  · exact ⟨rfl, rfl, rfl⟩
  · refine addedDue ?_ _
    exact ⟨rfl, rfl, rfl⟩
theorem requeueTask (s : State) (k : Nat) (x : Task) : SameAgents s (requeueTask s k x) :=
  by
  have hnamed (y : Task) : SameAgents s (s.fresh.2.setTask k y) := ⟨rfl, rfl, rfl⟩
  exact addedDue ((hnamed _).trans (pushEntry ..)) _
theorem setFrozen (s : State) (h : Nat) (f : Frozen → Frozen) : SameAgents s (setFrozen s h f) := by
  unfold Machine.setFrozen
  split
  · exact setBlock ..
  · exact refl s
theorem frozenFate (s : State) (k : Nat) (f : Fate) (x : Task) (z : Frozen) : SameAgents s (frozenFate s k f x z) := by
  unfold Machine.frozenFate
  extract_lets note
  refine of_ite (setFrozen ..) ?_
  have hfreed (g : Frozen → Frozen) : SameAgents s (Machine.setFrozen (Machine.dropInterval s k x).fresh.2 x.handle g) :=
    ((dropInterval s k x).trans (fresh _)).trans (setFrozen ..)
  refine of_ite (((hfreed _).trans (dropEntries ..)).trans (leaveGone ..)) (of_ite (hfreed _) (SameAgents.trans ?_ (setFrozen ..)))
  split
  · exact (hfreed _).trans (setTask ..)
  · exact hfreed _
theorem regainLock (s : State) (t c : Nat) (m : Stream) : SameAgents s (regainLock s t c m) := by
  unfold Machine.regainLock
  split
  · exact foldl (fun u p => setTile u _ _) _ s
  · exact refl s
theorem regainLocks (s : State) (t c : Nat) : SameAgents s (regainLocks s t c) :=
  foldl (fun _ _ => (regainLock ..).trans (addDueOnce ..)) _ s
theorem beatsDue (s : State) (t c : Nat) : SameAgents s (beatsDue s t c) :=
  foldl (fun u k => by
    split
    · exact addDueOnce ..
    · exact refl u) _ s

/-! ## Images -/

theorem imagePhys {t c off pa : Nat} {acc : AccKind} (h : imagePhys s t c off acc = .ok (pa, u)) : SameAgents s u := by
  unfold Machine.imagePhys at h
  dsimp only at h
  split at h <;> cases h
  exact tileTranslate ‹_›

/-- What each of a run of steps leaves, the run leaves. -/
theorem runSteps : ∀ (l : List (State → State × Option Trap)) (_ : ∀ f ∈ l, ∀ u, SameAgents u (f u).1) (s : State), SameAgents s (runSteps s l).1
  | [], _, s => refl s
  | f :: r, h, s => (h f (List.mem_cons_self ..) s).trans (runSteps r (fun g hg => h g (List.mem_cons_of_mem _ hg)) _)
theorem writeImage (s : State) (t c base first off : Nat) (bs : List Byte) : SameAgents s (writeImage s t c base first off bs).1 := by
  refine runSteps _ (fun f hf u => ?_) s
  obtain ⟨k, -, rfl⟩ := List.mem_map.1 hf
  dsimp only
  split
  · exact refl u
  · have hhead src pa := (tileTranslate ‹_›).trans (edgeHead _ t src pa)
    exact of_ite ((hhead _ _).trans (putPhys ..)) (hhead _ _)
theorem checkpointImages (s : State) (t c : Nat) : SameAgents s (checkpointImages s t c).1 := by
  unfold Machine.checkpointImages
  dsimp only
  split
  · exact refl s
  · refine runSteps _ (fun f hf u => ?_) s
    simp only [List.mem_append, List.mem_map, List.mem_singleton] at hf
    obtain (rfl | ⟨k, -, rfl⟩) | rfl := hf <;> exact writeImage ..

end SameAgents

end Sys2Proof.Machine
end

section
/-! PROOFS, the registers of a thread stay while others are written back, evicted, stopped and discarded around it (R142 to R145, R205). -/

namespace Sys2Proof.Machine

namespace SameAgents
variable (s : State) (t c : Nat)

theorem dropFopen : SameAgents s (dropFopen s t c) := ⟨rfl, rfl, rfl⟩
theorem dropClean : SameAgents s (dropClean s t c) := setTile ..
theorem dropCleanAccs : SameAgents s (dropCleanAccs s t c) := setTile ..
theorem dropLines : SameAgents s (dropLines s t c) := setTile ..
theorem dropAccs : SameAgents s (dropAccs s t c) := setTile ..
theorem slotFreed : SameAgents s (slotFreed s t) := addDueOnce ..
theorem sendTrap (code info : Nat) (handover : Bool) : SameAgents s (sendTrap s t c code info handover) := recordFrom ..

end SameAgents

/-- From s to u thread (t, c) keeps its general registers, and its task unless that leaves the context; the current agent stays. -/
structure KeepsThread (t c : Nat) (s u : State) : Prop where
  cur : u.cur = s.cur
  g : (u.ctx t c).regs.g = (s.ctx t c).regs.g
  task : (u.ctx t c).task = (s.ctx t c).task ∨ (u.ctx t c).task = none

namespace KeepsThread
variable {t c : Nat} {s u v : State}

theorem of_same (h : SameAgents s u) : KeepsThread t c s u := by
  have hctx : u.ctx t c = s.ctx t c := by simp only [State.ctx, h.ctxs]
  exact ⟨h.cur, by rw [hctx], .inl (by rw [hctx])⟩
theorem refl (s : State) : KeepsThread t c s s := of_same (.refl s)
theorem trans (h : KeepsThread t c s u) (h' : KeepsThread t c u v) : KeepsThread t c s v :=
  ⟨h'.cur.trans h.cur, h'.g.trans h.g, h'.task.elim (fun e => by rw [e]; exact h.task) .inr⟩
theorem same (h : KeepsThread t c s u) (h' : SameAgents u v) : KeepsThread t c s v := h.trans (of_same h')
theorem of_ite {p : Prop} [Decidable p] (hu : KeepsThread t c s u) (hv : KeepsThread t c s v) : KeepsThread t c s (if p then u else v) := by
  split
  · exact hu
  · exact hv
theorem foldl {α : Type} {f : State → α → State} (hf : ∀ u x, KeepsThread t c u (f u x)) (l : List α) (s : State) :
    KeepsThread t c s (l.foldl f s) := foldl_keeps (KeepsThread t c s) f (fun u x h => h.trans (hf u x)) l s (refl s)
/-- A context set with its registers and its task, or without a task. -/
theorem setCtx {t' c' : Nat} {x : Ctx} (hg : x.regs.g = (s.ctx t' c').regs.g) (ht : x.task = (s.ctx t' c').task ∨ x.task = none) :
    KeepsThread t c s (s.setCtx t' c' x) := by
  by_cases he : (t', c') = (t, c)
  · cases he
    exact ⟨rfl, by rw [State.ctx_setCtx_same]; exact hg, by rw [State.ctx_setCtx_same]; exact ht⟩
  · have hctx : (s.setCtx t' c' x).ctx t c = s.ctx t c := State.ctx_setCtx_other _ _ _ _ _ _ (Ne.symm he)
    exact ⟨rfl, by rw [hctx], .inl (by rw [hctx])⟩
/-- The same at the end of a chain. -/
theorem thenCtx {t' c' : Nat} {x : Ctx} (h : KeepsThread t c s u) (hg : x.regs.g = (u.ctx t' c').regs.g)
    (ht : x.task = (u.ctx t' c').task ∨ x.task = none) : KeepsThread t c s (u.setCtx t' c' x) := h.trans (setCtx hg ht)

/-! ## Write-back, eviction and IMAGEFAULT (R142 to R145) -/

theorem withImageLine_g (r : Regs) (k : Nat) (b : List Byte) (h : 2 ≤ k) : (withImageLine r k b).g = r.g := by
  obtain ⟨k, rfl⟩ := Nat.exists_eq_add_of_le' h
  cases k <;> rfl
theorem runSteps : ∀ (l : List (State → State × Option Trap)) (_ : ∀ f ∈ l, ∀ u, KeepsThread t c u (f u).1) (s : State),
    KeepsThread t c s (runSteps s l).1
  | [], _, s => refl s
  | f :: r, h, s => (h f (List.mem_cons_self ..) s).trans (runSteps r (fun g hg => h g (List.mem_cons_of_mem _ hg)) _)

section
variable (s : State) (t' c' : Nat)

theorem writeBackLine (k : Nat) : KeepsThread t c s (writeBackLine s t' c' k).1 := by
  unfold Machine.writeBackLine
  split
  · exact refl s
  · split
    · exact refl s
    · rename_i u hu
      have hhead src pa := (SameAgents.imagePhys hu).trans (SameAgents.edgeHead u t' src pa)
      exact thenCtx (of_same (SameAgents.of_ite ((hhead _ _).trans (SameAgents.putPhys ..)) (hhead _ _))) rfl (.inl rfl)
theorem writeBack : KeepsThread t c s (writeBack s t' c').1 := by
  refine runSteps _ (fun f hf u => ?_) s
  obtain ⟨k, -, rfl⟩ := List.mem_map.1 hf
  exact writeBackLine ..
theorem vectorLeave : KeepsThread t c s (vectorLeave s t' c').1 := by
  unfold Machine.vectorLeave
  dsimp only
  split
  · exact refl s
  · have hset (v : VecState) : KeepsThread t c s (s.setCtx t' c' { s.ctx t' c' with vec := v }) := setCtx rfl (.inl rfl)
    have hwritten bs : KeepsThread t c s (writeImage (s.setCtx t' c' { s.ctx t' c' with vec := dropBeats (s.ctx t' c').vec }) t' c'
        (s.ctx t' c').vimg 4 0 bs).1 := (hset _).same (SameAgents.writeImage ..)
    split
    · exact hwritten _
    · exact thenCtx (hwritten _) rfl (.inl rfl)
theorem writeAcc (a : Nat) : KeepsThread t c s (writeAcc s t' c' a).1 := by
  unfold Machine.writeAcc
  dsimp only
  split
  · exact of_same (SameAgents.writeImage ..)
  · exact of_same ((SameAgents.writeImage ..).trans (SameAgents.setTile ..))
theorem writeTail : KeepsThread t c s (writeTail s t' c').1 := by
  unfold Machine.writeTail
  dsimp only
  split
  · exact of_same (SameAgents.writeImage ..)
  · exact thenCtx (of_same (SameAgents.writeImage ..)) rfl (.inl rfl)
theorem matrixLeave : KeepsThread t c s (matrixLeave s t' c').1 := by
  refine runSteps _ (fun f hf u => ?_) s
  obtain hf | hf := List.mem_append.1 hf
  · obtain ⟨e, -, rfl⟩ := List.mem_map.1 hf
    exact writeAcc ..
  · split at hf <;> simp only [List.mem_singleton, List.not_mem_nil] at hf
    subst hf
    exact writeTail ..
theorem switchOut : KeepsThread t c s (switchOut s t' c').1 := by
  have hleft : KeepsThread t c (dropFopen s t' c') (Machine.runSteps (dropFopen s t' c')
      [fun s => Machine.writeBack s t' c', fun s => Machine.vectorLeave s t' c', fun s => Machine.matrixLeave s t' c']).1 := by
    refine runSteps _ (fun f hf u => ?_) _
    simp only [List.mem_cons, List.not_mem_nil, or_false] at hf
    obtain rfl | rfl | rfl := hf
    · exact writeBack ..
    · exact vectorLeave ..
    · exact matrixLeave ..
  exact (((of_same (SameAgents.dropFopen ..)).trans hleft).same (SameAgents.dropClean ..)).same (SameAgents.dropCleanAccs ..)

section
variable {stop : State → Nat → Nat → Trap → State} (hstop : ∀ u t' c' tr, KeepsThread t c u (stop u t' c' tr))
include hstop

theorem evictFrom : ∀ (l : List (Nat × Nat)) (s : State), KeepsThread t c s (evictFrom stop s t' l)
  | [], s => refl s
  | (c', k) :: r, s => by
    have hback : KeepsThread t c s (Machine.writeBackLine s t' c' k).1 := writeBackLine ..
    unfold Machine.evictFrom
    split
    · exact refl s
    · split
      · exact evictFrom r s
      · dsimp only
        split
        · exact trans (of_ite (hback.trans (hstop ..)) hback) (evictFrom r _)
        · exact hback.same (SameAgents.setTile ..)
theorem ensureLineBy {k : Nat} (hk : 2 ≤ k) : KeepsThread t c s (ensureLineBy stop s t' c' k) := by
  have hroom := evictFrom t' hstop (s.tile t').rclru.reverse s
  unfold Machine.ensureLineBy
  split
  · exact refl s
  · refine (hroom.trans ?_).same (SameAgents.setTile ..)
    split
    · exact refl _
    · rename_i u hu
      have hmet pa := (SameAgents.imagePhys hu).trans (SameAgents.meetAt u pa 64)
      refine ((of_same (hmet _)).trans (setCtx ?_ (.inl ?_)))
      · rw [withImageLine_g _ _ _ hk]
        simp only [State.ctx, (SameAgents.meetAt ..).ctxs]
      · simp only [State.ctx, (SameAgents.meetAt ..).ctxs]
theorem trapImageBy (tr : Trap) : KeepsThread t c s (trapImageBy stop s t' c' tr) := by
  unfold Machine.trapImageBy
  extract_lets u x y v
  have hu : KeepsThread t c s u := (ensureLineBy s t' c' hstop (le_refl 2)).trans (ensureLineBy _ t' c' hstop (by decide))
  have hv : KeepsThread t c s v := thenCtx hu rfl (.inl rfl)
  exact ((hv.trans (switchOut v t' c')).same (SameAgents.slotFreed ..)).same (SameAgents.sendTrap ..)

end

theorem trapImageTo : ∀ (n : Nat) (s : State) (t' c' : Nat) (tr : Trap), KeepsThread t c s (trapImageTo n s t' c' tr)
  | 0, s, _, _, _ => refl s
  | n + 1, s, t', c', tr => trapImageBy s t' c' (trapImageTo n) tr
theorem trapImage (tr : Trap) : KeepsThread t c s (trapImage s t' c' tr) := trapImageTo ..
theorem orImageFault (f : Option Trap) : KeepsThread t c s (orImageFault f s t' c') := by
  cases f with
  | none => exact refl s
  | some tr => exact trapImage ..
theorem ensureTrapLines : KeepsThread t c s (ensureTrapLines s t' c') :=
  (ensureLineBy s t' c' trapImage (le_refl 2)).trans (ensureLineBy _ t' c' trapImage (by decide))
theorem makeResident (k : Nat) : KeepsThread t c s (makeResident s t' c' k) := by
  unfold Machine.makeResident
  exact (of_ite (refl s) (evictFrom t' trapImage _ s)).same (SameAgents.setTile ..)
theorem dirtied (l : List Nat) : KeepsThread t c s (s.setCtx t' c' { s.ctx t' c' with dirty := l }) := setCtx rfl (.inl rfl)
theorem makeAllResident : KeepsThread t c s (makeAllResident s t' c') :=
  (foldl (fun u k => makeResident u t' c' k) [2, 3, 0, 1] s).trans (dirtied ..)

/-! ## Discards of other tasks (R205, R423) -/

theorem freeContext (x : Task) : KeepsThread t c s (freeContext s x) := by
  have hfreed : KeepsThread t c s (s.setCtx x.tile x.ctx (freedCtx (s.ctx x.tile x.ctx))) := setCtx rfl (.inr rfl)
  have hdropped := of_ite (p := (s.ctx x.tile x.ctx).guest = true) (hfreed.same (SameAgents.dropLines _ x.tile x.ctx))
    (hfreed.same (SameAgents.dropAccs _ x.tile x.ctx))
  exact (hdropped.same (SameAgents.slotFreed ..)).same (SameAgents.addDueOnce ..)
/-- A context queued afresh, when it is another than the thread's. -/
theorem enqueueFresh {t' c' : Nat} (h : (t, c) ≠ (t', c')) (x : Ctx) : KeepsThread t c s (enqueueFresh s t' c' x) := by
  have hset (u : State) (y : Ctx) : KeepsThread t c u (u.setCtx t' c' y) := by
    have hctx : (u.setCtx t' c' y).ctx t c = u.ctx t c := State.ctx_setCtx_other _ _ _ _ _ _ h
    exact ⟨rfl, by rw [hctx], .inl (by rw [hctx])⟩
  have hdropped (p : Bool) : KeepsThread t c s (if p then s else dropAccs s t' c') := of_ite (refl s) (of_same (SameAgents.dropAccs ..))
  exact (((hdropped _).trans (hset ..)).same (SameAgents.slotFreed ..)).trans (makeAllResident ..)

end

end KeepsThread

end Sys2Proof.Machine
end

section
/-! PROOFS, the end of a thread's interval leaves its registers: what it discards runs again in other contexts (R171, R202, R399, R423, R424). -/

namespace Sys2Proof.Machine

theorem dropInterval_place {s : State} {k : Nat} {x y : Task} (h : (dropInterval s k x).task? k = some y) : y.tile = x.tile ∧ y.ctx = x.ctx := by
  rw [dropInterval, State.task_setTask_same, Option.some.injEq] at h
  subst h
  exact ⟨rfl, rfl⟩
theorem holdsTask_task {x : Ctx} {k : Nat} (h : holdsTask x k = true) : x.task = some k := by
  simp only [holdsTask, Bool.and_eq_true, beq_iff_eq] at h
  exact h.1.1

theorem drawnIn_restart (s : State) (j k : Nat) : (k, Fate.restart) ∉ drawnIn s j := by
  unfold drawnIn
  split
  · exact List.not_mem_nil
  · simp only [List.mem_append, List.mem_filterMap, not_or, not_exists, not_and]
    refine ⟨fun p _ h => ?_, fun p _ h => ?_⟩
    · split at h <;> simp at h
    · split at h
      · split at h <;> simp at h
      · simp at h

/-- The fates that a cascade deals are those it began with, and of the tasks drawn in none runs again in place (R423, R424). -/
theorem cascade_restart (s : State) {k : Nat} : ∀ (n : Nat) (l acc : List (Nat × Fate)), (k, Fate.restart) ∈ cascade s n l acc →
    (k, Fate.restart) ∈ l ∨ (k, Fate.restart) ∈ acc
  | 0, _, _, h => .inr h
  | _ + 1, [], _, h => .inr h
  | n + 1, (j, f) :: r, acc, h => by
    unfold cascade at h
    split at h
    · obtain h | h := cascade_restart s n _ _ h
      · exact .inl (List.mem_cons_of_mem _ h)
      · split at h
        · obtain ⟨p, hp, he⟩ := List.mem_map.1 h
          split at he
          · cases he
          · exact .inr (he ▸ hp)
        · exact .inr h
    · obtain h | h := cascade_restart s n _ _ h
      · obtain h | h := List.mem_append.1 h
        · exact .inl (List.mem_cons_of_mem _ h)
        · exact absurd h (drawnIn_restart s j k)
      · obtain h | h := List.mem_append.1 h
        · exact .inr h
        · rw [List.mem_singleton.1 h]
          exact .inl (List.mem_cons_self ..)

theorem abortedBy_self (s : State) (k launch stamp : Nat) (lines : List Loc) : (k, Fate.restart) ∉ abortedBy s k launch stamp lines := by
  simp [abortedBy]

theorem SameAgents.setLaunch (s : State) (l : Nat) (x : Launch) : SameAgents s (s.setLaunch l x) := ⟨rfl, rfl, rfl⟩

namespace KeepsThread
variable {t c : Nat} {s u v : State}

/-- A restart in place of the task whose thread the context of x holds, when it is not the thread (t, c). -/
theorem restartInPlace (s : State) (x : Task) (y : Ctx) (e : Option Trap) (h : (t, c) ≠ (x.tile, x.ctx)) : KeepsThread t c s
    (Machine.orImageFault e (regainLocks (Machine.enqueueFresh (Machine.ensureTrapLines s x.tile x.ctx) x.tile x.ctx y) x.tile x.ctx) x.tile x.ctx) :=
  (((ensureTrapLines s x.tile x.ctx).trans (enqueueFresh _ h _)).same (SameAgents.regainLocks ..)).trans (orImageFault ..)

/-- A fate dealt to a task: one that runs again in place is not the thread's. -/
theorem dealFate (s : State) {k : Nat} {f : Fate} (h : f = .restart → (s.ctx t c).task ≠ some k) : KeepsThread t c s (dealFate s k f) := by
  unfold Machine.dealFate
  split
  · exact refl s
  · rename_i x hx
    split
    · exact of_same (SameAgents.frozenFate ..)
    · extract_lets +onlyGivenNames ctx held
      have hdrop : KeepsThread t c s (dropInterval s k x) := of_same (SameAgents.dropInterval s k x)
      refine of_ite (setCtx rfl (.inl rfl)) ?_
      extract_lets +onlyGivenNames u
      split
      · exact hdrop
      · rename_i y hy
        have hfreed : KeepsThread t c s (if held then Machine.freeContext u y else u) := of_ite (hdrop.trans (freeContext ..)) hdrop
        have hrequeued : KeepsThread t c s (if y.phase = .requeued then u else requeueTask (if held then Machine.freeContext u y else u) k y) :=
          of_ite hdrop (hfreed.same (SameAgents.requeueTask ..))
        split
        · exact (of_ite (hdrop.trans (freeContext ..)) (hdrop.same (SameAgents.dropEntries ..))).same (SameAgents.leaveGone ..)
        · split
          · rename_i hin
            refine hdrop.trans (restartInPlace u y _ _ fun he => ?_)
            have hplace := dropInterval_place hy
            have hheld : (s.ctx x.tile x.ctx).task = some k := holdsTask_task (Bool.and_eq_true_iff.1 (Bool.and_eq_true_iff.1 hin).1).2
            rw [← hplace.1, ← hplace.2, ← (Prod.mk.inj he).1, ← (Prod.mk.inj he).2] at hheld
            exact h rfl hheld
          · exact hrequeued
        · exact hrequeued

/-- Discards that run no task of the context again in place. -/
theorem discardTasks {s u : State} {l : List (Nat × Fate)} (hu : KeepsThread t c s u)
    (h : ∀ k, (s.ctx t c).task = some k → (k, Fate.restart) ∉ l) : KeepsThread t c s (discardTasks u l) := by
  have hfate : ∀ p ∈ cascade u ((u.tasks.length + 1) * (u.tasks.length + 1) + l.length) l [], p.2 = .restart → (s.ctx t c).task ≠ some p.1 := by
    rintro ⟨k, f⟩ hp rfl hk
    obtain hl | hnil := cascade_restart u _ _ _ hp
    · exact h k hk hl
    · cases hnil
  unfold Machine.discardTasks
  revert hfate
  generalize cascade u _ l [] = r
  induction r generalizing u with
  | nil => exact fun _ => hu
  | cons p r ih =>
    intro hfate
    refine ih (hu.trans (dealFate u fun hf => ?_)) fun p hp => hfate p (List.mem_cons_of_mem _ hp)
    obtain hkept | hleft := hu.task
    · rw [hkept]
      exact hfate p (List.mem_cons_self ..) hf
    · rw [hleft]
      exact nofun

/-- What the interval of the context's own task becomes when it is made visible (R202). -/
theorem publish {k : Nat} (hk : (s.ctx t c).task = some k) (x : Task) : KeepsThread t c s (publish s k x) := by
  unfold Machine.publish
  extract_lets +onlyGivenNames lines dead s1 s2 s3
  have hs3 : SameAgents s s3 := ((SameAgents.foldl (SameAgents.publishLine x) lines s).trans
    (SameAgents.foldl (fun u w => SameAgents.recordCommit ..) x.recs.reverse s1)).trans (SameAgents.mapAllocs (allocsEnded k) s2)
  extract_lets +onlyGivenNames s4
  have hs4 : SameAgents s s4 := by
    unfold s4
    split
    · exact hs3.trans (SameAgents.setLaunch ..)
    · exact hs3
  refine discardTasks (of_same ((hs4.trans (SameAgents.setTask ..)).trans (SameAgents.forgetReaders ..))) fun j hj hdead => ?_
  obtain rfl : k = j := Option.some.inj (hk.symm.trans hj)
  exact abortedBy_self s k _ _ _ hdead

/-- The end of an interval of the context's task (R399). -/
theorem endInterval {k : Nat} (hk : (s.ctx t c).task = some k) (x : Task) : KeepsThread t c s (endInterval s k x).1 := by
  have hpub := publish hk x
  unfold Machine.endInterval
  extract_lets +onlyGivenNames u
  split
  · exact hpub
  · rename_i y hy
    have hbeats (v : VecState) : KeepsThread t c s (u.setCtx y.tile y.ctx { u.ctx y.tile y.ctx with vec := v }) := thenCtx hpub rfl (.inl rfl)
    extract_lets +onlyGivenNames x0 x1 r
    have hr : KeepsThread t c s r.1 := (hbeats (dropBeats x0.vec)).same (SameAgents.checkpointImages _ y.tile y.ctx)
    have hset (z : Task) : KeepsThread t c s (r.1.setTask k z) := hr.same (SameAgents.setTask ..)
    dsimp only
    exact (hset _).same (SameAgents.beatsDue ..)

/-- A task that is ready to write shared lines (R171): the registers of its thread are what they were. -/
theorem settle {q : Req} (hq : ∀ k, q.task = some k → (s.ctx t c).task = some k) (h : settle s q = .ok u) : KeepsThread t c s u := by
  unfold Machine.settle at h
  split at h
  · rename_i k x hk hx
    split at h
    · cases h
    · split at h
      · cases h; exact refl s
      · split at h
        · unfold afterInterval at h
          split at h <;> cases h
          exact endInterval (hq k hk) x
        · cases h
  · cases h; exact refl s

end KeepsThread

end Sys2Proof.Machine
end

section
/-! PROOFS, lda, stl and the atomics (R171, R211 to R213, Table 6.13). -/

namespace Sys2Proof.Machine

/-- The pointer with the bits below the access size cleared, as the statements write it. -/
theorem alignedPtr_eq (s : State) (b : Reg) (n : Nat) :
    alignedPtr s b n = Stated.ptrPlus (s.getG b) (-(((s.getG b).toNat % 2 ^ 54 % n : Nat) : Int)) := by
  have hdiv : (((s.getG b).toNat % 2 ^ 54 / n * n : Nat) : Int) =
      ((s.getG b).toNat % 2 ^ 54 : Nat) + -(((s.getG b).toNat % 2 ^ 54 % n : Nat) : Int) := by
    have := Nat.div_add_mod' ((s.getG b).toNat % 2 ^ 54) n
    omega
  rw [alignedPtr, addrOf, withAddr, Stated.ptrPlus, ← hdiv, Int.natCast_mul, Int.natCast_ediv]
  rfl

section
variable {s u v w : State} {n : Nat} {a b c : Reg} {xs : List Place}

theorem ldaBody_ok (h : checkNow s (curReq s) .read (alignedPtr s b n) n = .ok (xs, u)) : ldaBody n a b s =
    .ok ((acquired (meetPlaces u (curReq s) xs)).setG a (w64 (fromBytes (readAllNow u (curReq s) xs)))).retire := by
  generalize hbody : ldaBody = body
  delta ldaBody at hbody
  subst hbody
  generalize checkNow = checkNow' at h ⊢
  revert checkNow'
  refine id fun checkNow' h => ?_
  simp only [h, alu]
theorem stlBody_ok (h : checkNow s (curReq s) .write (alignedPtr s b n) n = .ok (xs, u))
    (hw : writeAllNow u (curReq s) xs (toBytes n (s.getG a).toNat) = .ok v) : stlBody n a b s = .ok v.retire := by
  generalize hbody : stlBody = body
  delta stlBody at hbody
  subst hbody
  generalize checkNow = checkNow' at h ⊢
  generalize writeAllNow = writeAllNow' at hw ⊢
  revert checkNow' writeAllNow'
  refine id fun checkNow' h writeAllNow' hw => ?_
  simp only [h, hw]
theorem amoBody_ok {op : Nat → Nat → Nat → Nat} (h : checkNow s (curReq s) .atomic (alignedPtr s b n) n = .ok (xs, u))
    (hready : (if !(curReq s).core && xs.any Place.shared then settle u (curReq s) else .ok u) = .ok v)
    (hw : writeAllNow (meetPlaces v (curReq s) xs) (curReq s) xs (toBytes n (op (fromBytes (readAllNow v (curReq s) xs))
      ((s.getG c).toNat % 2 ^ (8 * n)) ((s.getG a).toNat % 2 ^ (8 * n)))) = .ok w) :
    amoBody n op a b c s = .ok ((acquired w).setG a (w64 (fromBytes (readAllNow v (curReq s) xs)))).retire := by
  generalize hbody : amoBody = body
  delta amoBody at hbody
  subst hbody
  generalize checkNow = checkNow' at h ⊢
  generalize settle = settle' at hready ⊢
  generalize writeAllNow = writeAllNow' at hw ⊢
  revert checkNow' settle' writeAllNow'
  refine id fun checkNow' h settle' hready writeAllNow' hw => ?_
  simp only [h, hready, hw, alu]

end

/-- A task made ready to write shared lines has the registers of its thread. -/
theorem settle_getG {s u v : State} (hs : Stated.ThreadOrCore s) (hsame : SameAgents s u) (h : settle u (curReq s) = .ok v) (r : Reg) :
    v.getG r = s.getG r := by
  obtain ⟨t, c, hc⟩ | ⟨i, k, hc⟩ := threadOrCore_cases hs
  · have hkeep : KeepsThread t c s v := by
      have hctx : u.ctx t c = s.ctx t c := by simp only [State.ctx, hsame.ctxs]
      refine (KeepsThread.of_same hsame).trans (KeepsThread.settle (fun k hk => ?_) h)
      rw [curReq, hc] at hk
      rw [hctx]
      exact hk
    simp only [State.getG, State.regs, hkeep.cur, hc, State.regsOf, hkeep.g]
  · have hnone : (curReq s).task = none := by simp only [curReq, hc, coreReq]
    rw [settle, hnone] at h
    cases h
    exact hsame.getG hs r

/-- Every atomic is execAmo of its size, operation and registers. -/
theorem exec_amoOf {s : State} {i : Instr} {z : Fin 4} {a b c : Reg} {op : Nat → Nat → Nat → Nat} (h : Stated.amoOf i = some (z, a, b, c, op)) :
    exec i s = execAmo z op a b c s := by
  have hmin (z : Fin 4) (x : Nat) : (BitVec.ofNat (8 * 2 ^ z.val) x).toInt = sextN x (8 * sizeBytes z.val) := (sextN_eq (by positivity) x).symm
  unfold Stated.amoOf at h
  split at h <;> cases h
  case h_5 => simp only [hmin]; delta exec; rfl
  case h_6 => simp only [hmin]; delta exec; rfl
  all_goals (delta exec; rfl)

end Sys2Proof.Machine

namespace Sys2Proof.Proofs
open Sys2Proof.Machine

/-- Settles O26: each body by its checks and its write; a task made ready keeps the registers of its thread. -/
theorem acquireReleaseAtomics : Obligations.AcquireReleaseAtomics := by
  unfold Obligations.AcquireReleaseAtomics
  intro s hs q at_
  have hat (b : Reg) (n : Nat) : alignedPtr s b n = at_ b n := alignedPtr_eq s b n
  refine ⟨fun z a b sc la xs u hu => ?_, fun z a b sc la xs u v hu hw => ?_, fun i z a b c op xs u v w hi hu hv => ?_⟩
  · exact (runInstr_ok (localBoth_allows hs) (ldaBody_ok (by rw [hat]; exact hu)) : execLda z a b sc la s = _)
  · exact (runInstr_ok (localBoth_allows hs) (stlBody_ok (by rw [hat]; exact hu) hw) : execStl z a b sc la s = _)
  · have hsame : SameAgents s u := SameAgents.checkNow hu
    obtain ⟨hready, hreg⟩ : (if !q.core && xs.any Place.shared then settle u q else .ok u) = .ok v ∧ ∀ r, v.getG r = s.getG r := by
      split at hv
      next hshared => exact ⟨by rw [if_pos (by simpa using hshared)]; exact hv, settle_getG hs hsame hv⟩
      next hplain =>
        subst hv
        exact ⟨if_neg (by simpa using hplain), hsame.getG hs⟩
    intro old m hw
    rw [exec_amoOf hi]
    rw [hreg, hreg] at hw
    exact runInstr_ok (localBoth_allows hs) (amoBody_ok (by rw [hat]; exact hu) hready hw)

end Sys2Proof.Proofs
end

section
/-! PROOFS, a mres whose write of MPROG finds a full register cache (R143, R144, R325). -/

namespace Sys2Proof.Machine

/-- A mres of accumulator 0, retired, at the head of a queue. -/
def mresHead : MatOp := { ctx := 0, task := none, req := 1, xm := 8, acc := 0, retired := true }
/-- The page of the images at address 0 in the TLB of a cluster. -/
def imagePage : TlbEntry :=
  { page := 0, size := 4096, tenant := 0, world := true, out := 0x40000000, r := true, w := true, x := false, tp := true, kind := 2 }
/-- Tile 0 starts a mres of context 0, whose MPROG names a stop of the accumulator. The tile's register cache holds the 64 lines of contexts 1 to 16;
the least recently used, g0 to g7 of context 1, is dirty. -/
def fullCache : State :=
  { ctxs := [((0, 0), { regs := { mprog := 0x8000000000000000 } }), ((0, 1), { regs := { g := (Vector.replicate 16 0).set 0 1 }, dirty := [0] })]
    tiles := [(0, { matq := [mresHead], rclru := (List.range 64).map fun i => (16 - i / 4, 3 - i % 4) })]
    clusters := [(0, { tlb := [imagePage] })] }

/-- The line of MPROG takes the place of the dirty one, whose write-back is in memory after the step. -/
theorem startBody_fullCache_mem : (startBody fullCache 0).mem = [(0x40000000, 1)] := by decide +kernel

end Sys2Proof.Machine

namespace Sys2Proof.Proofs
open Sys2Proof.Machine

/-- Refutes O56: the start of a mres may evict a dirty line of the register cache, so that memory does not stay. -/
theorem not_taskAndEngineSteps : ¬ Obligations.TaskAndEngineSteps := by
  unfold Obligations.TaskAndEngineSteps
  rintro ⟨-, -, -, -, -, -, -, -, -, -, -, -, -, hmatrix, -⟩
  have hstart := hmatrix fullCache 0 mresHead [] rfl (.inl rfl)
  obtain ⟨hmres, -⟩ := hstart.1 rfl (by decide) (by decide)
  obtain ⟨u, hexec, -, -, -, hmem⟩ := hmres rfl
  have hu : startBody fullCache 0 = u := Host.Outcome.next.inj hexec
  rw [← hu, startBody_fullCache_mem] at hmem
  exact List.cons_ne_nil _ _ hmem

end Sys2Proof.Proofs
end

section
/-! PROOFS, vector instructions of whole registers: lanes and words put in place, reductions and conversions by their lanes, a cleared live bit
(R228, R229, R239 to R244). -/

namespace Sys2Proof.Machine

/-! ## Registers whose lanes are given (R227, R228) -/

theorem laneWidth_le (fmt : Nat) : laneWidth fmt ≤ 256 := by
  unfold laneWidth
  split <;> decide

/-- The first n lanes given, the bits above them zero. -/
theorem hasLanes_ofLanes_prefix {w n : Nat} (h : w * n ≤ 256) (f : Nat → Nat) :
    Stated.HasLanes (ofLanes w ((List.range n).map f)) w fun k => if k < n then f k else 0 := by
  intro k _
  rw [lane_ofLanes (by simpa using h)]
  by_cases hk : k < n <;> simp [List.getD_eq_getElem?_getD, hk]

/-- One lane given, the bits above it zero. -/
theorem hasLanes_ofLanes_single {w : Nat} (h : w ≤ 256) (x : Nat) : Stated.HasLanes (ofLanes w [x]) w fun k => if k = 0 then x else 0 := by
  have hone := hasLanes_ofLanes_prefix (n := 1) ((Nat.mul_one w).trans_le h) fun _ => x
  simpa [Nat.lt_one_iff] using hone

/-- Every lane the same. -/
theorem hasLanes_ofLanes_replicate (w x : Nat) : Stated.HasLanes (ofLanes w (List.replicate (256 / w) x)) w fun _ => x := by
  simpa using hasLanes_ofLanes (w := w) fun _ => x

/-- One word replaced by the low word of a register, the others as before (R244). -/
theorem hasLanes_setWordLane (v : Vec) (k : Nat) (x : Word) :
    Stated.HasLanes (setWordLane v k (fld x 31 0)) 32 fun j => if j = k then x.toNat else lane v 32 j := by
  have hlow : fld x 31 0 = x.toNat % 2 ^ 32 := bits_zero x 32
  intro j hj
  rw [setWordLane, hlow, lane_ofLanes (by simp [lanesOf])]
  by_cases hjk : j = k
  · subst hjk
    simp [lanesOf, List.getD_eq_getElem?_getD, hj]
  · simp [lanesOf, List.getD_eq_getElem?_getD, Ne.symm hjk, hjk, hj]

/-! ## Reductions and conversions (R239, R240) -/

theorem reduce_lanes (a : Reg) (fmt : Nat) (f : List Nat → Nat × Word) (vs : List (List Vec)) :
    let r := f (lanesOf (opnd vs 0) (laneWidth fmt))
    ∃ x, reduce a fmt f vs = { at_ := a.val, regs := [x], fp := r.2 } ∧ Stated.HasLanes x (laneWidth fmt) fun k => if k = 0 then r.1 else 0 :=
  ⟨_, rfl, hasLanes_ofLanes_single (laneWidth_le fmt) _⟩

theorem cvtRegs_lanes (a : Reg) (src dst : Nat) (m : FMods) (vs : List (List Vec)) :
    let n := min (256 / laneWidth src) (256 / laneWidth dst)
    let cv (k : Nat) := convert src dst (RMode.ofCode m.rm) (scaleOf m.scale) m.clamp m.neg1 m.abs1 (lane (opnd vs 0) (laneWidth src) k)
    ∃ x, cvtRegs a src dst m vs = { at_ := a.val, regs := [x], fp := (List.range n).foldl (fun g k => g ||| (cv k).2) 0 } ∧
      Stated.HasLanes x (laneWidth dst) fun k => if k < n then (cv k).1 else 0 := by
  intro n cv
  have hfit : laneWidth dst * n ≤ 256 :=
    (Nat.mul_le_mul_left _ (Nat.min_le_right ..)).trans (Nat.mul_div_le 256 _)
  refine ⟨_, ?_, hasLanes_ofLanes_prefix hfit fun k => (cv k).1⟩
  simp only [cvtRegs, List.map_map, foldl_flags]
  rfl

/-! ## The word that vext gives (R244) -/

theorem i64_sextN (x : Nat) : i64 (sextN x 32) = (BitVec.ofNat 32 x).signExtend 64 := congrArg i64 (slane_eq (by decide) x).symm

/-! ## vclr (R229, R244) -/

/-- A set bit of a number is clear after its weight is taken away. -/
theorem testBit_sub_set {n k : Nat} (h : n.testBit k = true) : (n - 2 ^ k).testBit k = false := by
  have hle : 2 ^ k ≤ n := Nat.ge_two_pow_of_testBit h
  rw [← Nat.add_sub_cancel' hle, Nat.testBit_two_pow_add_eq, Bool.not_eq_true'] at h
  exact h

/-- The vector state with register k zeroed and its live bit clear. -/
def clearV (v : VecState) (k : Nat) : VecState :=
  { writeV v k 0 with vlive := if fieldN v.vlive k k = 1 then v.vlive - 2 ^ k else v.vlive }

theorem clearV_vlive (v : VecState) (k : Nat) : (clearV v k).vlive.testBit k = false := by
  rw [clearV]
  split
  next hset => exact testBit_sub_set ((fieldN_bit _ _).mp hset)
  next hclear => exact Bool.eq_false_iff.mpr fun h => hclear ((fieldN_bit _ _).mpr h)

theorem readV_clearV (v : VecState) (k : Nat) : readV (clearV v k) k = 0 :=
  if_neg fun h => Bool.eq_false_iff.mp (clearV_vlive v k) ((fieldN_bit _ _).mp h)

theorem bits_w64_clear {n k : Nat} (h : n.testBit k = false) : Stated.bits (w64 n) k 1 = 0 := by
  have hbit : (n % 2 ^ 64).testBit k = false := by rw [Nat.testBit_mod_two_pow, h, Bool.and_false]
  rw [Nat.testBit_eq_decide_div_mod_eq, decide_eq_false_iff_not] at hbit
  rw [Stated.bits, w64, BitVec.toNat_ofNat, Nat.pow_one]
  omega

theorem vclrBody_resident {s : State} {t c : Nat} (hc : s.cur = .thread t c) (hext : (s.ctx t c).extResident = true) (a : Reg) :
    vclrBody a s = .ok (setVec s t c (clearV (s.ctx t c).vec a.val)).retire := by
  simp [vclrBody, clearV, hc, hext]

theorem vec_allows {s : State} {t c : Nat} (hc : s.cur = .thread t c) : vecProfile.allows s.cur = true := by rw [hc]; rfl

end Sys2Proof.Machine

namespace Sys2Proof.Proofs
open Sys2Proof.Machine

/-- Settles O32: every one but vclr is execVec of its operands, whose result has the lanes named. -/
theorem vectorWholeRegisters : Obligations.VectorWholeRegisters := by
  unfold Obligations.VectorWholeRegisters
  intro s u t c hc hext
  have hexec {l n vs} (f : State → List (List Vec) → VResult) (h : operands s t c l n = .ok (vs, u)) :
      execVec l n f s = .next (putResult u t c (f s vs)) := execVec_operands f hc hext h
  refine ⟨fun z a b d vs h => ⟨?_, ?_, ?_, fun m => ⟨_, ?_, hasLanes_ofLanes _⟩⟩, fun z a b => ⟨_, ?_, hasLanes_ofLanes_replicate _ _⟩,
    fun z a b k vs h _ => ⟨_, ?_, hasLanes_setWordLane _ _ _⟩, fun z a b k vs h => ?_,
    fun a _ => ⟨_, ?_, readV_clearV .., bits_w64_clear (clearV_vlive ..), rfl⟩,
    fun z a b m vs h => ?_, fun dst src a b m vs h => ?_, fun z a b d o vs h => ?_, fun z a b d o m vs h => ?_⟩
  · exact (hexec _ h : execVand z a b d s = _)
  · exact (hexec _ h : execVor z a b d s = _)
  · exact (hexec _ h : execVxor z a b d s = _)
  · exact (hexec _ h : execVperm z a b d m s = _)
  · have hnone : operands s t c [] 1 = .ok ([], s) := operands_registers s t c 1 (by simp)
    exact (execVec_operands _ hc hext hnone : execVbcast z a b s = _)
  · exact (hexec _ h : execVins z a b k s = _)
  · intro x
    rw [← i64_sextN]
    exact (hexec _ h : execVext z a b k s = _)
  · exact (runInstr_ok (vec_allows hc) (vclrBody_resident hc hext a) : execVclr a s = _)
  · intro w one
    have hreduce {f : List Nat → Nat × Word} {i : Instr} (hi : exec i s = execVec [b] 1 (fun _ => reduce a z.val f) s) :
        one (f (lanesOf (opnd vs 0) w)) i := by
      obtain ⟨x, hx, hlanes⟩ := reduce_lanes a z.val f vs
      exact ⟨x, by rw [hi, hexec _ h, hx], hlanes⟩
    exact ⟨hreduce (by delta exec; rfl), hreduce (by delta exec; rfl), hreduce (by delta exec; rfl)⟩
  · obtain ⟨x, hx, hlanes⟩ := cvtRegs_lanes a src.val dst.val m vs
    exact ⟨x, (hx ▸ hexec _ h : execVcvt dst src a b m s = _), hlanes⟩
  · exact (hexec _ h : execVqnt z a b d o s = _)
  · exact (hexec _ h : execVdqnt z a b d o m s = _)

end Sys2Proof.Proofs
end

section
/-! PROOFS, vld, vst and the stream instructions of a thread whose extension state is resident (R234, R245 to R250). -/

namespace Sys2Proof.Machine

/-- Where a moved stream stands: n beats on, or at its end when fewer remain (R250). -/
theorem advance_within {m : Stream} {n : Nat} (h : n ≤ m.remain) : (advance m n).pos = m.pos + n ∧ (advance m n).ended = m.ended := by
  rw [advance, if_neg (Nat.not_lt.mpr h)]
  exact ⟨rfl, rfl⟩

theorem advance_beyond {m : Stream} {n : Nat} (h : m.remain < n) : (advance m n).pos = m.total ∧ (advance m n).ended = true := by
  rw [advance, if_pos h]
  exact ⟨rfl, rfl⟩

section
variable {s u : State} {t c : Nat} (hc : s.cur = .thread t c) (hext : (s.ctx t c).extResident = true)
include hc hext

theorem vldBody_ok {a b : Reg} {d : Int} {bs : List Byte} (h : loadBytes s (Stated.ptrPlus (s.getG b) d) 32 = .ok (bs, u)) :
    vldBody a b d s = .ok (putResult u t c (whole a (BitVec.ofNat 256 (fromBytes bs)))) := by
  have hload : loadBytes s (movedPtr s b d) 32 = .ok (bs, u) := h
  simp [vldBody, hc, hext, hload]

theorem vstBody_ok {a b : Reg} {d : Int}
    (h : storeBytes s (Stated.ptrPlus (s.getG b) d) (toBytes 32 (readV (s.ctx t c).vec a.val).toNat) = .ok u) :
    vstBody a b d s = .ok u.retire := by
  have hstore : storeBytes s (movedPtr s b d) (toBytes 32 (readV (s.ctx t c).vec a.val).toNat) = .ok u := h
  simp [vstBody, hc, hext, hstore]

/-- A stream bound after its record is read and checked, the older stream unbound and its range found to fit (R247). -/
theorem sbindBody_ok {fmt : Nat} {a b : Reg} {bs : List Byte} {v : State} {rg : List RangeSpec}
    (hload : memLoad s (threadReq s t c) false (s.getG b) 32 = .ok (bs, u)) (hok : patternOk bs fmt = true)
    (hwindow : patternWindow (patternOf bs) = none) (hv : unbindStream u t c (a.val - 12) = v)
    (hrg : streamRange v t (v.ctx t c).handle (blockTenant v (v.ctx t c).handle) v.nextId (v.ctx t c).task fmt (patternOf bs) = rg)
    (hfit : rangesFit v rg = true) :
    sbindBody fmt a b s = .ok (((setVec (registerRanges { v with nextId := v.nextId + 1 } rg) t c (setStream (v.ctx t c).vec (a.val - 12)
      { bound := true, fmt := fmt, pattern := bs, total := ((patternOf bs).count + beatElems fmt - 1) / beatElems fmt,
        req := v.nextId })).addDueOnce (.beatArrival t c (a.val - 12))).retire) := by
  subst hv hrg
  simp only [sbindBody, hc, hext, hload, hok, hwindow]
  -- the range reads no field that the fresh name changes, so that hfit speaks of the state that the body tests
  exact if_neg (ne_false_of_eq_true hfit)

theorem sunbindBody_ok (a : Reg) : sunbindBody a s = .ok (unbindStream s t c (a.val - 12)).retire := by simp [sunbindBody, hc, hext]

theorem sadvBody_unbound {a b : Reg} (h : (streamOf (s.ctx t c).vec (a.val - 12)).bound = false) :
    sadvBody a b s = .error (.trap (illegalOp s)) := by simp [sadvBody, hc, hext, h]

theorem sadvBody_bound {a b : Reg} (h : (streamOf (s.ctx t c).vec (a.val - 12)).bound = true) : sadvBody a b s =
    .ok ((setVec s t c (setStream (s.ctx t c).vec (a.val - 12) (advance (streamOf (s.ctx t c).vec (a.val - 12)) (s.getG b).toNat))).addDueOnce
      (.beatArrival t c (a.val - 12))).retire := by simp [sadvBody, hc, hext, h]

theorem sstatBody_ok (a b : Reg) : sstatBody a b s = .ok (alu a (streamWord (streamOf (s.ctx t c).vec (b.val - 12))) s) := by
  simp [sstatBody, hc, hext]

end

end Sys2Proof.Machine

namespace Sys2Proof.Proofs
open Sys2Proof.Machine

/-- Settles O33: each instruction runs its body, and the thread's resident extension state lets that go to its end. -/
theorem vectorMemoryAndStreams : Obligations.VectorMemoryAndStreams := by
  unfold Obligations.VectorMemoryAndStreams
  intro s t c hc hext
  have hallows := vec_allows hc
  refine ⟨fun a b la i d hi bs u h => ?_, fun a b la i d hi u h => ?_, fun fmt a b bs u hload => ?_, fun a => ?_,
    fun a b => ⟨fun h => ?_, fun h => ⟨_, ?_, advance_within, advance_beyond⟩⟩, fun a b => ?_⟩
  · have hrun {d' : Int} (hd : d = d') : runInstr vecProfile s (vldBody a b d') = _ := runInstr_ok hallows (vldBody_ok hc hext (hd ▸ h))
    obtain ⟨o, rfl, hd⟩ | ⟨o, rfl, hd⟩ := hi
    · exact (hrun hd : execVldK a b la o s = _)
    · exact (hrun hd : execVldKL a b la o s = _)
  · have hrun {d' : Int} (hd : d = d') : runInstr vecProfile s (vstBody a b d') = _ := runInstr_ok hallows (vstBody_ok hc hext (hd ▸ h))
    obtain ⟨o, rfl, hd⟩ | ⟨o, rfl, hd⟩ := hi
    · exact (hrun hd : execVstK a b la o s = _)
    · exact (hrun hd : execVstKL a b la o s = _)
  · intro p v rg hok hwindow hfit
    exact (runInstr_ok hallows (sbindBody_ok hc hext hload hok hwindow rfl rfl hfit) : execSbind fmt a b s = _)
  · exact (runInstr_ok hallows (sunbindBody_ok hc hext a) : execSunbind a s = _)
  · exact (runInstr_error hallows (sadvBody_unbound hc hext h) : execSadv a b s = _)
  · exact (runInstr_ok hallows (sadvBody_bound hc hext h) : execSadv a b s = _)
  · exact (runInstr_ok hallows (sstatBody_ok hc hext a b) : execSstat a b s = _)

end Sys2Proof.Proofs
end

section
/-! PROOFS, movement programs: each instruction on the request that the current Zephyr context runs (R278, R286 to R288). -/

namespace Sys2Proof.Machine

section
variable {s : State} {t zc : Nat} {r : ZReq} (hc : s.cur = .zephyr t zc) (hr : s.zreqOf? t zc = some r)
include hc hr

/-- A movement-program instruction runs its body on the context's request. -/
theorem zephyrBody_request (f : Nat → ZReq → State → Except Stop State) : zephyrBody f s = f t r s := by simp only [zephyrBody, hc, hr]
theorem runZephyr_ok {f : Nat → ZReq → State → Except Stop State} {u : State} (h : f t r s = .ok u) :
    runInstr zprogram s (zephyrBody f) = .next u :=
  runInstr_ok (by rw [hc]; rfl) ((zephyrBody_request hc hr f).trans h)
theorem runZephyr_error {f : Nat → ZReq → State → Except Stop State} {st : Stop} (h : f t r s = .error st) :
    runInstr zprogram s (zephyrBody f) = .next (onStop s (ownEngine engZephyr st)) :=
  runInstr_error (by rw [hc]; rfl) ((zephyrBody_request hc hr f).trans h)
/-- An argument that R288 refuses is the copy fault ZARG of the request. -/
theorem runZephyr_zarg {f : Nat → ZReq → State → Except Stop State} (h : f t r s = .error (.trap zArg)) :
    runInstr zprogram s (zephyrBody f) = .next (takeCopyFault s t r zArg) :=
  (runZephyr_error hc hr h).trans (congrArg Host.Outcome.next (raise_zephyr hc hr zArg))
/-- A stop that keeps a change of the request, as zhalt's does, is a copy fault of the request changed. -/
theorem runZephyr_kept {f : Nat → ZReq → State → Except Stop State} {q : ZReq} {tr : Trap} (huid : q.uid = r.uid) (hzc : q.zc = r.zc)
    (hown : ownEngine engZephyr (.trap tr) = .trap tr) (h : f t r s = .error (.kept (s.setZreq t q) (some tr))) :
    runInstr zprogram s (zephyrBody f) = .next (takeCopyFault (s.setZreq t q) t q tr) := by
  have hkept : ownEngine engZephyr (.kept (s.setZreq t q) (some tr)) = .kept (s.setZreq t q) (some tr) :=
    congrArg (fun x => Stop.kept (s.setZreq t q) (some x)) (Stop.trap.inj hown)
  rw [runZephyr_error hc hr h, hkept, onStop, raise_zephyr (s := s.setZreq t q) hc (zreqOf_setZreq hr huid hzc)]

end

/-- Every register operation writes the value of zvalue to its destination. -/
theorem exec_zvalue {r : ZReq} {i : Instr} {a : Reg} {v : Word} (h : Stated.zvalue r i = some (a, v)) (s : State) :
    ∃ f, exec i s = execZreg a f s ∧ f r = v := by
  unfold Stated.zvalue at h
  split at h <;> cases h <;> (delta exec; exact ⟨_, rfl, rfl⟩)

/-- The copy that a zcopy of zA, zB, zC describes (R287). -/
def programCopy (r : ZReq) (a b c : Reg) : Copy :=
  { src := zreg r b, dst := zreg r a, sstride := r.sstride, dstride := r.dstride, rows := r.zrows, len := (zreg r c).toNat }

section
variable {a b c : Reg} {t : Nat} {r : ZReq} {s : State}

theorem zcopyBody_tooLong (h : 16777215 < (zreg r c).toNat) : zcopyBody a b c t r s = .error (.trap zArg) := if_pos h
theorem zcopyBody_empty (h : (zreg r c).toNat = 0) : zcopyBody a b c t r s = .ok s.retire := by simp [zcopyBody, h]
/-- Every row permitted and none that waits: all are copied, and the row to go on from is the first again. -/
theorem zcopyBody_copied {u : State} {m : Nat} (hpos : 0 < (zreg r c).toNat) (hmax : (zreg r c).toNat ≤ 16777215)
    (hcheck : checkRows s (zreqReq s t r) r (programCopy r a b c) ((programCopy r a b c).rows - r.row) r.row = none)
    (hcopy : copyRows s (zreqReq s t r) r (programCopy r a b c) ((programCopy r a b c).rows - r.row) r.row = (u, m, none)) :
    zcopyBody a b c t r s = .ok (u.setZreq t (passed { r with row := 0 })).retire := by
  rw [programCopy] at hcheck hcopy
  simp only [zcopyBody, if_neg (Nat.not_lt.mpr hmax), if_neg hpos.ne', hcheck, hcopy]

end

end Sys2Proof.Machine

namespace Sys2Proof.Proofs
open Sys2Proof.Machine

/-- Settles O36: each instruction runs its body on the context's request; a refused argument and zhalt are copy faults of that request. -/
theorem movementPrograms : Obligations.MovementPrograms := by
  unfold Obligations.MovementPrograms
  intro s t zc r hc hr q
  refine ⟨fun i a v hv => ?_, fun a b c bs u hread => ?_, fun a b c u hwrite => ?_, fun a b c => ?_, fun b c => ⟨fun hrows => ?_, fun hrows => ?_⟩,
    fun b => ?_, ?_⟩
  · obtain ⟨f, hexec, rfl⟩ := exec_zvalue hv s
    exact hexec.trans (runZephyr_ok hc hr rfl)
  · have hread' : zephyrRead s (zreqReq s t r) r (zadd (zreg r b) (zreg r c).toInt) 8 = .ok (bs, u) := hread
    exact (runZephyr_ok hc hr (by simp only [hread']; rfl) : execZld a b c s = _)
  · have hwrite' : zephyrWrite s (zreqReq s t r) r (zadd (zreg r b) (zreg r c).toInt) (toBytes 8 (zreg r a).toNat) = .ok u := hwrite
    exact (runZephyr_ok hc hr (by simp only [hwrite']; rfl) : execZst a b c s = _)
  · exact ⟨fun hlong => (runZephyr_zarg hc hr (zcopyBody_tooLong hlong) : execZcopy a b c s = _),
      fun hnone => (runZephyr_ok hc hr (zcopyBody_empty hnone) : execZcopy a b c s = _),
      fun u m hpos hmax hcheck hcopy => (runZephyr_ok hc hr (zcopyBody_copied hpos hmax hcheck hcopy) : execZcopy a b c s = _)⟩
  · exact (runZephyr_zarg hc hr (if_pos hrows) : execZstride b c s = _)
  · rw [← sextN_eq (by decide), ← sextN_eq (by decide)]
    exact (runZephyr_ok hc hr (if_neg hrows) : execZstride b c s = _)
  · exact (runZephyr_ok hc hr rfl : execZdone b s = _)
  · intro r'
    exact (runZephyr_kept (q := r') hc hr rfl rfl rfl rfl : execZhalt s = _)

end Sys2Proof.Proofs
end

section
/-! PROOFS, copy faults: the request that a copy fault leaves, and its record (R291, R293, Tables 9.1 and 9.7). -/

namespace Sys2Proof.Machine

/-- Does a fault meet the translation page of the request's last one (R293). -/
def refaults (r : ZReq) (tr : Trap) : Bool := tr.code == 0x16 && onFaultPage r (addrOf tr.addr) (faultSize tr.info.toNat)
/-- The request that a copy fault leaves (R291, Table 9.1). -/
def copyFaulted (s : State) (r : ZReq) (tr : Trap) : ZReq :=
  { r with
    state := .faulted, zc := none, fseq := (r.fseq + 1) % 256, rf := if refaults r tr then (if r.rf = 3 then 1 else r.rf + 1) else 0
    faultCode := if refaults r tr then 0x30 else tr.code, activeFor := r.activeFor + (s.cycle - r.since)
    faultPage := if tr.code = 0x16 then some (addrOf tr.addr, faultSize tr.info.toNat) else none }

/-- A copy fault writes its request and sends a record. -/
theorem takeCopyFault_eq (s : State) (t : Nat) (r : ZReq) (tr : Trap) :
    ∃ f : FaultRecord, takeCopyFault s t r tr = recordFrom (s.setZreq t (copyFaulted s r tr)) t f := ⟨_, rfl⟩
/-- Which has a path where every head has. -/
theorem takeCopyFault_clear {s : State} (hplain : plainRoutes s = true) (hclean : cleanRouters s = true) (t : Nat) (r : ZReq) (tr : Trap) :
    ∃ f : FaultRecord, takeCopyFault s t r tr = sendRecord (s.setZreq t (copyFaulted s r tr)) (homeIsland (clusterOf t)) f := by
  obtain ⟨f, hf⟩ := takeCopyFault_eq s t r tr
  exact ⟨f, hf.trans (recordFrom_clear (s := s.setZreq t (copyFaulted s r tr)) hplain hclean t f)⟩

theorem onFaultPage_iff (r : ZReq) (a size : Nat) : onFaultPage r a size = true ↔ ∃ p, r.faultPage = some p ∧ p.1 / size = a / size := by
  cases h : r.faultPage <;> simp [onFaultPage, h]
theorem refaults_iff (r : ZReq) (tr : Trap) : refaults r tr = true ↔ tr.code = 0x16 ∧
    ∃ p, r.faultPage = some p ∧ p.1 / faultSize tr.info.toNat = addrOf tr.addr / faultSize tr.info.toNat := by
  rw [refaults, Bool.and_eq_true, onFaultPage_iff, beq_iff_eq]
/-- Another fault on the page is REFAULT and counts (R293). -/
theorem copyFaulted_again {r : ZReq} {tr : Trap} (h : refaults r tr = true) (s : State) :
    (copyFaulted s r tr).faultCode = 0x30 ∧ (copyFaulted s r tr).rf = if r.rf = 3 then 1 else r.rf + 1 := ⟨if_pos h, if_pos h⟩
/-- Any other fault keeps its cause and starts the count. -/
theorem copyFaulted_first {r : ZReq} {tr : Trap} (h : ¬ refaults r tr = true) (s : State) :
    (copyFaulted s r tr).faultCode = tr.code ∧ (copyFaulted s r tr).rf = 0 := ⟨if_neg h, if_neg h⟩

/-- A request replaced by one of its name is found under that name. -/
theorem zreq_setZreq {s : State} {t : Nat} {r q : ZReq} (h : zreq? s t r.uid = some r) (huid : q.uid = r.uid) :
    zreq? (s.setZreq t q) t r.uid = some q := by
  have hname : ((fun x : ZReq => x.uid == r.uid) ∘ fun x => if x.uid = q.uid then q else x) = fun x : ZReq => x.uid == r.uid := by
    funext x
    by_cases hx : x.uid = r.uid <;> simp [hx, huid]
  rw [zreq?, State.setZreq, State.tile_setTile_same, List.find?_map, hname, ← zreq?, h, Option.map_some, if_pos huid.symm]

end Sys2Proof.Machine

namespace Sys2Proof.Proofs
open Sys2Proof.Machine

/-- Settles O37: the request left is copyFaulted, and its record arrives at the home island. -/
theorem copyFaultEntry : Obligations.CopyFaultEntry := by
  unfold Obligations.CopyFaultEntry
  intro s t r tr hreq hplain hclean u size again i
  obtain ⟨f, hu⟩ := takeCopyFault_clear hplain hclean t r tr
  have hagain : refaults r tr = true ↔ again := refaults_iff r tr
  rw [show u = _ from hu]
  refine ⟨rfl, List.mem_append_right _ (List.mem_singleton_self _), by simp [sendRecord, State.setZreq, i], copyFaulted s r tr,
    zreq_setZreq hreq rfl, rfl, rfl, rfl, rfl, rfl, rfl, fun h => copyFaulted_again (hagain.mpr h) s, fun h => copyFaulted_first (mt hagain.mp h) s⟩

end Sys2Proof.Proofs
end

section
/-! PROOFS, the thread side of the copy engine: zpost by the checks of Table 9.4, bseal, bwait and zstat (R279 to R285). -/

namespace Sys2Proof.Machine

/-- A trap of a copy-engine instruction of a thread names engine 5, unless its cause belongs to another (R136). -/
theorem runZthread_trap {s : State} {t c : Nat} {body : State → Except Stop State} {tr : Trap} (hc : s.cur = .thread t c)
    (h2 : tr.code ≠ 0x02) (h9 : tr.code ≠ 0x09) (hE : tr.code ≠ 0x1E) (h : body s = .error (.trap tr)) :
    runInstr zthread s body = .next (raise s { tr with engine := 5 }) := by
  rw [runInstr_error (by rw [hc]; rfl) h, ownEngine_trap h2 h9 hE]
  rfl
theorem runZthread_ok {s u : State} {t c : Nat} {body : State → Except Stop State} (hc : s.cur = .thread t c) (h : body s = .ok u) :
    runInstr zthread s body = .next u := runInstr_ok (by rw [hc]; rfl) h

/-! ## zpost from its step 5 on (R281) -/

/-- Where the settled task posts and the ranges fit, what zpostRest answers is what Posted says. -/
theorem posted_zpostRest {s : State} {t c kid : Nat} {a : Reg} {d : List Byte} {out : Host.Outcome State Fault Refusal}
    (hout : ∀ w, zpostRest a t c kid d s = .ok w → out = .next w) : Stated.Posted s t c kid a d out := by
  unfold Stated.Posted
  intro q v k hsettle hk v' rg id hfit
  have hv : (if (dstRange d).toList.any (reachesShared s (threadReq s t c)) then settle s (threadReq s t c) else .ok s) = .ok v := by
    split at hsettle
    next hshared => exact (if_pos hshared).trans hsettle
    next hunshared => exact (if_neg hunshared).trans (congrArg Except.ok hsettle.symm)
  have hk' : v.fresh.2.task? kid = some k := hk
  have hfit' : ¬ rangesFit v.fresh.2 (zephyrRanges v.fresh.2 t (threadReq s t c).handle (threadReq s t c).tenant v.fresh.1
      (threadReq s t c).task d) = false := ne_false_of_eq_true hfit
  apply hout
  simp only [zpostRest, hv, if_neg hfit', hk']
  rfl

/-! ## The checks of zpost (R281, Table 9.4) -/

theorem threadReq_task {s : State} {t c kid : Nat} {k : Task} (htask : (s.ctx t c).task = some kid) (hk : s.task? kid = some k) :
    (threadReq s t c).task = some kid ∧ (threadReq s t c).task? s = some k :=
  ⟨htask, by rw [Req.task?, threadReq, htask, Option.bind_some, hk]⟩

section
variable {s : State} {t c kid : Nat} {k : Task} (hc : s.cur = .thread t c) (htask : (s.ctx t c).task = some kid) (hk : s.task? kid = some k)
include hc htask hk

theorem curTask_thread : curTask? s = some (kid, k) := by simp [curTask?, hc, htask, hk]

theorem zpostBody_held (h : (s.ctx t c).posting ≠ []) (a b : Reg) : zpostBody a b s = zpostRest a t c kid (s.ctx t c).posting s := by
  obtain ⟨hkid, htask'⟩ := threadReq_task htask hk
  simp only [zpostBody, hc, hkid, htask', if_pos h]

section
variable {a b : Reg} {d : List Byte} {u : State} (hnew : (s.ctx t c).posting = [])
  (hread : readDesc s (threadReq s t c) (s.getG b) = .ok (d, u))
include hnew hread

theorem zpostBody_malformed (hbad : ¬ ((s.getG b).toNat % 64 = 0 ∧ descOk d false = true)) : zpostBody a b s = .ok (alu a zBadDesc u) := by
  obtain ⟨hkid, htask'⟩ := threadReq_task htask hk
  have hbad' : (s.getG b).toNat % 64 ≠ 0 ∨ descOk d false = false := by rwa [not_and_or, Bool.not_eq_true] at hbad
  simp only [zpostBody, hc, hkid, htask', if_neg (not_not.mpr hnew), hread, if_pos hbad']

section
variable (hok : (s.getG b).toNat % 64 = 0 ∧ descOk d false = true)
include hok

theorem zpostBody_outside {tr : Trap} (htrap : rangesTrap u (threadReq s t c) (declared d) = some tr) :
    zpostBody a b s = .error (.trap tr) := by
  obtain ⟨hkid, htask'⟩ := threadReq_task htask hk
  have hok' : ¬ ((s.getG b).toNat % 64 ≠ 0 ∨ descOk d false = false) := by rwa [not_or, not_not, Bool.not_eq_false]
  simp only [zpostBody, hc, hkid, htask', if_neg (not_not.mpr hnew), hread, if_neg hok', htrap]
/-- The checks after those of the windows, in their order. -/
theorem zpostBody_inside (htrap : rangesTrap u (threadReq s t c) (declared d) = none) : zpostBody a b s =
    if (declared d).any spansWindows then .ok (alu a zBadRange u)
    else if k.zcount = 255 then .ok (alu a zBatchFull u)
    else if 32 ≤ queueUsed u t then .ok (alu a zQueueFull u)
    else zpostRest a t c kid d (setPosting u t c d) := by
  obtain ⟨hkid, htask'⟩ := threadReq_task htask hk
  have hok' : ¬ ((s.getG b).toNat % 64 ≠ 0 ∨ descOk d false = false) := by rwa [not_or, not_not, Bool.not_eq_false]
  simp only [zpostBody, hc, hkid, htask', if_neg (not_not.mpr hnew), hread, if_neg hok', htrap]

end
end

/-! ## bseal, bwait and zstat (R282 to R284) -/

theorem bsealBody_opens (a : Reg) (h : k.zopen ≠ 0xFFFFFFFF) :
    bsealBody a s = .ok (alu a (w64 k.zopen) (s.setTask kid { k with zopen := k.zopen + 1, zcount := 0 })) := by
  simp only [bsealBody, curTask_thread hc htask hk, if_neg h]
theorem bsealBody_last (a : Reg) (h : k.zopen = 0xFFFFFFFF) : bsealBody a s = .error (.trap (badBatch k)) := by
  simp only [bsealBody, curTask_thread hc htask hk, if_pos h]

section
variable {b d : Reg} {bn n : Nat} (hbn : fld (s.getG b) 31 0 = bn) (hn : fld (s.getG d) 31 0 = n)
include hbn

theorem bwaitBody_unsealed (h : k.zopen ≤ bn) : bwaitBody b d s = .error (.trap (badBatch k)) := by
  simp only [bwaitBody, curTask_thread hc htask hk, hbn, if_pos h]

section
variable (hsealed : bn < k.zopen)
include hn hsealed

/-- No batch lies BN - N before the first. -/
theorem bwaitBody_beforeFirst (h : bn < n) : bwaitBody b d s = .ok s.retire := by
  simp only [bwaitBody, curTask_thread hc htask hk, hbn, hn, if_neg (Nat.not_le.mpr hsealed), if_pos h]

section
variable (hle : n ≤ bn) (hdone : batchOpen s kid (bn - n) = false)
include hle hdone

theorem bwaitBody_done (h : ∀ f ∈ k.zfailed, bn - n < f.1 / 256) : bwaitBody b d s = .ok s.retire := by
  have hnone : k.zfailed.find? (fun f => decide (f.1 / 2 ^ 8 ≤ bn - n)) = none :=
    List.find?_eq_none.mpr fun f hf => by simpa using h f hf
  simp only [bwaitBody, curTask_thread hc htask hk, hbn, hn, if_neg (Nat.not_le.mpr hsealed), if_neg (Nat.not_lt.mpr hle),
    if_neg (ne_true_of_eq_false hdone), hnone]
theorem bwaitBody_failed {f : Nat × Nat} (h : k.zfailed.find? (fun f => decide (f.1 / 2 ^ 8 ≤ bn - n)) = some f) :
    bwaitBody b d s = .ok (raise (s.setTask kid { k with zfailed := k.zfailed.erase f })
      { code := 0x1A, engine := engZephyr, info := w64 (f.1 + f.2 % 2 ^ 8 * 2 ^ 40) }) := by
  simp only [bwaitBody, curTask_thread hc htask hk, hbn, hn, if_neg (Nat.not_le.mpr hsealed), if_neg (Nat.not_lt.mpr hle),
    if_neg (ne_true_of_eq_false hdone), h]

end
end
end

theorem zstatBody_ok (a : Reg) : zstatBody a s = .ok (alu a (zstatWord s t kid k) s) := by
  simp only [zstatBody, hc, curTask_thread hc htask hk]

end

end Sys2Proof.Machine

namespace Sys2Proof.Proofs
open Sys2Proof.Machine

/-- Settles O35: zpost by its checks in order and then zpostRest; bseal, bwait and zstat by their bodies. -/
theorem zephyrThreadInstructions : Obligations.ZephyrThreadInstructions := by
  unfold Obligations.ZephyrThreadInstructions
  intro s t c kid k hc htask hk q
  have hrun {body : State → Except Stop State} {u : State} (h : body s = .ok u) : runInstr zthread s body = .next u := runZthread_ok hc h
  have hbatch {body : State → Except Stop State} (h : body s = .error (.trap (badBatch k))) :
      runInstr zthread s body = .next (raise s (badBatch k)) :=
    runZthread_trap (tr := badBatch k) hc (show 0x19 ≠ 0x02 by decide) (show 0x19 ≠ 0x09 by decide) (show 0x19 ≠ 0x1E by decide) h
  have hpost {a b la : Reg} {u : State} (h : zpostBody a b s = .ok u) : exec (.zpost a b la) s = .next u := (hrun h : execZpost a b la s = _)
  refine ⟨fun a b la hheld => ?_, fun a b la d u hnew hread => ?_, fun a => ⟨fun h => ?_, fun h => ?_⟩, fun b d => ⟨fun h => ?_, fun h hn => ?_,
    fun h hn hdone hnone => ?_, fun f h hn hdone hfound => ?_⟩, fun a => ?_⟩
  · exact posted_zpostRest fun w hw => hpost ((zpostBody_held hc htask hk hheld a b).trans hw)
  · intro rs ok answer
    refine ⟨fun hbad => ?_, fun tr hok htrap h2 h9 hE => ?_, fun hok htrap => ?_⟩
    · exact hpost (zpostBody_malformed hc htask hk hnew hread hbad)
    · exact (runZthread_trap hc h2 h9 hE (zpostBody_outside hc htask hk hnew hread hok htrap) : execZpost a b la s = _)
    · have hinside := zpostBody_inside (a := a) hc htask hk hnew hread hok htrap
      refine ⟨fun hspans => hpost (hinside.trans (if_pos hspans)), fun hspans => ?_, fun hspans => ?_, fun hspans => ?_⟩
      all_goals replace hinside := hinside.trans (if_neg (ne_true_of_eq_false hspans))
      · exact fun hfull => hpost (hinside.trans (if_pos hfull))
      · exact fun hroom hfull => hpost (hinside.trans ((if_neg hroom).trans (if_pos hfull)))
      · exact fun hroom hfree => posted_zpostRest fun w hw =>
          hpost (hinside.trans ((if_neg hroom).trans ((if_neg (Nat.not_le.mpr hfree)).trans hw)))
  · exact (hrun (bsealBody_opens hc htask hk a h) : execBseal a s = _)
  · exact (hbatch (bsealBody_last hc htask hk a h) : execBseal a s = _)
  · exact (hbatch (bwaitBody_unsealed hc htask hk rfl h) : execBwait b d s = _)
  · exact (hrun (bwaitBody_beforeFirst hc htask hk rfl rfl h hn) : execBwait b d s = _)
  · exact (hrun (bwaitBody_done hc htask hk rfl rfl h hn hdone hnone) : execBwait b d s = _)
  · exact (hrun (bwaitBody_failed hc htask hk rfl rfl h hn hdone hfound) : execBwait b d s = _)
  · exact (hrun (zstatBody_ok hc htask hk a) : execZstat a s = _)

end Sys2Proof.Proofs
end

section
/-! PROOFS, the matrix instructions of a thread: what retires at once, what enters the engine's queue, and what mabort takes out of it (R308, R311,
R312, R321 to R329). -/

namespace Sys2Proof.Machine

/-! ## A matrix instruction as its body -/

/-- A thread whose extension state and image lines are in place. -/
structure MatrixReady (s : State) (t c : Nat) : Prop where
  cur : s.cur = .thread t c
  ext : (s.ctx t c).extResident = true
  mat : (s.ctx t c).matResident = true
  lines : ∀ k, k < 4 → resident s t c k = true

section
variable {s : State} {t c : Nat} (h : MatrixReady s t c)
include h

theorem MatrixReady.matBody_eq (f : Nat → Nat → State → Except Stop State) : matBody f s = f t c s := by
  simp only [matBody, h.cur, extReady, h.ext, h.mat, Bool.and_self, if_true]

theorem MatrixReady.execMat_ok {f : Nat → Nat → State → Except Stop State} {u : State} (hf : f t c s = .ok u) : execMat f s = .next u :=
  runInstr_ok (by rw [h.cur]; rfl) ((h.matBody_eq f).trans hf)

theorem MatrixReady.execMat_waits {f : Nat → Nat → State → Except Stop State} (hf : f t c s = .error .wait) : execMat f s = .next s :=
  runInstr_error (st := .wait) (by rw [h.cur]; rfl) ((h.matBody_eq f).trans hf)

end

/-! ## MPROG of a context whose line is in place (R143, R328) -/

theorem State.regs_eq_ctx {s : State} {t c : Nat} (hcur : s.cur = .thread t c) : s.regs = (s.ctx t c).regs := by
  rw [State.regs, hcur]
  rfl

section
variable {s : State} {t c : Nat}

/-- MPROG written in a line that is in place: no line is filled and none is evicted. -/
theorem putMprog_resident (hline : resident s t c 3 = true) (v : Word) :
    putMprog s t c v = s.setRegsOf (.thread t c) [3] { s.regsOf (.thread t c) with mprog := v } := by
  rw [putMprog, ensureLine_resident hline]

theorem putMprog_onlyRegs (hline : resident s t c 3 = true) (v : Word) : OnlyRegs t c s (putMprog s t c v) := by
  rw [putMprog_resident hline]
  constructor <;> simp [State.setRegsOf]

theorem putMprog_mprog (hline : resident s t c 3 = true) (v : Word) : ((putMprog s t c v).ctx t c).regs.mprog = v := by
  rw [putMprog_resident hline]
  simp [State.setRegsOf]

theorem putMprog_regs_mprog (hcur : s.cur = .thread t c) (hline : resident s t c 3 = true) (v : Word) :
    (putMprog s t c v).regs.mprog = v := by
  rw [State.regs_eq_ctx ((putMprog_onlyRegs hline v).cur.trans hcur), putMprog_mprog hline]

/-- Flags entered in a line that is in place leave MPROG. -/
theorem enterFlags_mprog {o : MatOp} (hc : o.ctx = c) (hline : resident s t c 2 = true) :
    ((enterFlags s t o).ctx t c).regs.mprog = (s.ctx t c).regs.mprog := by
  subst hc
  unfold enterFlags
  split
  · rfl
  · rw [ensureLine_resident hline]
    have hraised := raiseFlags_regs (s := { s with cur := .thread t o.ctx }) (threadOrCore_of_thread rfl) o.fp o.qf
    rw [State.regs_eq_ctx (OnlyRegs.raiseFlags rfl ..).cur, State.regs_eq_ctx rfl] at hraised
    exact (congrArg Regs.mprog hraised :)

/-- Only the tiles say which lines are in place. -/
theorem resident_congr {u : State} {k : Nat} (h : (u.tile t).rclru = (s.tile t).rclru) : resident u t c k = resident s t c k := by
  rw [resident, resident, h]

theorem OnlyRegs.tile {u : State} (h : OnlyRegs t c s u) (t' : Nat) : u.tile t' = s.tile t' := by
  rw [State.tile, State.tile, h.tiles]

end

/-! ## Operations entered in the queue (R311) -/

/-- The row stride of MCFG is N where its field is 0 (R308). -/
theorem newOp_eq (s : State) (t c xm acc req : Nat) : newOp s t c xm acc req =
    { ctx := c, task := (s.ctx t c).task, req := req, xm := xm, acc := acc
      m := (s.ctx t c).mat.mcfg % 32 + 1, n := (s.ctx t c).mat.mcfg / 32 % 32 + 1
      lds := if (s.ctx t c).mat.mcfg / 2 ^ 16 % 2 ^ 11 = 0 then (s.ctx t c).mat.mcfg / 32 % 32 + 1
        else (s.ctx t c).mat.mcfg / 2 ^ 16 % 2 ^ 11 } := by
  have hm : fieldN (s.ctx t c).mat.mcfg 4 0 = (s.ctx t c).mat.mcfg % 32 := by simp [fieldN]
  simp only [newOp, hm]
  rfl

theorem registerRanges_matq (l : List RangeSpec) (s : State) (t : Nat) : ((registerRanges s l).tile t).matq = (s.tile t).matq := by
  refine foldl_keeps (fun u : State => (u.tile t).matq = (s.tile t).matq) _ (fun u p h => ?_) l s rfl
  by_cases ht : t = p.1
  · subst ht
    simpa using h
  · rw [State.tile_setTile_other _ _ _ _ ht, h]

theorem registerRanges_retired (l : List RangeSpec) (s : State) : (registerRanges s l).retired = s.retired :=
  foldl_keeps (fun u : State => u.retired = s.retired)
    (fun u (p : RangeSpec) => u.setTile p.1 { u.tile p.1 with locks := (u.tile p.1).locks ++ [p.2] }) (fun _ _ h => h) l s rfl

section
variable {s : State} {t : Nat}

theorem queueFull_eq_false (h : (s.tile t).matq.length < 8) : queueFull s t = false := by simp [queueFull, h]

@[simp] theorem pushOp_matq (o : MatOp) : ((pushOp s t o).tile t).matq = (s.tile t).matq ++ [o] := by simp [pushOp, setMatq]
theorem pushOp_due (o : MatOp) : .matrixOperationStart t ∈ (pushOp s t o).due := State.mem_addDueOnce ..
@[simp] theorem pushOp_cur (o : MatOp) : (pushOp s t o).cur = s.cur := State.addDueOnce_cur ..
@[simp] theorem pushOp_retired (o : MatOp) : (pushOp s t o).retired = s.retired := State.addDueOnce_retired ..
@[simp] theorem pushOp_ctx (o : MatOp) (t' c' : Nat) : (pushOp s t o).ctx t' c' = s.ctx t' c' := State.ctx_addDueOnce ..

/-- With room in the queue and in the tables of ranges an operation is entered. -/
theorem submit_ok {o : MatOp} {rs : List RangeSpec} (hroom : (s.tile t).matq.length < 8) (hfit : rangesFit s rs = true) :
    submit s t o rs = .ok (pushOp (registerRanges s rs) t o) := by
  simp [submit, queueFull_eq_false hroom, hfit]

theorem submitted_matq (o : MatOp) (rs : List RangeSpec) : ((pushOp (registerRanges s rs) t o).tile t).matq = (s.tile t).matq ++ [o] := by
  rw [pushOp_matq, registerRanges_matq]

theorem entered_with_ranges (v : State) (rs : List RangeSpec) (o : MatOp) :
    ((pushOp (registerRanges v rs) t o).tile t).matq = (v.tile t).matq ++ [o] ∧
      .matrixOperationStart t ∈ (pushOp (registerRanges v rs) t o).due ∧ (pushOp (registerRanges v rs) t o).mem = v.mem :=
  ⟨submitted_matq o rs, pushOp_due o, by simp⟩

/-- An operation entered after changes that leave the queue and memory. -/
theorem queued_pushOp {v : State} (hmatq : (v.tile t).matq = (s.tile t).matq) (hmem : v.mem = s.mem) (c : Nat) (o : MatOp) :
    Stated.Queued s (pushOp v t o) t c o false :=
  ⟨by rw [pushOp_matq, hmatq], pushOp_due o, by rw [pushOp_mem, hmem], nofun⟩

end

/-- An operation that its thread waits for. -/
theorem queued_awaitOp {s : State} {t c : Nat} (hcur : s.cur = .thread t c) (rs : List RangeSpec) {o : MatOp} (hreq : o.req = s.fresh.1) :
    Stated.Queued s (awaitOp (pushOp (registerRanges s.fresh.2 rs) t o) t c s.fresh.1) t c o true := by
  have honly := registerRanges_only rs s.fresh.2
  refine ⟨submitted_matq o rs, pushOp_due o, ?_, fun _ => ⟨?_, ?_, ?_⟩⟩
  · rw [awaitOp_mem, pushOp_mem, honly.mem]
    rfl
  · rw [hreq, awaitOp, State.ctx_setCtx_same]
  · have hcur' : (awaitOp (pushOp (registerRanges s.fresh.2 rs) t o) t c s.fresh.1).cur = .thread t c := by
      rw [awaitOp, State.setCtx_cur, pushOp_cur, honly.cur]
      exact hcur
    rw [State.getPc, State.getPc, State.regs_eq_ctx hcur', State.regs_eq_ctx hcur, awaitOp, State.ctx_setCtx_same, pushOp_ctx, State.ctx,
      honly.ctxs]
    rfl
  · rw [awaitOp, State.setCtx_retired, pushOp_retired, registerRanges_retired]
    rfl

/-! ## mzero, mres, mld and mst (R322 to R325) -/

section
variable {s : State} {t c : Nat} {a b : Reg}

theorem MatrixReady.exec_mzero (h : MatrixReady s t c) (hroom : (s.tile t).matq.length < 8) (la : Reg) : exec (.mzero a la) s = .next
    (pushOp s.fresh.2 t { newOp s.fresh.2 t c 1 a.val s.fresh.1 with retired := true }).retire :=
  h.execMat_ok (if_neg (ne_true_of_eq_false (queueFull_eq_false hroom)))

/-- MPROG as a mres of accumulator a leaves it: 0 where it names a stop of that accumulator (R325). -/
def mprogAfterMres (s : State) (t c a : Nat) : State :=
  let p := (s.ctx t c).regs.mprog
  if bitOf p 63 ∧ fld p 33 32 = a then putMprog s t c 0 else s

theorem mprogAfterMres_onlyRegs (hline : resident s t c 3 = true) (a : Nat) : OnlyRegs t c s (mprogAfterMres s t c a) := by
  unfold mprogAfterMres
  dsimp only
  split
  · exact putMprog_onlyRegs hline 0
  · exact .refl t c s

theorem mprogAfterMres_mprog (hline : resident s t c 3 = true) (a : Nat) : ((mprogAfterMres s t c a).ctx t c).regs.mprog =
    if bitOf (s.ctx t c).regs.mprog 63 ∧ fld (s.ctx t c).regs.mprog 33 32 = a then 0 else (s.ctx t c).regs.mprog := by
  unfold mprogAfterMres
  dsimp only
  split
  · exact putMprog_mprog hline 0
  · rfl

theorem newOp_mprogAfterMres (hline : resident s t c 3 = true) (a xm acc req : Nat) :
    newOp (mprogAfterMres s t c a) t c xm acc req = newOp s t c xm acc req := by
  unfold mprogAfterMres
  dsimp only
  split
  · rw [putMprog_resident hline]
    simp [newOp, State.setRegsOf]
  · rfl

theorem MatrixReady.exec_mres (h : MatrixReady s t c) (hroom : (s.tile t).matq.length < 8) (la : Reg) : exec (.mres a la) s = .next
    (pushOp (mprogAfterMres s.fresh.2 t c a.val) t
      { newOp (mprogAfterMres s.fresh.2 t c a.val) t c 8 a.val s.fresh.1 with retired := true }).retire :=
  h.execMat_ok (if_neg (ne_true_of_eq_false (queueFull_eq_false hroom)))

/-- The formats that mld takes: none named, INT32 and FP32 (R323). -/
theorem mldMode_isNone_eq_false {f : Nat} (h : f = 0 ∨ f = 3 ∨ f = 5) : (mldMode f).isNone = false := by
  rcases h with rfl | rfl | rfl <;> rfl

theorem mldBody_ok {o : MatOp} {rows : List (List Place)} {v : State} {rs : List RangeSpec}
    (ho : { newOp s.fresh.2 t c 2 a.val s.fresh.1 with aPtr := s.getG b, retired := true } = o)
    (hrs : rangeSpecs v t (s.fresh.2.ctx t c).handle (blockTenant v (s.fresh.2.ctx t c).handle) engMatrix s.fresh.1 (s.fresh.2.ctx t c).task false
      (addrOf (s.getG b)) (spanBytes o 4) = rs)
    (hptr : ptrOk (s.getG b) = true) (hfmt : ptrFmt (s.getG b) = 0 ∨ ptrFmt (s.getG b) = 3 ∨ ptrFmt (s.getG b) = 5)
    (hrows : rowPlaces s.fresh.2 (threadReq s.fresh.2 t c) .read o 4 = .ok (rows, v))
    (hfit : rangesFit v rs = true) (hroom : (v.tile t).matq.length < 8) :
    mldBody a b t c s = .ok (pushOp (registerRanges v rs) t { o with rows := rows }).retire := by
  subst ho hrs
  have hsubmit := submit_ok (o := { newOp s.fresh.2 t c 2 a.val s.fresh.1 with aPtr := s.getG b, retired := true, rows := rows }) hroom hfit
  simp only [mldBody, hptr, mldMode_isNone_eq_false hfmt, hrows, hsubmit, Bool.true_eq_false, Bool.false_eq_true, if_false]

theorem mstBody_ok {fmt rm : Fin 4} {cl : Bool} {o : MatOp} {rows : List (List Place)} {u v : State} {rs : List RangeSpec}
    (ho : { newOp s.fresh.2 t c 3 a.val s.fresh.1 with aPtr := s.getG b, mx := fmt.val, rm := rm, clamp := cl, retired := true } = o)
    (hrs : rangeSpecs v t (threadReq s.fresh.2 t c).handle (threadReq s.fresh.2 t c).tenant engMatrix s.fresh.1 (threadReq s.fresh.2 t c).task true
      (addrOf (s.getG b)) (spanBytes o (mstWidth fmt.val)) = rs)
    (hptr : ptrOk (s.getG b) = true) (hint : fmt.val = 0 ∨ (accAfter s t c a.val).mode ≠ 2)
    (hfmt : mstFmtOk (ptrFmt (s.getG b)) fmt.val (accAfter s t c a.val).mode = true)
    (hrows : rowPlaces s.fresh.2 (threadReq s.fresh.2 t c) .write o (mstWidth fmt.val) = .ok (rows, u))
    (hsettle : if rows.flatten.any Place.shared = true then settle u (threadReq s.fresh.2 t c) = .ok v else v = u)
    (hfit : rangesFit v rs = true) (hroom : (v.tile t).matq.length < 8) :
    mstBody fmt a b rm cl t c s = .ok (pushOp (registerRanges v rs) t { o with rows := rows }).retire := by
  subst ho hrs
  have hok : ¬ ((fmt.val ≠ 0 ∧ (accAfter s t c a.val).mode = 2) ∨ mstFmtOk (ptrFmt (s.getG b)) fmt.val (accAfter s t c a.val).mode = false) := by
    rw [hfmt]
    tauto
  have hsettled : (if rows.flatten.any Place.shared then settle u (threadReq s.fresh.2 t c) else .ok u) = .ok v := by
    split at hsettle
    · next hshared => rw [if_pos hshared, hsettle]
    · next hshared => rw [if_neg hshared, hsettle]
  have hsubmit := submit_ok hroom hfit (o := { newOp s.fresh.2 t c 3 a.val s.fresh.1 with
    aPtr := s.getG b, mx := fmt.val, rm := rm, clamp := cl, retired := true, rows := rows })
  simp only [mstBody, hptr, if_neg hok, hrows, hsettled, hsubmit, Bool.true_eq_false, if_false]

end

/-! ## The accumulate instructions (R312 to R316) -/

theorem exec_accumulate {i : Instr} {xm mx : Nat} {a b r e : Reg} (hi : Stated.accumulateOf i = some (xm, a, b, r, e, mx)) (s : State) :
    exec i s = execMat (accBody xm a b r e mx) s := by
  cases i <;> cases hi <;> rfl

/-- The K index at which an accumulate operation begins: that of the stop in MPROG, if there is one (R312, R317). -/
def firstIndex (mprog : Word) : Nat := if bitOf mprog 63 then fld mprog 15 0 else 0

/-- An operation entered for an accumulate instruction with its operands; those of mmacs are streams (R312, R315). -/
def accumulateOp (o : MatOp) (xm k0 : Nat) (b r : Reg) (pa pb : Panel) (mode k mx : Nat) : MatOp :=
  { o with
    aPtr := if xm = 6 then w64 (b.val - 12) else pa.ptr, bPtr := if xm = 6 then w64 (r.val - 12) else pb.ptr
    aFmt := pa.fmt, bFmt := pb.fmt, glog := pa.glog, k := k, kdone := k0, kfetch := k0, stepk := stepOf mode pa.glog, mx := mx }

/-- The range of an operand in memory: a part of rows rows for each of n steps (R215, R312). -/
def operandRange (s : State) (t c : Nat) (p : Panel) (glog st rows n : Nat) : List RangeSpec :=
  rangeSpecs s.fresh.2 t (s.fresh.2.ctx t c).handle (blockTenant s.fresh.2 (s.fresh.2.ctx t c).handle) engMatrix s.fresh.1
    (s.fresh.2.ctx t c).task false (addrOf p.ptr) (partBytes p.fmt glog st rows * n)

/-- The ranges of an accumulate operation: none for streams. -/
def accumulateRanges (s : State) (t c xm : Nat) (o : MatOp) (pa pb : Panel) (st k : Nat) : List RangeSpec :=
  if xm = 6 then [] else operandRange s t c pa pa.glog st o.m (k / st) ++ operandRange s t c pb pa.glog st o.n (k / st)

section
variable {s : State} {t c xm : Nat} {a b r e : Reg} {mx : Nat} {pa pb : Panel} {mode : Nat} (hbusy : accBusy s t c = false)
  (hpanels : panelsOf s t c xm b r = .ok (pa, pb)) (hchecks : accChecks s t c xm a.val pa pb (s.getG e).toNat = .ok mode)
include hbusy hpanels hchecks

/-- With K above 0 the operation is entered with its ranges, and the thread waits for it. -/
theorem accBody_enters {o : MatOp} (ho : newOp s.fresh.2 t c xm a.val s.fresh.1 = o) (hk : 0 < (s.getG e).toNat)
    (hroom : (s.tile t).matq.length < 8)
    (hfit : rangesFit s.fresh.2 (accumulateRanges s t c xm o pa pb (stepOf mode pa.glog) (s.getG e).toNat) = true) :
    accBody xm a b r e mx t c s = .ok (awaitOp (pushOp
      (registerRanges s.fresh.2 (accumulateRanges s t c xm o pa pb (stepOf mode pa.glog) (s.getG e).toNat)) t
      (accumulateOp o xm (firstIndex (s.fresh.2.ctx t c).regs.mprog) b r pa pb mode (s.getG e).toNat mx)) t c s.fresh.1) := by
  subst ho
  have hsubmit := submit_ok (s := s.fresh.2) hroom hfit (o := accumulateOp (newOp s.fresh.2 t c xm a.val s.fresh.1) xm
    (firstIndex (s.fresh.2.ctx t c).regs.mprog) b r pa pb mode (s.getG e).toNat mx)
  simp only [accumulateOp, accumulateRanges, operandRange, firstIndex] at hsubmit ⊢
  simp only [accBody, hbusy, hpanels, hchecks, if_neg (Nat.ne_of_gt hk), hsubmit, Bool.false_eq_true, if_false]

variable (hnamed : accNamed s t c a.val = false) (hk : (s.getG e).toNat = 0)
include hnamed hk

/-- With K 0 a Live accumulator keeps its elements wherever they are. -/
theorem accBody_zero_live (hlive : (accOf (s.ctx t c) a.val).live = true) :
    accBody xm a b r e mx t c s = .ok (putMprog (makeLive s t c a.val xm) t c 0).retire := by
  simp only [accBody, hbusy, hpanels, hchecks, if_pos hk, hnamed, hlive, Bool.false_eq_true, if_false, if_true]

/-- With K 0 an accumulator that was not Live is claimed as zero. -/
theorem accBody_zero_claims (hlive : (accOf (s.ctx t c) a.val).live = false) {u : State} (hclaim : claimAcc s t c a.val = .ok u) :
    accBody xm a b r e mx t c s = .ok (putMprog (touchAcc (makeLive u t c a.val xm) t c a.val true) t c 0).retire := by
  simp only [accBody, hbusy, hpanels, hchecks, if_pos hk, hnamed, hlive, hclaim, Bool.false_eq_true, if_false]

end

section
variable {s : State} {t c a : Nat}

/-- An accumulator that is neither Live nor held is claimed, empty, while a physical accumulator is free (R305). -/
theorem claimAcc_empty (hlive : (accOf (s.ctx t c) a).live = false) (ha : a < 4) (hheld : accHeld s t c a = false)
    (hfree : (s.tile t).physAcc.length < 8) : ∃ v, claimAcc s t c a = .ok v ∧ v.cur = s.cur ∧ v.mem = s.mem ∧
      (accOf (v.ctx t c) a).cells = [] ∧ ∀ k, resident v t c k = resident s t c k := by
  have hclaim : claimAcc s t c a = .ok (touchAcc (setAcc s t c a { accOf (s.ctx t c) a with cells := [] }) t c a false) := by
    simp only [claimAcc, hheld, hfree, hlive, if_true]
    rfl
  refine ⟨_, hclaim, rfl, rfl, ?_, fun k => resident_touchAcc false c k⟩
  rw [touchAcc_ctx, accOf_setAcc_same ha]

theorem OnlyRegs.accOf {u : State} (h : OnlyRegs t c s u) (a : Nat) : accOf (u.ctx t c) a = Machine.accOf (s.ctx t c) a := by
  rw [Machine.accOf, Machine.accOf, h.mat]

theorem resident_makeLive (xm c' k : Nat) : resident (makeLive s t c a xm) t c' k = resident s t c' k := rfl

theorem accHeld_touchAcc (d : Bool) : accHeld (touchAcc s t c a d) t c a = true := by simp [accHeld, touchAcc]

/-- An accumulator that is not one of the four reads as not Live. -/
theorem lt_of_accOf_live {x : Ctx} (h : (accOf x a).live = true) : a < 4 := by
  by_contra hge
  simp [accOf, List.getD_eq_getElem?_getD, hge] at h

theorem accOf_makeLive (ha : a < 4) (xm : Nat) : (accOf ((makeLive s t c a xm).ctx t c) a).live = true ∧
    (accOf ((makeLive s t c a xm).ctx t c) a).cells = (accOf (s.ctx t c) a).cells := by
  rw [makeLive, accOf_setAcc_same ha]
  exact ⟨rfl, rfl⟩

end

section
variable {s : State} {t c xm : Nat} {a b r e : Reg} {mx : Nat} {pa pb : Panel} {mode : Nat} {i : Instr} (hready : MatrixReady s t c)
  (hi : Stated.accumulateOf i = some (xm, a, b, r, e, mx)) (hnamed : accNamed s t c a.val = false) (hbusy : accBusy s t c = false)
  (hpanels : panelsOf s t c xm b r = .ok (pa, pb)) (hchecks : accChecks s t c xm a.val pa pb (s.getG e).toNat = .ok mode)
  (hk : (s.getG e).toNat = 0)
include hready hi hnamed hbusy hpanels hchecks hk

/-- An accumulate instruction of K 0 on a Live accumulator. -/
theorem exec_accumulate_zero_live (hlive : (accOf (s.ctx t c) a.val).live = true) : ∃ u : State, exec i s = .next u.retire ∧ u.regs.mprog = 0 ∧
    (accOf (u.ctx t c) a.val).cells = (accOf (s.ctx t c) a.val).cells ∧ u.mem = s.mem := by
  have hline : resident (makeLive s t c a.val xm) t c 3 = true := hready.lines 3 (by decide)
  have hkept := putMprog_onlyRegs hline 0
  have hexec := hready.execMat_ok (accBody_zero_live (mx := mx) hbusy hpanels hchecks hnamed hk hlive)
  refine ⟨_, (exec_accumulate hi s).trans hexec, putMprog_regs_mprog (s := makeLive s t c a.val xm) hready.cur hline 0, ?_, hkept.mem⟩
  rw [hkept.accOf, (accOf_makeLive (lt_of_accOf_live hlive) xm).2]

/-- An accumulate instruction of K 0 on an accumulator that is not Live, with a physical accumulator free. -/
theorem exec_accumulate_zero_claims (hlive : (accOf (s.ctx t c) a.val).live = false) (ha : a.val < 4) (hheld : accHeld s t c a.val = false)
    (hfree : (s.tile t).physAcc.length < 8) : ∃ u : State, exec i s = .next u.retire ∧ u.regs.mprog = 0 ∧
      (accOf (u.ctx t c) a.val).live = true ∧ (accOf (u.ctx t c) a.val).cells = [] ∧ accHeld u t c a.val = true ∧ u.mem = s.mem := by
  obtain ⟨v, hclaim, hcur, hmem, hcells, hlines⟩ := claimAcc_empty hlive ha hheld hfree
  have hline : resident (touchAcc (makeLive v t c a.val xm) t c a.val true) t c 3 = true := by
    rw [resident_touchAcc, resident_makeLive, hlines]
    exact hready.lines 3 (by decide)
  have hcleared := putMprog_regs_mprog (s := touchAcc (makeLive v t c a.val xm) t c a.val true) (hcur.trans hready.cur) hline 0
  have hkept := putMprog_onlyRegs hline 0
  have hexec := hready.execMat_ok (accBody_zero_claims (mx := mx) hbusy hpanels hchecks hnamed hk hlive hclaim)
  refine ⟨_, (exec_accumulate hi s).trans hexec, hcleared, ?_, ?_, ?_, hkept.mem.trans hmem⟩
  · rw [hkept.accOf, touchAcc_ctx, (accOf_makeLive ha xm).1]
  · rw [hkept.accOf, touchAcc_ctx, (accOf_makeLive ha xm).2, hcells]
  · rw [accHeld, hkept.tile]
    exact accHeld_touchAcc true

end

/-! ## Operations taken out of the queue (R317, R327) -/

/-- The queue of tile t without the operations of a list; the lines in place stay. -/
structure TakenOut (t : Nat) (s u : State) (l : List MatOp) : Prop where
  cur : u.cur = s.cur
  rclru : (u.tile t).rclru = (s.tile t).rclru
  matq : (u.tile t).matq = (s.tile t).matq.filter fun p => l.all fun o => p.req != o.req

theorem TakenOut.trans {t : Nat} {s u v : State} {l l' : List MatOp} (h : TakenOut t s u l) (h' : TakenOut t u v l') :
    TakenOut t s v (l ++ l') :=
  ⟨h'.cur.trans h.cur, h'.rclru.trans h.rclru, by simp only [h'.matq, h.matq, List.filter_filter, List.all_append, Bool.and_comm]⟩

/-- Operations taken out one after another, each where the lines in place are those at the start. -/
theorem TakenOut.foldl {t : Nat} {f : State → MatOp → State} : ∀ {l : List MatOp} {s : State},
    (∀ u, (u.tile t).rclru = (s.tile t).rclru → ∀ o ∈ l, TakenOut t u (f u o) [o]) → TakenOut t s (l.foldl f s) l
  | [], s, _ => ⟨rfl, rfl, by simp⟩
  | o :: l, s, hf => by
    have hone := hf s rfl o List.mem_cons_self
    exact hone.trans (TakenOut.foldl fun u hu p hp => hf u (hu.trans hone.rclru) p (List.mem_cons_of_mem o hp))

/-- In a queue whose operations have different numbers the operations with a property are taken out by their numbers. -/
theorem filter_req_of_pairwise {q : List MatOp} (hq : q.Pairwise fun p o => p.req ≠ o.req) (f : MatOp → Bool) :
    (q.filter fun p => (q.filter f).all fun o => p.req != o.req) = q.filter fun p => !f p := by
  refine List.filter_congr fun p hp => ?_
  cases hf : f p with
  | true => exact List.all_eq_false.mpr ⟨p, List.mem_filter.mpr ⟨hp, hf⟩, by simp⟩
  | false =>
    have : Std.Symm fun p o : MatOp => p.req ≠ o.req := ⟨fun _ _ h => h.symm⟩
    have hother (o : MatOp) (ho : o ∈ q) (hfo : f o = true) : p.req ≠ o.req :=
      hq.forall hp ho (by rintro rfl; simp [hf] at hfo)
    simpa [imp_iff_not_or] using hother

section
variable {s : State} {t : Nat}

theorem releaseRanges_tile (req : Nat) : (releaseRanges s req).tile t =
    { s.tile t with locks := (s.tile t).locks.filter fun x => x.req != req } := by
  simp only [releaseRanges, State.tile, mget]
  rw [mget?_mapped fun x : Tile => { x with locks := x.locks.filter fun l => l.req != req }]
  cases mget? s.tiles t <;> rfl

theorem tile_kickQueue (t' : Nat) : (kickQueue s t).tile t' = s.tile t' := by
  unfold kickQueue
  split
  · rfl
  · exact State.tile_addDueOnce ..

theorem kickQueue_cur : (kickQueue s t).cur = s.cur := by
  unfold kickQueue
  split
  · rfl
  · exact State.addDueOnce_cur ..

theorem dropOp_takenOut (o : MatOp) : TakenOut t s (dropOp s t o) [o] := by
  constructor
  · exact kickQueue_cur ..
  · simp [dropOp, tile_kickQueue, releaseRanges_tile, setMatq]
  · simp [dropOp, tile_kickQueue, releaseRanges_tile, setMatq]

theorem dropOp_ctx (o : MatOp) (t' c' : Nat) : (dropOp s t o).ctx t' c' = s.ctx t' c' := by
  unfold dropOp kickQueue
  split
  · rfl
  · exact State.ctx_addDueOnce ..

variable {c : Nat} {o : MatOp} (hc : o.ctx = c)
include hc

/-- An operation stopped at a fold boundary leaves the queue, its progress in MPROG (R317). -/
theorem stopOp_takenOut (h2 : resident s t c 2 = true) (h3 : resident s t c 3 = true) : TakenOut t s (stopOp s t o) [o] ∧
    ((stopOp s t o).ctx t c).regs.mprog = mprogWord o.xm o.acc o.kdone := by
  have hput := putMprog_onlyRegs h3 (mprogWord o.xm o.acc o.kdone)
  have hdrop : TakenOut t (putMprog s t c (mprogWord o.xm o.acc o.kdone)) _ [o] := dropOp_takenOut o
  rw [← hc] at hput hdrop
  have hline : resident (dropOp (putMprog s t o.ctx (mprogWord o.xm o.acc o.kdone)) t o) t c 2 = true := by
    rw [resident_congr hdrop.rclru, resident_congr (s := s) (by rw [hput.tile]), h2]
  have hflags := enterFlags_onlyRegs (t := t) hc hline
  refine ⟨⟨?_, ?_, ?_⟩, ?_⟩
  · rw [stopOp, hflags.cur, hdrop.cur, hput.cur]
  · rw [stopOp, hflags.tile, hdrop.rclru, hput.tile]
  · rw [stopOp, hflags.tile, hdrop.matq, hput.tile]
  · rw [stopOp, enterFlags_mprog hc hline, dropOp_ctx, hc, putMprog_mprog h3]

end

/-- What mabort stops: the thread's accumulate operations on an accumulator whose folds are not all done (R327). -/
def stoppedBy (c a : Nat) (o : MatOp) : Bool := o.ctx == c && o.acc == a && o.isAcc && decide (o.kdone < o.k)

section
variable {s : State} {t c : Nat}

theorem stoppedBy_ctx {a : Nat} {o : MatOp} (h : o ∈ (s.tile t).matq.filter (stoppedBy c a)) : o.ctx = c := by
  simp only [List.mem_filter, stoppedBy, Bool.and_eq_true, beq_iff_eq] at h
  obtain ⟨-, ⟨⟨hctx, -⟩, -⟩, -⟩ := h
  exact hctx

/-- The state after the stops of mabort. -/
def stopsMade (s : State) (t c a : Nat) : State := ((s.tile t).matq.filter (stoppedBy c a)).foldl (fun s o => stopOp s t o) s

theorem mabortBody_eq (a : Nat) : mabortBody a t c s =
    (((stopsMade s t c a).tile t).matq.filter (abortable c a)).foldl (fun s o => dropOp s t o) (stopsMade s t c a) := rfl

theorem mabortBody_takenOut (a : Nat) : TakenOut t (stopsMade s t c a) (mabortBody a t c s)
    (((stopsMade s t c a).tile t).matq.filter (abortable c a)) :=
  .foldl fun _ _ o _ => dropOp_takenOut o

variable (h2 : resident s t c 2 = true) (h3 : resident s t c 3 = true) (a : Nat)
include h2 h3

theorem stopsMade_takenOut : TakenOut t s (stopsMade s t c a) ((s.tile t).matq.filter (stoppedBy c a)) :=
  .foldl fun u hu _ ho => (stopOp_takenOut (stoppedBy_ctx ho) (by rw [resident_congr hu, h2]) (by rw [resident_congr hu, h3])).1

/-- The queue after mabort: without the operations stopped and those removed. -/
theorem mabortBody_matq (hq : (s.tile t).matq.Pairwise fun p o => p.req ≠ o.req) :
    ((mabortBody a t c s).tile t).matq = (s.tile t).matq.filter fun o => !(stoppedBy c a o || abortable c a o) := by
  have hstop : ((stopsMade s t c a).tile t).matq = (s.tile t).matq.filter fun o => !stoppedBy c a o :=
    (stopsMade_takenOut h2 h3 a).matq.trans (filter_req_of_pairwise hq _)
  rw [(mabortBody_takenOut a).matq, hstop, filter_req_of_pairwise (hq.filter _), List.filter_filter]
  simp only [Bool.not_or, Bool.and_comm]

/-- A single operation that mabort stops leaves its progress in MPROG. -/
theorem mabortBody_mprog {o : MatOp} (ho : (s.tile t).matq.filter (stoppedBy c a) = [o]) :
    ((mabortBody a t c s).ctx t c).regs.mprog = mprogWord o.xm o.acc o.kdone := by
  have hc : o.ctx = c := stoppedBy_ctx (by rw [ho]; exact List.mem_singleton_self o)
  have hone : stopsMade s t c a = stopOp s t o := by rw [stopsMade, ho]; rfl
  rw [mabortBody_eq, hone, ← (stopOp_takenOut hc h2 h3).2]
  exact foldl_keeps (fun u : State => (u.ctx t c).regs.mprog = ((stopOp s t o).ctx t c).regs.mprog) _
    (fun u p hu => by rw [dropOp_ctx, hu]) _ _ rfl

theorem mabortBody_cur : (mabortBody a t c s).cur = s.cur :=
  (mabortBody_takenOut a).cur.trans (stopsMade_takenOut h2 h3 a).cur

end

end Sys2Proof.Machine

namespace Sys2Proof.Proofs
open Sys2Proof.Machine

/-- Settles O38: each instruction by its body; with image lines in place a write of MPROG keeps memory, and mabort takes out what it stops or removes. -/
theorem matrixInstructions : Obligations.MatrixInstructions := by
  unfold Obligations.MatrixInstructions
  intro s t c hcur hext hmat hlines x g next lds op
  have hready : MatrixReady s t c := ⟨hcur, hext, hmat, hlines⟩
  have h2 := hlines 2 (by decide)
  have h3 := hlines 3 (by decide)
  have hop (xm : Nat) (a : Reg) : newOp s.fresh.2 t c xm a.val s.fresh.1 = op xm a := newOp_eq ..
  have hmprog : s.regs.mprog = (s.fresh.2.ctx t c).regs.mprog := congrArg Regs.mprog (State.regs_eq_ctx hcur)
  refine ⟨fun m la => ?_, fun a la => ⟨fun h => ?_, fun h => ?_⟩, fun hbusy => ⟨fun a la => ?_, fun b la => ?_⟩, fun hbusy a la => ⟨?_, ?_⟩,
    fun a la => ?_, fun a la => ?_, fun hroom => ⟨fun a la => ?_, fun a la => ?_, fun a b la rows v hptr hfmt hrows hfit hroom' => ?_,
      fun fmt a b la rm cl rows u v hptr hint hfmt hrows hsettle hfit hroom' => ?_,
      fun i xm a b r e mx pa pb mode hi hbusy hpanels hchecks hk hfit => ?_⟩,
    fun i xm a b r e mx pa pb mode hi hnamed hbusy hpanels hchecks hk => ⟨fun hlive => ?_, fun hlive ha hheld hfree => ?_⟩⟩
  · exact (hready.execMat_ok rfl : execMcfg m la s = _)
  · exact (hready.execMat_ok (if_neg (ne_true_of_eq_false h)) : execMwait a la s = _)
  · exact (hready.execMat_waits (if_pos h) : execMwait a la s = _)
  · exact (hready.execMat_ok (if_neg (ne_true_of_eq_false hbusy)) : execMrdp a la s = _)
  · refine (hready.execMat_ok (if_neg (ne_true_of_eq_false hbusy)) : execMwrp b la s = _).trans ?_
    rw [putMprog_resident h3, State.setRegs, State.regs, hcur]
    rfl
  · exact (hready.execMat_waits (if_pos hbusy) : execMrdp a la s = _)
  · exact (hready.execMat_waits (if_pos hbusy) : execMwrp a la s = _)
  · exact (hready.execMat_ok rfl : execMstat a la s = _)
  · refine ⟨mabortBody a.val t c s, (hready.execMat_ok rfl : execMabort a la s = _), fun hq => ?_, fun o ho => ?_⟩
    · rw [mabortBody_matq h2 h3 a.val hq]
      refine List.filter_congr fun o _ => ?_
      simp only [stoppedBy, abortable, MatOp.isAcc, Bool.and_or_distrib_left, Bool.and_assoc, Bool.or_comm]
    · rw [State.regs_eq_ctx ((mabortBody_cur h2 h3 a.val).trans hcur)]
      exact mabortBody_mprog h2 h3 a.val ho
  · refine ⟨_, hready.exec_mzero hroom la, ?_⟩
    rw [hop]
    exact queued_pushOp (v := s.fresh.2) rfl rfl c _
  · have hkept := mprogAfterMres_onlyRegs (s := s.fresh.2) h3 a.val
    refine ⟨_, hready.exec_mres hroom la, ?_, ?_⟩
    · rw [newOp_mprogAfterMres (s := s.fresh.2) h3, hop]
      exact queued_pushOp (by rw [hkept.tile]) hkept.mem c _
    · have hcur' : (mprogAfterMres s.fresh.2 t c a.val).cur = .thread t c := hkept.cur.trans hcur
      rw [State.regs_eq_ctx ((pushOp_cur _).trans hcur'), pushOp_ctx, mprogAfterMres_mprog (s := s.fresh.2) h3, hmprog]
      rfl
  · have hbody := mldBody_ok (congrArg (fun o : MatOp => { o with aPtr := s.getG b, retired := true }) (hop 2 a)) rfl hptr hfmt hrows hfit hroom'
    exact ⟨_, (hready.execMat_ok hbody : execMld a b la s = _), entered_with_ranges _ _ _⟩
  · have hbody := mstBody_ok (congrArg (fun o : MatOp =>
        { o with aPtr := s.getG b, mx := fmt.val, rm := rm, clamp := cl, retired := true }) (hop 3 a)) rfl hptr hint hfmt hrows hsettle hfit hroom'
    exact ⟨_, (hready.execMat_ok hbody : execMst fmt a b rm cl la s = _), entered_with_ranges _ _ _⟩
  · have hbody := accBody_enters (mx := mx) hbusy hpanels hchecks (hop xm a) hk hroom hfit
    rw [← hmprog] at hbody
    exact ⟨_, (exec_accumulate hi s).trans (hready.execMat_ok hbody), queued_awaitOp hcur _ rfl⟩
  · exact exec_accumulate_zero_live hready hi hnamed hbusy hpanels (by rwa [hk]) (by rw [hk]; rfl) hlive
  · exact exec_accumulate_zero_claims hready hi hnamed hbusy hpanels (by rwa [hk]) (by rw [hk]; rfl) hlive ha hheld hfree

end Sys2Proof.Proofs
end

section
/-! PROOFS, paths of heads on a grid without detours (R335, R337, R340, R341). -/

namespace Sys2Proof.Machine

/-! ## Distance and direction -/

/-- The distance of two positions: columns and rows between them (R340). -/
def gridDistance (a b : Nat) : Nat :=
  (tileX a - tileX b + (tileX b - tileX a)) + (tileY a - tileY b + (tileY b - tileY a))

/-- X-then-Y ends exactly where the columns and the rows are equal. -/
theorem xyDir_eq_none_iff {a b : Nat} : xyDir a b = none ↔ gridDistance a b = 0 := by
  unfold xyDir gridDistance
  split_ifs <;> simp <;> omega

/-- While the columns differ, X-then-Y goes east or west. -/
theorem xyDir_of_columns_ne {a b : Nat} (h : tileX a ≠ tileX b) : xyDir a b = some 1 ∨ xyDir a b = some 3 := by
  rcases Nat.lt_or_gt_of_ne h with h | h
  · exact .inl (if_pos h)
  · exact .inr (by rw [xyDir, if_neg (by omega), if_pos h])

/-- The X-then-Y direction leads to a position of the grid that is one hop closer to the destination. -/
theorem exists_neighbour_closer {a b d : Nat} (ha : a < 256 * 192) (hb : b < 256 * 192) (h : xyDir a b = some d) :
    ∃ n, neighbour a d = some n ∧ n < 256 * 192 ∧ gridDistance a b = gridDistance n b + 1 := by
  unfold xyDir at h
  unfold gridDistance
  split_ifs at h with heast hwest hnorth hsouth <;> cases h <;> simp only [tileX, tileY] at *
  · exact ⟨a + 1, if_pos (by simp only [tileX]; omega), by omega, by omega⟩
  · exact ⟨a - 1, if_pos (by simp only [tileX]; omega), by omega, by omega⟩
  · exact ⟨a + 256, if_pos (by simp only [tileY]; omega), by omega, by omega⟩
  · exact ⟨a - 256, if_pos (by simp only [tileY]; omega), by omega, by omega⟩

/-! ## Turns and paths without detours -/

/-- Every position of the grid is present, and no router has a detour entry. -/
def OpenGrid (s : State) : Prop := ∀ t, t < 256 * 192 → routerPresent s t = true ∧ (s.router t).detours = []

section
variable {s : State} {c : Course} {b : Nat} (hlane : c.detour = false)
include hlane

/-- A head on the base lane arrives where X-then-Y gives no direction. -/
theorem turn_arrive (h : xyDir c.at_ b = none) : turn s c b = .arrive := by
  simp [turn, hlane, h]

/-- Where no detour entry is written it goes to the neighbour in its direction. -/
theorem turn_next {d n : Nat} (hnone : (s.router c.at_).detours = []) (hdir : xyDir c.at_ b = some d) (hn : neighbour c.at_ d = some n)
    (hpresent : routerPresent s n = true) : turn s c b = .next { c with at_ := n, port := portOf d } := by
  simp [turn, stepTo, hlane, hnone, hdir, hn, hpresent]

end

/-- On an open grid the walk of a head on the base lane, given fuel enough, has as many hops as the distance. -/
theorem pathWalk_eq_distance {s : State} (hgrid : OpenGrid s) {b : Nat} (hb : b < 256 * 192) : ∀ (n : Nat) (c : Course), c.detour = false →
    c.at_ < 256 * 192 → gridDistance c.at_ b = n → pathWalk s (n + 1) c b = .ok n := by
  intro n
  induction n with
  | zero =>
    intro c hlane _ hd
    rw [pathWalk, turn_arrive hlane (xyDir_eq_none_iff.2 hd)]
  | succ n ih =>
    intro c hlane hc hd
    cases hdir : xyDir c.at_ b with
    | none =>
      have := xyDir_eq_none_iff.1 hdir
      omega
    | some d =>
      obtain ⟨m, hm, hlt, hcloser⟩ := exists_neighbour_closer hc hb hdir
      have hrest : pathWalk s (n + 1) { c with at_ := m, port := portOf d } b = .ok n :=
        ih _ hlane hlt (Nat.succ.inj (hcloser.symm.trans hd))
      rw [pathWalk, turn_next hlane (hgrid _ hc).2 hdir hm (hgrid m hlt).1]
      simp only [hrest]
      rfl

end Sys2Proof.Machine

namespace Sys2Proof.Proofs
open Sys2Proof.Machine

/-- Settles O42: each hop lowers the distance by one, and the head arrives at distance 0. -/
theorem dimensionOrderPath : Obligations.DimensionOrderPath := by
  unfold Obligations.DimensionOrderPath
  intro s a b ha hb hgrid d n
  have hwalk : pathWalk s (n + 1) { at_ := a } b = .ok n := pathWalk_eq_distance hgrid hb n { at_ := a } rfl ha rfl
  exact ⟨by rw [pathHops, hwalk]; rfl, xyDir_of_columns_ne⟩

end Sys2Proof.Proofs
end

section
/-! PROOFS, msend, msendr and mcast: the steps of a send and the entry that it leaves (R351, R353 to R356, R360). -/

namespace Sys2Proof.Machine

/-! ## The SEQ of a message -/

section
variable (u : State)

@[simp] theorem takeSeq_cur : (takeSeq u).2.cur = u.cur := by
  unfold takeSeq
  split <;> rfl

/-- Taking a SEQ changes neither the tenants nor the wafer: worlds and keys stay. -/
@[simp] theorem takeSeq_worldOf (n : Nat) : worldOf (takeSeq u).2 n = worldOf u n := by
  unfold takeSeq
  split <;> rfl
@[simp] theorem takeSeq_sealFlits (q : Req) (src seq : Nat) (bs : List Byte) :
    sealFlits (takeSeq u).2 q src seq bs = sealFlits u q src seq bs := by
  unfold takeSeq
  split <;> rfl

variable {u} (hu : Stated.ThreadOrCore u)
include hu

/-- The registers of the sender stay too. -/
theorem takeSeq_getG (r : Reg) : (takeSeq u).2.getG r = u.getG r := by
  obtain ⟨t, c, hc⟩ | ⟨i, k, hc⟩ := threadOrCore_cases hu <;>
    simp [takeSeq, State.getG, State.regs, State.regsOf, hc]
/-- So does the name that the sender has in heads. -/
theorem takeSeq_senderOf : senderOf (takeSeq u).2 u.cur = senderOf u u.cur := by
  obtain ⟨t, c, hc⟩ | ⟨i, k, hc⟩ := threadOrCore_cases hu
  · simp [takeSeq, senderOf, contextSender, hc]
  · simp [senderOf, hc]

end

/-! ## The entry that a send writes (R351, R353 step 8) -/

section
variable (s : State) (x : Site) (k : Nat) (e : SendEntry)

theorem sendsOf_putSend : mget? (sendsOf (putSend s x k e) x) k = some e := by
  cases x <;> simp [putSend, setSends, sendsOf, mget?_mset_same]
theorem injection_mem_putSend_due : .injection (siteTile x) ∈ (putSend s x k e).due := State.mem_addDueOnce ..

end

/-- The message of a send whose payload has been read, in state u after its SEQ is taken. -/
def messageEntry (u : State) (q : Req) (kind seq : Nat) (e : Reg) (l : List Nat) (bs : List Byte) : SendEntry :=
  let t := q.task? u
  { order := u.nextId, kind := kind, src := senderOf u u.cur, pend := l, handler := w64 (addrOf (u.getG e)), seq := seq
    payload := sealFlits u q (senderOf u u.cur) seq bs, owner := q.tenant, world := worldOf u q.tenant
    stamp := (t.map Task.stamp).getD 0, launch := (t.map Task.launch).getD 0, task := q.task, ctx := agentIndex u.cur
    region := q.region u, core := q.core }
/-- The state with that message in entry k of the sender's buffer. -/
def messageSent (u : State) (k : Nat) (en : SendEntry) : State := putSend (dropReserve (takeSeq u).2.fresh.2) (siteOf u.cur) k en

theorem messageSent_mem (u : State) (k : Nat) (en : SendEntry) : (messageSent u k en).mem = u.mem := by simp [messageSent]

section
variable {s v u : State} {kind k : Nat} {a c e : Reg} {l : List Nat} {bs : List Byte}
  (hsettle : settle s (curReq s) = .ok v) (hread : readPayload v (curReq s) (v.getG c) (v.getG a).toNat = .ok (bs, u))
include hsettle hread

/-- R353 steps 6 to 8 when nothing waits. -/
theorem sendFinish_ok : sendFinish kind a c e k l s =
    .ok (alu a (w64 (takeSeq u).1) (messageSent u k (messageEntry (takeSeq u).2 (curReq s) kind (takeSeq u).1 e l bs))) := by
  simp only [sendFinish, hsettle, hread]
  rfl

end

/-! ## The steps of a send in their order (R353 steps 1 to 5) -/

section
variable {s : State} {kind k : Nat} {find : State → Req → SendTo} {a c e : Reg} (hfree : reserved? s = none)
include hfree

/-- A payload beyond 1,024 bytes. -/
theorem sendBody_long (hlong : 1024 < (s.getG a).toNat) : sendBody kind find a c e s = .ok (alu a (sendStatus 3) s) := by
  simp only [sendBody, hfree, if_pos hlong]

variable (hlen : ¬ 1024 < (s.getG a).toNat)
include hlen

/-- A handler that is no head address. -/
theorem sendBody_handler (hhead : headAddress (addrOf (s.getG e)) = false) : sendBody kind find a c e s = .ok (alu a (sendStatus 6) s) := by
  simp only [sendBody, hfree, if_neg hlen, if_pos hhead]

variable (hhead : ¬ headAddress (addrOf (s.getG e)) = false)
include hhead

theorem sendBody_status {w : Word} (hfind : find s (curReq s) = .status w) : sendBody kind find a c e s = .ok (alu a w s) := by
  simp only [sendBody, hfree, if_neg hlen, if_neg hhead, hfind]
theorem sendBody_stop {tr : Trap} (hfind : find s (curReq s) = .stop tr) : sendBody kind find a c e s = .error (.trap tr) := by
  simp only [sendBody, hfree, if_neg hlen, if_neg hhead, hfind]

variable {l : List Nat} (hfind : find s (curReq s) = .dests l)
include hfind

theorem sendBody_refused {h : Nat} (href : l.find? (destRefused s (curReq s)) = some h) :
    sendBody kind find a c e s = .error (.trap (refusedTrap s (curReq s) 0 h)) := by
  simp only [sendBody, hfree, if_neg hlen, if_neg hhead, hfind, href]

variable (hallowed : l.find? (destRefused s (curReq s)) = none)
include hallowed

theorem sendBody_full (hfull : freeSend? s (siteOf s.cur) = none) : sendBody kind find a c e s = .ok (alu a (sendStatus 1) s) := by
  simp only [sendBody, hfree, if_neg hlen, if_neg hhead, hfind, hallowed, hfull]
theorem sendBody_entry (hentry : freeSend? s (siteOf s.cur) = some k) :
    sendBody kind find a c e s = keepReserve s k l (sendFinish kind a c e k l s) := by
  simp only [sendBody, hfree, if_neg hlen, if_neg hhead, hfind, hallowed, hentry]

end

/-- Every send is sendBody of its destination rule. -/
theorem exec_sendOf {s : State} {i : Instr} {kind : Nat} {d : SendTo} {a c e : Reg} (h : Stated.sendOf s i = some (kind, d, a, c, e)) :
    ∃ find : State → Req → SendTo, find s (curReq s) = d ∧ exec i s = runInstr jetBoth s (sendBody kind find a c e) := by
  unfold Stated.sendOf at h
  split at h <;> cases h <;> (delta exec; exact ⟨_, rfl, rfl⟩)

/-- The head addresses in the statement's words. -/
theorem headAddress_iff (h : Nat) : headAddress h = true ↔ 0x40000000 ≤ h ∧ h < 0x3FFE0000000000 ∧ h % 64 ≠ 0 ∧ h % 2 = 0 := by
  simp [headAddress, inEdgeWindow, and_assoc]

end Sys2Proof.Machine

namespace Sys2Proof.Proofs
open Sys2Proof.Machine

/-- Settles O40: the checks of R353 in order, and the entry that the last step writes. -/
theorem sendsComplete : Obligations.SendsComplete := by
  unfold Obligations.SendsComplete
  intro s i kind d a c e hs hi hfree q x n h answer named
  obtain ⟨find, rfl, hexec⟩ := exec_sendOf hi
  have hprof := jetBoth_allows hs
  have hchecks (hn : named) : ¬ 1024 < n ∧ ¬ headAddress (addrOf (s.getG e)) = false := by
    obtain ⟨hlen, hhead⟩ := hn
    exact ⟨Nat.not_lt.2 hlen, ne_false_of_eq_true ((headAddress_iff _).2 hhead)⟩
  rw [hexec]
  refine ⟨fun hlong => runInstr_ok hprof (sendBody_long hfree hlong), fun hlen hno => ?_, fun w hn hfind => ?_, fun tr hn hfind hcode => ?_,
    fun l m hn hfind href => ?_, fun l hn hfind hall hfull => ?_, fun l k v bs u hn hfind hall hentry hsettle ha _ _ _ hread hucur => ?_⟩
  · exact runInstr_ok hprof (sendBody_handler hfree (Nat.not_lt.2 hlen) (Bool.eq_false_iff.2 fun h => hno ((headAddress_iff _).1 h)))
  all_goals obtain ⟨hlen, hhead⟩ := hchecks hn
  · exact runInstr_ok hprof (sendBody_status hfree hlen hhead hfind)
  · rw [runInstr_error hprof (sendBody_stop hfree hlen hhead hfind),
      ownEngine_trap (by rw [hcode]; decide) (by rw [hcode]; decide) (by rw [hcode]; decide), onStop_trap]
    rfl
  · exact runInstr_error hprof (sendBody_refused hfree hlen hhead hfind href)
  · exact runInstr_ok hprof (sendBody_full hfree hlen hhead hfind hall hfull)
  · have hu : Stated.ThreadOrCore u := by simpa only [Stated.ThreadOrCore, hucur] using hs
    have hbody := sendBody_entry (kind := kind) (c := c) hfree hlen hhead hfind hall hentry
    rw [sendFinish_ok hsettle (by rw [ha]; exact hread)] at hbody
    have hsender : senderOf (takeSeq u).2 (takeSeq u).2.cur = senderOf u u.cur := by rw [takeSeq_cur, takeSeq_senderOf hu]
    have hx : x = siteOf u.cur := by rw [hucur]
    rw [hx]
    refine ⟨messageSent u k _, messageEntry (takeSeq u).2 q kind (takeSeq u).1 e l bs, runInstr_ok hprof hbody, sendsOf_putSend .., rfl, rfl, ?_,
      rfl, takeSeq_worldOf .., rfl, rfl, rfl, ?_, injection_mem_putSend_due .., messageSent_mem ..⟩
    · rw [messageEntry, hsender, takeSeq_sealFlits]
    · rw [messageEntry, takeSeq_getG hu]
      rfl

end Sys2Proof.Proofs
end

section
/-! PROOFS, encoding: fields unpacked as they were packed, and what a form's fields parse to (R53, R78, R97, Tables 2.2 to 2.4, 3.3 to 3.14). -/

namespace Sys2Proof

/-! ## Fields unpacked as they were packed -/

theorem flagNat_lt (b : Bool) : flagNat b < 2 := by cases b <;> decide

/-- A bit read back is the flag whose number it is. -/
theorem field1_eq_iff {n k : Nat} {b : Bool} : field1 n k = b ↔ n / 2 ^ k % 2 = flagNat b := by
  rcases Nat.mod_two_eq_zero_or_one (n / 2 ^ k) with h | h <;> cases b <;> simp [field1, flagNat, h]

/-- Table 2.2: the four fields of a head are apart. -/
theorem unpackHead_packHead (h : Head) : unpackHead (packHead h) = h := by
  obtain ⟨tlen, major, fa, fb⟩ := h
  simp only [unpackHead, packHead, field2, field4, field6, Head.mk.injEq, Fin.ext_iff]
  omega

/-- The fields of an X tail fit its half-word. -/
theorem packX_lt (t : TailX) : packX t < 2 ^ 16 := by
  have := flagNat_lt t.neg1
  have := flagNat_lt t.abs1
  have := flagNat_lt t.neg2
  have := flagNat_lt t.abs2
  simp only [packX]
  omega

/-- They are apart, and only the lowest half-word counts. -/
theorem unpackX_packX (t : TailX) {n : Nat} (h : n % 2 ^ 16 = packX t) : unpackX n = t := by
  have := flagNat_lt t.neg1
  have := flagNat_lt t.abs1
  have := flagNat_lt t.neg2
  have := flagNat_lt t.abs2
  obtain ⟨fc, la, neg1, abs1, neg2, abs2, rm, mx⟩ := t
  simp only [packX] at *
  simp only [unpackX, field2, field4, TailX.mk.injEq, field1_eq_iff, Fin.ext_iff]
  omega

/-- So are those of the upper half of an XD tail. -/
theorem packU_lt (u : TailU) : packU u < 2 ^ 16 := by
  have := flagNat_lt u.clamp
  have := flagNat_lt u.neg3
  have := flagNat_lt u.abs3
  simp only [packU]
  omega
theorem unpackU_packU (u : TailU) {n : Nat} (h : n % 2 ^ 16 = packU u) : unpackU n = u := by
  have := flagNat_lt u.clamp
  have := flagNat_lt u.neg3
  have := flagNat_lt u.abs3
  obtain ⟨fe, clamp, scale, neg3, abs3, xm⟩ := u
  simp only [packU] at *
  simp only [unpackU, field4, field5, TailU.mk.injEq, field1_eq_iff, Fin.ext_iff]
  omega

/-- Table 2.4: the fields of a tail are apart in each layout. -/
theorem unpackTail_packTail (t : Tail) : unpackTail (packTail t) t.layout = t := by
  cases t with
  | none => rfl
  | x t => rw [packTail, Tail.layout, unpackTail, unpackX_packX t (Nat.mod_eq_of_lt (packX_lt t))]
  | xd t u =>
    have := packX_lt t
    have := packU_lt u
    rw [packTail, Tail.layout, unpackTail, unpackX_packX t (by omega), unpackU_packU u (by omega)]
  | xi t u imm =>
    have := packX_lt t
    have := packU_lt u
    have himm : BitVec.ofNat 32 ((imm.toNat * 2 ^ 32 + packU u * 2 ^ 16 + packX t) / 2 ^ 32) = imm := by
      apply BitVec.eq_of_toNat_eq
      rw [BitVec.toNat_ofNat]
      omega
    rw [packTail, Tail.layout, unpackTail, unpackX_packX t (by omega), unpackU_packU u (by omega), himm]
  | k la off | j loff slot | kl la fc off | jl loff slot | i16 imm | i32 imm | i64 imm =>
    simp only [packTail, Tail.layout, unpackTail, field4, Tail.k.injEq, Tail.j.injEq, Tail.kl.injEq, Tail.jl.injEq, Tail.i16.injEq,
      Tail.i32.injEq, Tail.i64.injEq, Fin.ext_iff, BitVec.toNat_eq, BitVec.toNat_ofNat]
    omega

/-! ## What a form's fields parse to -/

/-- Both widths of the bit-field immediate stand apart in it (R85). -/
theorem bitfieldImm_lsb (lsb width1 : BitVec 6) : (bitfieldImm lsb width1).setWidth 6 = lsb := by
  simp only [bitfieldImm, BitVec.toNat_eq, BitVec.toNat_setWidth, BitVec.toNat_ofNat]
  omega
theorem bitfieldImm_width (lsb width1 : BitVec 6) : (bitfieldImm lsb width1 >>> 8).setWidth 6 = width1 := by
  simp only [bitfieldImm, BitVec.toNat_eq, BitVec.toNat_setWidth, BitVec.toNat_ushiftRight, BitVec.toNat_ofNat, Nat.shiftRight_eq_div_pow]
  omega

/-- The encoder gives each form a layout that its major lists, and fields that name this form and no other. -/
theorem parse_encFields {i : Instr} {h : Head} {t : Tail} (he : encFields i = some (h, t)) :
    layoutOf h.major.val h.tlen = some t.layout ∧ parse h t = some i := by
  cases i
  case bext a b lsb width1 => cases he; exact ⟨rfl, congrArg₂ (fun l w => some (Instr.bext a b l w)) (bitfieldImm_lsb ..) (bitfieldImm_width ..)⟩
  case bins a b lsb width1 => cases he; exact ⟨rfl, congrArg₂ (fun l w => some (Instr.bins a b l w)) (bitfieldImm_lsb ..) (bitfieldImm_width ..)⟩
  case mfsr a n => cases he; exact ⟨rfl, congrArg (fun n => some (Instr.mfsr a n)) (BitVec.setWidth_setWidth_of_le n (show 12 ≤ 32 by decide))⟩
  case mtsr a n => cases he; exact ⟨rfl, congrArg (fun n => some (Instr.mtsr a n)) (BitVec.setWidth_setWidth_of_le n (show 12 ≤ 32 by decide))⟩
  all_goals cases he <;> exact ⟨rfl, rfl⟩

end Sys2Proof

namespace Sys2Proof.Proofs
open Sys2Proof

/-- Settles O2: packed fields unpack to themselves, and those of an encoding parse to the form they came from. -/
theorem decodeOfEncode : Obligations.DecodeOfEncode := by
  unfold Obligations.DecodeOfEncode
  intro i h t hwf henc
  obtain ⟨⟨head, tail⟩, hfields, hwords⟩ := Option.map_eq_some_iff.1 henc
  cases hwords
  obtain ⟨hlayout, hparse⟩ := parse_encFields hfields
  simp only [decodeInstr, unpackHead_packHead, hlayout, unpackTail_packTail, hparse, hwf, hfields, if_true]

end Sys2Proof.Proofs
end

section
/-! PROOFS, worked encodings, the memory of reset and the steps of the engines (R538, Tables 2.2 to 2.4). -/

namespace Sys2Proof.Proofs
open Sys2Proof Sys2Proof.Machine

/-- Settles O1: each word is the encoding of its instruction, which is well formed and so decodes to it. -/
theorem decodedWords : Obligations.DecodedWords := by
  unfold Obligations.DecodedWords
  refine ⟨?_, ?_, ?_, ?_, ?_, ?_, ?_, ?_, ?_, ?_, ?_, ?_, ?_, ?_, ?_, ?_, ?_⟩ <;> exact decodeOfEncode _ _ _ rfl rfl

/-- Settles O10: no byte is listed at reset. -/
theorem resetMemoryCanonical : Obligations.ResetMemoryCanonical := by
  unfold Obligations.ResetMemoryCanonical
  rfl

/-- Settles O6: the step makes the move that is picked, and an engine's move is exec of it once it is no longer due. -/
theorem stepTakesEngineStep : Obligations.StepTakesEngineStep := by
  unfold Obligations.StepTakesEngineStep
  refine ⟨fun s i hpick => ?_, fun s hpick => ?_⟩
  · simp only [step, stepOnce, hpick]
    rfl
  · simp only [step, stepOnce, hpick]

end Sys2Proof.Proofs
end

section
/-! PROOFS, the rate of forecasts after a check (R412). -/

namespace Sys2Proof.Machine

/-- The fourth pass in a row raises the rate. -/
theorem afterCheck_fourth {f : Forecast} (h : f.run = 3) :
    afterCheck f true = { f with hits := min (2 ^ 24 - 1) (f.hits + 1), alpha := min (f.alpha + 1) 2, run := 0 } := by
  simp [afterCheck, h]

/-- An earlier pass counts towards it. -/
theorem afterCheck_pass {f : Forecast} (h : f.run ≠ 3) :
    afterCheck f true = { f with hits := min (2 ^ 24 - 1) (f.hits + 1), run := f.run + 1 } := by
  simp [afterCheck, h]

/-- A failure lowers it and begins the count again. -/
theorem afterCheck_fail (f : Forecast) :
    afterCheck f false = { f with misses := min (2 ^ 24 - 1) (f.misses + 1), alpha := f.alpha - 1, run := 0 } := by
  simp [afterCheck]

end Sys2Proof.Machine

namespace Sys2Proof.Proofs
open Sys2Proof.Machine

/-- Settles O46: a check is the fourth pass in a row, an earlier one, or a failure. -/
theorem forecastAlpha : Obligations.ForecastAlpha := by
  unfold Obligations.ForecastAlpha
  intro f hrun halpha p m
  have hlowered : m.alpha = if f.alpha = 0 then 0 else f.alpha - 1 := by
    simp only [m, afterCheck_fail]
    split_ifs <;> omega
  have hm : m = _ := afterCheck_fail f
  rcases eq_or_ne f.run 3 with h | h
  · have hp : p = _ := afterCheck_fourth h
    refine ⟨fun _ => ⟨by rw [hp], by rw [hp, Nat.min_comm]⟩, fun hlt => by omega, by rw [hm], hlowered, ?_⟩
    simp [hp, hm]
  · have hp : p = _ := afterCheck_pass h
    refine ⟨fun h3 => absurd h3 h, fun _ => by simp [hp], by rw [hm], hlowered, ?_⟩
    simp [hp, hm]

end Sys2Proof.Proofs
end

section
/-! PROOFS, entry of a core's exception: the status it saves, the tenant that receives it, the core it leaves (R466, R469, R483, R542). -/

namespace Sys2Proof.Machine

/-! ## A field read after a field is written -/

theorem fld_lt (x : Word) (hi lo : Nat) : fld x hi lo < 2 ^ (hi + 1 - lo) := Nat.mod_lt _ (Nat.two_pow_pos _)
theorem testBit_fld (x : Word) (hi lo j : Nat) : (fld x hi lo).testBit j = (decide (j < hi + 1 - lo) && bitOf x (j + lo)) := by
  by_cases hj : j < hi + 1 - lo
  · simp [fld, fieldN, bitOf, hj, Nat.testBit_div_two_pow, BitVec.testBit_toNat]
  · simp [fld, fieldN, hj]

/-- The field written reads back, as much of the value as it holds. -/
theorem fld_setFld_same (x : Word) {hi lo : Nat} (v : Nat) (hlo : lo ≤ hi) (hhi : hi < 64) :
    fld (setFld x hi lo v) hi lo = v % 2 ^ (hi + 1 - lo) := by
  refine Nat.eq_of_testBit_eq fun j => ?_
  rw [testBit_fld, bitOf_setFld _ _ _ hlo, Nat.testBit_mod_two_pow]
  by_cases hj : j < hi + 1 - lo
  · simp [hj, show j + lo ≤ hi by omega, show j + lo < 64 by omega]
  · simp [hj]

/-- A field apart from it stays. -/
theorem fld_setFld_other (x : Word) {hi lo hi' lo' : Nat} (v : Nat) (hlo : lo ≤ hi) (h : hi' < lo ∨ hi < lo') :
    fld (setFld x hi lo v) hi' lo' = fld x hi' lo' := by
  refine Nat.eq_of_testBit_eq fun j => ?_
  rw [testBit_fld, testBit_fld, bitOf_setFld _ _ _ hlo]
  by_cases hj : j < hi' + 1 - lo'
  · rw [if_neg (by omega)]
  · simp [hj]

theorem bitOf_setFld_other (x : Word) {hi lo : Nat} (v j : Nat) (h : lo ≤ hi) (hj : j < lo ∨ hi < j) : bitOf (setFld x hi lo v) j = bitOf x j := by
  rw [bitOf_setFld _ _ _ h, if_neg (by omega)]
theorem fld_setBit_other (x : Word) {k hi lo : Nat} (b : Bool) (h : hi < k ∨ k < lo) : fld (setBit x k b) hi lo = fld x hi lo :=
  fld_setFld_other x _ (le_refl k) h

/-! ## CSTATUS on entry to a tenant (Table 15.1) -/

section
variable (s : State) (cs : Word) (t : Nat)

theorem enterStatus_plevel : fld (enterStatus s cs t) 3 2 = fld cs 1 0 := by
  simpa [enterStatus, fld_setBit_other, fld_setFld_other, fld_setFld_same] using fld_lt cs 1 0
theorem enterStatus_ptenant : fld (enterStatus s cs t) 55 32 = fld cs 31 8 := by
  simpa [enterStatus, fld_setBit_other, fld_setFld_other, fld_setFld_same] using fld_lt cs 31 8
theorem enterStatus_level : fld (enterStatus s cs t) 1 0 = levelOf t := by
  have h : levelOf t < 2 ^ 2 := by unfold levelOf; split_ifs <;> decide
  simpa [enterStatus, fld_setBit_other, fld_setFld_other, fld_setFld_same] using h
theorem enterStatus_tenant (ht : t < 2 ^ 24) : fld (enterStatus s cs t) 31 8 = t := by
  simpa [enterStatus, fld_setBit_other, fld_setFld_same] using ht

theorem enterStatus_bits : bitOf (enterStatus s cs t) 5 = bitOf cs 4 ∧ bitOf (enterStatus s cs t) 4 = false ∧
    bitOf (enterStatus s cs t) 6 = bitOf cs 6 ∧ bitOf (enterStatus s cs t) 7 = worldOf s t := by
  simp [enterStatus, bitOf_setBit, bitOf_setFld_other]

end

/-! ## The tenant that receives it (R466, R469) -/

theorem parentOf_lt (t : Nat) : parentOf t < 2 ^ 24 := by
  simp only [parentOf, partTenant, partOf]
  split_ifs <;> omega

/-- No tenant has a grandparent's parent: the parent of a slice is a partition, that of a partition tenant 0. -/
theorem parentOf_parentOf (t : Nat) : parentOf (parentOf t) = 0 := by
  have hslice : sliceOf (parentOf t) = 0 := by
    rw [parentOf]
    split_ifs
    · rfl
    · exact Nat.mul_mod_left ..
  rw [parentOf, if_pos hslice]

section
variable (s : State) (i k : Nat)

/-- HVEC of a tenant's record at the island. -/
def hvecOf (t : Nat) : Nat := recFld (agentRecord s i t) 255 192 % 2 ^ 54
/-- The core as one of tenant t, at whose handler the read is made (R469). -/
def asTenant (t : Nat) : State :=
  s.setCore i k { s.core i k with cstatus := setFld (setFld (s.core i k).cstatus 31 8 t) 1 0 (levelOf t) }
/-- Whether a tenant can receive an exception: its record is valid, and its HVEC a legal target. -/
def receives (t : Nat) : Bool :=
  recordValid s i t && match checkTarget (asTenant s i k t) (.core i k) 0 (hvecOf s i t) with | .ok l => lineLegal l | .error _ => false

/-- One tenant after the other is asked, from t up. -/
theorem handlerOf_succ (f t : Nat) : handlerOf s i k (f + 1) t =
    if receives s i k t then some (t, hvecOf s i t) else if t = 0 then none else handlerOf s i k f (parentOf t) := rfl

/-- The receiver is a tenant id. -/
theorem handlerOf_lt : ∀ (f t : Nat) {p : Nat × Nat}, t < 2 ^ 24 → handlerOf s i k f t = some p → p.1 < 2 ^ 24
  | 0, _, _, _, h => nomatch h
  | f + 1, t, p, ht, h => by
    rw [handlerOf_succ] at h
    split_ifs at h
    · cases h
      exact ht
    · exact handlerOf_lt f _ (parentOf_lt t) h

/-- A tenant other than 0 without a valid record is passed over. -/
theorem handlerOf_succ_invalid {f t : Nat} (h0 : t ≠ 0) (hrec : recordValid s i t = false) :
    handlerOf s i k (f + 1) t = handlerOf s i k f (parentOf t) := by
  simp [handlerOf_succ, receives, hrec, h0]

/-- From a parent on, two levels are all there are. -/
theorem handlerOf_parentOf (t : Nat) : handlerOf s i k 2 (parentOf t) = handlerOf s i k 3 (parentOf t) := by
  simp [handlerOf_succ, parentOf_parentOf]

end

/-! ## The core that it leaves -/

section
variable (s : State) (i k old : Nat)

/-- A change of tenant touches the core's groups and its message counts alone. -/
theorem newTenancy_core : ∃ g n l, (newTenancy s i k old).core i k = { s.core i k with groups := g, dropped := n, latency := l } := by
  unfold newTenancy
  dsimp only
  split
  · exact ⟨_, _, _, rfl⟩
  · exact ⟨[], 0, 0, by simp⟩
@[simp] theorem newTenancy_ctxs : (newTenancy s i k old).ctxs = s.ctxs := by
  unfold newTenancy
  dsimp only
  split <;> simp
@[simp] theorem newTenancy_tasks : (newTenancy s i k old).tasks = s.tasks := by
  unfold newTenancy
  dsimp only
  split <;> simp

end

/-- The tenant that an exception for tenant t enters: its receiver, or tenant 0 where the core stops. -/
def enteredTenant (s : State) (i k t : Nat) : Nat := match handlerOf s i k 3 t with | some p => p.1 | none => 0
/-- The PC that it gives the core. -/
def enteredPc (s : State) (i k t : Nat) : Word := match handlerOf s i k 3 t with | some p => w64 p.2 | none => (s.core i k).regs.pc

section
variable {s : State} {i k t : Nat} (cause addr info epc : Word)

/-- What an exception writes in the core (R469, R542). -/
theorem enterException_core : ∃ g n l, (enterException s i k t cause addr info epc).core i k = { s.core i k with
    epc := if (s.core i k).idle then 0 else epc
    ecause := cause, eaddr := addr, einfo := info, cstatus := enterStatus s (s.core i k).cstatus (enteredTenant s i k t)
    regs := { (s.core i k).regs with pc := enteredPc s i k t }
    idle := false, stopped := (handlerOf s i k 3 t).isNone, pause := 0, waiting := false, granted := false, waitsOn := none
    icache := if worldOf s (coreTenant (s.core i k)) = worldOf s (enteredTenant s i k t) then (s.core i k).icache else []
    groups := g, dropped := n, latency := l } := by
  obtain ⟨g, n, l, hcore⟩ := newTenancy_core (s.setCore i k _) i k (coreTenant (s.core i k))
  exact ⟨g, n, l, hcore.trans (by rw [State.core_setCore_same]; rfl)⟩

theorem enterException_parent (h0 : t ≠ 0) (hrec : recordValid s i t = false) :
    enterException s i k t cause addr info epc = enterException s i k (parentOf t) cause addr info epc := by
  simp only [enterException, handlerOf_succ_invalid s i k h0 hrec, handlerOf_parentOf]

end

end Sys2Proof.Machine

namespace Sys2Proof.Proofs
open Sys2Proof.Machine

/-- Settles O54: the core left is the one before with what R469 writes, for the tenant entered. -/
theorem coreExceptionEntry : Obligations.CoreExceptionEntry := by
  unfold Obligations.CoreExceptionEntry
  intro s i k t cause addr info epc ht c u d
  obtain ⟨g, n, l, hd⟩ : ∃ g n l, d = _ := enterException_core cause addr info epc
  obtain ⟨hpie, hie, hb6, hworld⟩ := enterStatus_bits s c.cstatus (enteredTenant s i k t)
  have hplevel : fld d.cstatus 3 2 = coreLevel c := by rw [hd]; exact enterStatus_plevel ..
  have hptenant : fld d.cstatus 55 32 = coreTenant c := by rw [hd]; exact enterStatus_ptenant ..
  have hlevel : coreLevel d = levelOf (enteredTenant s i k t) := by rw [hd]; exact enterStatus_level ..
  have htenant (h : enteredTenant s i k t < 2 ^ 24) : coreTenant d = enteredTenant s i k t := by rw [hd]; exact enterStatus_tenant _ _ _ h
  refine ⟨by rw [hd], by rw [hd], by rw [hd], by rw [hd], hplevel, hptenant, by rw [hd]; exact hpie, by rw [hd]; exact hie,
    by rw [hd]; exact hb6, by rw [hd], by rw [hd], by rw [hd], by rw [hd], by rw [hd], enterException_mem .., ?_, ?_,
    fun t' pc h => ?_, fun h => ?_, fun h0 hrec => enterException_parent cause addr info epc h0 hrec, fun tr hcur => ?_⟩
  · simp [u, enterException]
  · simp [u, enterException]
  · have ht' : enteredTenant s i k t = t' := by rw [enteredTenant, h]
    have hlt : t' < 2 ^ 24 := handlerOf_lt s i k 3 t ht h
    rw [ht'] at hlevel htenant hworld
    refine ⟨hlevel, htenant hlt, by rw [hd, ← hworld, ht'], ?_, by rw [hd, h]; rfl⟩
    rw [hd]
    simp only [enteredPc, h]
    rfl
  · have ht' : enteredTenant s i k t = 0 := by rw [enteredTenant, h]
    rw [ht'] at hlevel htenant
    refine ⟨hlevel, htenant (by decide), ?_, by rw [hd, h]; rfl⟩
    rw [hd]
    simp only [enteredPc, h]
    rfl
  · rw [raise_core hcur, takeException]
    simp [causeWord, boolNat, w64, bits_address]
    rfl

end Sys2Proof.Proofs
end

section
/-! PROOFS, launches and counters: the steps of glaunch and the launch that it leaves (R374 to R376), and what cwait, cread, cancel, cadd and
lstat answer (R380 to R384). -/

namespace Sys2Proof.Machine

theorem taskBoth_allows {s : State} (hs : Stated.ThreadOrCore s) : taskBoth.allows s.cur = true := by
  obtain ⟨t, c, hc⟩ | ⟨i, k, hc⟩ := threadOrCore_cases hs <;> rw [hc] <;> rfl
theorem taskThread_allows {s : State} {t c : Nat} (hc : s.cur = .thread t c) : taskThread.allows s.cur = true := by rw [hc]; rfl

/-- What is due stays due. -/
theorem State.mem_addDueOnce_of_mem {s : State} {i : Instr} (h : i ∈ s.due) (j : Instr) : i ∈ (s.addDueOnce j).due := by
  unfold State.addDueOnce
  split
  · exact h
  · exact List.mem_append_left _ h

/-! ## The launch that glaunch leaves (R375, R376) -/

@[simp] theorem raiseUnit_launches (s : State) (level id : Nat) : (raiseUnit s level id).launches = s.launches := by
  unfold raiseUnit
  split <;> rfl
@[simp] theorem capture_islands (s : State) (b : List Byte) : (capture s b).islands = s.islands := by
  unfold capture
  split <;> rfl

/-- The id that the next launch accepted at an island takes (log entry 19). -/
def nextLaunchId (s : State) (i : Nat) : Nat := i * 2 ^ 24 + ((s.island i).nextSerial % (2 ^ 24 - 1) + 1)

section
variable (s : State) (w : Launcher) (rect : Nat) (d mb om : List Byte) (k : Bool × Bool)

theorem acceptLaunch_id : (acceptLaunch s w rect d mb om k).1 = nextLaunchId s w.island := rfl

/-- The launch accepted: the descriptor's, of the launcher's tenant and graph. -/
def acceptedLaunch : Launch :=
  { tenant := w.tenant, island := w.island, pool := some (homeIsland w.cluster), desc := d
    state := if recFld d 415 384 != 0 then .held else .pooled, graph := w.graph, rect := rect, wide := k.1, split := k.2
    mbImage := mb, outImage := om, launcher := w.handle, frontier := recFld d 319 288
    order := (s.setIsland w.island { s.island w.island with nextSerial := (s.island w.island).nextSerial + 1 }).fresh.1 }

theorem acceptLaunch_launch : (acceptLaunch s w rect d mb om k).2.launch? (nextLaunchId s w.island) = some (acceptedLaunch s w rect d mb om k) := by
  simp only [acceptLaunch, State.launch?]
  split <;> simp [nextLaunchId, acceptedLaunch, mget?_mset_same]

/-- Its next step is due. -/
theorem acceptLaunch_due : (if recFld d 415 384 ≠ 0 then Instr.launchPooled (nextLaunchId s w.island) else .placement (nextLaunchId s w.island)) ∈
    (acceptLaunch s w rect d mb om k).2.due := by
  have hnext (u : State) : (if recFld d 415 384 ≠ 0 then Instr.launchPooled (nextLaunchId s w.island) else .placement (nextLaunchId s w.island)) ∈
      (u.addDueOnce (if recFld d 415 384 != 0 then .launchPooled (nextLaunchId s w.island) else .placement (nextLaunchId s w.island))).due := by
    simp only [bne_iff_ne]
    exact State.mem_addDueOnce ..
  simp only [acceptLaunch]
  split
  · exact hnext _
  · exact State.mem_addDueOnce_of_mem (hnext _) _

end

/-! ## The steps of glaunch (R374) -/

section
variable {s : State} {a b : Reg} {l : List Byte} {k : Bool × Bool}

/-- Step 1, when nothing has been read yet and the right is there. -/
theorem glaunchBody_reads {u : State} (hright : ∀ i k, s.cur = .core i k → hasRight s i (curReq s).tenant 6 = true) (hcap : captured s = [])
    (hreads : launchReads s (curReq s) (s.getG b) = .ok (l, u)) : glaunchBody a b s = launchRest a b l u := by
  unfold glaunchBody
  dsimp only
  split
  next i k hcur => simp [hright i k hcur, hcap, hreads]
  next => simp [hcap, hreads]

/-- Step 2: the checks on the rectangle of the descriptor. -/
theorem launchRest_eq {rect : Nat} (hrect : rect = fromViewRect s (curReq s).tenant (dRect (l.take 64))) : launchRest a b l s =
    match unitChecks s (launcherOf s rect) (s.getG b) rect (l.take 64) (l.drop 192) with
    | .error n => .ok (alu a (sendStatus n) s)
    | .ok k => launchCommit a l k s := by
  rw [hrect]
  rfl

/-- Steps 4 and 5, when the task is ready. -/
theorem launchCommit_eq {rect : Nat} (hrect : rect = fromViewRect s (curReq s).tenant (dRect (l.take 64))) {v : State}
    (hsettle : settle s (curReq s) = .ok v) : launchCommit a l k s =
    match islandChecks (capture v []) (launcherOf s rect) (l.take 64) with
    | some n => .ok (alu a (sendStatus n) (capture v []))
    | none => .ok (alu a (w64 (nextLaunchId (capture v []) (launcherOf s rect).island))
        (acceptLaunch (capture v []) (launcherOf s rect) rect (l.take 64) ((l.drop 64).take 64) ((l.drop 128).take 64) k).2) := by
  rw [hrect, launchCommit, hsettle]
  rfl

end

/-! ## cwait (R380) -/

section
variable {s : State} {a b : Reg} {level : Nat}

/-- A unit that has ended gives its result, whether it is found so or has been waited for. -/
theorem cwaitOn_ended {k m r : Nat} (h : endedResult s k m = some r) :
    cwaitOn a k m s = alu a (w64 r) (synchronised (setWaits s none)) := by simp only [cwaitOn, h]
theorem cwaitBody_waiting {k m : Nat} (h : waitsOn? s = some (k, m)) : cwaitBody a b level s = .ok (cwaitOn a k m s) := by
  simp only [cwaitBody, h]

section
variable (hnone : waitsOn? s = none)
include hnone

theorem cwaitBody_unknown (h : unitState? s level (unitId s level (s.getG b)) = none) : cwaitBody a b level s = .ok (alu a badId s) := by
  simp only [cwaitBody, hnone, h]

variable (hknown : (unitState? s level (unitId s level (s.getG b))).isSome = true)
include hknown

theorem cwaitBody_self (h : unitSelf s level (unitId s level (s.getG b)) = true) : cwaitBody a b level s = .ok (alu a selfUnit s) := by
  obtain ⟨x, hx⟩ := Option.isSome_iff_exists.1 hknown
  simp only [cwaitBody, hnone, hx, if_pos h]

variable (hother : unitSelf s level (unitId s level (s.getG b)) = false)
include hother

theorem cwaitBody_foreign (h : unitReach s level (unitId s level (s.getG b)) = false) : cwaitBody a b level s = .ok (alu a foreignUnit s) := by
  obtain ⟨x, hx⟩ := Option.isSome_iff_exists.1 hknown
  simp only [cwaitBody, hnone, hx, hother, if_pos h, Bool.false_eq_true, if_false]
theorem cwaitBody_named (h : unitReach s level (unitId s level (s.getG b)) = true) :
    cwaitBody a b level s = .ok (cwaitOn a level (unitId s level (s.getG b)) s) := by
  obtain ⟨x, hx⟩ := Option.isSome_iff_exists.1 hknown
  simp only [cwaitBody, hnone, hx, hother, h, Bool.false_eq_true, Bool.true_eq_false, if_false]

end

/-! ## cancel (R383, R421) -/

theorem cancelBody_tainted (h : taintHolds s = true) : cancelBody a b level s = .error .wait := if_pos h

section
variable (htaint : taintHolds s = false)
include htaint

theorem cancelBody_unknown (h : unitState? s level (unitId s level (s.getG b)) = none) : cancelBody a b level s = .ok (alu a badId s) := by
  simp only [cancelBody, htaint, h, Bool.false_eq_true, if_false]
theorem cancelBody_foreign (hknown : (unitState? s level (unitId s level (s.getG b))).isSome = true)
    (h : unitReach s level (unitId s level (s.getG b)) = false) : cancelBody a b level s = .ok (alu a foreignUnit s) := by
  obtain ⟨x, hx⟩ := Option.isSome_iff_exists.1 hknown
  simp only [cancelBody, htaint, hx, if_pos h, Bool.false_eq_true, if_false]

variable {x : Nat} (hx : unitState? s level (unitId s level (s.getG b)) = some x) (hreach : unitReach s level (unitId s level (s.getG b)) = true)
include hx hreach

theorem cancelBody_ended (h : x = 3 ∨ x = 4) : cancelBody a b level s = .ok (alu a 1 s) := by
  simp only [cancelBody, htaint, hx, hreach, if_pos h, Bool.false_eq_true, Bool.true_eq_false, if_false]
theorem cancelBody_running (h : ¬ (x = 3 ∨ x = 4)) : cancelBody a b level s =
    .ok (if stillRuns (cancelUnit s level (unitId s level (s.getG b))) (curReq s).task
      then alu a 0 (cancelUnit s level (unitId s level (s.getG b))) else cancelUnit s level (unitId s level (s.getG b))) := by
  simp only [cancelBody, htaint, hx, hreach, if_neg h, Bool.false_eq_true, Bool.true_eq_false, if_false]

end

end

/-! ## cadd and lstat (R382, Table 12.11) -/

section
variable {s : State}

/-- A reference count moved by a permitted value. -/
theorem caddBody_permitted {b c : Reg} {level : Nat} (htaint : taintHolds s = false) (hlevel : level ≠ 0) (hlo : -65536 ≤ (s.getG c).toInt)
    (hhi : (s.getG c).toInt ≤ 65535)
    (hst : seenState s level (fld (s.getG b) 31 0) = 1 ∨ seenState s level (fld (s.getG b) 31 0) = 2 ∨ seenState s level (fld (s.getG b) 31 0) = 5)
    (hcount : 0 ≤ unitCount s level (fld (s.getG b) 31 0) + (s.getG c).toInt) :
    caddBody b c level s = .ok (addRefs s level (fld (s.getG b) 31 0) (s.getG c).toInt).retire := by
  have hok : ¬ (level = lvBlock ∨ (s.getG c).toInt < -65536 ∨ 65535 < (s.getG c).toInt ∨ seenState s level (fld (s.getG b) 31 0) = 0 ∨
      seenState s level (fld (s.getG b) 31 0) = 3 ∨ seenState s level (fld (s.getG b) 31 0) = 4 ∨
      unitCount s level (fld (s.getG b) 31 0) + (s.getG c).toInt < 0) := by
    unfold lvBlock
    omega
  simp only [caddBody, htaint, if_neg hok, Bool.false_eq_true, if_false]

variable (hs : Stated.ThreadOrCore s) {a b : Reg}
include hs

/-- A launch that the agent may not see reads as none. -/
theorem exec_lstat_none (h : s.launch? (fld (s.getG b) 31 0) = none ∨ seenState s lvLaunch (fld (s.getG b) 31 0) = 0) :
    exec (.lstat a b) s = .next ((s.setG a 0).retire) := by
  refine (runInstr_ok (taskBoth_allows hs) ?_ : execLstat a b s = _)
  cases hx : s.launch? (fld (s.getG b) 31 0) with
  | none => simp only [hx]; rfl
  | some x => simp only [hx, if_pos (h.resolve_left (by simp [hx]))]; rfl
theorem exec_lstat_some {x : Launch} (hx : s.launch? (fld (s.getG b) 31 0) = some x) (h : seenState s lvLaunch (fld (s.getG b) 31 0) ≠ 0) :
    exec (.lstat a b) s = .next ((s.setG a (w64 (seenState s lvLaunch (fld (s.getG b) 31 0) * 2 ^ 61 + boolNat x.early * 2 ^ 60 +
      x.marked % 2 ^ 16 * 2 ^ 32 + x.placed % 2 ^ 16 * 2 ^ 16 + min x.passed 65535))).retire) := by
  refine (runInstr_ok (taskBoth_allows hs) ?_ : execLstat a b s = _)
  simp only [hx, if_neg h]
  rfl

end

end Sys2Proof.Machine

namespace Sys2Proof.Proofs
open Sys2Proof.Machine

/-- Settles O43: glaunch by the steps of R374, the others by what the unit named is. -/
theorem launchesAndCounters : Obligations.LaunchesAndCounters := by
  unfold Obligations.LaunchesAndCounters
  intro s hs q st
  have hprof := taskBoth_allows hs
  refine ⟨fun a b l u hright hcap hreads hq hcur => ?_, fun a b lv => ?_,
    fun a b => ⟨exec_lstat_none hs, fun x => exec_lstat_some hs⟩, fun b c lv t x hcur => ?_⟩
  · intro d rect w
    have hbody : glaunchBody a b s = _ := glaunchBody_reads hright hcap hreads
    have hrect : rect = fromViewRect u (curReq u).tenant (dRect (l.take 64)) := by rw [hq]
    rw [launchRest_eq hrect] at hbody
    refine ⟨fun n hn => runInstr_ok hprof (hbody.trans (by rw [hn]; rfl)), fun kinds v hkinds hsettle => ?_⟩
    rw [hkinds] at hbody
    replace hbody := hbody.trans (launchCommit_eq hrect (hq ▸ hsettle))
    refine ⟨fun n hn => runInstr_ok hprof (hbody.trans (by rw [hn]; rfl)), fun hok => ?_⟩
    intro id held
    rw [hok] at hbody
    have hid : nextLaunchId (capture v []) w.island = id := by simp [id, nextLaunchId, State.island]
    have hlaunch := acceptLaunch_launch (capture v []) w rect d ((l.drop 64).take 64) ((l.drop 128).take 64) kinds
    have hdue := acceptLaunch_due (capture v []) w rect d ((l.drop 64).take 64) ((l.drop 128).take 64) kinds
    rw [hid] at hlaunch hdue
    refine ⟨_, _, runInstr_ok hprof (hbody.trans (by rw [hid]; rfl)), hlaunch, rfl, rfl, rfl, ?_, ?_, by simp⟩
    · simp [acceptedLaunch, held]
    · simpa [held] using hdue
  · intro id
    refine ⟨fun h hunknown => runInstr_ok hprof (cwaitBody_unknown h hunknown), fun h hknown hself => runInstr_ok hprof (cwaitBody_self h hknown hself),
      fun h hknown hother hfar => runInstr_ok hprof (cwaitBody_foreign h hknown hother hfar), fun r h hknown hother hreach hr => ?_,
      fun k m r h hr => ?_, (runInstr_ok hprof rfl : execCread a b lv s = _), fun h => runInstr_error hprof (cancelBody_tainted h),
      fun h hunknown => runInstr_ok hprof (cancelBody_unknown h hunknown),
      fun h hknown hfar => runInstr_ok hprof (cancelBody_foreign h hknown hfar),
      fun x hx hreach htaint => ⟨fun hend => runInstr_ok hprof (cancelBody_ended htaint hx hreach hend), fun h3 h4 hruns => ?_, fun h3 h4 hruns => ?_⟩⟩
    · exact runInstr_ok hprof ((cwaitBody_named h hknown hother hreach).trans (congrArg _ (cwaitOn_ended hr)))
    · exact runInstr_ok hprof ((cwaitBody_waiting h).trans (congrArg _ (cwaitOn_ended hr)))
    · exact runInstr_ok hprof ((cancelBody_running htaint hx hreach (by omega)).trans (by rw [if_pos hruns]; rfl))
    · exact runInstr_ok hprof ((cancelBody_running htaint hx hreach (by omega)).trans (by rw [hruns]; rfl))
  · intro id v htaint hlevel hlo hhi hst hcount
    exact runInstr_ok (taskThread_allows hcur) (caddBody_permitted htaint hlevel hlo hhi hst hcount)

end Sys2Proof.Proofs
end

section
/-! PROOFS, which tasks there are: hardware writes of memory, the rekeys that they wait for, heads and translations add and remove none
(R187, R231, R339, R477). -/

namespace Sys2Proof.Machine

/-- The ids of the tasks that exist. -/
def State.taskIds (s : State) : List Nat := s.tasks.map Prod.fst

theorem isSome_mget? {κ α : Type} [DecidableEq κ] (m : Map κ α) (k : κ) : (mget? m k).isSome = decide (k ∈ m.map Prod.fst) := by
  induction m with
  | nil => rfl
  | cons p r ih =>
    by_cases h : p.1 = k
    · simp [mget?, h]
    · simp [mget?, h, ih, Ne.symm h]

/-- States with the same tasks have a task of each id alike. -/
theorem task?_isSome_congr {s u : State} (h : u.taskIds = s.taskIds) (k : Nat) : (u.task? k).isSome = (s.task? k).isSome := by
  simp only [State.taskIds] at h
  simp only [State.task?, isSome_mget?, h]

theorem foldl_taskIds {α : Type} {f : State → α → State} (hf : ∀ s x, (f s x).taskIds = s.taskIds) (l : List α) (s : State) :
    (l.foldl f s).taskIds = s.taskIds := foldl_keeps (fun u => u.taskIds = s.taskIds) f (fun u x h => (hf u x).trans h) l s rfl

/-! ## Heads and records -/

@[simp] theorem addDueOnce_taskIds (s : State) (i : Instr) : (s.addDueOnce i).taskIds = s.taskIds := by simp [State.taskIds]
@[simp] theorem cleanPath_taskIds (s : State) (p : Packet) (a b : Nat) : (cleanPath s p a b).taskIds = s.taskIds := by
  unfold cleanPath
  split
  · rfl
  · refine foldl_taskIds (fun u t => foldl_taskIds (fun u w => ?_) _ u) _ s
    split
    · exact foldl_taskIds (f := cleanWord p w) (fun _ _ => rfl) _ u
    · rfl
@[simp] theorem recordFrom_taskIds (s : State) (t : Nat) (r : FaultRecord) : (recordFrom s t r).taskIds = s.taskIds := by
  unfold recordFrom
  dsimp only
  split
  · exact cleanPath_taskIds ..
  · split <;> exact cleanPath_taskIds ..
@[simp] theorem edgeHead_taskIds (s : State) (t src pa : Nat) : (edgeHead s t src pa).1.taskIds = s.taskIds := by
  unfold edgeHead
  split
  · rfl
  · dsimp only
    split
    · simp
    · split <;> simp [fabricFault]

/-! ## Errors of lines and translations -/

@[simp] theorem meetAt_taskIds (s : State) (pa n : Nat) : (meetAt s pa n).taskIds = s.taskIds := by
  unfold meetAt
  split
  · rfl
  · refine foldl_taskIds (fun u k => ?_) _ s
    unfold meetLine
    split
    · rfl
    · split
      · rfl
      · split <;> rfl
@[simp] theorem walked_taskIds (s : State) (n t : Nat) (w : Who) (acc : AccKind) (va : Nat) (tr : Trans) :
    (walked s n t w acc va tr).taskIds = s.taskIds := by
  have hlast (u : State) (i : Nat) : (fillLast u i t tr).taskIds = u.taskIds := by
    unfold fillLast
    split
    · rfl
    · dsimp only
      split <;> rfl
  exact (foldl_taskIds (fun u pa => meetAt_taskIds u pa 8) _ _).trans (hlast ..)
theorem tileTranslate_taskIds {s u : State} {n t va pa : Nat} {w : Who} {acc : AccKind} {tp : Bool}
    (h : tileTranslate s n t w acc va = .ok (pa, tp, u)) : u.taskIds = s.taskIds := by
  unfold tileTranslate at h
  split at h
  · split at h
    · cases h; rfl
    · split at h <;> cases h
      exact walked_taskIds ..
  · split at h <;> cases h
    exact walked_taskIds ..

/-! ## Writes of memory -/

@[simp] theorem writeLine_taskIds (s : State) (pa : Nat) (bs : List Byte) : (writeLine s pa bs).taskIds = s.taskIds := by
  unfold writeLine noteWrap
  dsimp only
  split
  · exact addDueOnce_taskIds ..
  · rfl
@[simp] theorem writePhysFuel_taskIds : ∀ (n : Nat) (s : State) (pa : Nat) (bs : List Byte), (writePhysFuel n s pa bs).taskIds = s.taskIds
  | 0, _, _, _ => rfl
  | n + 1, s, pa, bs => by
    unfold writePhysFuel
    split
    · rfl
    · exact (writePhysFuel_taskIds n ..).trans (writeLine_taskIds ..)
/-- A sweep gives the reads of tasks new versions; it ends none. -/
@[simp] theorem sweepLine_taskIds (s : State) (e : Bool) (l : Nat) : (sweepLine s e l).taskIds = s.taskIds := by
  unfold sweepLine
  dsimp only
  split
  · rfl
  · simp [State.taskIds]
@[simp] theorem sweepRegion_taskIds (s : State) (w : Sweep) : (sweepRegion s w).taskIds = s.taskIds := by
  unfold sweepRegion
  split
  · exact (writePhysFuel_taskIds ..).trans (foldl_taskIds (fun u k => sweepLine_taskIds u _ _) _ s)
  · split
    · refine foldl_taskIds (fun u a => ?_) _ s
      split
      · exact foldl_taskIds (fun v k => sweepLine_taskIds v _ _) _ u
      · rfl
    · rfl
@[simp] theorem awaitRekey_taskIds (s : State) (pa : Nat) : (awaitRekey s pa).taskIds = s.taskIds := by
  unfold awaitRekey
  split
  · split
    · refine (foldl_taskIds sweepRegion_taskIds _ _).trans (foldl_taskIds (fun u i => ?_) _ s)
      split
      · exact addDueOnce_taskIds ..
      · rfl
    · rfl
  · rfl
@[simp] theorem putPhysFuel_taskIds : ∀ (n : Nat) (s : State) (pa : Nat) (bs : List Byte), (putPhysFuel n s pa bs).taskIds = s.taskIds
  | 0, _, _, _ => rfl
  | n + 1, s, pa, bs => by
    unfold putPhysFuel
    split
    · rfl
    · exact (putPhysFuel_taskIds n ..).trans (by simp)

/-! ## Extension images -/

theorem runSteps_taskIds : ∀ (l : List (State → State × Option Trap)) (_ : ∀ f ∈ l, ∀ u, (f u).1.taskIds = u.taskIds) (s : State),
    (runSteps s l).1.taskIds = s.taskIds
  | [], _, _ => rfl
  | f :: r, h, s => (runSteps_taskIds r (fun g hg => h g (List.mem_cons_of_mem _ hg)) _).trans (h f (List.mem_cons_self ..) s)
@[simp] theorem writeImage_taskIds (s : State) (t c base first off : Nat) (bs : List Byte) :
    (writeImage s t c base first off bs).1.taskIds = s.taskIds := by
  refine runSteps_taskIds _ (fun f hf u => ?_) s
  obtain ⟨k, -, rfl⟩ := List.mem_map.1 hf
  dsimp only
  split
  · rfl
  · have htr := tileTranslate_taskIds ‹_›
    split
    · exact (putPhysFuel_taskIds ..).trans ((edgeHead_taskIds ..).trans htr)
    · exact (edgeHead_taskIds ..).trans htr

section
variable {s v : State} {t c : Nat} (h : vectorLeave s t c = (v, none))
include h

/-- A vector state written out in full leaves its context the same but for that state, and the tasks as they were (R231). -/
theorem vectorLeave_ctx : ∃ w r, v.ctx t c = { s.ctx t c with vec := w, extResident := r } := by
  unfold vectorLeave at h
  dsimp only at h
  split at h
  · cases h
    exact ⟨_, _, rfl⟩
  · split at h
    · rename_i hsome
      rw [h] at hsome
      cases hsome
    · cases h
      refine ⟨dropBeats (s.ctx t c).vec, false, ?_⟩
      rw [State.ctx_setCtx_same, State.ctx, (SameAgents.writeImage ..).ctxs, ← State.ctx, State.ctx_setCtx_same]
theorem vectorLeave_taskIds : v.taskIds = s.taskIds := by
  unfold vectorLeave at h
  dsimp only at h
  split at h
  · cases h
    rfl
  · split at h
    · rename_i hsome
      rw [h] at hsome
      cases hsome
    · cases h
      exact (writeImage_taskIds ..).trans rfl
theorem vectorLeave_cur : v.cur = s.cur := by
  have hk := KeepsThread.vectorLeave (t := t) (c := c) s t c
  rw [h] at hk
  exact hk.cur

end

end Sys2Proof.Machine
end

section
/-! PROOFS, deques and the ends of tasks: dqpush, dqpop and dqsteal, earlyok, yield, waitpred and the queries of a task (R391 to R402). -/

namespace Sys2Proof.Machine

theorem curHandle_thread {s : State} {t c : Nat} (hc : s.cur = .thread t c) : curHandle s = (s.ctx t c).handle := by
  simp [curHandle, curThread, hc]

/-! ## dqpush (R392) -/

@[simp] theorem pushEntry_tasks (s : State) (t : Nat) (e : DequeEntry) : (pushEntry s t e).tasks = s.tasks := by
  unfold pushEntry
  dsimp only
  split <;> simp
@[simp] theorem noteRaised_tasks (s : State) (l : Nat) : (noteRaised s l).tasks = s.tasks := by
  unfold noteRaised
  split <;> rfl
/-- An entry pushed onto a deque with room is its top. -/
theorem pushEntry_room {s : State} {t : Nat} (h : (s.tile t).deque.length < 64) (e : DequeEntry) : ((pushEntry s t e).tile t).deque.head? = some e := by
  simp [pushEntry, h]

section
variable {s u : State} {t c k : Nat} {x : Task} {b : Reg} {m : List Byte}

/-- The entry that a task's dqpush leaves in state u, when its 16 bytes are m. -/
def pushedEntry (u : State) (k : Nat) (x : Task) (handle : Nat) (m : List Byte) : DequeEntry :=
  { id := u.fresh.1, handle := handle, launch := x.launch, stamp := min (x.stamp + 1) 0xFFFFFFFF, pc := dword m 0, arg := dword m 1
    pusher := handle, byTask := some k, tainted := isTainted u.fresh.2 k }
/-- The state with that entry pushed. -/
def entryPushed (u : State) (t k : Nat) (x : Task) (handle : Nat) (m : List Byte) : State :=
  (noteRaised (pushEntry (u.fresh.2.setTask k { x with pushes := u.fresh.1 :: x.pushes }) t (pushedEntry u k x handle m)) x.launch).addDueOnce
    (.activationByHandOff t)

theorem entryPushed_task (u : State) (handle : Nat) : (entryPushed u t k x handle m).task? k = some { x with pushes := u.fresh.1 :: x.pushes } := by
  simp [entryPushed, State.task?, State.setTask, mget?_mset_same]
theorem entryPushed_top (handle : Nat) (h : (u.tile t).deque.length < 64) :
    ((entryPushed u t k x handle m).tile t).deque.head? = some (pushedEntry u k x handle m) := by
  rw [entryPushed, State.tile_addDueOnce, noteRaised_tile]
  exact pushEntry_room (s := u.fresh.2.setTask k _) h _

/-- dqpush of an aligned entry with a known handler. -/
theorem dqpushBody_pushes (hc : s.cur = .thread t c) (htask : (s.ctx t c).task = some k) (halign : (s.getG b).toNat % 16 = 0)
    (hload : memLoad s (threadReq s t c) false (s.getG b) 16 = .ok (m, u)) (hx : u.task? k = some x)
    (hknown : handlerKnown u (curLaunch u) (leAt m 0 8) = true) :
    dqpushBody b s = .ok (entryPushed u t k x (s.ctx t c).handle m).retire := by
  have hk : (threadReq s t c).task = some k := htask
  have hx' : (threadReq s t c).task? u = some x := by simp [Req.task?, hk, hx]
  simp only [dqpushBody, hc, halign, hload, hknown, hk, hx']
  rfl

end

/-! ## dqpop and dqsteal (R393) -/

/-- A task that has ended committed at once, when it may. -/
def committedNow (s : State) (k : Nat) : State :=
  match s.task? k with | some z => if z.phase = .ended ∧ canCommit s k z = true then commitEnded s k z else s | none => s
/-- Task k of a context ended and the task of entry e begun in its place, at pc. -/
def succeeded (s : State) (t c k : Nat) (x : Task) (e : DequeEntry) (pc : Word) : State :=
  let w := committedNow (endTask (takeEntry s e) t c k x) k
  { succeed w t c (taskOf w e pc) with retired := true }

section
variable {s : State} {t c : Nat} {a : Reg} {none_ : Word} {find : State → Nat → Option DequeEntry} (hc : s.cur = .thread t c)
  (ha : ¬ (a.val < 3 ∨ intrap (s.ctx t c).regs = true)) (hbusy : matrixBusy s t c = false)
include hc ha hbusy

/-- Nothing found, or a Clearance of the region. -/
theorem takeNext_none (h : clearing s t = true ∨ find s t = none) : takeNext a none_ find s = .ok (alu a none_ s) := by
  have hfound : (if clearing s t then none else find s t) = none := by
    rcases h with h | h <;> simp [h]
  simp only [takeNext, hc, if_neg ha, hbusy, hfound, Bool.false_eq_true, if_false]

/-- An entry found: the current task ends, and the entry's begins at the fall-through PC. -/
theorem takeNext_some {e : DequeEntry} {k : Nat} {x : Task} (hclear : clearing s t = false) (hfind : find s t = some e)
    (htaint : taintAllows s e = true) (htask : (s.ctx t c).task = some k) (hx : s.task? k = some x) (hbuffer : nextBuffer s t k x = true) :
    takeNext a none_ find s =
      .ok (succeeded s t c k x { e with handle := (s.ctx t c).handle } (w64 (nextPc s s.cur s.getPc.toNat))) := by
  simp only [takeNext, hc, if_neg ha, hbusy, hclear, hfind, htaint, htask, Option.bind_some, hx, hbuffer, Bool.false_eq_true, Bool.true_eq_false,
    if_false]
  rfl

end

/-! ## earlyok (R401) -/

/-- Successors looked at again are only made due. -/
theorem noteSuccessors_eq (s : State) (l : Nat) : ∃ d, noteSuccessors s l = { s with due := d } := by
  refine foldl_keeps (fun u => ∃ d, u = { s with due := d }) _ (fun u p h => ?_) _ s ⟨s.due, rfl⟩
  obtain ⟨d, rfl⟩ := h
  split
  · obtain ⟨d', h'⟩ := addDueOnce_eq { s with due := d } (.launchPooled p.1)
    exact ⟨d', h'⟩
  · exact ⟨d, rfl⟩

/-- The block of a thread marked early, and its launch's count of such blocks raised. -/
def markedEarly (s : State) (h : Nat) (b : Block) : State :=
  let s := s.setBlock h { b with early := true }
  match s.launch? b.launch with | some x => s.setLaunch b.launch { x with marked := x.marked + 1 } | none => s

section
variable {s : State} {h : Nat} {b : Block}

theorem markedEarly_block : (markedEarly s h b).block? h = some { b with early := true } := by
  unfold markedEarly
  dsimp only
  split <;> simp
theorem markedEarly_launch {l : Launch} (hl : s.launch? b.launch = some l) :
    (markedEarly s h b).launch? b.launch = some { l with marked := l.marked + 1 } := by
  have hl' : (s.setBlock h { b with early := true }).launch? b.launch = some l := hl
  simp [markedEarly, hl']

variable {t c : Nat} (hc : s.cur = .thread t c) (hb : s.block? (s.ctx t c).handle = some b) (htaint : taintHolds s = false)
include hc hb htaint

theorem exec_earlyok_without (hno : b.early = true ∨ hasSuccessor s b.launch = false) : exec .earlyok s = .next s.retire := by
  refine (runInstr_ok (taskThread_allows hc) ?_ : execEarlyok s = _)
  have h : (b.early || !hasSuccessor s b.launch) = true := by rcases hno with h | h <;> simp [h]
  simp only [curHandle_thread hc, hb, htaint, if_pos h, Bool.false_eq_true, if_false]
theorem exec_earlyok_marks (hearly : b.early = false) (hsucc : hasSuccessor s b.launch = true) :
    exec .earlyok s = .next (noteSuccessors (markedEarly s (s.ctx t c).handle b) b.launch).retire := by
  refine (runInstr_ok (taskThread_allows hc) ?_ : execEarlyok s = _)
  simp only [curHandle_thread hc, hb, htaint, hearly, hsucc, Bool.not_true, Bool.or_self, Bool.false_eq_true, if_false]
  rfl

end

/-! ## yield (R396) -/

section
variable {s : State} {t c k : Nat} {x : Task}

/-- The ranges of a context's bound streams released. -/
def streamsReleased (s : State) (t c : Nat) : State :=
  (s.ctx t c).vec.s.toList.foldl (fun s m => if m.bound then releaseRanges s m.req else s) s

theorem streamsReleased_ctx (t' c' : Nat) : (streamsReleased s t c).ctx t' c' = s.ctx t' c' := by
  refine foldl_keeps (fun u => u.ctx t' c' = s.ctx t' c') _ (fun u m h => ?_) _ s rfl
  split
  · exact h
  · exact h
theorem streamsReleased_mem : (streamsReleased s t c).mem = s.mem :=
  foldl_mem (fun u m => by split <;> rfl) _ s

/-- A task ends with its commit due; nothing was recorded while its thread was Halted. -/
theorem endTask_eq (h : (s.ctx t c).deferred = none) : endTask s t c k x =
    ((streamsReleased s t c).setTask k { x with phase := .ended, parked := isTainted (streamsReleased s t c) k, wantsSerial := false }).addDueOnce (.commit k) := by
  simp only [endTask, h]
  rfl

/-- What yield makes of the thread once its task has ended. -/
def yielded (s : State) (t c : Nat) : State :=
  let y := s.ctx t c
  let s := s.setCtx t c { withExt (leaveSlot y) {} {} with
    state := if y.guest then .free else .dormant, task := none, marked := y.marked || stepping y.regs }
  let s := (if y.guest then dropLines s t c else dropAccs s t c).addDueOnce (.issueSlotTaken t)
  { (s.addDueOnce (.activationByHandOff t)).addDueOnce (.activationByMessage t) with retired := true }

/-- The context is Dormant, or Free for a guest, without a task and without a slot; the tile can issue another. -/
theorem yielded_ctx : ((yielded s t c).ctx t c).state = (if (s.ctx t c).guest then .free else .dormant) ∧ ((yielded s t c).ctx t c).task = none ∧
    ((yielded s t c).ctx t c).slot = none := by
  have hctx : (yielded s t c).ctx t c = { withExt (leaveSlot (s.ctx t c)) {} {} with
      state := if (s.ctx t c).guest then .free else .dormant, task := none, marked := (s.ctx t c).marked || stepping (s.ctx t c).regs } := by
    have hretired (u : State) : ({ u with retired := true } : State).ctx t c = u.ctx t c := rfl
    rw [yielded, hretired, State.ctx_addDueOnce, State.ctx_addDueOnce, State.ctx_addDueOnce]
    split <;> exact State.ctx_setCtx_same ..
  rw [hctx]
  exact ⟨rfl, rfl, rfl⟩
@[simp] theorem yielded_tasks : (yielded s t c).tasks = s.tasks := by
  simp only [yielded, State.addDueOnce_tasks]
  split <;> rfl
@[simp] theorem yielded_mem : (yielded s t c).mem = s.mem := by
  simp only [yielded, State.addDueOnce_mem]
  split <;> rfl
theorem yielded_due {i : Instr} (h : i ∈ s.due) : i ∈ (yielded s t c).due := by
  refine State.mem_addDueOnce_of_mem (State.mem_addDueOnce_of_mem (State.mem_addDueOnce_of_mem ?_ _) _) _
  split <;> exact h
theorem yielded_frees : .issueSlotTaken t ∈ (yielded s t c).due :=
  State.mem_addDueOnce_of_mem (State.mem_addDueOnce_of_mem (State.mem_addDueOnce ..) _) _

/-- yield without a matrix operation, the vector state written out. -/
theorem yieldBody_ends {v : State} (hc : s.cur = .thread t c) (hbusy : matrixBusy s t c = false) (hleave : vectorLeave s t c = (v, none))
    (htask : (v.ctx t c).task = some k) (hx : v.task? k = some x) : yieldBody s = .ok (yielded (endTask v t c k x) t c) := by
  simp only [yieldBody, hc, hbusy, hleave, htask, Option.bind_some, hx, Bool.false_eq_true, if_false]
  rfl

end

/-! ## waitpred (R402) -/

section
variable {s : State} {t c : Nat} (hc : s.cur = .thread t c)
include hc

theorem exec_waitpred_without (h : (s.launch? (curLaunch s)).map predOf = none ∨ (s.launch? (curLaunch s)).map predOf = some 0) :
    exec .waitpred s = .next s.retire := by
  refine (runInstr_ok (taskThread_allows hc) ?_ : execWaitpred s = _)
  rcases h with h | h <;> simp only [h]

variable {p : Nat} {l : Launch} (hpred : (s.launch? (curLaunch s)).map predOf = some (p + 1)) (hl : s.launch? (p + 1) = some l)
include hpred hl

theorem exec_waitpred_complete (h : l.state = .complete) : exec .waitpred s = .next (dropStale s t).retire := by
  refine (runInstr_ok (taskThread_allows hc) ?_ : execWaitpred s = _)
  simp only [hpred, hl, if_pos h, synchronised, hc]
theorem exec_waitpred_waits (h : l.state ≠ .complete) : exec .waitpred s = .next s := by
  refine (runInstr_error (taskThread_allows hc) (st := .wait) ?_ : execWaitpred s = _)
  simp only [hpred, hl, if_neg h]

end

end Sys2Proof.Machine

namespace Sys2Proof.Proofs
open Sys2Proof.Machine

/-- Settles O44: each instruction's body, in the case that the clause names. -/
theorem dequesAndTaskEnds : Obligations.DequesAndTaskEnds := by
  unfold Obligations.DequesAndTaskEnds
  intro s t c k x hc htask hx y h
  have hprof := taskThread_allows hc
  have hcurrent := curHandle_thread hc
  refine ⟨fun b m u xu halign hload hcur hxu hknown => ?_, fun i a status found hi ha htrap hbusy => ?_, fun b bl hb => ?_, fun a => ?_, fun a => ?_,
    fun a => ?_, fun bl hb htaint => ⟨exec_earlyok_without hc hb htaint, fun hearly hsucc => ?_⟩, fun v hdef hbusy hleave => ?_,
    exec_waitpred_without hc, fun p l hpred hl => ⟨exec_waitpred_complete hc hpred hl, exec_waitpred_waits hc hpred hl⟩⟩
  · exact ⟨_, pushedEntry u k xu h m, runInstr_ok hprof (dqpushBody_pushes hc htask halign hload hxu hknown),
      congrArg (Option.map Task.pushes) (entryPushed_task ..), rfl, rfl, rfl, rfl, rfl, fun hroom => entryPushed_top _ hroom⟩
  · have hreg : ¬ (a.val < 3 ∨ intrap (s.ctx t c).regs = true) := by rw [show intrap (s.ctx t c).regs = false from htrap]; simpa using ha
    obtain ⟨find, hfind, hexec⟩ : ∃ find : State → Nat → Option DequeEntry, find s t = found ∧ exec i s = runInstr taskThread s (takeNext a status find) := by
      rcases hi with ⟨rfl, rfl, rfl⟩ | ⟨rfl, rfl, rfl⟩
      · exact ⟨fun s t => (s.tile t).deque.find? (takeable (curHandle s)), congrArg (fun h => (s.tile t).deque.find? (takeable h)) hcurrent, rfl⟩
      · exact ⟨fun s _ => stealFrom s (curHandle s), congrArg (stealFrom s) hcurrent, rfl⟩
    rw [hexec]
    refine ⟨fun hnone => runInstr_ok hprof (takeNext_none hc hreg hbusy (hfind ▸ hnone)), fun e hclear hsome htaint hbuffer => ?_⟩
    exact ⟨_, rfl, runInstr_ok hprof (takeNext_some hc hreg hbusy hclear (hfind.trans hsome) htaint htask hx hbuffer)⟩
  · refine (runInstr_ok hprof ?_ : execDqmask b s = _)
    simp only [hcurrent, show s.block? (s.ctx t c).handle = some bl from hb]
    rfl
  · refine (runInstr_ok hprof ?_ : execDqlen a s = _)
    simp only [hcurrent, curThread, hc]
    rfl
  · refine (runInstr_ok hprof ?_ : execBgrd a s = _)
    simp only [curThread, hc]
    rfl
  · refine (runInstr_ok hprof ?_ : execTsrd a s = _)
    simp only [curTask_thread hc htask hx]
    rfl
  · obtain ⟨d, hd⟩ := noteSuccessors_eq (markedEarly s h bl) bl.launch
    refine ⟨_, exec_earlyok_marks hc hb htaint hearly hsucc, ?_, fun l hl => ?_⟩
    · rw [hd]
      exact markedEarly_block
    · rw [hd]
      exact congrArg (Option.map Launch.marked) (markedEarly_launch hl)
  · obtain ⟨w, r, hctx⟩ := vectorLeave_ctx hleave
    have htask' : (v.ctx t c).task = some k := by rw [hctx]; exact htask
    obtain ⟨x', hx'⟩ : ∃ x', v.task? k = some x' :=
      Option.isSome_iff_exists.1 ((task?_isSome_congr (vectorLeave_taskIds hleave) k).trans (by rw [hx]; rfl))
    have hend : endTask v t c k x' = _ := endTask_eq (by rw [hctx]; exact hdef)
    have hkept : (endTask v t c k x').ctx t c = v.ctx t c := by rw [hend, State.ctx_addDueOnce, State.ctx_setTask, streamsReleased_ctx]
    obtain ⟨hstate, hnone, hslot⟩ := yielded_ctx (s := endTask v t c k x') (t := t) (c := c)
    refine ⟨_, runInstr_ok hprof (yieldBody_ends hc hbusy hleave htask' hx'), ?_, hnone, hslot, ?_, yielded_due ?_, yielded_frees, ?_⟩
    · rw [hstate, hkept, hctx]
    · rw [State.task?, yielded_tasks, hend, ← State.task?, State.task_addDueOnce, State.task_setTask_same]
      rfl
    · rw [hend]
      exact State.mem_addDueOnce ..
    · rw [yielded_mem, hend, State.addDueOnce_mem]
      exact streamsReleased_mem

end Sys2Proof.Proofs
end

section
/-! PROOFS, Residency's instructions: drreq and calm (R460, R461), resq (R462), clrpost and clrrep (R445, R451). -/

namespace Sys2Proof.Machine

theorem resThread_allows {s : State} {t c : Nat} (hc : s.cur = .thread t c) : resThread.allows s.cur = true := by rw [hc]; rfl
theorem resCore_allows {s : State} {i k : Nat} (hc : s.cur = .core i k) : resCore.allows s.cur = true := by rw [hc]; rfl
theorem resBoth_allows {s : State} (hs : Stated.ThreadOrCore s) : resBoth.allows s.cur = true := by
  obtain ⟨t, c, hc⟩ | ⟨i, k, hc⟩ := threadOrCore_cases hs <;> rw [hc] <;> rfl

/-! ## drreq and calm (R460, R461) -/

/-- The state in which the exchange of tiles a and b of cluster n waits for calm. -/
def armed (s : State) (n a b : Nat) : State :=
  ((s.setCluster n { s.cluster n with drift := .calming, driftS := a, driftT := b, driftSince := s.cycle }).addDueOnce (.calmingEnd n)).addDueOnce
    (.moveAbandoned n)

theorem requestMove_armed {s : State} {n a b : Nat} (hidle : (s.cluster n).drift = .idle) (hclear : clearing s a = false) :
    requestMove s n a b = armed s n a b := by
  refine if_neg ?_
  simp [hidle, hclear]
theorem requestMove_refused {s : State} {n a b : Nat} (h : (s.cluster n).drift ≠ .idle ∨ clearing s a = true) :
    requestMove s n a b = dropRequest s n := if_pos h

theorem armed_cluster (s : State) (n a b : Nat) :
    (armed s n a b).cluster n = { s.cluster n with drift := .calming, driftS := a, driftT := b, driftSince := s.cycle } := by simp [armed]
theorem armed_mem (s : State) (n a b : Nat) : (armed s n a b).mem = s.mem := by simp [armed]
theorem calmingEnd_due_armed (s : State) (n a b : Nat) : Instr.calmingEnd n ∈ (armed s n a b).due :=
  State.mem_addDueOnce_of_mem (State.mem_addDueOnce ..) _
theorem moveAbandoned_due_armed (s : State) (n a b : Nat) : Instr.moveAbandoned n ∈ (armed s n a b).due := State.mem_addDueOnce ..

section
variable {s : State} {t c : Nat} (hc : s.cur = .thread t c)
include hc

theorem exec_drreq_off (h : bitOf (s.cluster (clusterOf t)).drctl 0 = false) : exec .drreq s = .next s.retire := by
  refine (runInstr_ok (resThread_allows hc) ?_ : execDrreq s = _)
  simp only [curThread, hc, h]
  rfl
theorem exec_drreq_on {u : Nat} (h : bitOf (s.cluster (clusterOf t)).drctl 0 = true)
    (hcool : coolest s ((clusterTiles s (clusterOf t)).filter fun u => u != t) = some u) :
    exec .drreq s = .next (requestMove s (clusterOf t) t u).retire := by
  refine (runInstr_ok (resThread_allows hc) ?_ : execDrreq s = _)
  simp only [curThread, hc, h, requestFrom, hcool]
  rfl
theorem exec_calm :
    exec .calm s = .next (if calmingTile s.retire t then s.retire.setCtx t c { s.retire.ctx t c with calm := true } else s.retire) := by
  refine (runInstr_ok (resThread_allows hc) ?_ : execCalm s = _)
  simp only [curThread, hc]

end

/-! ## resq (R462) -/

/-- Is a block's handle of the agent's own cluster, or of the island square of the core. -/
def ownHandle (s : State) (h : Nat) : Prop :=
  match s.cur with
  | .core i _ => homeIsland (h / 4096) = i
  | ag => h / 4096 = clusterOf (agentTile ag)

/-- The handle that resq names. -/
def resqHandle (s : State) (b : Reg) : Nat := fromViewHandle s (curReq s).tenant (fld (s.getG b) 23 0)

section
variable {s : State} (hs : Stated.ThreadOrCore s) {a b : Reg} {x : Block}
include hs

theorem exec_resq_none (h : liveBlock? s (resqHandle s b) = none) : exec (.resq a b) s = .next ((s.setG a badId).retire) := by
  refine (runInstr_ok (resBoth_allows hs) ?_ : execResq a b s = _)
  unfold resqHandle at h
  simp only [h]
  rfl
theorem exec_resq_foreign (h : liveBlock? s (resqHandle s b) = some x) (hown : ¬ ownHandle s (resqHandle s b)) :
    exec (.resq a b) s = .next ((s.setG a selfUnit).retire) := by
  refine (runInstr_ok (resBoth_allows hs) ?_ : execResq a b s = _)
  unfold resqHandle at h
  simp only [h]
  obtain ⟨t, c, hc⟩ | ⟨i, k, hc⟩ := threadOrCore_cases hs <;> simp only [ownHandle, resqHandle, hc] at hown ⊢ <;>
    rw [if_neg (by simpa using hown)] <;> rfl
theorem exec_resq_own (h : liveBlock? s (resqHandle s b) = some x) (hown : ownHandle s (resqHandle s b)) :
    exec (.resq a b) s = .next ((s.setG a (resqWord s x)).retire) := by
  refine (runInstr_ok (resBoth_allows hs) ?_ : execResq a b s = _)
  unfold resqHandle at h
  simp only [h]
  obtain ⟨t, c, hc⟩ | ⟨i, k, hc⟩ := threadOrCore_cases hs <;> simp only [ownHandle, resqHandle, hc] at hown ⊢ <;>
    rw [if_pos (by simpa using hown)] <;> rfl

end

theorem resqWord_evicted {s : State} {x : Block} (h : x.evicted = true) :
    resqWord s x = BitVec.ofNat 64 (min 65535 x.moves * 2 ^ 16 + 3 * 2 ^ 10) := by
  simp [resqWord, h, w64]
theorem resqWord_settled {s : State} {x : Block} (h : x.evicted = false) (hidle : (s.cluster (clusterOf x.tile)).drift = .idle)
    (hstill : movingTile s x.tile = false) :
    resqWord s x = BitVec.ofNat 64 ((s.tile x.tile).temp % 4096 * 2 ^ 36 + min 65535 x.moves * 2 ^ 16 + tileIndex x.tile) := by
  have hmap : mapTile s x.tile = x.tile := by simp [mapTile, hidle]
  simp only [resqWord, hmap, h, hstill, hidle]
  exact congrArg (BitVec.ofNat 64) (by
    simp only [show (DriftPhase.idle == DriftPhase.calming) = false from rfl, Bool.false_and, Bool.false_eq_true, if_false]
    omega)

/-! ## clrpost (R445, R446) -/

/-- A posting drops the calm of contexts and the requests of clusters. -/
theorem endCalm_eq (s : State) (n : Nat) : ∃ x d, endCalm s n = { s with ctxs := x, due := d } :=
  foldl_keeps (fun u : State => ∃ x d, u = { s with ctxs := x, due := d }) _ (fun u p h => by
    obtain ⟨x, d, rfl⟩ := h
    dsimp only
    split
    · obtain ⟨e, he⟩ := fillsDue_eq (State.setCtx { s with ctxs := x, due := d } p.1 p.2 { State.ctx { s with ctxs := x, due := d } p.1 p.2 with calm := false })
        p.1 p.2
      exact ⟨_, e, he⟩
    · exact ⟨_, d, rfl⟩) _ s ⟨s.ctxs, s.due, rfl⟩
theorem dropCalming_eq (s : State) (n : Nat) : ∃ x y d, dropCalming s n = { s with ctxs := x, clusters := y, due := d } := by
  obtain ⟨x, d, h⟩ := endCalm_eq s n
  unfold dropCalming
  dsimp only
  split
  · rw [h]
    exact ⟨_, _, _, rfl⟩
  · exact ⟨_, _, _, rfl⟩
theorem foldl_dropCalming_eq (s : State) (l : List Nat) : ∃ x y d, l.foldl dropCalming s = { s with ctxs := x, clusters := y, due := d } :=
  foldl_keeps (fun u : State => ∃ x y d, u = { s with ctxs := x, clusters := y, due := d }) _ (fun u n h => by
    obtain ⟨x, y, d, rfl⟩ := h
    exact dropCalming_eq _ n) l s ⟨_, _, _, rfl⟩

/-- The state of a posting when its decisions are made. -/
def postingState (s : State) (rect : Nat) : State := (rectClusters rect).foldl dropCalming s.fresh.2
theorem postingState_eq (s : State) (rect : Nat) :
    ∃ x y d, postingState s rect = { s.fresh.2 with ctxs := x, clusters := y, due := d } := foldl_dropCalming_eq _ _

/-- The Clearance of an accepted posting. -/
def acceptedClearance (s : State) (q : Req) (i k rect left : Nat) (d : List Byte) : Clearance :=
  let clr := (rectClusters rect).foldl (fun m c => max m (fld (s.cluster c).clrcfg 63 32)) 0
  let u := postingState s rect
  { tenant := q.tenant, core := (i, k), phys := q.phys, rect := rect, deadline := u.cycle + left, backstop := u.cycle + left - clr
    report := recFld d 245 192, tag := recFld d 127 64, blocks := regionBlocks u rect, decisions := decisionsOf u rect left, order := s.fresh.1 }
/-- The id it takes. -/
def acceptedId (s : State) : Nat := clearanceId s.fresh.1
/-- The state with the Clearance listed, before any task is discarded. -/
def clearanceListed (s : State) (q : Req) (i k rect left : Nat) (d : List Byte) : State :=
  { postingState s rect with clearances := mset (postingState s rect).clearances (acceptedId s) (acceptedClearance s q i k rect left d) }

theorem acceptedId_pos (s : State) : 0 < acceptedId s := Nat.succ_pos _
theorem acceptedId_lt (s : State) : acceptedId s < 2 ^ 32 := by
  have := Nat.mod_lt s.fresh.1 (show 2 ^ 32 - 1 > 0 by norm_num)
  unfold acceptedId clearanceId
  omega

section
variable (s : State) (q : Req) (i k rect left : Nat) (d : List Byte)

theorem acceptedClearance_deadline : (acceptedClearance s q i k rect left d).deadline = s.cycle + left := by
  obtain ⟨x, y, e, h⟩ := postingState_eq s rect
  simp only [acceptedClearance, h]
  rfl
theorem acceptedClearance_blocks : (acceptedClearance s q i k rect left d).blocks = regionBlocks s rect := by
  obtain ⟨x, y, e, h⟩ := postingState_eq s rect
  simp only [acceptedClearance, h]
  rfl
theorem clearanceListed_mem : (clearanceListed s q i k rect left d).mem = s.mem :=
  (foldl_mem dropCalming_mem _ _).trans (State.fresh_mem s)
theorem clearanceListed_has :
    mget? (clearanceListed s q i k rect left d).clearances (acceptedId s) = some (acceptedClearance s q i k rect left d) := mget?_mset_same ..

/-- The state in which the decided discards have taken place and each block's eviction is due. -/
def decisionsTaken : State :=
  let v := clearanceListed s q i k rect left d
  let x := acceptedClearance s q i k rect left d
  x.blocks.foldl (fun (s : State) p => s.addDueOnce (.eviction p.1)) (discardTasks v
    ((x.decisions.filter fun e => e.choice == .discard && !taskMoves v e.task).map fun e => (e.task, Fate.requeue)))

theorem acceptClearance_eq : acceptClearance s q i k rect left d =
    (acceptedId s, ((decisionsTaken s q i k rect left d).addDueOnce (.backstop (acceptedId s))).addDueOnce (.cleared (acceptedId s))) := rfl

end

/-! The checks of Table 14.6 in their order. -/

section
variable {s : State} {t rect left : Nat} {d : List Byte}

theorem inside_iff : (match regionRect s t with | some r => rectInside rect r | none => false) = true ↔
    ∃ r, regionRect s t = some r ∧ rectInside rect r = true := by
  cases regionRect s t <;> simp

variable (h : ∃ r, regionRect s t = some r ∧ rectInside rect r = true)

theorem postChecks_outside (hout : ¬ ∃ r, regionRect s t = some r ∧ rectInside rect r = true) : postChecks s t rect left d = some 5 :=
  if_pos (Bool.eq_false_iff.2 (mt inside_iff.1 hout))
include h
theorem postChecks_inside : postChecks s t rect left d =
    if left < leastDeadline s rect then some 1
    else if underClearance s rect then some 2
    else if recFld d 191 160 < (regionBlocks s rect).length then some 3
    else none := if_neg fun hf => Bool.noConfusion ((inside_iff.2 h).symm.trans hf)
theorem postChecks_soon (hl : left < leastDeadline s rect) : postChecks s t rect left d = some 1 := (postChecks_inside h).trans (if_pos hl)
theorem postChecks_cleared (hl : leastDeadline s rect ≤ left) (hu : underClearance s rect = true) : postChecks s t rect left d = some 2 :=
  (postChecks_inside h).trans ((if_neg (not_lt.2 hl)).trans (if_pos hu))
theorem postChecks_rest (hl : leastDeadline s rect ≤ left) (hu : underClearance s rect = false) :
    postChecks s t rect left d = if recFld d 191 160 < (regionBlocks s rect).length then some 3 else none :=
  (postChecks_inside h).trans ((if_neg (not_lt.2 hl)).trans (if_neg (by rw [hu]; decide)))

end

section
variable {s u : State} {i k : Nat} {a b c : Reg} {d : List Byte} (hc : s.cur = .core i k)
  (hright : hasRight s i (coreReq s i k).tenant 4 = true)
include hc

theorem exec_clrpost {v : State} (h : clrpostBody a b c s = .ok v) : exec (.clrpost a b c) s = .next v := runInstr_ok (resCore_allows hc) h

include hright

theorem exec_clrpost_badAccess (h : (s.getG b).toNat % 64 ≠ 0 ∨ 2 ^ 32 ≤ (s.getG c).toNat) :
    exec (.clrpost a b c) s = .next ((s.setG a (sendStatus 4)).retire) := by
  refine exec_clrpost hc ?_
  simp only [clrpostBody, hc, hright, if_pos h]
  rfl

variable (halign : (s.getG b).toNat % 64 = 0) (hleft : (s.getG c).toNat < 2 ^ 32)
  (hload : coreLoad s (coreReq s i k) (s.getG b) 64 = .ok (d, u))
include halign hleft hload

theorem clrpostBody_loaded : clrpostBody a b c s =
    (let rect := fromViewRect u (coreReq s i k).tenant (recFld d 31 0)
     if badRegion d then .ok (alu a (sendStatus 4) u)
     else match postChecks u (coreReq s i k).tenant rect (s.getG c).toNat d with
      | some n => .ok (alu a (sendStatus n) u)
      | none => .ok (alu a (w64 (acceptedId u)) (acceptClearance u (coreReq s i k) i k rect (s.getG c).toNat d).2)) := by
  have hgo : ¬ ((s.getG b).toNat % 64 ≠ 0 ∨ 2 ^ 32 ≤ (s.getG c).toNat) := by omega
  simp only [clrpostBody, hc, hright, if_neg hgo, hload]
  rfl
theorem exec_clrpost_badRegion (h : badRegion d = true) : exec (.clrpost a b c) s = .next ((u.setG a (sendStatus 4)).retire) :=
  exec_clrpost hc ((clrpostBody_loaded hc hright halign hleft hload).trans (if_pos h))
theorem exec_clrpost_status {n : Nat} (hok : badRegion d = false)
    (h : postChecks u (coreReq s i k).tenant (fromViewRect u (coreReq s i k).tenant (recFld d 31 0)) (s.getG c).toNat d = some n) :
    exec (.clrpost a b c) s = .next ((u.setG a (sendStatus n)).retire) := by
  refine exec_clrpost hc ((clrpostBody_loaded hc hright halign hleft hload).trans ?_)
  simp only [hok, h]
  rfl
theorem exec_clrpost_accepted (hok : badRegion d = false)
    (h : postChecks u (coreReq s i k).tenant (fromViewRect u (coreReq s i k).tenant (recFld d 31 0)) (s.getG c).toNat d = none) :
    exec (.clrpost a b c) s = .next (((((decisionsTaken u (coreReq s i k) i k (fromViewRect u (coreReq s i k).tenant (recFld d 31 0))
      (s.getG c).toNat d).addDueOnce (.backstop (acceptedId u))).addDueOnce (.cleared (acceptedId u))).setG a (BitVec.ofNat 64 (acceptedId u))).retire) := by
  refine exec_clrpost hc ((clrpostBody_loaded hc hright halign hleft hload).trans ?_)
  simp only [hok, h]
  rfl

end

/-! ## clrrep (R451) -/

section
variable {s : State} {i k : Nat} {a b : Reg} {x : Clearance} (hc : s.cur = .core i k)
include hc

theorem exec_clrrep_some (hx : mget? s.clearances (fld (s.getG b) 31 0) = some x) (hown : presides (coreTenant (s.core i k)) x.tenant = true)
    (hlate : laterPostings s x.core.1 x < 64) : exec (.clrrep a b) s = .next ((s.setG a (clrrepWord x)).retire) := by
  refine (runInstr_ok (resCore_allows hc) ?_ : execClrrep a b s = _)
  simp only [hc, hx, Option.filter_some, hown, hlate]
  rfl
theorem exec_clrrep_none (hx : mget? s.clearances (fld (s.getG b) 31 0) = none) : exec (.clrrep a b) s = .next ((s.setG a badId).retire) := by
  refine (runInstr_ok (resCore_allows hc) ?_ : execClrrep a b s = _)
  simp only [hc, hx]
  rfl

end

theorem clrrepWord_eq (x : Clearance) : clrrepWord x = BitVec.ofNat 64 ((if x.done then 3 else 2) * 2 ^ 60 + x.written.length % 2 ^ 16 * 2 ^ 16 +
    min 65535 (x.decisions.countP fun d => d.choice == .runLate)) := by
  rw [clrrepWord, List.countP_eq_length_filter]
  rfl

end Sys2Proof.Machine

namespace Sys2Proof.Proofs
open Sys2Proof.Machine Sys2Proof.Stated

/-- Settles O47: each instruction's body, branch by branch. -/
theorem residencyInstructions : Obligations.ResidencyInstructions := by
  unfold Obligations.ResidencyInstructions
  refine ⟨fun s t c hc => ?_, fun s a b hs => ?_, fun s i k a b c hc => ?_⟩
  · intro n k
    refine ⟨exec_drreq_off hc, fun u hon hcool hidle hclear => ?_, fun u hon hcool hbusy => ?_, exec_calm hc⟩
    · refine ⟨armed s n t u, (exec_drreq_on hc hon hcool).trans ?_, armed_cluster .., calmingEnd_due_armed .., moveAbandoned_due_armed .., armed_mem ..⟩
      rw [requestMove_armed hidle hclear]
    · refine (exec_drreq_on hc hon hcool).trans ?_
      rw [requestMove_refused hbusy]
      rfl
  · intro h own
    exact ⟨exec_resq_none hs, fun x => exec_resq_foreign hs, fun x hx hown => ⟨exec_resq_own hs hx hown, resqWord_evicted, resqWord_settled⟩⟩
  · intro q left st
    refine ⟨fun hright => ⟨exec_clrpost_badAccess hc hright, fun d u halign hleft hload => ?_⟩, fun x hx hown hlate => ?_, exec_clrrep_none hc⟩
    · intro rect inside
      have hstatus {n : Nat} := exec_clrpost_status (a := a) (n := n) hc hright halign hleft hload
      refine ⟨exec_clrpost_badRegion hc hright halign hleft hload, fun hok hout => hstatus hok (postChecks_outside hout),
        fun hok hin hsoon => hstatus hok (postChecks_soon hin hsoon), fun hok hin hl hu => hstatus hok (postChecks_cleared hin hl hu),
        fun hok hin hl hu => ⟨fun hn => hstatus hok ((postChecks_rest hin hl hu).trans (if_pos hn)), fun hn => ?_⟩⟩
      exact ⟨clearanceListed u q i k rect left d, acceptedId u, acceptedClearance u q i k rect left d, acceptedId_pos u, acceptedId_lt u,
        clearanceListed_has .., rfl, rfl, rfl, acceptedClearance_deadline .., acceptedClearance_blocks .., rfl, rfl, clearanceListed_mem ..,
        exec_clrpost_accepted hc hright halign hleft hload hok ((postChecks_rest hin hl hu).trans (if_neg (not_lt.2 hn)))⟩
    · rw [exec_clrrep_some hc hx hown hlate, clrrepWord_eq]

end Sys2Proof.Proofs
end

section
/-! PROOFS, the Trust engine's instructions (R518 to R521), and the round trips of a sealed header and of the cipher (R506 to R508). -/

namespace Sys2Proof.Machine

section
variable {e xm min : Nat} {right : Option Nat} {s : State} {body : Nat → Nat → State → Except Stop State} {i k : Nat}
  (h : Stated.Privileged s i k min right) (hx : waitsIssued xm = false)
include h hx

/-- A privileged instruction that may run ends as its body does. -/
theorem runPriv_ok {t : State} (hbody : body i k s = .ok t) : runPriv e xm min right s body = .next t := by
  obtain ⟨hc, hl, hr⟩ := h
  rw [runPriv_body hc hl hr hx, hbody]
theorem runPriv_error {st : Stop} (hbody : body i k s = .error st) : runPriv e xm min right s body = .next (onStop s (ownEngine e st)) := by
  obtain ⟨hc, hl, hr⟩ := h
  rw [runPriv_body hc hl hr hx, hbody]

end

/-! ## wsw (R518) -/

/-- The clusters of the region of the partition that a wsw names. -/
def wswClusters (s : State) (g : Word) : List Nat := ((regionRect s (fld g 23 12 * 4096)).toList.flatMap rectClusters).dedup

section
variable {s : State} {i k : Nat} {b : Reg} (h : Stated.Privileged s i k 0 none)
include h

theorem exec_wsw_trap {n : Nat} (hbody : wswBody b i k s = .error (.trap (trustTrap n))) :
    exec (.wsw b) s = .next (raise s { code := 0x24, engine := 11, info := BitVec.ofNat 64 n }) :=
  (runPriv_error h rfl hbody : execWsw b s = _)
theorem exec_wsw_reserved (hbits : fld (s.getG b) 62 24 ≠ 0 ∨ fld (s.getG b) 11 0 ≠ 0) :
    exec (.wsw b) s = .next (raise s { code := 0x24, engine := 11, info := 1 }) := exec_wsw_trap h (if_pos hbits)

variable (hbits : ¬ (fld (s.getG b) 62 24 ≠ 0 ∨ fld (s.getG b) 11 0 ≠ 0))
include hbits

theorem exec_wsw_zero (hp : fld (s.getG b) 23 12 * 4096 = 0) : exec (.wsw b) s = .next (raise s { code := 0x24, engine := 11, info := 5 }) :=
  exec_wsw_trap h ((if_neg hbits).trans (if_pos hp))

variable (hp : fld (s.getG b) 23 12 * 4096 ≠ 0)
include hp

theorem exec_wsw_busy (hbusy : partitionBusy s (fld (s.getG b) 23 12 * 4096) (wswClusters s (s.getG b)) = true) :
    exec (.wsw b) s = .next (raise s { code := 0x24, engine := 11, info := 3 }) :=
  exec_wsw_trap h ((if_neg hbits).trans ((if_neg hp).trans (if_pos hbusy)))
theorem exec_wsw_changes {u : State} (hbusy : partitionBusy s (fld (s.getG b) 23 12 * 4096) (wswClusters s (s.getG b)) = false)
    (hu : changeWorlds s (s.setTenant (fld (s.getG b) 23 12 * 4096) { s.tenant (fld (s.getG b) 23 12 * 4096) with secure := bitOf (s.getG b) 63 })
      (wswClusters s (s.getG b)) = .ok u) : exec (.wsw b) s = .next u.retire := by
  refine (runPriv_ok h rfl ?_ : execWsw b s = _)
  refine (if_neg hbits).trans ((if_neg hp).trans ((if_neg (Bool.eq_false_iff.1 hbusy)).trans ?_))
  unfold wswClusters at hu
  rw [hu]

end

/-! ## seal and unseal (R519, R520) -/

section
variable {s u : State} {i k : Nat} {a b c : Reg} (h : Stated.Privileged s i k 2 none) (hbits : fld (s.getG a) 63 56 = 0)
  (hown : presides (coreReq s i k).tenant (fld (s.getG a) 55 32) = true)
include h hbits hown

theorem exec_seal_done (hover : rangesOverlap (addrOf (s.getG b)) (fld (s.getG a) 31 0) (addrOf (s.getG c)) (sealedLength (fld (s.getG a) 31 0)) = false)
    (hrun : sealRun (coreReq s i k) (s.getG b) (s.getG c) (fld (s.getG a) 55 32) (fld (s.getG a) 31 0) s = .ok u) :
    exec (.sealMem a b c) s = .next ((u.setG a (w64 (sealedLength (fld (s.getG a) 31 0)))).retire) := by
  refine (runPriv_ok h rfl ?_ : execSealMem a b c s = _)
  refine (if_neg (not_not.2 hbits)).trans ((if_neg (by rw [hown]; decide)).trans ((if_neg (Bool.eq_false_iff.1 hover)).trans ?_))
  rw [hrun]
  rfl

variable {d : List Byte} (hover : rangesOverlap (addrOf (s.getG b)) 96 (addrOf (s.getG c)) (fld (s.getG a) 31 0) = false)
  (hload : coreLoad s (coreReq s i k) (s.getG b) 96 = .ok (d, u))
include hover hload

/-- unseal answers what its run gives. -/
theorem exec_unseal_run {v : Word} {w : State}
    (hrun : unsealRun (coreReq s i k) (s.getG b) (s.getG c) (fld (s.getG a) 55 32) (fld (s.getG a) 31 0) d u = .ok (v, w)) :
    exec (.unsealMem a b c) s = .next ((w.setG a v).retire) := by
  refine (runPriv_ok h rfl ?_ : execUnsealMem a b c s = _)
  refine (if_neg (not_not.2 hbits)).trans ((if_neg (by rw [hown]; decide)).trans ((if_neg (Bool.eq_false_iff.1 hover)).trans ?_))
  rw [hload]
  dsimp only
  rw [hrun]
  rfl

end

section
variable {s : State} {q : Req} {src dst : Word} {t cap : Nat} {h : List Byte}

theorem unsealRun_badFormat (hbad : sealHeaderOk t (worldOf s t) s.wafer.dstate h = false) : unsealRun q src dst t cap h s = .ok (badFormat, s) :=
  if_pos hbad
theorem unsealRun_tooSmall (hok : sealHeaderOk t (worldOf s t) s.wafer.dstate h = true) (hcap : cap < leAt h 16 8) :
    unsealRun q src dst t cap h s = .ok (tooSmall, s) := (if_neg (by rw [hok]; decide)).trans (if_pos hcap)

end

/-! ## evsign (R521) -/

theorem beBytes_length (n v : Nat) : (beBytes n v).length = n := (List.length_reverse ..).trans (toBytes_length n v)
theorem sm3_length (m : List Byte) : (sm3 m).length = 32 := by simp [sm3, beBytes_length]
theorem digest32_length (l : List Byte) : (digest32 l).length = 32 := by simp [digest32]
theorem signed_length (d n f : Nat) (b : List Byte) : (signed d n f b).length = 64 := by simp [signed, toBytes_length]
theorem evidenceHead_length (s : State) (f : Nat) : (evidenceHead s f).length = 192 := by
  simp [evidenceHead, functionDigest, toBytes_length, sm3_length, digest32_length]
theorem evidence_length (s : State) (f : Nat) (user : List Byte) : (evidence s f user).1.length = 288 := by
  simp [evidence, evidenceHead_length, digest32_length, signed_length]

theorem exec_evsign_stored {s u w : State} {i k : Nat} {a b c : Reg} {user : List Byte} (h : Stated.Privileged s i k 1 none)
    (hbits : fld (s.getG a) 63 7 = 0) (hown : presides (coreReq s i k).tenant (boundTenant s (fld (s.getG a) 6 0)) = true)
    (hload : coreLoad s (coreReq s i k) (s.getG b) 32 = .ok (user, u))
    (hstore : coreStore (evidence u (fld (s.getG a) 6 0) user).2 (coreReq s i k) (s.getG c) (evidence u (fld (s.getG a) 6 0) user).1 = .ok w) :
    exec (.evsign a b c) s = .next ((w.setG a 0).retire) := by
  refine (runPriv_ok h rfl ?_ : execEvsign a b c s = _)
  refine (if_neg (not_not.2 hbits)).trans ((if_neg (by rw [hown]; decide)).trans ?_)
  rw [hload]
  dsimp only
  rw [hstore]
  rfl

/-! ## The round trips (R506 to R508) -/

section
variable {t d l : Nat} {w : Bool} {nonce : List Byte}

theorem sealHeader_length (hn : nonce.length = 32) : (sealHeader t w d l nonce).length = 64 := by simp [sealHeader, toBytes_length, hn]

/-- What a header has at its offsets 0, 4 and 8, whatever follows it. -/
theorem leAt_sealHeader_magic (r : List Byte) : leAt (sealHeader t w d l nonce ++ r) 0 4 = 0x00015EA1 := by
  rw [sealHeader, List.append_assoc, List.append_assoc, List.append_assoc, List.append_assoc, List.append_assoc, List.append_assoc]
  exact leAt_toBytes (a := []) rfl 4 _ _
theorem leAt_sealHeader_tenant (ht : t < 2 ^ 24) (r : List Byte) : leAt (sealHeader t w d l nonce ++ r) 4 4 = t + boolNat w * 2 ^ 31 := by
  rw [sealHeader, List.append_assoc, List.append_assoc, List.append_assoc, List.append_assoc, List.append_assoc,
    leAt_toBytes (toBytes_length 4 _) 4]
  exact Nat.mod_eq_of_lt (by cases w <;> simp [boolNat] <;> omega)
theorem leAt_sealHeader_dstate (hd : d < 2 ^ 32) (r : List Byte) : leAt (sealHeader t w d l nonce ++ r) 8 4 = d := by
  rw [sealHeader, List.append_assoc, List.append_assoc, List.append_assoc, List.append_assoc,
    leAt_toBytes (by rw [List.length_append, toBytes_length, toBytes_length]) 4]
  exact Nat.mod_eq_of_lt hd

/-- The header that seal writes, followed by its MAC, passes unseal's check. -/
theorem sealHeaderOk_sealHeader (ht : t < 2 ^ 24) (hd : d < 2 ^ 32) (hn : nonce.length = 32) :
    sealHeaderOk t w d (sealHeader t w d l nonce ++ hmacSm3 (sealMac w d t) (sealHeader t w d l nonce)) = true := by
  rw [sealHeaderOk, leAt_sealHeader_magic, leAt_sealHeader_tenant ht, leAt_sealHeader_dstate hd, List.take_left' (sealHeader_length hn),
    List.drop_left' (sealHeader_length hn)]
  simp

end

/-- Two lists of bytes, exclusive-or by position, as far as both go. -/
theorem zip_xor_twice : ∀ (b ks : List Byte), b.length ≤ ks.length →
    ((((b.zip ks).map fun p => p.1 ^^^ p.2).zip ks).map fun p => p.1 ^^^ p.2) = b
  | [], _, _ => rfl
  | _ :: _, [], h => absurd h (by simp)
  | x :: b, y :: ks, h => by
    rw [List.zip_cons_cons, List.map_cons, List.zip_cons_cons, List.map_cons, zip_xor_twice b ks (Nat.le_of_succ_le_succ h)]
    exact congrArg (· :: b) (by simp)

/-- The bytes of a key stream for n bytes, in whole blocks, block j being f j. -/
def blockStream (f : Nat → Nat) (n : Nat) : List Byte := (List.range ((n + 15) / 16)).flatMap fun j => beBytes 16 (f j)
/-- Bytes under a key stream: a cipher in counter mode, whatever its blocks. -/
def xorStream (f : Nat → Nat) (b : List Byte) : List Byte := (b.zip (blockStream f b.length)).map fun p => p.1 ^^^ p.2

theorem le_blockStream_length (f : Nat → Nat) (n : Nat) : n ≤ (blockStream f n).length := by
  have h : (blockStream f n).length = (n + 15) / 16 * 16 := by simp [blockStream, beBytes_length, List.length_flatMap]
  omega
theorem xorStream_length (f : Nat → Nat) (b : List Byte) : (xorStream f b).length = b.length := by
  rw [xorStream, List.length_map, List.length_zip, Nat.min_eq_left (le_blockStream_length ..)]
/-- Such a cipher undoes itself: both passes take the same key stream. -/
theorem xorStream_twice (f : Nat → Nat) (b : List Byte) : xorStream f (xorStream f b) = b := by
  rw [xorStream, xorStream_length]
  exact zip_xor_twice b _ (le_blockStream_length ..)
theorem cryptChunk_twice (key : Nat) (nonce : List Byte) (i : Nat) (b : List Byte) : cryptChunk key nonce i (cryptChunk key nonce i b) = b :=
  xorStream_twice (fun j => sm4 key (counterBlock nonce i j)) b

end Sys2Proof.Machine

namespace Sys2Proof.Proofs
open Sys2Proof.Machine Sys2Proof.Stated

/-- Settles O52: each body's branch, and the two round trips. -/
theorem trustInstructions : Obligations.TrustInstructions := by
  unfold Obligations.TrustInstructions
  refine ⟨fun s i k b h => ?_, fun s i k a b c h => ?_, fun s i k a b c h => ?_,
    fun t d l w nonce ht hd hn => ⟨sealHeader_length hn, sealHeaderOk_sealHeader ht hd hn⟩, fun key i nonce b => cryptChunk_twice key nonce i b⟩
  · intro g p cs trap
    refine ⟨exec_wsw_reserved h, fun hhigh hlow => ?_⟩
    have hbits : ¬ (fld (s.getG b) 62 24 ≠ 0 ∨ fld (s.getG b) 11 0 ≠ 0) := fun hb => hb.elim (· hhigh) (· hlow)
    exact ⟨exec_wsw_zero h hbits, exec_wsw_busy h hbits, fun u hp hbusy hu => exec_wsw_changes h hbits hp hbusy hu⟩
  · intro g t l q src dst hbits hown
    rw [bits_address, bits_address]
    refine ⟨fun u => exec_seal_done h hbits hown, fun d u hover hload => ?_⟩
    have hrun {v : Word} {w : State} := exec_unseal_run (v := v) (w := w) h hbits hown hover hload
    exact ⟨fun hbad => hrun (unsealRun_badFormat hbad), fun hok hcap => hrun (unsealRun_tooSmall hok hcap), fun v w => hrun⟩
  · intro f q user u w hbits hown hload hstore
    exact ⟨exec_evsign_stored h hbits hown hload hstore, evidence_length ..⟩

end Sys2Proof.Proofs
end

section
/-! PROOFS, debugging: dhalt, dstep and dresume on a context that the core may debug (R492 to R495), which wait under the rights that they issued
with (R472, R496). -/

namespace Sys2Proof.Machine

section
variable {e xm min : Nat} {right : Option Nat} {s u : State} {body : Nat → Nat → State → Except Stop State} {i k : Nat}
  (h : Stated.Privileged s i k min right) (hx : waitsIssued xm = true)
include h hx

/-- A privileged instruction that may wait beyond its issue runs its body, and notes whether it waits. -/
theorem runPriv_waiting : runPriv e xm min right s body = match body i k s with
    | .ok u => .next (setGranted u i k (!u.retired))
    | .error .wait => .next (setGranted s i k true)
    | .error (.kept u none) => .next (setGranted u i k true)
    | .error st => .next (onStop s (ownEngine e st)) := by
  obtain ⟨hc, hl, hr⟩ := h
  have hrun : runPriv e xm min right s body = match (match body i k s with
        | .ok u => .ok (setGranted u i k (!u.retired))
        | .error .wait => .error (.kept (setGranted s i k true) none)
        | .error (.kept u none) => .error (.kept (setGranted u i k true) none)
        | .error st => .error st : Except Stop State) with
      | .ok u => .next u
      | .error st => .next (onStop s (ownEngine e st)) := by
    cases right with
    | none =>
      simp only [runPriv, runInstr, hc, if_neg (Nat.not_lt.mpr hl), hx]
      rfl
    | some r =>
      simp only [runPriv, runInstr, hc, if_neg (Nat.not_lt.mpr hl), hx, hr r rfl]
      rfl
  rw [hrun]
  rcases body i k s with st | u
  · rcases st with tr | _ | tr | ⟨u, _ | tr⟩ | _ <;> rfl
  · rfl
theorem runPriv_waiting_ok (hbody : body i k s = .ok u) : runPriv e xm min right s body = .next (setGranted u i k (!u.retired)) := by
  rw [runPriv_waiting h hx, hbody]
theorem runPriv_waiting_wait (hbody : body i k s = .error .wait) : runPriv e xm min right s body = .next (setGranted s i k true) := by
  rw [runPriv_waiting h hx, hbody]
theorem runPriv_waiting_kept (hbody : body i k s = .error (.kept u none)) : runPriv e xm min right s body = .next (setGranted u i k true) := by
  rw [runPriv_waiting h hx, hbody]
theorem runPriv_waiting_trap {tr : Trap} (hbody : body i k s = .error (.trap tr)) :
    runPriv e xm min right s body = .next (onStop s (ownEngine e (.trap tr))) := by
  rw [runPriv_waiting h hx, hbody]

end

/-- The checks of R492 that fail trap ISLAND, the island engine's. -/
theorem debugTarget_trap {s : State} {i k : Nat} {b : Reg} {tr : Trap} (h : debugTarget s i k b = .error (.trap tr)) : ∃ n, tr = islandTrap n := by
  unfold debugTarget at h
  dsimp only at h
  split at h
  · cases h
    exact ⟨_, rfl⟩
  split at h
  · cases h
    exact ⟨_, rfl⟩
  split at h
  · cases h
    exact ⟨_, rfl⟩
  split at h
  · cases h
    exact ⟨_, rfl⟩
  · cases h

section
variable {s : State} {i k t c : Nat} {b : Reg}

/-! ## dhalt (R493) -/

section
variable (h : debugTarget s i k b = .ok (t, c))
include h

theorem dhaltBody_moving (hm : movingTile s t = true) : dhaltBody b i k s = .error .wait := by
  simp only [dhaltBody, h, if_pos hm]

variable (hm : movingTile s t = false)
include hm

theorem dhaltBody_calm (hcalm : (s.ctx t c).calm = true) : dhaltBody b i k s = .error (.kept (calmHalt s t c) none) := by
  simp only [dhaltBody, h, hm, hcalm]
  rfl

variable (hcalm : (s.ctx t c).calm = false)
include hcalm

/-- Neither moving nor calm, the context's state decides. -/
theorem dhaltBody_state : dhaltBody b i k s = match (s.ctx t c).state with
    | .halted => .ok s.retire
    | .dormant => .ok (s.setCtx t c { s.ctx t c with marked := true }).retire
    | .trapped => .ok (s.setCtx t c { s.ctx t c with marked := true })
    | .issuing =>
      (match boundary s t c with
       | some s => .ok (haltContext s t c)
       | none => .error .wait)
    | .queued => .ok (haltContext s t c)
    | .setAside => .ok (haltContext s t c)
    | _ => .error .wait := by
  simp only [dhaltBody, h, hm, hcalm]
  rfl
theorem dhaltBody_halted (hx : (s.ctx t c).state = .halted) : dhaltBody b i k s = .ok s.retire := by rw [dhaltBody_state h hm hcalm, hx]
theorem dhaltBody_dormant (hx : (s.ctx t c).state = .dormant) :
    dhaltBody b i k s = .ok (s.setCtx t c { s.ctx t c with marked := true }).retire := by rw [dhaltBody_state h hm hcalm, hx]
theorem dhaltBody_trapped (hx : (s.ctx t c).state = .trapped) :
    dhaltBody b i k s = .ok (s.setCtx t c { s.ctx t c with marked := true }) := by rw [dhaltBody_state h hm hcalm, hx]
theorem dhaltBody_queued (hx : (s.ctx t c).state = .queued ∨ (s.ctx t c).state = .setAside) :
    dhaltBody b i k s = .ok (haltContext s t c) := by
  rw [dhaltBody_state h hm hcalm]
  obtain hx | hx := hx <;> rw [hx]
theorem dhaltBody_boundary {u : State} (hx : (s.ctx t c).state = .issuing) (hu : boundary s t c = some u) :
    dhaltBody b i k s = .ok (haltContext u t c) := by rw [dhaltBody_state h hm hcalm, hx, hu]
theorem dhaltBody_noBoundary (hx : (s.ctx t c).state = .issuing) (hu : boundary s t c = none) : dhaltBody b i k s = .error .wait := by
  rw [dhaltBody_state h hm hcalm, hx, hu]

end

theorem dhaltBody_error {e : Stop} (h : debugTarget s i k b = .error e) : dhaltBody b i k s = .error e := by simp only [dhaltBody, h]

/-! ## dresume (R495) -/

section
variable (hp : Stated.Privileged s i k 2 (some 3))
include hp

theorem exec_dresume_named (h : debugTarget s i k b = .ok (t, c)) :
    exec (.dresume b) s =
      .next (if (s.ctx t c).state = .halted then resumeHalted s t c else s.setCtx t c { s.ctx t c with marked := false }).retire := by
  refine (runPriv_ok hp rfl ?_ : execDresume b s = _)
  simp only [h]
theorem exec_dresume_trap {n : Nat} (h : debugTarget s i k b = .error (.trap (islandTrap n))) :
    exec (.dresume b) s = .next (raise s (islandTrap n)) := by
  refine (runPriv_error (st := .trap (islandTrap n)) hp rfl ?_ : execDresume b s = _)
  simp only [h]

end

theorem resumeHalted_plain (h : (s.ctx t c).deferred = none) : resumeHalted s t c = enqueue s t c { s.ctx t c with marked := false } := by
  have hsame : ({ s.ctx t c with deferred := none, marked := false } : Ctx) = { s.ctx t c with marked := false } := by rw [← h]
  unfold resumeHalted
  dsimp only
  rw [hsame]
  split
  · next heq _ => exact absurd (heq.symm.trans h) (by simp)
  · rfl

/-! ## dstep (R494) -/

section
variable (hw : (s.core i k).waiting = false) (h : debugTarget s i k b = .ok (t, c))
include hw h

theorem dstepBody_named : dstepBody b i k s =
    if (s.ctx t c).state ≠ .halted then .error (.trap (islandTrap 9))
    else if movingTile s t then .error .wait
    else .ok (beginStep s i k t c) := by
  simp only [dstepBody, hw, h]
  rfl
theorem dstepBody_running (hx : (s.ctx t c).state ≠ .halted) : dstepBody b i k s = .error (.trap (islandTrap 9)) :=
  (dstepBody_named hw h).trans (if_pos hx)
theorem dstepBody_moving (hx : (s.ctx t c).state = .halted) (hm : movingTile s t = true) : dstepBody b i k s = .error .wait :=
  (dstepBody_named hw h).trans ((if_neg (not_not.2 hx)).trans (if_pos hm))
theorem dstepBody_begins (hx : (s.ctx t c).state = .halted) (hm : movingTile s t = false) : dstepBody b i k s = .ok (beginStep s i k t c) :=
  (dstepBody_named hw h).trans ((if_neg (not_not.2 hx)).trans (if_neg (Bool.eq_false_iff.1 hm)))

end

/-- The state in which a step has begun, line 2 taken up in state u. -/
def stepBegun (u : State) (i k t c : Nat) : State :=
  let y := u.ctx t c
  let v := enqueue u t c { y with regs := { y.regs with status := setBit y.regs.status 7 true }, dirty := y.dirty ∪ [2] }
  v.setCore i k { v.core i k with waiting := true }
theorem beginStep_filled {u : State} (h : fillLine s t c 2 = .ok u) : beginStep s i k t c = stepBegun u i k t c := by
  simp only [beginStep, h]
  rfl

theorem dstepBody_ended (hw : (s.core i k).waiting = true) (he : stepEnded s i k b = true) :
    dstepBody b i k s = .ok (s.setCore i k { s.core i k with waiting := false }).retire := (if_pos hw).trans (if_pos he)
theorem dstepBody_steps (hw : (s.core i k).waiting = true) (he : stepEnded s i k b = false) : dstepBody b i k s = .error .wait :=
  (if_pos hw).trans (if_neg (Bool.eq_false_iff.1 he))

end

end Sys2Proof.Machine

namespace Sys2Proof.Proofs
open Sys2Proof.Machine Sys2Proof.Stated

/-- Settles O50: each body's branch, under the bookkeeping of an instruction that may wait. -/
theorem debugInstructions : Obligations.DebugInstructions := by
  unfold Obligations.DebugInstructions
  intro s i k b hp told waits
  have haltOk {u : State} (hbody : dhaltBody b i k s = .ok u) : exec (.dhalt b) s = told u :=
    (runPriv_waiting_ok hp rfl hbody : execDhalt b s = _)
  have haltWait (hbody : dhaltBody b i k s = .error .wait) : exec (.dhalt b) s = waits s :=
    (runPriv_waiting_wait hp rfl hbody : execDhalt b s = _)
  have stepOk {u : State} (hbody : dstepBody b i k s = .ok u) : exec (.dstep b) s = told u :=
    (runPriv_waiting_ok hp rfl hbody : execDstep b s = _)
  have stepWait (hbody : dstepBody b i k s = .error .wait) : exec (.dstep b) s = waits s :=
    (runPriv_waiting_wait hp rfl hbody : execDstep b s = _)
  refine ⟨fun t c h => ?_, fun hw => ⟨fun he => stepOk (dstepBody_ended hw he), fun he => stepWait (dstepBody_steps hw he)⟩, fun tr h => ?_⟩
  · intro x
    refine ⟨fun hm => haltWait (dhaltBody_moving h hm),
      fun hm hcalm => (runPriv_waiting_kept hp rfl (dhaltBody_calm h hm hcalm) : execDhalt b s = _), fun hm hcalm => ?_, fun hx => ?_, fun hx hd => ?_,
      fun hx => ?_, fun hw => ⟨fun hx => ?_, fun hx hm => stepWait (dstepBody_moving hw h hx hm), fun u hx hm hu => ?_⟩⟩
    · exact ⟨fun hx => haltOk (dhaltBody_halted h hm hcalm hx), fun hx => haltOk (dhaltBody_dormant h hm hcalm hx),
        fun hx => haltOk (dhaltBody_trapped h hm hcalm hx), fun hx => haltOk (dhaltBody_queued h hm hcalm hx),
        fun u hx hu => haltOk (dhaltBody_boundary h hm hcalm hx hu), fun hx hu => haltWait (dhaltBody_noBoundary h hm hcalm hx hu)⟩
    · rw [exec_dresume_named hp h, if_pos hx]
    · rw [exec_dresume_named hp h, if_pos hx, resumeHalted_plain hd]
    · rw [exec_dresume_named hp h, if_neg hx]
    · exact (runPriv_waiting_trap hp rfl (dstepBody_running hw h hx) : execDstep b s = _)
    · intro y v
      exact stepOk ((dstepBody_begins hw h hx hm).trans (congrArg Except.ok (beginStep_filled hu)))
  · obtain ⟨n, rfl⟩ := debugTarget_trap h
    exact ⟨(runPriv_waiting_trap hp rfl (dhaltBody_error h) : execDhalt b s = _), exec_dresume_trap hp h⟩

end Sys2Proof.Proofs
end

section
/-! PROOFS, the island engine's system instructions: eret, ptfence and the invalidations, splinter, rgset, grant, revoke and vfbind (R470, R481,
R482, R487 to R489). -/

namespace Sys2Proof.Machine

/-! ## eret (R470) -/

section
variable (s : State) (cs : Word)

theorem leaveStatus_level : fld (leaveStatus s cs) 1 0 = fld cs 3 2 := by
  rw [leaveStatus, fld_setBit_other _ _ (by decide), fld_setBit_other _ _ (by decide), fld_setFld_other _ _ (by decide) (by decide),
    fld_setFld_same _ _ (by decide) (by decide)]
  exact Nat.mod_eq_of_lt (fld_lt ..)
theorem leaveStatus_tenant : fld (leaveStatus s cs) 31 8 = fld cs 55 32 := by
  rw [leaveStatus, fld_setBit_other _ _ (by decide), fld_setBit_other _ _ (by decide), fld_setFld_same _ _ (by decide) (by decide)]
  exact Nat.mod_eq_of_lt (fld_lt ..)
theorem leaveStatus_ie : bitOf (leaveStatus s cs) 4 = bitOf cs 5 := by
  rw [leaveStatus, bitOf_setBit _ _ _ (by decide), if_neg (by decide), bitOf_setBit _ _ _ (by decide), if_pos rfl]

end

section
variable (s : State) (i k : Nat)

@[simp] theorem newTenancy_cur (old : Nat) : (newTenancy s i k old).cur = s.cur := by
  unfold newTenancy
  dsimp only
  split <;> simp
theorem leaveException_core : ∃ ic g n l, (leaveException s i k).core i k = { s.core i k with
    cstatus := leaveStatus s (s.core i k).cstatus, icache := ic, groups := g, dropped := n, latency := l } := by
  obtain ⟨g, n, l, h⟩ := newTenancy_core (s.setCore i k _) i k (coreTenant (s.core i k))
  exact ⟨_, g, n, l, h.trans (by rw [State.core_setCore_same])⟩
theorem leaveException_ctxs : (leaveException s i k).ctxs = s.ctxs := newTenancy_ctxs ..
theorem leaveException_cur : (leaveException s i k).cur = s.cur := newTenancy_cur ..

end

/-- A jump that pops no loop leaves its target in the PC. -/
theorem State.getPc_jump {u : State} (h : Stated.ThreadOrCore u) (t : Nat) : (u.jump t false).getPc = w64 t :=
  congrArg Regs.pc (State.regs_jump h t false)

section
variable {s : State} {i k : Nat} (h : Stated.Privileged s i k 2 none)

theorem eretBody_permitted (hl : coreLevel (s.core i k) ≤ fld (s.core i k).cstatus 3 2)
    (ht : presides (coreTenant (s.core i k)) (fld (s.core i k).cstatus 55 32) = true)
    (hpl : levelOf (fld (s.core i k).cstatus 55 32) = fld (s.core i k).cstatus 3 2) :
    ¬ (fld (s.core i k).cstatus 3 2 < coreLevel (s.core i k) ∨ presides (coreTenant (s.core i k)) (fld (s.core i k).cstatus 55 32) = false ∨
      levelOf (fld (s.core i k).cstatus 55 32) ≠ fld (s.core i k).cstatus 3 2) := by
  rintro (hf | hf | hf)
  · exact absurd hl (not_le.2 hf)
  · exact absurd (ht.symm.trans hf) (by decide)
  · exact hf hpl

variable (hok : ¬ (fld (s.core i k).cstatus 3 2 < coreLevel (s.core i k) ∨
  presides (coreTenant (s.core i k)) (fld (s.core i k).cstatus 55 32) = false ∨
  levelOf (fld (s.core i k).cstatus 55 32) ≠ fld (s.core i k).cstatus 3 2))
include h hok

theorem exec_eret_idle (he : (s.core i k).epc = 0) : exec .eret s =
    .next { (leaveException s i k).setCore i k { (leaveException s i k).core i k with idle := true } with retired := true } :=
  (runPriv_ok h rfl ((if_neg hok).trans (if_pos he)) : execEret s = _)
theorem exec_eret_jumps (he : (s.core i k).epc ≠ 0) {l : CodeLine}
    (hl : checkTarget (coreAs s i k (fld (s.core i k).cstatus 55 32)) (.core i k) s.getPc (s.core i k).epc.toNat = .ok l) :
    exec .eret s = .next ((leaveException s i k).jump (s.core i k).epc.toNat false) := by
  refine (runPriv_ok h rfl ?_ : execEret s = _)
  refine (if_neg hok).trans ((if_neg he).trans ?_)
  rw [hl]

end

/-! ## ptfence, tlbinv and icinv (R481, R482) -/

theorem exec_ptfence_done {s : State} {i k : Nat} (h : Stated.Privileged s i k 2 none) (hinv : ∀ p ∈ s.invals, p.2.1 ≠ (i, k))
    (hsup : superseded s = false) : exec .ptfence s = .next s.retire := by
  have hany : (s.invals.any fun p => p.2.1 == (i, k)) = false := List.any_eq_false.2 fun p hp => by simpa using hinv p hp
  refine (runPriv_ok h rfl ?_ : execPtfence s = _)
  simp only [hany, hsup]
  rfl

section
variable {s : State} {i k : Nat} {b c : Reg} (h : Stated.Privileged s i k 2 (some 0)) (hlow : fld (s.getG c) 11 2 = 0)
  (hhigh : fld (s.getG c) 63 36 = 0)
include hlow hhigh

theorem tlbinv_formed (hm : fld (s.getG c) 1 0 ≠ 3) : ¬ (fld (s.getG c) 11 2 ≠ 0 ∨ fld (s.getG c) 63 36 ≠ 0 ∨ fld (s.getG c) 1 0 = 3) := by
  rintro (hf | hf | hf)
  · exact hf hlow
  · exact hf hhigh
  · exact hm hf

include h

theorem exec_tlbinv_frame (hm : fld (s.getG c) 1 0 = 2) (hl : coreLevel (s.core i k) = 0) :
    exec (.tlbinv b c) s = .next (sendInval s i k (.frame (fld (s.getG b) 51 12 * 4096))).retire :=
  (runPriv_ok h rfl ((if_neg (tlbinv_formed hlow hhigh (by rw [hm]; decide))).trans ((if_pos hm).trans (if_neg (not_not.2 hl)))) :
    execTlbinv b c s = _)

variable (ht : presides (coreTenant (s.core i k)) (fld (s.getG c) 35 12) = true)
include ht

/-- In its other modes the tenant named decides. -/
theorem exec_tlbinv_tenant (hm : fld (s.getG c) 1 0 < 2) : exec (.tlbinv b c) s = .next (sendInval s i k
    (if fld (s.getG c) 1 0 = 0 then .page (fld (s.getG c) 35 12) (addrOf (s.getG b)) else .work (fld (s.getG c) 35 12))).retire :=
  (runPriv_ok h rfl ((if_neg (tlbinv_formed hlow hhigh (by omega))).trans ((if_neg (by omega)).trans (if_neg (by rw [ht]; decide)))) :
    execTlbinv b c s = _)
theorem exec_tlbinv_page (hm : fld (s.getG c) 1 0 = 0) :
    exec (.tlbinv b c) s = .next (sendInval s i k (.page (fld (s.getG c) 35 12) (addrOf (s.getG b)))).retire := by
  rw [exec_tlbinv_tenant h hlow hhigh ht (by omega), if_pos hm]
theorem exec_tlbinv_work (hm : fld (s.getG c) 1 0 = 1) :
    exec (.tlbinv b c) s = .next (sendInval s i k (.work (fld (s.getG c) 35 12))).retire := by
  rw [exec_tlbinv_tenant h hlow hhigh ht (by omega), if_neg (by omega)]

end

theorem exec_icinv_found {s u : State} {i k pa : Nat} {x : Bool} {b : Reg} (h : Stated.Privileged s i k 2 (some 0))
    (hx : agentTranslate s (.core i k) .read (addrOf (s.getG b)) = .ok (pa, x, u)) :
    exec (.icinv b) s = .next (sendInval u i k (.code (pa / 4096 * 4096))).retire := by
  refine (runPriv_ok h rfl ?_ : execIcinv b s = _)
  simp only [hx]

/-! ## splinter (R482) -/

/-- The table that replaces a large leaf of a level. -/
def splinterTable (e lv : Nat) : List Byte := (List.range 512).flatMap fun j => toBytes 8 (splinterEntry e (2 ^ (3 + 9 * lv)) j)

theorem leaf_bits {e : Nat} (h : e % 4 = 3) : fieldN e 0 0 ≠ 0 ∧ fieldN e 1 1 ≠ 0 := by
  simp only [fieldN]
  omega
theorem bits_of_page {n : Nat} (h : n < 2 ^ 64) : Stated.bits (BitVec.ofNat 64 n) 12 40 = fieldN n 51 12 := by
  simp only [Stated.bits, fieldN, BitVec.toNat_ofNat, Nat.mod_eq_of_lt h]

section
variable {s u w z : State} {i k pa : Nat} {b c : Reg} {xs : List Place}

theorem exec_splinter_done (h : Stated.Privileged s i k 2 (some 0))
    (hlow : fld (s.getG c) 11 4 = 0) (hhigh : fld (s.getG c) 63 54 = 0) (hstage : fld (s.getG c) 1 0 ≠ 0)
    (hown : ownsStage (coreReq s i k).tenant (fld (s.getG c) 1 0) = true) (hlv : fld (s.getG c) 3 2 = 1 ∨ fld (s.getG c) 3 2 = 2)
    (hcheck : checkNow s (coreReq s i k) .write (w64 (addrOf (s.getG b))) 8 = .ok (xs, u))
    (hleaf : fromBytes (xs.flatMap (coreReadPlace u (coreReq s i k))) % 4 = 3)
    (hplace : splinterPlace (meetPlaces u (coreReq s i k) xs) i k (fld (s.getG c) 53 12 * 4096) = .ok pa)
    (hpage : tablePageOk (meetPlaces u (coreReq s i k) xs) pa (stageOwner (coreReq s i k).tenant (fld (s.getG c) 1 0))
      (worldOf (meetPlaces u (coreReq s i k) xs) (coreReq s i k).tenant) = true)
    (hfill : coreStore (meetPlaces u (coreReq s i k) xs) (coreReq s i k) (w64 (fld (s.getG c) 53 12 * 4096))
      (splinterTable (fromBytes (xs.flatMap (coreReadPlace u (coreReq s i k)))) (fld (s.getG c) 3 2)) = .ok w)
    (hpoint : coreStore w (coreReq s i k) (w64 (addrOf (s.getG b))) (toBytes 8 (fieldN (fld (s.getG c) 53 12 * 4096) 51 12 * 4096 + 1)) = .ok z) :
    exec (.splinter b c) s = .next z.retire := by
  obtain ⟨hvalid, hleaf'⟩ := leaf_bits hleaf
  have hformed : ¬ (fld (s.getG c) 11 4 ≠ 0 ∨ fld (s.getG c) 63 54 ≠ 0 ∨ fld (s.getG c) 1 0 = 0) := by
    rintro (hf | hf | hf)
    · exact hf hlow
    · exact hf hhigh
    · exact hstage hf
  have hlarge : ¬ (fieldN (fromBytes (xs.flatMap (coreReadPlace u (coreReq s i k)))) 0 0 = 0 ∨
      fieldN (fromBytes (xs.flatMap (coreReadPlace u (coreReq s i k)))) 1 1 = 0 ∨ fld (s.getG c) 3 2 = 0 ∨ fld (s.getG c) 3 2 = 3) := by
    rintro (hf | hf | hf | hf)
    · exact hvalid hf
    · exact hleaf' hf
    · omega
    · omega
  refine (runPriv_ok h rfl ?_ : execSplinter b c s = _)
  refine (if_neg hformed).trans ((if_neg (by rw [hown]; decide)).trans ?_)
  rw [hcheck]
  refine (if_neg hlarge).trans ?_
  rw [hplace]
  refine (if_neg (by rw [hpage]; decide)).trans ?_
  unfold splinterTable at hfill
  dsimp only
  rw [hfill]
  dsimp only
  rw [hpoint]

end

/-! ## rgset, grant, revoke and vfbind (R487 to R489) -/

/-- The regions that an rgset takes from and gives to tenant t: its old one, and the new one unless it only removes. -/
def rgsetRects (s : State) (t : Nat) (gone : Bool) (r : Nat) : List Nat := (s.tenant t).rect.toList ++ (if gone then [] else [r])

theorem noOverlap_any {s : State} {t me r : Nat}
    (h : ∀ p ∈ s.tenants, p.1 ≠ t → p.1 ≠ me → parentOf p.1 = me → ∀ q ∈ p.2.rect, rectMeet r q = false) :
    s.tenants.any (fun p => p.1 != t && p.1 != me && parentOf p.1 == me && (match p.2.rect with | some q => rectMeet r q | none => false)) = false := by
  refine List.any_eq_false.2 fun p hp => ?_
  cases hq : p.2.rect with
  | none => simp
  | some q =>
    have := h p hp
    simp only [Bool.and_eq_true, bne_iff_ne, beq_iff_eq]
    rintro ⟨⟨⟨h1, h2⟩, h3⟩, h4⟩
    exact absurd (h4.symm.trans (this h1 h2 h3 q hq)) (by decide)

section
variable {s : State} {i k : Nat} {b c : Reg}

section
variable (h : Stated.Privileged s i k 1 (some 1))
include h

theorem exec_rgset_done {u : State} {t r : Nat} {gone : Bool} (htenant : fld (s.getG b) 55 32 = t)
    (hgone : decide (fld (s.getG b) 23 16 < fld (s.getG b) 7 0) = gone)
    (hrect : fromViewRect s (coreTenant (s.core i k)) (fld (s.getG b) 31 0) = r) (hbits : fld (s.getG b) 63 56 = 0)
    (hchild : t ≠ coreTenant (s.core i k)) (hparent : parentOf t = coreTenant (s.core i k)) (hpart : partOf t ≠ 0)
    (hbusy : regionBusy s t (rgsetRects s t gone r) = false)
    (hfits : gone = true ∨ (rectAllowed s (coreTenant (s.core i k)) r = true ∧ ∀ p ∈ s.tenants, p.1 ≠ t → p.1 ≠ coreTenant (s.core i k) →
      parentOf p.1 = coreTenant (s.core i k) → ∀ q ∈ p.2.rect, rectMeet r q = false))
    (hu : changeWorlds s (withRegion s t (if gone then none else some r)) ((rgsetRects s t gone r).flatMap rectClusters).dedup = .ok u) :
    exec (.rgset b) s = .next u.retire := by
  subst htenant hgone hrect
  refine (runPriv_ok h rfl ?_ : execRgset b s = _)
  refine (if_neg (not_not.2 hbits)).trans ((if_neg ?_).trans ((if_neg ?_).trans ((if_neg (Bool.eq_false_iff.1 hbusy)).trans ?_)))
  · rintro (hf | hf | hf)
    · exact hchild hf
    · exact hf hparent
    · exact hpart hf
  · rintro ⟨hg, hf⟩
    obtain hgone | ⟨hallowed, hmeet⟩ := hfits
    · exact absurd (hgone.symm.trans hg) (by decide)
    · obtain hf | hf := hf
      · exact absurd (hallowed.symm.trans hf) (by decide)
      · exact absurd (hf.symm.trans (noOverlap_any hmeet)) (by decide)
  · unfold rgsetRects at hu
    dsimp only
    rw [hu]

variable (hown : presides (coreTenant (s.core i k)) (fld (s.getG b) 23 0) = true) (hb : fld (s.getG b) 63 27 = 0)
include hown hb

theorem exec_revoke_done : exec (.revoke b) s = .next (s.setTenant (fld (s.getG b) 23 0)
    { s.tenant (fld (s.getG b) 23 0) with grants := mdel (s.tenant (fld (s.getG b) 23 0)).grants (fld (s.getG b) 26 24) }).retire :=
  (runPriv_ok h rfl ((if_neg (not_not.2 hb)).trans (if_neg (by rw [hown]; decide))) : execRevoke b s = _)
theorem exec_grant_done (hv : fld (s.getG c) 63 34 = 0)
    (hallowed : rectAllowed s (coreTenant (s.core i k)) (fromViewRect s (coreTenant (s.core i k)) (fld (s.getG c) 31 0)) = true) :
    exec (.grant b c) s = .next (s.setTenant (fld (s.getG b) 23 0) { s.tenant (fld (s.getG b) 23 0) with
      grants := mset (s.tenant (fld (s.getG b) 23 0)).grants (fld (s.getG b) 26 24)
        { rect := fromViewRect s (coreTenant (s.core i k)) (fld (s.getG c) 31 0), vc0 := bitOf (s.getG c) 32, vc2 := bitOf (s.getG c) 33 } }).retire :=
  (runPriv_ok h rfl ((if_neg fun hf => hf.elim (· hb) (· hv)).trans ((if_neg (by rw [hown]; decide)).trans (if_neg (by rw [hallowed]; decide)))) :
    execGrant b c s = _)

end

theorem exec_vfbind_done (h : Stated.Privileged s i k 1 (some 2)) (hb : fld (s.getG b) 63 7 = 0) (hc : fld (s.getG c) 63 24 = 0)
    (hold : presides (coreTenant (s.core i k)) (boundTenant s (fld (s.getG b) 6 0)) = true)
    (hnew : presides (coreTenant (s.core i k)) (fld (s.getG c) 23 0) = true) (hquiet : hostBusy s (fld (s.getG b) 6 0) = false) :
    exec (.vfbind b c) s = .next (setGranted ({ s with vfs := (if fld (s.getG c) 23 0 = 0 then mdel s.vfs (fld (s.getG b) 6 0)
      else mset s.vfs (fld (s.getG b) 6 0) (fld (s.getG c) 23 0)) } : State).retire i k false) := by
  refine (runPriv_waiting_ok h rfl ?_ : execVfbind b c s = _)
  refine (if_neg fun hf => hf.elim (· hb) (· hc)).trans ((if_neg ?_).trans (if_neg (Bool.eq_false_iff.1 hquiet)))
  rintro (hf | hf)
  · exact absurd (hold.symm.trans hf) (by decide)
  · exact absurd (hnew.symm.trans hf) (by decide)

end

end Sys2Proof.Machine

namespace Sys2Proof.Proofs
open Sys2Proof.Machine Sys2Proof.Stated

/-- Settles O49: each instruction's body past its checks; eret by what leaving an exception writes in the core. -/
theorem islandSystem : Obligations.IslandSystem := by
  unfold Obligations.IslandSystem
  refine ⟨fun s i k h => ?_, fun s i k b c h => ?_, fun s i k b c h => ?_, fun s i k b c h => ?_⟩
  · intro c pl pt u d
    refine ⟨fun hl ht hpl => ?_, exec_ptfence_done h⟩
    have hok := eretBody_permitted hl ht hpl
    obtain ⟨ic, g, n, l, hcore⟩ := leaveException_core s i k
    have hd : d = { c with cstatus := leaveStatus s c.cstatus, icache := ic, groups := g, dropped := n, latency := l } := hcore
    have hu : ThreadOrCore u := by
      obtain ⟨hc, -⟩ := h
      intro t z
      rw [leaveException_cur, hc]
      exact Agent.noConfusion
    refine ⟨exec_eret_idle h hok, fun he htarget => ?_, ?_, ?_, ?_, ?_, leaveException_mem .., leaveException_ctxs ..⟩
    · obtain ⟨l, hl⟩ := htarget
      exact ⟨exec_eret_jumps h hok he hl, State.getPc_jump hu _⟩
    all_goals rw [hd]
    · exact leaveStatus_level ..
    · exact leaveStatus_tenant ..
    · exact leaveStatus_ie ..
  · intro g me
    refine ⟨fun hlow hhigh ht => ⟨fun hm => ?_, exec_tlbinv_work h hlow hhigh ht⟩, exec_tlbinv_frame h, fun pa x u hx => ?_, ?_⟩
    · rw [bits_address]
      exact exec_tlbinv_page h hlow hhigh ht hm
    · rw [bits_address] at hx
      exact exec_icinv_found h hx
    · intro stage lv new p q xs u pa w z hlow hhigh hstage hown hlv hcheck e v hleaf hplace hpage hfill hpoint
      have hnew : new < 2 ^ 64 := by
        have := fld_lt g 53 12
        simp only [new, show bits g 12 42 = fld g 53 12 from rfl]
        omega
      rw [bits_of_page hnew] at hpoint
      simp only [p, bits_address] at hcheck hpoint
      exact exec_splinter_done h hlow hhigh hstage hown hlv hcheck hleaf hplace hpage hfill hpoint
  · intro g me
    refine ⟨?_, ?_⟩
    · intro t gone r rs u hbits hchild hparent hpart hbusy hfits hu
      exact exec_rgset_done h rfl rfl rfl hbits hchild hparent hpart hbusy hfits hu
    · intro t x hbits hown
      exact ⟨exec_revoke_done h hown hbits, fun hv hallowed => exec_grant_done h hown hbits hv hallowed⟩
  · intro f t me hb hc hold hnew hquiet
    exact exec_vfbind_done h hb hc hold hnew hquiet

end Sys2Proof.Proofs
end

section
/-! PROOFS, the residency engine's steps: readings, rotations and the phases of a move (R435 to R442), the steps of a Clearance (R448 to R450),
of a restore (R453) and of a slice (R456). -/

namespace Sys2Proof.Machine

/-! ## SENSOR_READING (R435, R438, R539) -/

/-- A request for a move changes the clusters and what is due alone. -/
theorem requestMove_eq (s : State) (n a b : Nat) : ∃ x d, requestMove s n a b = { s with clusters := x, due := d } := by
  by_cases h : (s.cluster n).drift ≠ .idle ∨ clearing s a = true
  · exact ⟨_, _, requestMove_refused h⟩
  · obtain ⟨d, hd⟩ := addDueOnce_eq (s.setCluster n { s.cluster n with drift := .calming, driftS := a, driftT := b, driftSince := s.cycle }) (.calmingEnd n)
    obtain ⟨e, he⟩ := addDueOnce_eq { s.setCluster n { s.cluster n with drift := .calming, driftS := a, driftT := b, driftSince := s.cycle } with due := d }
      (.moveAbandoned n)
    exact ⟨_, e, (if_neg h).trans ((congrArg (State.addDueOnce · _) hd).trans he)⟩
theorem requestFrom_eq (s : State) (t : Nat) : ∃ x d, requestFrom s t = { s with clusters := x, due := d } := by
  unfold requestFrom
  dsimp only
  split
  · exact requestMove_eq ..
  · exact ⟨_, _, rfl⟩
/-- A thermal trip changes the islands, what is due and the wafer alone. -/
theorem thermalTrip_eq (s : State) (t : Nat) : ∃ x d w, thermalTrip s t = { s with islands := x, due := d, wafer := w } := by
  unfold thermalTrip
  split
  · exact ⟨_, _, _, rfl⟩
  · split <;> dsimp only <;> split
    · exact ⟨_, _, _, rfl⟩
    · exact (addDueOnce_eq _ _).elim fun d h => ⟨_, d, _, h⟩
    · exact ⟨_, _, _, rfl⟩
    · exact (addDueOnce_eq _ _).elim fun d h => ⟨_, d, _, h⟩

section
variable {s : State} {t : Nat} (temp : Nat)

/-- A tile with a reading, and whether it has asked for its move. -/
def readingTaken (s : State) (t temp : Nat) (th : Bool) : State := s.setTile t { s.tile t with temp := temp % 4096, thermal := th }
/-- The state after a reading and the move that it may ask for. -/
def readingDone (s : State) (t temp : Nat) (ask : Bool) : State :=
  (if ask then requestFrom (readingTaken s t temp true) t
    else readingTaken s t temp ((s.tile t).thermal && !decide (temp + 20 < driftTemp (s.cluster (clusterOf t))))).addDueOnce (.rotation (clusterOf t))

theorem readingDone_temp (ask : Bool) : ((readingDone s t temp ask).tile t).temp = temp % 4096 := by
  rw [readingDone, State.tile_addDueOnce]
  split
  · obtain ⟨x, d, h⟩ := requestFrom_eq (readingTaken s t temp true) t
    rw [h]
    exact congrArg Tile.temp (State.tile_setTile_same ..)
  · exact congrArg Tile.temp (State.tile_setTile_same ..)
theorem readingDone_frame (ask : Bool) : (readingDone s t temp ask).mem = s.mem ∧ (readingDone s t temp ask).ctxs = s.ctxs := by
  rw [readingDone, State.addDueOnce_mem, State.addDueOnce_ctxs]
  split
  · obtain ⟨x, d, h⟩ := requestFrom_eq (readingTaken s t temp true) t
    rw [h]
    exact ⟨rfl, rfl⟩
  · exact ⟨rfl, rfl⟩

/-- A present tile's reading, by whether it asks for a move. -/
theorem sensorBody_present (hp : tilePresent s t = true) : sensorBody s t temp =
    (let u := readingDone s t temp (bitOf (s.cluster (clusterOf t)).drctl 1 && decide (driftTemp (s.cluster (clusterOf t)) ≤ temp) && !(s.tile t).thermal)
     if 460 ≤ temp then thermalTrip u t else u) := by
  have hth (c x : Bool) : (if c then false else x) = (x && !c) := by cases c <;> cases x <;> rfl
  unfold sensorBody
  rw [if_neg (by rw [hp]; decide)]
  cases hask : bitOf (s.cluster (clusterOf t)).drctl 1 && decide (driftTemp (s.cluster (clusterOf t)) ≤ temp) && !(s.tile t).thermal with
  | true => simp only [hask, readingDone, readingTaken, if_true]
  | false => simp only [hask, readingDone, readingTaken, Bool.false_eq_true, if_false, hth]
theorem sensorBody_warm (hp : tilePresent s t = true) (ht : temp < 460) : sensorBody s t temp =
    readingDone s t temp (bitOf (s.cluster (clusterOf t)).drctl 1 && decide (driftTemp (s.cluster (clusterOf t)) ≤ temp) && !(s.tile t).thermal) :=
  (sensorBody_present temp hp).trans (if_neg (not_le.2 ht))
theorem sensorBody_hot (hp : tilePresent s t = true) (ht : 460 ≤ temp) : sensorBody s t temp = thermalTrip
    (readingDone s t temp (bitOf (s.cluster (clusterOf t)).drctl 1 && decide (driftTemp (s.cluster (clusterOf t)) ≤ temp) && !(s.tile t).thermal)) t :=
  (sensorBody_present temp hp).trans (if_pos ht)
theorem sensorBody_frame (hp : tilePresent s t = true) :
    ((sensorBody s t temp).tile t).temp = temp % 4096 ∧ (sensorBody s t temp).mem = s.mem ∧ (sensorBody s t temp).ctxs = s.ctxs := by
  by_cases ht : 460 ≤ temp
  · rw [sensorBody_hot temp hp ht]
    obtain ⟨x, d, w, h⟩ := thermalTrip_eq (readingDone s t temp _) t
    rw [h]
    exact ⟨readingDone_temp .., readingDone_frame ..⟩
  · rw [sensorBody_warm temp hp (not_le.1 ht)]
    exact ⟨readingDone_temp .., readingDone_frame ..⟩

end

theorem asks_iff {s : State} {t temp : Nat} : (bitOf (s.cluster (clusterOf t)).drctl 1 && decide (driftTemp (s.cluster (clusterOf t)) ≤ temp) &&
      !(s.tile t).thermal) = true ↔
    bitOf (s.cluster (clusterOf t)).drctl 1 = true ∧ driftTemp (s.cluster (clusterOf t)) ≤ temp ∧ (s.tile t).thermal = false := by
  simp [and_assoc]

/-! ## ROTATION and the phases of a move (R438 to R442) -/

section
variable {s : State} {n : Nat}

theorem rotationBody_requests {h k : Nat} (hready : rotationReady s n = true) (hon : bitOf (s.cluster n).drctl 0 = true) :
    let u := (s.setCluster n { s.cluster n with rotatedAt := s.cycle }).addDueOnce (.rotation n)
    hottest u (clusterTiles u n) = some h → coolest u (clusterTiles u n) = some k → h ≠ k →
      (u.tile k).temp + 4 * fld (s.cluster n).drctl 39 32 ≤ (u.tile h).temp → rotationBody s n = requestMove u n h k := by
  intro u hhot hcool hne hgap
  have hcl : u.cluster n = { s.cluster n with rotatedAt := s.cycle } := by simp [u]
  unfold rotationBody
  rw [if_neg (by rw [hready]; decide)]
  change (if bitOf (u.cluster n).drctl 0 = false then u else _) = _
  rw [hcl, if_neg (by rw [hon]; decide), hhot, hcool]
  exact if_pos ⟨hne, hgap⟩

/-- The state in which a move drains, the stubs set. -/
def drainingBegun (s : State) (n : Nat) : State :=
  let c := s.cluster n
  let u := setStubs (setStubs s c.driftS c.driftT) c.driftT c.driftS
  u.setCluster n { u.cluster n with drift := .draining, driftSince := u.cycle }

theorem calmingEndBody_ready (h : calmReady s n = true) : calmingEndBody s n =
    (let c := s.cluster n
     let v := drainingBegun s n
     let r := writeBackAll v (moveContexts v n)
     if r.2 then (flushPrivate (flushPrivate r.1 c.driftS) c.driftT).addDueOnce (.drainingEnd n) else abandonMove r.1 n) :=
  if_neg (by rw [h]; decide)
theorem drainingEndBody_drained (h : drained s n = true) : drainingEndBody s n =
    (let c := s.cluster n
     let r := writeBackAll s (moveContexts s n)
     if r.2 then
      let v := flushPrivate (flushPrivate r.1 c.driftS) c.driftT
      (v.setCluster n { v.cluster n with drift := .copying, driftSince := v.cycle }).addDueOnce (.copyingEnd n)
     else abandonMove r.1 n) :=
  if_neg (by rw [h]; decide)
theorem switchingEndBody_switched (h : switched s n = true) : switchingEndBody s n =
    (let c := s.cluster n
     let v := afterMove (s.setCluster n { c with drift := .idle, drstat := bump16 c.drstat 48 }) n
     wakeTile (wakeTile (startStubs (startStubs (endCalm v n) c.driftS) c.driftT) c.driftS) c.driftT) :=
  if_neg (by rw [h]; decide)

end

/-! ## COPYING_END: where the exchange leaves each block (R440, R441) -/

/-- A block after the exchange of tiles a and b. -/
def swappedBlock (a b : Nat) (x : Block) : Block :=
  if (x.tile = a ∨ x.tile = b) ∧ x.evicted = false then { x with tile := swapTile a b x.tile, moves := min 65535 (x.moves + 1) } else x

section
variable (s : State) (a b h : Nat)

theorem exchange_block? : (exchange s a b).block? h = (s.block? h).map (swappedBlock a b) := by
  have hmap : (exchange s a b).blocks = s.blocks.map fun p => (p.1, swappedBlock a b p.2) := by
    refine List.map_congr_left fun p _ => ?_
    unfold swappedBlock
    split <;> rfl
  rw [State.block?, hmap, mget?_mapped]
  rfl

/-- The state that COPYING_END leaves. -/
def copied (s : State) (n : Nat) : State :=
  let u := exchange s (s.cluster n).driftS (s.cluster n).driftT
  (u.setCluster n { u.cluster n with drift := .switching, driftSince := u.cycle }).addDueOnce (.switchingEnd n)

theorem copyingEndBody_copying {n : Nat} (hc : (s.cluster n).drift = .copying) : copyingEndBody s n = copied s n := if_neg (not_not.2 hc)
theorem copied_cluster (n : Nat) : ((copied s n).cluster n).drift = .switching := by simp [copied]
theorem copied_block? (n : Nat) : (copied s n).block? h = (s.block? h).map (swappedBlock (s.cluster n).driftS (s.cluster n).driftT) := by
  rw [copied, State.block?, State.addDueOnce_blocks, State.setCluster_blocks]
  exact exchange_block? ..

end

/-! ## BACKSTOP and CLEARED (R448 to R450) -/

section
variable {s : State} {id : Nat} {x : Clearance} (hx : mget? s.clearances id = some x) (hd : x.done = false)
include hx hd

theorem backstopBody_reached (h : x.backstop ≤ s.cycle) : backstopBody s id =
    (let late (d : Decision) : Bool := d.choice == .run && stillRunning s d.task
     let ds := x.decisions.map fun d => if late d then { d with choice := .runLate } else d
     discardTasks { s with clearances := mset s.clearances id { x with decisions := ds } }
      ((x.decisions.filter fun d => late d && !taskMoves s d.task).map fun d => (d.task, Fate.requeue))) := by
  unfold backstopBody
  rw [hx]
  exact (if_neg (by rw [hd]; decide)).trans (if_neg (not_lt.2 h))
theorem clearedBody_vacant (h : vacant s x = true) : clearedBody s id =
    (let rep (u : State) (p : Nat × Nat) : State := match mget? u.clearances id with
       | some y => if y.written.contains p.1 then u
         else reportBlock u id y p.1 (match u.launch? p.2 with | some l => if l.state = .complete ∧ l.dead.contains p.1 = false then 1 else 3 | none => 1) 0
       | none => u
     let v := x.blocks.foldl rep s
     sendRecord { v with clearances := v.clearances.map fun p => if p.1 = id then (p.1, { p.2 with done := true }) else p }
        x.core.1 (eventRecord x.tenant 2 (toBytes 32 id))) := by
  unfold clearedBody
  rw [hx]
  exact (if_neg (by rw [hd]; decide)).trans (if_neg (by rw [h]; decide))

end

/-! ## EVICTION, RESTORE and BLOCK_RESTORED (R449, R453) -/

section
variable {s : State} {h : Nat} {b : Block} (hb : s.block? h = some b)
include hb

theorem evictionBody_seals {u : State} {id : Nat} {x : Clearance} (hev : evictable s h = true)
    (hu : settleBlock s b.tile (blockContexts s b.tile h) = some u) (hx : postingOf s b.tile = some (id, x)) : evictionBody s h =
    (let v := flushBlocks u b.tile fun d => d.tp && d.tenant == b.tenant
     let q := ((allEntries v).filter fun e => e.handle == h).length + ((v.tile b.tile).inbox.filter fun e => e.handle == h).length
     reportBlock (sealBlock v h ((v.block? h).getD b)) id x h 2 q) := by
  unfold evictionBody
  rw [hb]
  dsimp only
  rw [if_neg (by rw [hev]; decide), hu, hx]

theorem exec_restore_evicted (n : Nat) (he : b.evicted = true) : exec (.restore n h) s = .next (s.addDueOnce (.blockRestored h)) := by
  change execRestore n h s = _
  unfold execRestore
  rw [hb]
  exact congrArg Host.Outcome.next (if_pos he)
theorem exec_restore_present (n : Nat) (he : b.evicted = false) : exec (.restore n h) s = .next (restoreEnds s n) := by
  change execRestore n h s = _
  unfold execRestore
  rw [hb]
  exact congrArg Host.Outcome.next (if_neg (by rw [he]; decide))

/-- The object of an Evicted block read, or not, for the tile that can take it. -/
theorem blockRestoredBody_reads {t : Nat} {z : Frozen} (he : b.evicted = true) (ht : restoreTile s h b = some t) (hz : b.frozen = some z)
    (hclear : clearing s t = false) : blockRestoredBody s h = match readSystem s (clusterOf t) b.tenant b.area b.sealed_.length with
      | some (obj, u) => restoreEnds (if objectRestores u b obj then thaw u h b z t else u) (h / 4096)
      | none => restoreEnds s (h / 4096) := by
  unfold blockRestoredBody
  rw [hb]
  dsimp only
  rw [if_neg (by rw [he]; decide), ht, hz]
  exact if_neg (by rw [hclear]; decide)

end

@[simp] theorem pushEntry_blocks (s : State) (t : Nat) (e : DequeEntry) : (pushEntry s t e).blocks = s.blocks := by
  unfold pushEntry
  dsimp only
  split <;> simp
@[simp] theorem wakeTile_blocks (s : State) (t : Nat) : (wakeTile s t).blocks = s.blocks := by simp [wakeTile]
@[simp] theorem dropStale_blocks (s : State) (t : Nat) : (dropStale s t).blocks = s.blocks := rfl
theorem foldl_blocks {α : Type} {f : State → α → State} (hf : ∀ s x, (f s x).blocks = s.blocks) (l : List α) (s : State) :
    (l.foldl f s).blocks = s.blocks := foldl_keeps (fun u => u.blocks = s.blocks) f (fun u x h => (hf u x).trans h) l s rfl

/-- The block that a thaw gives back is on its new tile. -/
theorem thaw_block? (s : State) (h : Nat) (b : Block) (z : Frozen) (t : Nat) :
    (thaw s h b z t).block? h = some { b with evicted := false, frozen := none, sealed_ := [], tile := t } := by
  unfold thaw State.block?
  dsimp only
  rw [wakeTile_blocks, dropStale_blocks, foldl_blocks fun u e => by split <;> simp, foldl_blocks fun u r => by simp,
    foldl_blocks fun u e => pushEntry_blocks ..]
  exact mget?_mset_same ..

/-! ## SLICE_END (R456) -/

theorem sliceEndBody_ends {s u : State} {t : Nat} (hover : sliceOver s t = true) (hstill : movingTile s t = false)
    (hu : sliceBoundary s t (tenantContexts s t (sliceTenant s t)) = some u)
    (hkept : keptCanCommit u (tenantContexts s t (sliceTenant s t)) = true) : sliceEndBody s t =
    (let v := nextSlice (endSliceOf u t (tenantContexts u t (sliceTenant u t))) t
     if sliced v (clusterOf t) then v.addDueOnce (.sliceEnd t) else v) := by
  have hgo : ¬ (sliceOver s t = false ∨ movingTile s t = true) := by simp [hover, hstill]
  unfold sliceEndBody
  dsimp only
  rw [if_neg hgo, hu]
  exact if_pos hkept

end Sys2Proof.Machine
end

section
/-! PROOFS, the island engine's steps: fault queues, QEVENT and resume commands (R484, R485), an invalidation carried out (R481). -/

namespace Sys2Proof.Machine

section
variable {s : State} {i : Nat} {r : FaultRecord} {rest : List FaultRecord}

theorem faultQueueBody_delivers (hin : (s.island i).inFlight = r :: rest) (hheld : (s.island i).held = []) :
    faultQueueBody s i = deliverRecord (s.setIsland i { s.island i with inFlight := rest }) i 3 r.tenant r := by
  unfold faultQueueBody
  dsimp only
  rw [hin]
  exact if_pos (by rw [hheld]; rfl)
/-- A queue with room and a place takes the record. -/
theorem deliverRecord_room {f t : Nat} {pa : List (Nat × Nat)} (hroom : queueRoom s i t = true) (hpa : queuePlace s i t = some pa) :
    deliverRecord s i (f + 1) t r = appendAt s i t pa r := by
  unfold deliverRecord
  dsimp only
  rw [if_pos hroom, hpa]
theorem heldBody_delivers (hheld : (s.island i).held = r :: rest) (hready : heldReady s i = true) : heldBody s i =
    (let v := deliverRecord (s.setIsland i { s.island i with held := rest }) i 1 0 r
     if rest.isEmpty then v else v.addDueOnce (.heldRecordDelivery i)) := by
  unfold heldBody
  dsimp only
  rw [hheld]
  exact if_pos hready

end

theorem qeventBody_enters {s : State} {i t k : Nat} (hq : queueEmpty s i t = false) (hk : qeventReady s i t = some k) : qeventBody s i t =
    enterException (s.addDueOnce (.qevent i t)) i k t (causeWord false engIsland 0x23) 0 (w64 (queueTail (agentRecord s i t))) (s.core i k).regs.pc := by
  unfold qeventBody
  rw [if_neg (by rw [hq]; decide)]
  dsimp only
  rw [hk]

theorem exec_rsmcmd_sends {s : State} {i k cmd : Nat} {p : Instr} (h : resumePacket (coreTenant (s.core i k))
    (fromViewHandle s (coreTenant (s.core i k)) (fld (s.core i k).rsmtgt 23 0)) (fld (s.core i k).rsmtgt 29 24) (fld (s.core i k).rsmreq 39 0) cmd = some p) :
    exec (.rsmcmd i k cmd) s = .next (s.addDue p) := by
  change execRsmcmd i k cmd s = _
  unfold execRsmcmd
  dsimp only
  rw [h]

theorem exec_tlbInvalidation_done {s : State} {n : Nat} {c : Nat × Nat} {v : Inval} (h : mget? s.invals n = some (c, v)) :
    exec (.tlbInvalidation n) s = .next { applyInval s v with invals := mdel (applyInval s v).invals n } := by
  change execTlbInvalidation n s = _
  unfold execTlbInvalidation
  rw [h]

/-- No translation that an invalidation names stays in a cluster's TLB. -/
theorem applyInval_tlb (s : State) (v : Inval) : ∀ p ∈ (applyInval s v).clusters, ∀ e ∈ p.2.tlb, v.hitsTlb e = false := by
  intro p hp e he
  obtain ⟨q, -, rfl⟩ := List.mem_map.1 hp
  simpa using (List.mem_filter.1 he).2
/-- No code line that it names stays in a tile's instruction cache. -/
theorem applyInval_icache (s : State) (v : Inval) : ∀ p ∈ (applyInval s v).tiles, ∀ e ∈ p.2.icache, v.hitsCode e = false := by
  intro p hp e he
  obtain ⟨q, -, rfl⟩ := List.mem_map.1 hp
  simpa using (List.mem_filter.1 he).2

end Sys2Proof.Machine

namespace Sys2Proof.Proofs
open Sys2Proof.Machine Sys2Proof.Stated

/-- Settles O58: each step's body in the branch that takes effect. -/
theorem residencyAndIslandSteps : Obligations.ResidencyAndIslandSteps := by
  unfold Obligations.ResidencyAndIslandSteps
  refine ⟨fun s t temp hp => ?_, fun s n => ?_, fun s t h => ?_, fun s id x hx hd => ?_, fun s h b hb => ?_, fun s t u hover hstill => ?_,
    fun s i r rest => ?_, fun s i t k hq hk => ?_, fun s i k cmd p => ?_, fun s n c v h => ?_⟩
  case refine_1 =>
    intro n x limit asks read
    have hasks : asks ↔ _ := asks_iff.symm
    refine ⟨fun ht ha => ?_, fun ht ha => ?_, fun ht ha => ?_, fun ht ha => ?_, sensorBody s t temp, rfl, sensorBody_frame temp hp⟩
    · exact congrArg Host.Outcome.next ((sensorBody_warm temp hp ht).trans (by rw [hasks.1 ha]; rfl))
    · exact congrArg Host.Outcome.next ((sensorBody_warm temp hp ht).trans (by rw [Bool.eq_false_iff.2 (mt hasks.2 ha)]; rfl))
    · exact congrArg Host.Outcome.next ((sensorBody_hot temp hp ht).trans (by rw [hasks.1 ha]; rfl))
    · exact congrArg Host.Outcome.next ((sensorBody_hot temp hp ht).trans (by rw [Bool.eq_false_iff.2 (mt hasks.2 ha)]; rfl))
  case refine_2 =>
    intro c u
    refine ⟨fun h k hready hon hhot hcool hne hgap => congrArg Host.Outcome.next (rotationBody_requests hready hon hhot hcool hne hgap), ?_,
      fun h => congrArg Host.Outcome.next (if_pos h), fun h => ?_, fun h => ?_, fun h => congrArg Host.Outcome.next (switchingEndBody_switched h)⟩
    · intro u v w h
      exact ⟨fun hok => congrArg Host.Outcome.next ((calmingEndBody_ready h).trans (if_pos hok)),
        fun hok => congrArg Host.Outcome.next ((calmingEndBody_ready h).trans (if_neg (Bool.eq_false_iff.1 hok)))⟩
    · intro w v
      exact ⟨fun hok => congrArg Host.Outcome.next ((drainingEndBody_drained h).trans (if_pos hok)),
        fun hok => congrArg Host.Outcome.next ((drainingEndBody_drained h).trans (if_neg (Bool.eq_false_iff.1 hok)))⟩
    · refine ⟨copied s n, congrArg Host.Outcome.next (copyingEndBody_copying s h), copied_cluster s n, State.mem_addDueOnce ..,
        fun h b hb he => ⟨fun ht => ?_, fun hS hT => ?_⟩⟩
      · refine ⟨swappedBlock c.driftS c.driftT b, by rw [copied_block?, hb]; rfl, ?_⟩
        rw [swappedBlock, if_pos ⟨.inl ht, he⟩]
        exact ⟨if_pos ht, rfl, rfl⟩
      · rw [copied_block?, hb, Option.map_some, swappedBlock, if_neg fun hf => hf.1.elim hS hT]
  case refine_3 =>
    intro r hstub hidle
    refine congrArg Host.Outcome.next ((if_neg ?_).trans (if_pos hidle))
    simpa [Option.isSome_iff_ne_none] using hstub
  case refine_4 =>
    intro late ds
    exact ⟨fun hreached => congrArg Host.Outcome.next (backstopBody_reached hx hd hreached),
      fun hvacant => congrArg Host.Outcome.next (clearedBody_vacant hx hd hvacant)⟩
  case refine_5 =>
    refine ⟨fun u id x hev hu hx => congrArg Host.Outcome.next (evictionBody_seals hb hev hu hx),
      fun n => ⟨exec_restore_evicted hb n, exec_restore_present hb n⟩, fun t z he ht hz hclear => ?_⟩
    have hbody := blockRestoredBody_reads hb he ht hz hclear
    refine ⟨fun obj u hread => ⟨fun hok => ⟨?_, thaw_block? ..⟩, fun hok => ?_⟩, fun hread => ?_⟩ <;> rw [hread] at hbody
    · exact congrArg Host.Outcome.next (hbody.trans (congrArg (restoreEnds · _) (if_pos hok)))
    · exact congrArg Host.Outcome.next (hbody.trans (congrArg (restoreEnds · _) (if_neg (Bool.eq_false_iff.1 hok))))
    · exact congrArg Host.Outcome.next hbody
  case refine_6 =>
    intro l hu hkept v
    exact congrArg Host.Outcome.next (sliceEndBody_ends hover hstill hu hkept)
  case refine_7 =>
    intro isl
    refine ⟨?_, ?_⟩
    · intro v hin hheld
      have hbody := faultQueueBody_delivers hin hheld
      exact ⟨congrArg Host.Outcome.next hbody,
        fun pa hroom hpa => congrArg Host.Outcome.next (hbody.trans (deliverRecord_room hroom hpa))⟩
    · intro v hheld hready
      exact congrArg Host.Outcome.next (heldBody_delivers hheld hready)
  case refine_8 => exact congrArg Host.Outcome.next (qeventBody_enters hq hk)
  case refine_9 =>
    intro c hp
    exact exec_rsmcmd_sends hp
  case refine_10 =>
    intro u
    exact ⟨exec_tlbInvalidation_done h, applyInval_tlb s v, applyInval_icache s v⟩

end Sys2Proof.Proofs
end

section
/-! PROOFS, the trust and edge engines' steps: MKERN and control space (R474, R509), rekey sweeps (R505), the reserve tier (R528 to R530). -/

namespace Sys2Proof.Machine

/-! ## MKERN and control space -/

theorem extendKernel_locked {s : State} (h : s.wafer.mlock = true) (v : List Byte) : extendKernel s v = s := if_pos h
theorem extendKernel_open {s : State} (h : s.wafer.mlock = false) (v : List Byte) :
    extendKernel s v = { s with wafer := { s.wafer with mkern := sm3 (digest32 s.wafer.mkern ++ v) } } := if_neg (by rw [h]; decide)

/-- A whole double that the tenant may not reach is left as it is. -/
theorem controlWrite_unreached {s : State} {t i k a : Nat} {bs : List Byte} (hb : bs.length = 8) (ha : a % 8 = 0)
    (hr : controlReach s t (controlAt a) = false) : controlWrite s t i k a bs = s := by
  have hdouble : a / 8 * 8 = a := by omega
  have hput (l : List Byte) : controlPut s t i k a l = s := by
    unfold controlPut controlSet
    dsimp only
    rw [hdouble, if_pos hr]
  have hne : bs ≠ [] := by
    rintro rfl
    exact absurd hb (by decide)
  rw [controlWrite, hb, controlWriteFuel, if_neg hne]
  dsimp only
  rw [hput, ha, List.drop_eq_nil_of_le (by omega)]
  rfl

/-! ## Rekey sweeps -/

theorem beginSweep_sweeps (s : State) (r : Nat) (e : Bool) : (beginSweep s r e).wafer.sweeps = s.wafer.sweeps ++ [{ region := r, epoch := e }] := by
  simp [beginSweep]
theorem beginSweep_frame (s : State) (r : Nat) (e : Bool) : (beginSweep s r e).mem = s.mem ∧ (beginSweep s r e).lines = s.lines := by
  simp [beginSweep]

/-- The state in which sweep w is off the list; another of its region stays due. -/
def sweepEnded (v : State) (r : Nat) (w : Sweep) : State :=
  let u : State := { v with wafer := { v.wafer with sweeps := v.wafer.sweeps.erase w } }
  if u.wafer.sweeps.any fun x => x.region == r then u.addDueOnce (.sweepComplete r) else u

section
variable {s : State} {r : Nat} {w : Sweep} (hw : s.wafer.sweeps.find? (fun w => w.region == r) = some w)
include hw

theorem sweep_region : w.region = r := by simpa using List.find?_some hw
theorem sweepBody_edge (hr : r < edgeEnd / 2 ^ 21) : sweepBody s r =
    sendRecord (sweepEnded (if w.swept then s else sweepEdge s w) r w) (edgeIsland (emmOf (r * 2 ^ 21))) (eventRecord 0 3 (toBytes 32 r)) := by
  have hedge : sweepRegion s w = sweepEdge s w := if_pos (by rw [sweep_region hw]; exact hr)
  unfold sweepBody
  rw [hw]
  dsimp only
  rw [if_pos hr, hedge]
  rfl
theorem sweepBody_block {b : Block} (hr : edgeEnd / 2 ^ 21 ≤ r) (hb : s.block? (r - edgeEnd / 2 ^ 21) = some b) : sweepBody s r =
    if b.evicted && !w.swept then s.addDueOnce (.sweepComplete r)
    else sendRecord (sweepEnded (if w.swept then s else sweepScratch s w (r - edgeEnd / 2 ^ 21) b) r w) (homeIsland (clusterOf b.tile))
      (eventRecord 0 3 (toBytes 32 r)) := by
  have hscratch : sweepRegion s w = sweepScratch s w (r - edgeEnd / 2 ^ 21) b := by
    unfold sweepRegion
    rw [sweep_region hw, if_neg (not_lt.2 hr), hb]
  unfold sweepBody
  rw [hw]
  dsimp only
  rw [if_neg (not_lt.2 hr), hb, hscratch]
  rfl

end

/-! ## The slots of a controller (R528, R530) -/

section
variable (x : Edge) (k : Nat) (w : Word) (r : Option Reserve) (o : Option (Nat × Bool)) (v : Nat)

theorem slotWord_setSlot : slotWord (setSlot x k w r) k = w := by
  unfold slotWord setSlot
  split <;> rfl
theorem slotStore_setSlot : slotStore (setSlot x k w r) k = r := by
  unfold slotStore setSlot
  split <;> rfl
theorem fld_setCkst : fld (setCkst x v).ecstat 3 2 = v % 4 := fld_setFld_same _ _ (by decide) (by decide)

/-- A slot written as an operation begins or ends. -/
def slotSet : Edge := setCkst { setSlot x k w r with op := o } v

theorem slotWord_slotSet : slotWord (slotSet x k w r o v) k = w := slotWord_setSlot x k w r
theorem slotStore_slotSet : slotStore (slotSet x k w r o v) k = r := slotStore_setSlot x k w r
theorem ckst_slotSet : fld (slotSet x k w r o v).ecstat 3 2 = v % 4 := fld_setCkst _ _

end

/-- VALID cleared, and VALID above a sequence number. -/
theorem valid_cleared (w : Word) : bitOf (setBit w 63 false) 63 = false := by rw [bitOf_setBit _ _ _ (by decide), if_pos rfl]
theorem valid_set (n : Nat) : bitOf (w64 (2 ^ 63 + n % 2 ^ 32)) 63 = true := by
  have h : (n % 2 ^ 32).testBit 63 = false := Nat.testBit_lt_two_pow (lt_trans (Nat.mod_lt _ (by norm_num)) (by norm_num))
  rw [bitOf, w64, BitVec.getLsbD_ofNat, Nat.testBit_two_pow_add_eq, h]
  rfl

section
variable (s : State) (e k : Nat)

/-- The states in which a checkpoint and a restore of slot k run. -/
def checkpointRuns : State :=
  (s.setEdge e (slotSet (s.edge e) k (setBit (slotWord (s.edge e) k) 63 false) none (some (k, false)) 1)).addDueOnce (.checkpointComplete e)
def slotRestoreRuns : State := (s.setEdge e (setCkst { s.edge e with op := some (k, true) } 1)).addDueOnce (.restoreComplete e)

@[simp] theorem State.edge_addDueOnce (i : Instr) : (s.addDueOnce i).edge e = s.edge e := by simp [State.edge]
theorem checkpointRuns_edge :
    (checkpointRuns s e k).edge e = slotSet (s.edge e) k (setBit (slotWord (s.edge e) k) 63 false) none (some (k, false)) 1 := by simp [checkpointRuns]
theorem checkpointRuns_mem : (checkpointRuns s e k).mem = s.mem := by simp [checkpointRuns]
theorem slotRestoreRuns_edge : ((slotRestoreRuns s e k).edge e).op = some (k, true) := by simp [slotRestoreRuns, setCkst]
theorem slotRestoreRuns_mem : (slotRestoreRuns s e k).mem = s.mem := by simp [slotRestoreRuns]

variable {s e}

theorem checkpointBody_idle (h : (s.edge e).op = none) : checkpointBody s e k = checkpointRuns s e k := if_neg (by rw [h]; decide)
theorem slotRestoreBody_idle (h : (s.edge e).op = none) : slotRestoreBody s e k = slotRestoreRuns s e k := if_neg (by rw [h]; decide)

/-- The state in which a checkpoint is done: v, the errors of the EMM met and a nonce drawn. -/
def checkpointEnds (v : State) (e k : Nat) (nonce : List Byte) : State :=
  v.setEdge e (slotSet (v.edge e) k (w64 (2 ^ 63 + (max (fld (v.edge e).slot0 31 0) (fld (v.edge e).slot1 31 0) + 1) % 2 ^ 32))
    (some { object := sealObject 0 (worldOf v 0) v.wafer.dstate nonce (emmImage v e) }) none 2)

variable {k}

theorem checkpointDone_runs (h : (s.edge e).op = some (k, false)) :
    checkpointDone s e = checkpointEnds (randomBytes (meetEmm s e)).2 e k (randomBytes (meetEmm s e)).1 := by
  unfold checkpointDone
  rw [h]
  rfl

/-- What RESTORE_COMPLETE does to the operation, whose state it has reached is v. -/
def restoreEnded (v : State) (e n : Nat) : State := v.setEdge e (setCkst { v.edge e with op := none } n)

section
variable (h : (s.edge e).op = some (k, true))
include h

theorem restoreDone_empty (hs : slotStore (s.edge e) k = none ∨ bitOf (slotWord (s.edge e) k) 63 = false) : restoreDone s e = restoreEnded s e 3 := by
  have hnone : (if bitOf (slotWord (s.edge e) k) 63 then slotStore (s.edge e) k else none) = none := by
    obtain hs | hs := hs
    · rw [hs, ite_self]
    · rw [hs]
      rfl
  unfold restoreDone
  dsimp only
  rw [h]
  dsimp only
  rw [hnone]
  rfl

variable {r : Reserve} (hr : slotStore (s.edge e) k = some r) (hv : bitOf (slotWord (s.edge e) k) 63 = true)
include hr hv

theorem restoreDone_stored : restoreDone s e = match openObject 0 (worldOf s 0) s.wafer.dstate r.object with
    | none => restoreEnded s e 3
    | some (b, some _) => restoreEnded (abortRestore s e b) e 3
    | some (b, none) => restoreEnded (restoreEmm s e b) e 2 := by
  have hsome : (if bitOf (slotWord (s.edge e) k) 63 then slotStore (s.edge e) k else none) = some r := (if_pos hv).trans hr
  unfold restoreDone
  dsimp only
  rw [h]
  dsimp only
  rw [hsome]
  rfl

end

/-- The state in which slot k is empty. -/
def slotErased (s : State) (e k : Nat) : State := s.setEdge e (setSlot (s.edge e) k (setBit (slotWord (s.edge e) k) 63 false) none)

end

/-! ## The errors that a checkpoint meets (R540) -/

section
variable (s : State) (l : Nat)

theorem meta_line : s.meta_ (16 * l) = mget s.lines {} l := by rw [State.meta_, Nat.mul_div_cancel_left _ (by decide)]
/-- A line written into the list is that line's, and no other's. -/
theorem meta_listed {u : State} {m : LineMeta} {j : Nat} (h : u.lines = mset s.lines j m) :
    u.meta_ (16 * l) = if l = j then m else s.meta_ (16 * l) := by
  rw [meta_line, meta_line, h, mget]
  split
  · next hj => rw [hj, mget?_mset_same, Option.getD_some]
  · next hj => rw [mget?_mset_other _ _ hj, mget]

/-- The side bits of a line whose error has been met. -/
def metLine (m : LineMeta) : LineMeta :=
  if m.ecc = 1 then { m with ecc := 0 } else if m.ecc = 2 then { m with poisoned := true, ecc := 0 } else m

theorem meetLine_meta_same (hl : 16 * l < edgeEnd) : (meetLine s l).meta_ (16 * l) = metLine (s.meta_ (16 * l)) := by
  unfold meetLine metLine
  rw [if_neg (not_le.2 hl)]
  split
  · exact (meta_listed s l (u := correctLine s l) rfl).trans (if_pos rfl)
  split
  · exact (meta_listed s l (u := poisonLine s l) rfl).trans (if_pos rfl)
  · rfl
theorem meetLine_meta_other {j : Nat} (hj : l ≠ j) : (meetLine s j).meta_ (16 * l) = s.meta_ (16 * l) := by
  unfold meetLine
  split
  · rfl
  split
  · exact (meta_listed s l (u := correctLine s j) rfl).trans (if_neg hj)
  split
  · exact (meta_listed s l (u := poisonLine s j) rfl).trans (if_neg hj)
  · rfl

theorem metLine_poisoned {m : LineMeta} (h : m.poisoned = true ∨ m.ecc = 2) : (metLine m).poisoned = true := by
  unfold metLine
  split
  · next h1 => exact h.resolve_right fun h2 => absurd (h1.symm.trans h2) (by decide)
  split
  · rfl
  · next h2 => exact h.resolve_right h2

variable {s l} (hl : 16 * l < edgeEnd)
include hl

/-- A poisoned line stays so. -/
theorem meetLine_poisoned (h : (s.meta_ (16 * l)).poisoned = true) (j : Nat) : ((meetLine s j).meta_ (16 * l)).poisoned = true := by
  by_cases hj : l = j
  · subst hj
    rw [meetLine_meta_same s l hl]
    exact metLine_poisoned (.inl h)
  · rw [meetLine_meta_other s l hj]
    exact h
/-- A line of the list with an uncorrectable error is poisoned when all have been met. -/
theorem foldl_meetLine_poisons (js : List Nat) (hmem : l ∈ js) (hecc : (s.meta_ (16 * l)).ecc = 2) :
    ((js.foldl meetLine s).meta_ (16 * l)).poisoned = true := by
  induction js generalizing s with
  | nil => cases hmem
  | cons j js ih =>
    rw [List.foldl_cons]
    by_cases hj : l = j
    · subst hj
      refine foldl_keeps (fun u : State => (u.meta_ (16 * l)).poisoned = true) _ (fun u j h => meetLine_poisoned hl h j) js _ ?_
      rw [meetLine_meta_same s l hl]
      exact metLine_poisoned (.inr hecc)
    · exact ih ((List.mem_cons.1 hmem).resolve_left hj) (by rw [meetLine_meta_other s l hj]; exact hecc)

omit hl

theorem mem_keys_of_mget? {κ α : Type} [DecidableEq κ] {k : κ} {v : α} : ∀ {m : Map κ α}, mget? m k = some v → k ∈ m.map Prod.fst
  | (j, w) :: m, h => by
    by_cases hj : j = k
    · exact hj ▸ List.mem_cons_self ..
    · exact List.mem_cons_of_mem _ (mem_keys_of_mget? ((if_neg hj).symm.trans h))
/-- A line with an error is listed. -/
theorem listed_of_ecc (h : (s.meta_ (16 * l)).ecc = 2) : l ∈ s.lines.map Prod.fst := by
  rw [meta_line, mget] at h
  cases hm : mget? s.lines l with
  | none => rw [hm] at h; exact absurd h (by decide)
  | some m => exact mem_keys_of_mget? hm

theorem meetEmm_poisons {e : Nat} (he : e < 32) (hin : inEmm e (16 * l) = true) (h : (s.meta_ (16 * l)).ecc = 2) :
    ((meetEmm s e).meta_ (16 * l)).poisoned = true := by
  have hl : 16 * l < edgeEnd := by
    have hin' := hin
    simp only [inEmm, Bool.and_eq_true, decide_eq_true_eq] at hin'
    obtain ⟨-, hlt⟩ := hin'
    have htop : emmSize * (e + 1) ≤ edgeEnd := (Nat.mul_le_mul_left _ he).trans (by decide)
    exact lt_of_lt_of_le hlt htop
  exact foldl_meetLine_poisons hl _ (List.mem_filter.2 ⟨listed_of_ecc h, hin⟩) h

end

end Sys2Proof.Machine
end

section
/-! PROOFS, the host and the collectives: host requests (R531 to R533), SPDM answers (R513), apertures (R535) and collectives (R515, R536). -/

namespace Sys2Proof.Machine

/-! ## The host (R531 to R533) -/

theorem barBytes_length (s : State) (off n : Nat) : (barBytes s off n).length = n := by simp [barBytes]
theorem barBytes_getD (s : State) (off : Nat) {n j : Nat} (hj : j < n) :
    (barBytes s off n).getD j 0 = if off + j < 8 then byteAt (toBytes 8 (w48stat s).toNat) (off + j) else 0 := by
  simp [barBytes, List.getD_eq_getElem?_getD, hj]

section
variable {s : State} {f off n : Nat}

theorem exec_cxlMemRead_bar (h : 2 ^ 40 ≤ off ∧ off + n ≤ 2 ^ 40 + 65536) :
    exec (.cxlMemRead f off n) s = .next (reply s f 0 (barBytes s (off - 2 ^ 40) n)) := congrArg Host.Outcome.next (if_pos h)

section
variable (h : ¬ (2 ^ 40 ≤ off ∧ off + n ≤ 2 ^ 40 + 65536))
include h

theorem exec_cxlMemRead_window : exec (.cxlMemRead f off n) s = .next (match hostWindow s f off n false with
    | some l => reply (l.foldl (fun s p => meetAt s p.1 p.2) s) f 0 (l.flatMap fun p => readPhys s p.1 p.2)
    | none => reply s f 1 []) := congrArg Host.Outcome.next (if_neg h)
theorem exec_cxlMemRead_some {l : List (Nat × Nat)} (hl : hostWindow s f off n false = some l) : exec (.cxlMemRead f off n) s =
    .next (reply (l.foldl (fun s p => meetAt s p.1 p.2) s) f 0 (l.flatMap fun p => readPhys s p.1 p.2)) := by
  rw [exec_cxlMemRead_window h, hl]
theorem exec_cxlMemRead_none (hl : hostWindow s f off n false = none) : exec (.cxlMemRead f off n) s = .next (reply s f 1 []) := by
  rw [exec_cxlMemRead_window h, hl]

end

section
variable {b : List Byte}

theorem exec_cxlMemWrite_some {l : List (Nat × Nat)} (hl : hostWindow s f off b.length true = some l)
    (hfree : ∀ p ∈ l, rekeyBlocked s p.1 = false) : exec (.cxlMemWrite f off b) s = .next (hostWrite s l b) := by
  have hany : (l.any fun p => rekeyBlocked s p.1) = false := List.any_eq_false.2 fun p hp => by rw [hfree p hp]; decide
  change execCxlMemWrite f off b s = _
  unfold execCxlMemWrite
  rw [hl]
  exact congrArg Host.Outcome.next (if_neg (by rw [hany]; decide))
theorem exec_cxlMemWrite_none (hl : hostWindow s f off b.length true = none) : exec (.cxlMemWrite f off b) s = .next s := by
  change execCxlMemWrite f off b s = _
  unfold execCxlMemWrite
  rw [hl]

end

end

/-! ## Contrail's apertures (R535) -/

section
variable {s : State} {m a : Nat} {w : Bool} {b : List Byte}

/-- An answer to another module. -/
def answerModule (s : State) (m c : Nat) (b : List Byte) : State := { s with replies := s.replies ++ [{ fn := 256 + m, code := c, bytes := b }] }

theorem exec_aperture_refused (h : ¬ (exportAllows s m a = true ∧ exportAllows s m (a + b.length - 1) = true)) :
    exec (.apertureAccess m a w b) s = .next (answerModule s m 2 []) :=
  congrArg Host.Outcome.next (if_neg (by rw [Bool.and_eq_true]; exact h))

section
variable (h : exportAllows s m a = true ∧ exportAllows s m (a + b.length - 1) = true)
include h

theorem exec_aperture_allowed : exec (.apertureAccess m a w b) s = .next (if w then
      if rekeyBlocked s a then s.addDue (.apertureAccess m a w b) else answerModule (hostWrite s (segments a b.length) b) m 0 []
    else answerModule (meetAt s a b.length) m 0 (readPhys s a b.length)) :=
  congrArg Host.Outcome.next (if_pos (by rw [Bool.and_eq_true]; exact h))
theorem exec_aperture_read (hw : w = false) :
    exec (.apertureAccess m a w b) s = .next (answerModule (meetAt s a b.length) m 0 (readPhys s a b.length)) := by
  rw [exec_aperture_allowed h, hw]
  rfl
theorem exec_aperture_write (hw : w = true) (hfree : rekeyBlocked s a = false) :
    exec (.apertureAccess m a w b) s = .next (answerModule (hostWrite s (segments a b.length) b) m 0 []) := by
  rw [exec_aperture_allowed h, hw, hfree]
  rfl

end

end

/-! ## Collectives (R515, R536) -/

/-- A read that meets errors changes the controllers, the lines, the islands and what is due alone. -/
theorem meetAt_eq (s : State) (pa n : Nat) : ∃ e l i d, meetAt s pa n = { s with edges := e, lines := l, islands := i, due := d } := by
  unfold meetAt
  split
  · exact ⟨_, _, _, _, rfl⟩
  · refine foldl_keeps (fun u : State => ∃ e l i d, u = { s with edges := e, lines := l, islands := i, due := d }) _ (fun u k h => ?_) _ s ⟨_, _, _, _, rfl⟩
    obtain ⟨e, l, i, d, rfl⟩ := h
    unfold meetLine
    split
    · exact ⟨_, _, _, _, rfl⟩
    split
    · exact ⟨_, _, _, _, rfl⟩
    split <;> exact ⟨_, _, _, _, rfl⟩

theorem crypt_twice (s : State) (m tag kgen : Nat) (b : List Byte) : crypt s m tag kgen (crypt s m tag kgen b) = b :=
  xorStream_twice (fun j => sm4 (Config.collectiveKey s.wafer.ckey) (Config.collectiveCounter m tag kgen j)) b

section
variable (s v : State) (d : List Byte)

/-- The contribution of a descriptor, sealed in state v. -/
def sealedContribution : List Byte :=
  crypt v (fld v.wafer.modid 8 0) (recFld d 63 32) v.wafer.ckgen.toNat (readPhys v (recFld d 115 64) (4 * recFld d 7 0))
/-- The collective of a descriptor posted in state v. -/
def postedCollective : Collective :=
  { tag := recFld d 63 32, desc := d, contrib := sealedContribution v d, mac := contributionTag v (sealedContribution v d)
    kgen := v.wafer.ckgen.toNat, started := min v.cycle (Config.firstPost (recFld d 63 32) v.freeCtr) }
/-- The state in which it stands among the collectives. -/
def collectivePosted : State :=
  let w := meetAt v (recFld d 115 64) (4 * recFld d 7 0)
  ((({ w with wafer := { w.wafer with colls := w.wafer.colls ++ [postedCollective v d] }, freeCtr := w.freeCtr + 1 } : State).addDueOnce
    (.collectiveResult (recFld d 63 32))).addDueOnce (.timeout (recFld d 63 32)))

theorem collectivePosted_colls : (collectivePosted v d).wafer.colls = v.wafer.colls ++ [postedCollective v d] := by
  obtain ⟨e, l, i, u, h⟩ := meetAt_eq v (recFld d 115 64) (4 * recFld d 7 0)
  simp only [collectivePosted, h, State.addDueOnce_wafer]
theorem collectivePosted_mem : (collectivePosted v d).mem = v.mem := by simp [collectivePosted]
theorem collectivePosted_due : Instr.collectiveResult (recFld d 63 32) ∈ (collectivePosted v d).due ∧
    Instr.timeout (recFld d 63 32) ∈ (collectivePosted v d).due :=
  ⟨State.mem_addDueOnce_of_mem (State.mem_addDueOnce ..) _, State.mem_addDueOnce ..⟩

end

section
variable {s : State} {a : Nat}

theorem collpostBody_bad (h : collOk (readPhys s a 64) = false) :
    collpostBody s a = writeWide (meetAt s a 64) (recFld (readPhys s a 64) 243 192) (toBytes 8 (2 ^ 63 + 1)) := if_pos h
theorem collpostBody_posts (h : collOk (readPhys s a 64) = true) : collpostBody s a = collectivePosted (meetAt s a 64) (readPhys s a 64) :=
  if_neg (by rw [h]; decide)

end

section
variable {s : State} {tag : Nat} {x : Collective} (hx : collective? s tag = some x)
include hx

theorem exec_linkdown_ends : exec (.linkdown tag) s = .next (endCollective s x [] (2 ^ 63 + 10)) := by
  change execLinkdown tag s = _
  unfold execLinkdown
  rw [hx]
  rfl
theorem exec_timeout_found : exec (.timeout tag) s =
    .next (if collLate s x then endCollective s x [] (2 ^ 63 + 11) else s.addDueOnce (.timeout tag)) := by
  change execTimeout tag s = _
  unfold execTimeout collTimedOut
  rw [hx]
  rfl
theorem collectiveBody_found : collectiveBody s tag = if collLate s x then s else
    if ((otherMembers s).map (otherType s tag)).any (fun t => t != recFld x.desc 23 16) then
      if ((otherMembers s).map (otherType s tag)).all (fun t => t != recFld x.desc 23 16 && t == ((otherMembers s).map (otherType s tag)).headD 0) then
        endCollective { s with freeCtr := s.freeCtr + 1 } x [] (2 ^ 63 + 1)
      else { s with freeCtr := s.freeCtr + 1 }
    else if keysAgree s x then endCollective { s with freeCtr := s.freeCtr + 1 } x
      (combineAll x.desc ((contributions s x).map fun c => crypt s c.1 tag x.kgen c.2)) 0
    else endCollective { s with freeCtr := s.freeCtr + 1 } x [] (2 ^ 63 + 9) := by
  unfold collectiveBody
  rw [hx]
  rfl

theorem collectiveBody_late (hl : collLate s x = true) : collectiveBody s tag = s := (collectiveBody_found hx).trans (if_pos hl)

variable (hl : collLate s x = false)
include hl

/-- Every other member has named one other type. -/
theorem collectiveBody_apart {ty : Nat} (hne : ty ≠ recFld x.desc 23 16) (hothers : otherMembers s ≠ [])
    (hall : ∀ m ∈ otherMembers s, otherType s tag m = ty) :
    collectiveBody s tag = endCollective { s with freeCtr := s.freeCtr + 1 } x [] (2 ^ 63 + 1) := by
  have htypes : (otherMembers s).map (otherType s tag) = List.replicate (otherMembers s).length ty :=
    (List.map_congr_left hall).trans (List.map_const' ..)
  obtain ⟨n, hn⟩ : ∃ n, (otherMembers s).length = n + 1 := Nat.exists_eq_succ_of_ne_zero (mt List.length_eq_zero_iff.1 hothers)
  rw [collectiveBody_found hx, if_neg (Bool.eq_false_iff.1 hl), htypes, hn, if_pos (by simp [List.replicate_succ, hne]),
    if_pos (by simp [List.replicate_succ, hne])]

/-- Every other member has named this module's type. -/
theorem collectiveBody_agreed (hall : ∀ m ∈ otherMembers s, otherType s tag m = recFld x.desc 23 16) : collectiveBody s tag =
    if keysAgree s x then endCollective { s with freeCtr := s.freeCtr + 1 } x
      (combineAll x.desc ((contributions s x).map fun c => crypt s c.1 tag x.kgen c.2)) 0
    else endCollective { s with freeCtr := s.freeCtr + 1 } x [] (2 ^ 63 + 9) := by
  have hnone : ((otherMembers s).map (otherType s tag)).any (fun t => t != recFld x.desc 23 16) = false := by
    refine List.any_eq_false.2 fun t ht => ?_
    obtain ⟨m, hm, rfl⟩ := List.mem_map.1 ht
    simpa using hall m hm
  rw [collectiveBody_found hx, if_neg (Bool.eq_false_iff.1 hl), if_neg (Bool.eq_false_iff.1 hnone)]

end

end Sys2Proof.Machine

namespace Sys2Proof.Proofs
open Sys2Proof.Machine Sys2Proof.Stated

/-- Settles O59: each step's body in the branch that takes effect; a checkpoint meets every listed error, and the cipher of a contribution undoes
itself. -/
theorem trustEdgeAndHostSteps : Obligations.TrustEdgeAndHostSteps := by
  unfold Obligations.TrustEdgeAndHostSteps
  refine ⟨fun s v => ?_, fun s ten a n v => ?_, fun s r e => ?_, fun s r w hw => ?_, fun s e k hk => ?_, fun s f off n v b => ?_,
    fun s m a w b => ?_, fun s a => ?_, fun s tag x hx => ?_⟩
  case refine_1 =>
    intro w
    exact ⟨fun h => congrArg Host.Outcome.next (extendKernel_locked h _), fun h => congrArg Host.Outcome.next (extendKernel_open h _)⟩
  case refine_2 => exact ⟨rfl, fun ha hr => congrArg Host.Outcome.next (controlWrite_unreached (toBytes_length 8 v) ha hr)⟩
  case refine_3 =>
    exact ⟨beginSweep s r (e == 1), rfl, beginSweep_sweeps .., State.mem_addDueOnce .., beginSweep_frame ..⟩
  case refine_4 =>
    intro ends event h
    refine ⟨fun hr => congrArg Host.Outcome.next (sweepBody_edge hw hr), fun b hr hb => ⟨fun he => ?_, fun he hs => ?_⟩⟩
    · exact congrArg Host.Outcome.next ((sweepBody_block hw hr hb).trans (if_neg (by simp [he])))
    · exact congrArg Host.Outcome.next ((sweepBody_block hw hr hb).trans (if_pos (by rw [he, hs]; decide)))
  case refine_5 =>
    intro x
    refine ⟨fun h => ?_, fun h => ?_, fun l he => meetEmm_poisons he, fun h => ?_, fun h => ?_, slotErased s e k, rfl, ?_, ?_, rfl⟩
    · refine ⟨checkpointRuns s e k, congrArg Host.Outcome.next (checkpointBody_idle k h), ?_, ?_, ?_, ?_, State.mem_addDueOnce .., checkpointRuns_mem ..⟩
      all_goals rw [checkpointRuns_edge]
      · rfl
      · rw [slotWord_slotSet, valid_cleared]
      · exact slotStore_slotSet ..
      · exact ckst_slotSet ..
    · intro n
      refine ⟨checkpointEnds n.2 e k n.1, congrArg Host.Outcome.next (checkpointDone_runs h), ?_, ?_, ?_, ?_, meetEmm_mem s e⟩
      all_goals rw [checkpointEnds, State.edge_setEdge_same]
      · rfl
      · rw [slotWord_slotSet, valid_set]
      · exact slotStore_slotSet ..
      · exact ckst_slotSet ..
    · exact ⟨slotRestoreRuns s e k, congrArg Host.Outcome.next (slotRestoreBody_idle k h), slotRestoreRuns_edge .., State.mem_addDueOnce ..,
        slotRestoreRuns_mem ..⟩
    · intro ends
      refine ⟨fun hs => congrArg Host.Outcome.next (restoreDone_empty h hs), fun r hr hv => ?_⟩
      have hdone := restoreDone_stored h hr hv
      intro o
      refine ⟨fun ho => ?_, fun b i ho => ?_, fun b ho => ?_⟩ <;> simp only [o] at ho <;> rw [ho] at hdone <;>
        exact congrArg Host.Outcome.next hdone
    · rw [slotErased, State.edge_setEdge_same, slotWord_setSlot, valid_cleared]
    · rw [slotErased, State.edge_setEdge_same, slotStore_setSlot]
  case refine_6 =>
    intro say bar
    refine ⟨fun h => ⟨_, exec_cxlMemRead_bar h, barBytes_length .., fun j hj => barBytes_getD s _ hj⟩, fun l h => exec_cxlMemRead_some h,
      exec_cxlMemRead_none, fun l => exec_cxlMemWrite_some, exec_cxlMemWrite_none, fun h => congrArg Host.Outcome.next (if_pos h),
      fun h => congrArg Host.Outcome.next (if_neg (by rw [h]; decide)), ?_⟩
    intro ans
    exact ⟨rfl, rfl, rfl, rfl, ⟨_, rfl, rfl, rfl⟩, ⟨_, rfl, rfl, rfl⟩, _, _, rfl, rfl, rfl⟩
  case refine_7 =>
    intro say ok
    exact ⟨exec_aperture_refused, exec_aperture_read, exec_aperture_write⟩
  case refine_8 =>
    intro d v
    refine ⟨fun h => congrArg Host.Outcome.next (collpostBody_bad h), fun h => ?_⟩
    obtain ⟨e, l, i, u, hv⟩ := meetAt_eq s a 64
    have hwafer : v.wafer = s.wafer := by simp only [v, hv]
    have hcycle : v.cycle = s.cycle := by simp only [v, hv]
    obtain ⟨hresult, htimeout⟩ := collectivePosted_due v d
    refine ⟨collectivePosted v d, postedCollective v d, congrArg Host.Outcome.next (collpostBody_posts h), ?_, rfl, rfl, ?_, rfl, ?_, ?_,
      hresult, htimeout, (collectivePosted_mem v d).trans (meetAt_mem ..)⟩
    · rw [collectivePosted_colls, hwafer]
    · exact congrArg (fun w : Wafer => w.ckgen.toNat) hwafer
    · exact (min_le_left ..).trans_eq hcycle
    · rw [← hwafer]
      exact crypt_twice ..
  case refine_9 =>
    intro v mine agreed apart late
    have hyes (h : late) : collLate s x = true := decide_eq_true h
    have hno (h : ¬ late) : collLate s x = false := decide_eq_false h
    refine ⟨fun h => ⟨congrArg Host.Outcome.next (collectiveBody_late hx (hyes h)), ?_⟩, fun h => ?_, fun h ha => ?_, fun h ha hk => ?_,
      fun h ha hk => ?_, exec_linkdown_ends hx⟩
    · rw [exec_timeout_found hx, if_pos (hyes h)]
    · rw [exec_timeout_found hx, if_neg (Bool.eq_false_iff.1 (hno h))]
    · obtain ⟨ty, hne, hothers, hall⟩ := ha
      exact congrArg Host.Outcome.next (collectiveBody_apart hx (hno h) hne hothers hall)
    · exact congrArg Host.Outcome.next ((collectiveBody_agreed hx (hno h) ha).trans (if_pos hk))
    · exact congrArg Host.Outcome.next ((collectiveBody_agreed hx (hno h) ha).trans (if_neg (Bool.eq_false_iff.1 hk)))

end Sys2Proof.Proofs
end
